-- ==== Sys2Proof/Word.lean ====
section
/-! DEFINITION. The word types of the device and their plainest arithmetic (00_scope R2, R3, R5). -/

namespace Sys2Proof

/-- One byte; byte 0 of a value is its least significant byte (R3). -/
abbrev Byte := BitVec 8

/-- 64 raw bits: an instruction word, an address, a register (R5). -/
abbrev W64 := BitVec 64

/-- A logical time tag (R168). -/
abbrev Time := BitVec 64

end Sys2Proof
end

