-- ==== Sys2Proof/Config.lean ====
section
/-! DEFINITION. The free values: what the spec leaves open, as constants without a body (log 2). -/

namespace Sys2Proof

/-- A transform block of a coding block's plane: its place from the plane's corner in 4-sample units, its size, its 1-D kinds, and
its dequantised coefficients row by row, or `none` where it is not coded. -/
structure VTb where
  x    : Nat
  y    : Nat
  lw   : Nat
  lh   : Nat
  hk   : Nat
  vk   : Nat
  coef : Option (List Int)
  deriving DecidableEq, Repr, Inhabited

/-- A plane of a coding block: place and size in the plane's samples, its intra mode and motion, its transform blocks in decoding
order, and the transform fields where it has none. -/
structure VPlane where
  plane : Nat
  x     : Nat
  y     : Nat
  lw    : Nat
  lh    : Nat
  imode : Nat
  mv    : List Int
  tlw   : Nat
  tlh   : Nat
  hk    : Nat
  vk    : Nat
  tbs   : List VTb
  deriving DecidableEq, Repr, Inhabited

/-- A coding block that the parse of a bitstream yields: the CTU or superblock that holds it (raster index), its place and size in
luma samples, the fields of R292, its planes in the order Y, Cb, Cr. -/
structure VCode where
  ctu    : Nat
  x      : Nat
  y      : Nat
  w      : Nat
  h      : Nat
  kind   : Nat
  ref0   : Nat
  ref1   : Nat
  qp     : Nat
  fim    : Nat
  planes : List VPlane
  deriving DecidableEq, Repr, Inhabited

/-- A picture that the parse yields: the header fields that the bitstream gives (R290; of PTYPE the lists, a repeat and, of HEVC, IRAP), luma width and height in samples, the
decode index of each list entry's reference, counted from the first picture parsed, whether it holds a lossless transform block, the
byte at which its data begins, whether parsing may begin there (HEVC IDR or BLA, shown AV1 key frame), whether it is shown, its
blocks in decoding order. -/
structure VPic where
  poc      : Int
  ptype    : Nat
  bqp      : Nat
  width    : Nat
  height   : Nat
  ctbl     : Nat
  ten      : Bool
  mono     : Bool
  refs0    : List (Option Nat)
  refs1    : List (Option Nat)
  lossless : Bool
  chromaX  : Nat
  chromaY  : Nat
  start    : Nat
  restart  : Bool
  shown    : Bool
  blocks   : List VCode
  deriving DecidableEq, Repr, Inhabited

/-- A sequence-level header: HEVC profile (1 Main, 2 Main 10, 3 Main Still Picture) or AV1 seq_profile, level, bit depth, chroma
format (0 monochrome, 1 4:2:0), whether what the container's walk does not see of it is that of R274, whether it is a large-scale-tile stream, whether it needs
anything else that R274 does not name. -/
structure VSeq where
  profile   : Nat
  level     : Nat × Nat
  depth     : Nat
  chroma    : Nat
  container : Bool
  large     : Bool
  other     : Bool
  deriving DecidableEq, Repr, Inhabited

/-- What a bitstream holds, in its order. -/
inductive VItem where
  | seq (h : VSeq)
  | pic (p : VPic)
  deriving DecidableEq, Repr, Inhabited

/-- What the parse of a bitstream's first bytes yields: its items, how the bitstream ends once that is known (0 at a picture
boundary, 2 by a violation or inside a picture), and the substreams of the picture that is being parsed, 0 before its header. -/
structure VParse where
  items  : List VItem
  status : Option Nat
  subs   : Nat
  deriving DecidableEq, Repr, Inhabited

/-- A word of control space: a tile control register, by the tile's key and its number (R411); a die's ERRCNT, BCCAP, THROT and QMASK words
(R435, R135, R441, R437); DSPCTL and DSPST (R386); the two words of a watch slot (R382); CLSMAP (R423); eight bytes of the claim table,
CLAIMTO (R394); eight bytes of an open fault record (R393); an ASID's root pointer (R99). -/
inductive CtlWord where
  | tile (key crn : Nat)
  | errcnt (die : Nat)
  | bccap (die : Nat)
  | throt (die : Nat)
  | qmask (die word : Nat)
  | dspctl
  | dspst
  | watch (slot : Nat) (second : Bool)
  | clsmap (cls : Nat)
  | claim (word : Nat)
  | claimto
  | fault (entry word : Nat)
  | root (asid : Nat)
  | other
  deriving DecidableEq, Repr, Inhabited

end Sys2Proof

namespace Sys2Proof.Config

/-- What a transcendental answers where the model's enclosure does not decide the rounding (log 9): opcode, SH, MD and
the argument's bits. -/
opaque undecided (op : Nat) (sh md : BitVec 4) (a : Nat) : BitVec 32

/-- What RMAX and RMIN under `abs` send for the most negative integer, whose magnitude SH does not hold (R234, log 2). -/
opaque minMagnitude (sh : BitVec 4) : BitVec 64

/-- What DQNT sends for an element beyond the 256 of its group (R243, log 2). -/
opaque beyondGroup (sh : BitVec 4) (j : Nat) : BitVec 32

/-- Value bits of the padding lanes that ISECT and UNION send (R247, log 2). -/
opaque padValue : BitVec 32

/-- The parse of a bitstream's bytes, those of other layers and operating points left out, from its start, or from a picture at which parsing may begin, by the standard (R275, log 7): codec
(1 HEVC, 2 AV1), the bytes, whether they reach the bitstream's end. -/
opaque parse (codec : Nat) (data : List (BitVec 8)) (whole : Bool) : VParse

/-- Which of a plane's transform blocks share a record, where they form no single one: places, sizes and kinds in decoding order
(R293, log 7). -/
opaque recordSplit (tbs : List (List Nat)) : List (List Nat)

/-- A coefficient or motion vector component that an operation takes beyond s16 (R287, R292, log 7). -/
opaque beyondS16 (v : Int) : BitVec 16

/-- An element of an intra-prediction matrix of R310 as bf16: the instruction word, its L payload, the entry of the
neighbourhood list, basis k and coefficient n (log 8). -/
opaque intraElem (word payload : BitVec 64) (entry k n : Nat) : BitVec 16

/-- A cell coordinate clamped to a plane without cells (R307, log 2). -/
opaque emptyClamp (i : Int) : BitVec 16

/-- DRIFT's sum where no weight is set, or where the phase class is above 15 (R308, log 2). -/
opaque driftOpen (l : BitVec 32) (r : BitVec 64) : BitVec 8

/-- Which of its allocations the destination name of a syntax binding means (R65, R85, log 22). -/
opaque allocOf (name : List (BitVec 8)) : Nat

/-- Affinity die that the loader gives a launch or watch entry of a file, which holds none (R68, R381, log 27). -/
opaque loaderAff (file residency : Nat) : Nat

/-- Address of the save area that firmware assigns to a frozen image, by record id (R400, R392, log 2). -/
opaque saveArea (rid : Nat) : BitVec 64

/-- Address of the ready pool of task records in control space, for which the spec gives no layout (R377, log 2). -/
opaque readyPool : BitVec 64

/-- Which word of control space stands at an address over 8 (R91, R411, log 5). -/
opaque ctlWord (addr : Nat) : CtlWord

/-- What a core reads in control space where no word of `CtlWord` stands, by address over 8 and cycle (log 5). -/
opaque ctlOther (addr cycle : Nat) : BitVec 64

/-- SPORT, SEQ, CODE and, for a host message, time, handle and ASID of a token that the fault controller or a host port puts
into a take queue (R395, R424, R427, log 2), and the payload of a fault token. -/
opaque queueToken (n : Nat) : BitVec 256

/-- What an illegal-instruction exception writes to mtval or stval: the RISC-V ISA lets it be 0 or the word (log 5). -/
opaque trapValue (n : Nat) : BitVec 64

/-- The wall clock that a service core reads in `time`: no rule gives its rate (R417, log 5). -/
opaque wallClock (n : Nat) : BitVec 64

/-- Whether a signature verifies (R87, R439, log 10): algorithm (1 RSA-3072, 2 SLH-DSA), key index, signed bytes, signature. -/
opaque sigValid (alg key : Nat) (message signature : List (BitVec 8)) : Bool

/-- Whether the firmware's policy accepts an unsigned user image of an ASID (R88, log 10). -/
opaque unsignedAccepted (asid : Nat) : Bool

/-- Digest of the boot ROM and of a template, and the device's signature on a report, in attestation (R440, log 10). -/
opaque romDigest : List (BitVec 8)
opaque templateDigest (asid file residency : Nat) : List (BitVec 8)
opaque reportSig (alg : Nat) (message : List (BitVec 8)) : List (BitVec 8)

end Sys2Proof.Config
end

