-- ==== Sys2Proof/Syntax.lean ====
section
/-! DEFINITION. The instructions: one constructor per row of spec/opcode_table.json. The fabric
instructions carry the fields of their word (R22 to R36), the Xdmx instructions those of an R-type word
(R418); the commands and events have no encoding and carry the names of the units they concern, and, where
the outside world supplies something (a host answer, a device read, whether a datum was found bad), that. -/

namespace Sys2Proof

/-- Element types, with the codes of R25. -/
inductive Elem where
  | b64 | s8 | s16 | s32 | s64 | n8 | n16 | n32 | n64 | e2m1 | e4m3 | e5m2 | bf16 | f16 | f32 | e8m0
  deriving DecidableEq, Repr, Inhabited

/-- Operand positions of a slot (R17, R23). -/
inductive Pos where
  | l | r | p
  deriving DecidableEq, Repr, Inhabited

/-- A target (R23): a position of a slot of the same tile, an output channel, or none. -/
inductive Target where
  | pos (p : Pos) (slot : BitVec 7)
  | chan (c : BitVec 6)
  | none
  deriving DecidableEq, Repr, Inhabited

/-- The fields every fabric word has beside OP and X (R22). -/
structure Hd where
  sh : Elem
  md : BitVec 4
  t0 : Target
  t1 : Target
  deriving DecidableEq, Repr, Inhabited

/-- Family T3 (R30). -/
structure T3X where
  t2 : Target
  t3 : Target
  t4 : Target
  deriving DecidableEq, Repr, Inhabited

/-- Family MEM (R31). -/
structure MemX where
  lsz : BitVec 3
  tc  : Bool
  scp : BitVec 3
  cla : BitVec 3
  clb : BitVec 3
  off : BitVec 17
  deriving DecidableEq, Repr, Inhabited

/-- Family ENG (R32). -/
structure EngX where
  sb  : BitVec 3
  arv : Bool
  flg : Bool
  bc  : Bool
  eqx : BitVec 4
  eqy : BitVec 4
  dsc : BitVec 16
  deriving DecidableEq, Repr, Inhabited

/-- Family MAT (R33). -/
structure MatX where
  qrow : BitVec 8
  acc  : Bool
  bank : BitVec 1
  src  : BitVec 2
  mcst : BitVec 3
  trn  : Bool
  woff : BitVec 14
  deriving DecidableEq, Repr, Inhabited

/-- Family VID (R34). -/
structure VidX where
  ax   : BitVec 2
  log2 : BitVec 3
  mode : BitVec 6
  wset : BitVec 8
  woff : BitVec 11
  deriving DecidableEq, Repr, Inhabited

/-- Family PRB (R35). -/
structure PrbX where
  prb : BitVec 6
  scp : BitVec 3
  loc : BitVec 6
  deriving DecidableEq, Repr, Inhabited

/-- Family SYS (R36). -/
structure SysX where
  crn  : BitVec 8
  sel  : BitVec 6
  code : BitVec 16
  deriving DecidableEq, Repr, Inhabited

/-- A tile by die, die-absolute quad and quad-local index (R7, R10); index 3 is the quad's MT. -/
structure TileId where
  die : Nat
  x   : Nat
  y   : Nat
  t   : Nat
  deriving DecidableEq, Repr, Inhabited

/-- What a host's ATS translation completion grants (R101): the translated page, its size, and whether
writes are granted. -/
structure AtsGrant where
  pa    : Nat
  size  : Nat
  write : Bool
  deriving DecidableEq, Repr, Inhabited

/-- Which kind of flit an error was found in (R433). -/
inductive Flit where
  | token (tile : TileId) (chan : Nat)
  | service (die : Nat)
  | saddle (die : Nat) (link : Nat)
  | sorpen (die : Nat) (link : Nat)
  deriving DecidableEq, Repr, Inhabited

/-- What the boot ROM is given to verify (R439): the outcome of each signature check against the key
hashes in the fuses, and the firmware's security version. -/
structure BootImage where
  digest : List Byte
  rsa    : List Byte
  slh    : List Byte
  secVer : BitVec 32
  deriving DecidableEq, Repr, Inhabited

/-- What firmware does with a quad in idle self-test (R437). -/
inductive SelfTest where
  | claim | giveBack | quarantine
  deriving DecidableEq, Repr, Inhabited

/-- Roles of a port (R429). -/
inductive PortRole where
  | off | host | expander (units : Nat)
  deriving DecidableEq, Repr, Inhabited

/-- Registers without a behaviour of their own that a service core or the host writes
(R93, R99, R386, R394, R411, R423, R426, R429); `bar0` is an access of the host to BAR0, a read where it does not write. -/
inductive RegName where
  | interleave
  | asidRoot (asid : Nat)
  | dspctl
  | claim (asid : Nat) (cls : Nat)
  | claimto
  | clsmap (cls : Nat)
  | mbbase (i : Nat)
  | win2base
  | mbpoll
  | mbCore (set : Nat)
  | podid
  | port (n : Nat) (role : PortRole)
  | hostWindow (base : Nat) (size : Nat)
  | dbgctl (tile : TileId)
  | detseed (tile : TileId)
  | user (tile : TileId) (k : Nat)
  | driftLimit (tile : TileId)
  | driftCost (tile : TileId)
  | bar0 (offset size : Nat) (write : Bool)
  deriving DecidableEq, Repr, Inhabited

/-- One constructor per row of spec/opcode_table.json. -/
inductive Instr where
  /-- R181: Consumes its L token and sends nothing. -/
  | nop (h : Hd) (x : SysX)
  /-- R191: NOP with MD 1: finishes the tile, releasing its capabilities and discarding its tokens with their counts. -/
  | exit (h : Hd) (x : SysX)
  /-- R181: Sends the L token with TYPE set to SH. -/
  | mov (h : Hd)
  /-- R182: Sends an 8-byte constant built from IMM. -/
  | const (h : Hd) (imm : BitVec 30)
  /-- R182: Sends a 64-bit value whose high bits come from IMM and MD. -/
  | consth (h : Hd) (imm : BitVec 30)
  /-- R181: Sends the L token unchanged to up to five targets. -/
  | fan (h : Hd) (x : T3X)
  /-- R181: Consumes its L token. -/
  | sink (h : Hd)
  /-- R183: Sends L to T0 or to T1 according to predicate P. -/
  | route (h : Hd)
  /-- R184: Takes the earlier of the two positions' head tokens and sends it on. -/
  | merge (h : Hd)
  /-- R183: Sends L or R according to predicate P. -/
  | select (h : Hd)
  /-- R183: Sends L to T0 and P to T1 once both are present. -/
  | gate (h : Hd)
  /-- R185: Sends L one loop level deeper. -/
  | enter (h : Hd)
  /-- R185: Adds IMM to the current loop counter of the time, or holds TIMEWRAP. -/
  | step (h : Hd) (imm : BitVec 30)
  /-- R185: Clears the current level's counter and sends L one level shallower. -/
  | leave (h : Hd)
  /-- R185: Advances the epoch of the time by IMM, or holds TIMEWRAP. -/
  | epoch (h : Hd) (imm : BitVec 30)
  /-- R185: Sends the token's time as an n64. -/
  | timeof (h : Hd)
  /-- R187: Starts generating the indices 0 to n-1 at depth plus one. -/
  | cnt (h : Hd)
  /-- R188: Starts replaying a buffered stream c times, one pass per counter value. -/
  | repeat (h : Hd)
  /-- R189: Consumes L and sends end-of-stream. -/
  | eos (h : Hd)
  /-- R189: Sends the class of the L token as a predicate and passes L on. -/
  | iseos (h : Hd)
  /-- R190: Acquires a capability at (LOC, t) and passes L on. -/
  | hold (h : Hd) (x : PrbX)
  /-- R190: Releases a capability at (LOC, t) and passes L on. -/
  | release (h : Hd) (x : PrbX)
  /-- R192: Stops admission on an edge so that its depth can change once it drains. -/
  | resize (h : Hd) (imm : BitVec 30)
  /-- R222: Lanewise integer addition, or count addition for two count tokens. -/
  | add (h : Hd) (imm : BitVec 30)
  /-- R222: Lanewise integer subtraction. -/
  | sub (h : Hd) (imm : BitVec 30)
  /-- R222: Lanewise low half of the integer product. -/
  | mul (h : Hd) (imm : BitVec 30)
  /-- R222: Lanewise high half of the integer product. -/
  | mulh (h : Hd) (imm : BitVec 30)
  /-- R222: Lanewise integer multiply-add. -/
  | mad (h : Hd) (imm : BitVec 30)
  /-- R222: Lanewise integer quotient by R196. -/
  | div (h : Hd) (imm : BitVec 30)
  /-- R222: Lanewise integer remainder by R196. -/
  | rem (h : Hd) (imm : BitVec 30)
  /-- R222: Lanewise integer negation. -/
  | neg (h : Hd) (imm : BitVec 30)
  /-- R222: Lanewise integer absolute value. -/
  | abs (h : Hd) (imm : BitVec 30)
  /-- R222: Lanewise integer minimum. -/
  | min (h : Hd) (imm : BitVec 30)
  /-- R222: Lanewise integer maximum. -/
  | max (h : Hd) (imm : BitVec 30)
  /-- R222: Lanewise saturating integer addition. -/
  | adds (h : Hd) (imm : BitVec 30)
  /-- R222: Lanewise saturating integer subtraction. -/
  | subs (h : Hd) (imm : BitVec 30)
  /-- R222: Lanewise bitwise AND. -/
  | and (h : Hd) (imm : BitVec 30)
  /-- R222: Lanewise bitwise OR. -/
  | or (h : Hd) (imm : BitVec 30)
  /-- R222: Lanewise bitwise XOR. -/
  | xor (h : Hd) (imm : BitVec 30)
  /-- R222: Lanewise a AND NOT b. -/
  | andn (h : Hd) (imm : BitVec 30)
  /-- R222: Lanewise shift left. -/
  | shl (h : Hd) (imm : BitVec 30)
  /-- R222: Lanewise logical or arithmetic shift right. -/
  | shr (h : Hd) (imm : BitVec 30)
  /-- R222: Lanewise rotate left. -/
  | rotl (h : Hd) (imm : BitVec 30)
  /-- R222: Lanewise count of leading zero bits. -/
  | clz (h : Hd) (imm : BitVec 30)
  /-- R222: Lanewise count of set bits. -/
  | popc (h : Hd) (imm : BitVec 30)
  /-- R223: Lanewise bit-field extract. -/
  | bfx (h : Hd) (imm : BitVec 30)
  /-- R223: Lanewise bit-field insert. -/
  | bfi (h : Hd) (imm : BitVec 30)
  /-- R224: Lanewise integer comparison giving 1 or 0. -/
  | cmp (h : Hd) (imm : BitVec 30)
  /-- R225: Lanewise seeded bijective 32-bit hash. -/
  | hash (h : Hd) (imm : BitVec 30)
  /-- R230: Lanewise float addition. -/
  | fadd (h : Hd) (imm : BitVec 30)
  /-- R230: Lanewise float subtraction. -/
  | fsub (h : Hd) (imm : BitVec 30)
  /-- R230: Lanewise float multiplication. -/
  | fmul (h : Hd) (imm : BitVec 30)
  /-- R230: Lanewise fused multiply-add, rounded once. -/
  | ffma (h : Hd) (imm : BitVec 30)
  /-- R230: Lanewise float minimum. -/
  | fmin (h : Hd) (imm : BitVec 30)
  /-- R230: Lanewise float maximum. -/
  | fmax (h : Hd) (imm : BitVec 30)
  /-- R232: Lanewise float comparison giving 1 or 0. -/
  | fcmp (h : Hd) (imm : BitVec 30)
  /-- R230: Lanewise float absolute value. -/
  | fabs (h : Hd) (imm : BitVec 30)
  /-- R230: Lanewise float negation. -/
  | fneg (h : Hd) (imm : BitVec 30)
  /-- R230: Lanewise reciprocal. -/
  | frcp (h : Hd) (imm : BitVec 30)
  /-- R230: Lanewise reciprocal square root. -/
  | frsq (h : Hd) (imm : BitVec 30)
  /-- R230: Lanewise square root. -/
  | fsqrt (h : Hd) (imm : BitVec 30)
  /-- R230: Lanewise base-2 exponential. -/
  | fexp2 (h : Hd) (imm : BitVec 30)
  /-- R230: Lanewise base-2 logarithm. -/
  | flog2 (h : Hd) (imm : BitVec 30)
  /-- R230: Lanewise sine. -/
  | fsin (h : Hd) (imm : BitVec 30)
  /-- R230: Lanewise cosine. -/
  | fcos (h : Hd) (imm : BitVec 30)
  /-- R230: Lanewise hyperbolic tangent. -/
  | ftanh (h : Hd) (imm : BitVec 30)
  /-- R230: Lanewise error function. -/
  | ferf (h : Hd) (imm : BitVec 30)
  /-- R231: Lanewise multiplication by 2^k. -/
  | fscale (h : Hd) (imm : BitVec 30)
  /-- R231: Lanewise rounding to an integral value. -/
  | frnd (h : Hd) (imm : BitVec 30)
  /-- R232: Lanewise class mask. -/
  | fclass (h : Hd) (imm : BitVec 30)
  /-- R234: Reduces the row to its sum. -/
  | rsum (h : Hd) (imm : BitVec 30)
  /-- R234: Reduces the row to its largest element. -/
  | rmax (h : Hd) (imm : BitVec 30)
  /-- R234: Reduces the row to its smallest element. -/
  | rmin (h : Hd) (imm : BitVec 30)
  /-- R235: Prefix sum or prefix maximum of the row. -/
  | scan (h : Hd) (imm : BitVec 30)
  /-- R236: Permutes the row's elements. -/
  | perm (h : Hd) (imm : BitVec 30)
  /-- R236: Broadcasts one element to a row. -/
  | bcast (h : Hd) (imm : BitVec 30)
  /-- R236: Extracts a run of elements. -/
  | slice (h : Hd) (imm : BitVec 30)
  /-- R236: Concatenates L and R. -/
  | cat (h : Hd) (imm : BitVec 30)
  /-- R236: Splits the row into two halves. -/
  | split (h : Hd) (imm : BitVec 30)
  /-- R237: Packs the elements whose mask is true. -/
  | compr (h : Hd) (imm : BitVec 30)
  /-- R237: Expands the elements into the positions whose mask is true. -/
  | expd (h : Hd) (imm : BitVec 30)
  /-- R238: Sends the index and value of the highest-ranked element. -/
  | argmax (h : Hd) (imm : BitVec 30)
  /-- R238: Sends the k highest-ranked values and their indices. -/
  | topk (h : Hd) (imm : BitVec 30)
  /-- R239: One running-maximum softmax step in base 2. -/
  | maxrs (h : Hd) (imm : BitVec 30)
  /-- R241: Converts elements between types. -/
  | cvt (h : Hd) (imm : BitVec 30)
  /-- R242: Converts with stochastic rounding. -/
  | cvts (h : Hd) (imm : BitVec 30)
  /-- R243: Quantises a row to e2m1 blocks. -/
  | qnt (h : Hd) (imm : BitVec 30)
  /-- R243: Decodes e2m1 blocks to a float type. -/
  | dqnt (h : Hd) (imm : BitVec 30)
  /-- R244: Converts L and R and packs them into one narrower row. -/
  | pack (h : Hd) (imm : BitVec 30)
  /-- R244: Converts a row into two wider halves. -/
  | unpk (h : Hd) (imm : BitVec 30)
  /-- R262: Opens a configuration that governs the node's next M rows. -/
  | mcfg (h : Hd) (x : MatX)
  /-- R255: Starts loading a B bank, or a special store, from W into the named nodes. -/
  | mldb (h : Hd) (x : MatX)
  /-- R257: Exchanges the node's current and loadable banks. -/
  | mswp (h : Hd) (x : MatX)
  /-- R259: Multiplies a token row by B and accumulates into Q or emits a partial row. -/
  | mrow (h : Hd) (x : MatX)
  /-- R258: Multiplies a row read from an A buffer by B. -/
  | mrowa (h : Hd) (x : MatX)
  /-- R264: Forms unscaled block partial sums into a free partial set. -/
  | mblk (h : Hd) (x : MatX)
  /-- R265: Applies block scales to a partial set and accumulates it. -/
  | msca (h : Hd) (x : MatX)
  /-- R266: Zeroes a run of Q rows. -/
  | mzero (h : Hd) (x : MatX)
  /-- R267: Passes L once every earlier Q write of the node is performed. -/
  | mdrn (h : Hd) (x : MatX)
  /-- R156: Loads an aligned block from the A or Q buffer. -/
  | ldt (h : Hd) (x : MemX)
  /-- R156: Stores an aligned block into the A or Q buffer. -/
  | stt (h : Hd) (x : MemX)
  /-- R156: Loads an aligned block from the region scratchpad. -/
  | lds (h : Hd) (x : MemX)
  /-- R156: Stores an aligned block into the scratchpad, or into a commit buffer with TC 1. -/
  | sts (h : Hd) (x : MemX)
  /-- R152: Reads a descriptor and starts an affine or ragged address walk. -/
  | agen (h : Hd) (x : MemX)
  /-- R158: Gathers elements from the scratchpad or the A buffer. -/
  | gath (h : Hd) (x : MemX)
  /-- R159: Scatters values or updates to scratchpad words. -/
  | scat (h : Hd) (x : MemX)
  /-- R161: Registers at an arrival word's owner and waits for completion or overrun. -/
  | waita (h : Hd) (x : MemX)
  /-- R160: Posts an expectation on an arrival word or resets it. -/
  | arrv (h : Hd) (x : MemX)
  /-- R162: Passes L once the tile's earlier accesses are performed at the scope. -/
  | fence (h : Hd) (x : MemX)
  /-- R163: Passes L once class-A accesses are visible to class B. -/
  | xfence (h : Hd) (x : MemX)
  /-- R109: Loads an aligned block from virtual memory. -/
  | ldv (h : Hd) (x : MemX)
  /-- R109: Stores an aligned block to virtual memory. -/
  | stv (h : Hd) (x : MemX)
  /-- R110: Gathers elements from virtual memory. -/
  | ldvs (h : Hd) (x : MemX)
  /-- R110: Scatters elements to virtual memory. -/
  | stvs (h : Hd) (x : MemX)
  /-- R111: Warms the ingress PT's translation caches for an address. -/
  | pfv (h : Hd) (x : MemX)
  /-- R363: Sends an atomic update to the word's owner. -/
  | amo (h : Hd) (x : MemX)
  /-- R365: Sends a value-returning atomic update to the word's owner. -/
  | amor (h : Hd) (x : MemX)
  /-- R363: Sends a memory-side reduction of up to 256 bytes. -/
  | red (h : Hd) (x : MemX)
  /-- R368: Appends index and value lanes to scratchpad bins. -/
  | bin (h : Hd) (x : MemX)
  /-- R369: Applies one bin's combined updates to the target array. -/
  | binf (h : Hd) (x : MemX)
  /-- R139: Composes an active message from a SEND descriptor. -/
  | send (h : Hd) (x : EngX)
  /-- R139: Composes a COPY active message. -/
  | cpy (h : Hd) (x : EngX)
  /-- R139: Composes an SOPEN active message to open a copy stream. -/
  | cpys (h : Hd) (x : EngX)
  /-- R140: Sends an SFREE notice returning ring slots. -/
  | cpyf (h : Hd) (x : EngX)
  /-- R140: Sends an SCLOSE to close a stream. -/
  | cpyc (h : Hd) (x : EngX)
  /-- R141: Passes L once the named scoreboards read zero. -/
  | sbw (h : Hd) (x : EngX)
  /-- R406: Reads a snapshot descriptor and sends it to the snapshot controller. -/
  | snap (h : Hd) (x : EngX)
  /-- R317: Sends a new configuration to a combine unit. -/
  | cmbc (h : Hd) (x : EngX)
  /-- R318: Sends an allocation request with an expert list or scores. -/
  | cmba (h : Hd) (x : EngX)
  /-- R319: Delivers one chunk of an expert or shared row. -/
  | cmbi (h : Hd) (x : EngX)
  /-- R322: Registers the receiver and grants release credits. -/
  | cmbr (h : Hd) (x : EngX)
  /-- R297: Opens a coded-video stream on a syntax binding. -/
  | syno (h : Hd) (x : EngX)
  /-- R298: Queries a stream, frees credits or closes it. -/
  | synq (h : Hd) (x : EngX)
  /-- R300: Turns a block record into a weight-set index. -/
  | bmod (h : Hd) (x : VidX)
  /-- R301: Expands stored coefficient groups into a dense row. -/
  | cgex (h : Hd) (x : VidX)
  /-- R302: Negates coefficients for a flip. -/
  | cflp (h : Hd) (x : VidX)
  /-- R303: Transposes coefficients. -/
  | ctrn (h : Hd) (x : VidX)
  /-- R307: Computes the warp cells, weights and phase of a feature cell. -/
  | blkw (h : Hd) (x : VidX)
  /-- R308: Computes a cell's drift and refresh predicate. -/
  | drift (h : Hd) (x : VidX)
  /-- R309: Sends MGEN to generate a motion-compensation matrix into W. -/
  | cdmc (h : Hd) (x : VidX)
  /-- R310: Sends MGEN to generate part of an intra-prediction matrix into W. -/
  | cdip (h : Hd) (x : VidX)
  /-- R341: Registers at a tracker and waits for a probe's frontier to pass the token's time. -/
  | waitf (h : Hd) (x : PrbX)
  /-- R342: Queries a tracker for a probe's frontier. -/
  | front (h : Hd) (x : PrbX)
  /-- R390: Sends a launch request to the Dispatcher. -/
  | launch (h : Hd) (imm : BitVec 30)
  /-- R390: Sends a join-counter init or decrement to the Dispatcher. -/
  | join (h : Hd) (imm : BitVec 30)
  /-- R247: Intersects two sorted coordinate fibres. -/
  | isect (h : Hd) (imm : BitVec 30)
  /-- R247: Unites two sorted coordinate fibres with zero fill. -/
  | union (h : Hd) (imm : BitVec 30)
  /-- R249: Buffers row pointers and, at a marker, divides the rows among P parts. -/
  | part (h : Hd) (imm : BitVec 30)
  /-- R414: Holds its slot with SOFTTRAP. -/
  | trap (h : Hd) (x : SysX)
  /-- R414: Holds with BRK when breaks are enabled, optionally requesting a freeze. -/
  | brk (h : Hd) (x : SysX)
  /-- R415: Reads a tile control register into a token. -/
  | rdcr (h : Hd) (x : SysX)
  /-- R415: Writes a residency-writable tile control register. -/
  | wrcr (h : Hd) (x : SysX)
  /-- R416: Reads a performance counter or CYCLE, optionally zeroing it. -/
  | perf (h : Hd) (x : SysX)
  /-- R423: Sends a service request to a service core and waits for the reply. -/
  | svc (h : Hd) (x : SysX)
  /-- R420: Issues a command through the core's command port. -/
  | dmxCmd (rd rs1 rs2 : BitVec 5)
  /-- R422: Waits until the named commands have completed or been refused. -/
  | dmxFence (rd rs1 rs2 : BitVec 5)
  /-- R424: Takes the oldest matching token from the core's take queue. -/
  | dmxTake (rd rs1 rs2 : BitVec 5)
  /-- R425: Delivers a reply to a waiting SVC. -/
  | dmxGive (rd rs1 rs2 : BitVec 5)
  /-- R396: Sends a disposition for a fault record. -/
  | dmxResume (rd rs1 rs2 : BitVec 5)
  /-- R398: Requests a freeze of a residency. -/
  | dmxFrz (rd rs1 rs2 : BitVec 5)
  /-- R395: Claims a fault record and copies it out. -/
  | dmxClaim (rd rs1 rs2 : BitVec 5)
  /-- R382: Writes a watch slot. -/
  | dmxWatch (rd rs1 rs2 : BitVec 5)
  /-- R421: Command 0x40 creates a task record. -/
  | cmdCreateTask (core : Nat)
  /-- R421: Command 0x41 sets a record's join counter. -/
  | cmdJoinInit (core : Nat)
  /-- R421: Command 0x42 decrements a record's join counter. -/
  | cmdJoinDec (core : Nat)
  /-- R421: Command 0x43 registers one residency of a checked Skein file as a template. -/
  | cmdRegisterTemplate (core : Nat)
  /-- R421: Command 0x44 drops a template once it has no record. -/
  | cmdDropTemplate (core : Nat)
  /-- R421: Command 0x45 sets an ASID's weight. -/
  | cmdSetWeight (core : Nat)
  /-- R422: A command's completion or abort returns to the core's command port. -/
  | commandCompletion (core : Nat)
  /-- R120: A copy engine checks and starts a COPY message. -/
  | copy (mt : TileId)
  /-- R132: A copy engine opens a copy stream. -/
  | sopen (mt : TileId)
  /-- R134: A copy engine adds returned credits to a stream. -/
  | sfree (mt : TileId)
  /-- R134: A copy engine stops starting tiles of a stream. -/
  | sclose (mt : TileId)
  /-- R123: A copy engine checks and starts a FILL message. -/
  | fill (mt : TileId)
  /-- R311: A copy engine starts generating a CDMC or CDIP matrix into W. -/
  | mgen (mt : TileId)
  /-- R116: A set-aside message takes a freed context of its kind and starts. -/
  | setAsideStart (mt : TileId) (strm : Bool)
  /-- R126: An owner node applies a burst's subtraction to an arrival word. -/
  | arrivalSubtraction (work : Nat)
  /-- R125: After the last payload byte, a copy writes its flag, decrements its scoreboard and pulses T1. -/
  | copyCompletion (mt : TileId) (ctx : Nat)
  /-- R133: A performed stream tile sends its tile token. -/
  | streamTileDone (mt : TileId) (ctx : Nat)
  /-- R133: A stream ends, sending end-of-fibre and its close pulse and freeing its context. -/
  | streamClose (mt : TileId) (ctx : Nat)
  /-- R311: A matrix generation's last byte is performed and CDMC or CDIP is answered. -/
  | matrixGenDone (mt : TileId) (ctx : Nat)
  /-- R317: A combine unit checks and accepts a configuration message. -/
  | ccfg (mt : TileId)
  /-- R317: Once every slot is free, the waiting configuration replaces the old one. -/
  | ccfgApply (mt : TileId)
  /-- R318: A combine unit forms an expected list and allocates a slot. -/
  | calloc (mt : TileId)
  /-- R318: A queued allocation takes a slot that has become free. -/
  | callocResume (mt : TileId)
  /-- R319: A combine unit applies or discards one delivered chunk. -/
  | cins (mt : TileId)
  /-- R322: A combine unit registers its receiver, adds credit or queues a marker. -/
  | crecv (mt : TileId)
  /-- R321: The return probe's frontier passes an open slot's time and the slot is substituted. -/
  | combineFrontierSubst (mt : TileId) (slot : Nat)
  /-- R321: A slot's REMC reaches zero and the slot is substituted. -/
  | combineTimeout (mt : TileId) (slot : Nat)
  /-- R322: A complete or substituted slot is released to the receiver. -/
  | combineRelease (mt : TileId)
  /-- R322: A waiting marker is sent once every slot at or before its time is released. -/
  | combineMarkerRelease (mt : TileId)
  /-- R297: A syntax engine checks a stream descriptor and assigns the submission sequence. -/
  | vopen (res : Nat) (bind : Nat)
  /-- R298: A syntax engine answers a stream query. -/
  | vqry (res : Nat) (bind : Nat)
  /-- R298: A syntax engine adds ring credits to a stream. -/
  | vfree (res : Nat) (bind : Nat)
  /-- R298: A syntax engine ends a stream. -/
  | vclose (res : Nat) (bind : Nat)
  /-- R278: A free parse lane starts parsing a waiting stream. -/
  | streamParseStart (res : Nat) (bind : Nat) (sigma : Nat)
  /-- R280: A parsed picture's CPT is written to its ring slot and its token sent. -/
  | pictureDelivery (res : Nat) (bind : Nat)
  /-- R281: A stream ends and sends end-of-fibre and its status. -/
  | syntaxStreamEnd (res : Nat) (bind : Nat) (sigma : Nat)
  /-- R407: A page's copy is performed, its held writers are released, and the last page pulses T1. -/
  | snapshotPageCopied (page : Nat)
  /-- R96: An ingress PT checks, translates and forwards a virtual-address request, or holds it. -/
  | ingressTranslate (req : Nat) (elem : Nat)
  /-- R97: A range-cache miss's fetch returns from the range table. -/
  | rangeTableFetch (req : Nat) (elem : Nat)
  /-- R99: A page-walk read returns and the walk continues or ends. -/
  | pageWalkRead (req : Nat) (elem : Nat)
  /-- R104: A host range's in-flight count reaches zero and the completion or acknowledgement is sent. -/
  | invalidateCompletion (index : Nat)
  /-- R102: A migration hold outlasts the claim time-out and its record is delivered. -/
  | migratingDelivery (fid : Nat)
  /-- R345: An access is performed at its home bank, PT or LT and answered. -/
  | homeAccess (req : Nat) (elem : Nat) (bad : Bool)
  /-- R148: A load result is delivered to its targets in per-stream issue order. -/
  | responseDelivery (req : Nat)
  /-- R360: An owner node applies one atomic, reduction, SCAT or binning update. -/
  | ownerUpdate (req : Nat) (elem : Nat) (bad : Bool)
  /-- R346: The tc-probe frontier passes a time and the home processes its eligible time-committed operations. -/
  | tcCommit (mt : TileId)
  /-- R374: The issue frontier passes a time and the home applies that time's deterministic updates in order. -/
  | detCommit (home : Nat) (res : Nat)
  /-- R370: A request has no response after 65,536 cycles and is sent again, or holds TIMEOUT after five attempts. -/
  | endToEndTimeout (req : Nat)
  /-- R371: A mark-only packet reaches an owner and frees its exactly-once window. -/
  | markOnlyPacket (home : Nat) (port : Nat)
  /-- R172: A token from a channel or ingress binding is admitted into its destination position. -/
  | tokenAdmission (tile : TileId) (chan : Nat)
  /-- R150: A token moves from the head of a backing queue into a freed buffer slot. -/
  | backqMove (tile : TileId) (chan : Nat)
  /-- R177: A ready slot's aging count reaches 64 and the slot becomes aged. -/
  | slotAged (tile : TileId) (slot : Nat)
  /-- R187: CNT emits its next index, or its done pulse after the last. -/
  | cntEmission (tile : TileId) (slot : Nat)
  /-- R188: REPEAT emits its next token of a pass, or its done pulse after the last. -/
  | repeatEmission (tile : TileId) (slot : Nat)
  /-- R152: An address generator sends its next address token or marker. -/
  | agenEmission (tile : TileId) (ctx : Nat)
  /-- R192: A stopped edge has drained, takes its new depth and resumes admission. -/
  | resizeEffect (tile : TileId) (index : Nat)
  /-- R260: A row's result reaches Q or T0, possibly closing the open configuration. -/
  | rowResult (tile : TileId) (index : Nat)
  /-- R265: MSCA's accumulated result is written to Q or sent. -/
  | mscaResult (tile : TileId) (index : Nat)
  /-- R266: MZERO's last Q row is written and its T0 pulse is sent. -/
  | mzeroDone (tile : TileId) (index : Nat)
  /-- R255: Every named node holds the whole B load and T0 is pulsed. -/
  | mldbLoadDone (tile : TileId) (index : Nat)
  /-- R264: A partial set becomes valid 12 cycles after MBLK's acceptance. -/
  | mblkSetValid (tile : TileId) (set : Nat)
  /-- R269: A slew domain computes demand, grants nodes and records fillers for the cycle. -/
  | slewCycle (die : Nat) (dom : Nat)
  /-- R269: A slew domain's tick raises its up-step and stops filling nodes. -/
  | slewTick (die : Nat) (dom : Nat)
  /-- R269: A domain's idle count reaches SLEW_IDLE and its up-step returns to 0. -/
  | slewIdleExpiry (die : Nat) (dom : Nat)
  /-- R328: A tracker applies an arriving Ridgeline batch and forwards net changes. -/
  | trackerBatch (trk : Nat) (input : Nat)
  /-- R341: A WAITF registration reaches its tracker. -/
  | waitfRegister (trk : Nat)
  /-- R341: A release reaches a WAITF and its waiting tokens are sent. -/
  | frontierRelease (trk : Nat) (index : Nat)
  /-- R342: A tracker answers a FRONT query. -/
  | frontQuery (trk : Nat)
  /-- R380: A waiting record is re-evaluated and enters ready when satisfied. -/
  | waitReevaluate (rec : Nat)
  /-- R384: A record spends 2^20 cycles in ready or frozen and is raised one level. -/
  | priorityAging (rec : Nat)
  /-- R387: The loader writes and checks one block into an inactive bank. -/
  | blockLoad (rec : Nat)
  /-- R387: Once banks are valid and the region is quiet, the record's state is written and the residency activates or restores. -/
  | activation (rec : Nat)
  /-- R388: Every output probe's frontier empties, or the region reports quiet, and the residency enters draining. -/
  | enterDraining (rec : Nat)
  /-- R388: A draining region reports quiet and the residency retires. -/
  | retire (rec : Nat)
  /-- R388: The drain limit passes without quiet and the residency is frozen and reported UNDRAINED. -/
  | drainLimitExpiry (rec : Nat)
  /-- R382: The home of a marked store sends the watched word's new value to the Dispatcher for the slot's queue. -/
  | watchedStore
  /-- R398: A freeze request reaches the region and every tile stops at a firing boundary. -/
  | freezeRequest (rec : Nat) (cause : Nat)
  /-- R400: A settled region is scanned out into an FRZ image and its counts are parked. -/
  | scanOut (rec : Nat)
  /-- R427: A host port's LT polls an enabled mailbox set and delivers new entries. -/
  | mailboxPoll (set : Nat)
  /-- R393: A fault record enters the controller's table and receives its FID. -/
  | faultRecordEntry
  /-- R395: A record is delivered to its claimant's take queue or fault ring. -/
  | faultDelivery (fid : Nat)
  /-- R395: No disposition arrives within CLAIMTO and the record escalates to the host. -/
  | claimEscalation (fid : Nat)
  /-- R396: The controller applies or discards a disposition for a fault record. -/
  | disposition
  /-- R426: A host write to BAR0 RESUME sends a disposition. -/
  | hostResumeWrite (value : BitVec 64)
  /-- R382: A host write to the BAR0 watch window acts as a performed store to a watch slot. -/
  | watchWindowWrite (slot : Nat) (value : BitVec 64)
  /-- R426: A host access through BAR2 reaches device physical memory untimed. -/
  | bar2Access (offset : Nat) (size : Nat) (data : Option (List (BitVec 8)))
  /-- R428: A core reads the host's protocol version and settles the mailbox version. -/
  | mailboxStart (set : Nat) (core : Nat)
  /-- R84: The loader checks a Skein file's header, sections, negotiation and signatures. -/
  | skeinFileLoad (addr : Nat) (asid : Nat)
  /-- R179: A service-core write of any value clears TOKSTAT. -/
  | tokstatClear (tile : TileId)
  /-- R386: A service-core write clears DSPST's counters. -/
  | dspstClear
  /-- R412: A service-core write clears RESST's fields. -/
  | resstClear (res : Nat)
  /-- R411: A service-core write resets FAILT. -/
  | failtReset (res : Nat)
  /-- R435: A service-core write clears ERRCNT. -/
  | errcntClear (die : Nat)
  /-- R416: A write to PERFSELk chooses an event and zeroes PERFCNTk. -/
  | perfselWrite (tile : TileId) (k : Nat) (value : BitVec 64)
  /-- R135: A write to BCCAP sets the behind-compute cap for every PT and LT of the die. -/
  | bccapWrite (die : Nat) (value : BitVec 64)
  /-- R270: A service-core write to a slew table takes effect at the next tick. -/
  | slewTableWrite (die : Nat) (crn : Nat) (value : BitVec 64)
  /-- R441: A write to THROT sets the die's throttle level from the next tick. -/
  | throtWrite (die : Nat) (value : BitVec 64)
  /-- R437: A service-core write sets quarantine bits, which only reset clears. -/
  | qmaskSet (die : Nat) (word : Nat) (value : BitVec 64)
  /-- R411: A write to a register that has no behaviour of its own. -/
  | registerWrite (reg : RegName) (value : BitVec 64)
  /-- R441: A core-rail overcurrent alert makes the power controller set LEVEL to 7. -/
  | overcurrentAlert (die : Nat)
  /-- R433: A flit with a detected error is replayed from the sender's retry buffer. -/
  | flitReplay (flit : Flit) (kept : Bool)
  /-- R433: A lane that fails replay 8 times in a row is retrained or replaced by a spare. -/
  | laneRetrain (link : Nat) (failsAgain : Bool)
  /-- R438: A Sorpen link trains and settles the highest common version. -/
  | linkTraining (link : Nat) (peer : List (Nat × Nat))
  /-- R429: An expander port's link fails and its tier-2 bytes become a gap. -/
  | cxlLinkFailure (port : Nat)
  /-- R436: Reset reads the repair fuses and clears the device. -/
  | reset
  /-- R439: The boot ROM verifies the firmware's signatures and security version. -/
  | firmwareVerify (image : BootImage)
  /-- R440: The device returns a signed attestation report for a nonce. -/
  | attestationRequest (set : Nat) (nonce : List (BitVec 8))
  /-- R102: A service core's invalidation of a page reaches every PT and drops its cached translations. -/
  | pageInvalidation (asid : Nat) (va : Nat) (len : Nat)
  /-- R437: Firmware claims a free quad for idle self-test and later returns it or leaves it quarantined. -/
  | idleSelfTest (die : Nat) (quad : Nat) (act : SelfTest)

  /-- R407: The snapshot controller starts a snapshot and broadcasts the page marking. -/
  | snapshotRequest
  /-- R407: Every home has marked its pages and T0 is pulsed. -/
  | snapshotMarked
  /-- R407: The snapshot probe's frontier passes the cut and page copying begins. -/
  | snapshotCut
  /-- R381: The Dispatcher creates a task record from a queued launch request. -/
  | taskCreate
  /-- R390: The Dispatcher applies a JOIN message to a record. -/
  | joinApply
  /-- R384: The Dispatcher selects a record and places it or tries pre-emption. -/
  | taskSelect
  /-- R101: An ATS translation completion returns for a host range. -/
  | atsCompletion (req : Nat) (elem : Nat) (grant : Option AtsGrant)
  /-- R104: A PT receives a host Invalidate Request for a host range. -/
  | atsInvalidateRequest (asid : Nat) (va : Nat) (len : Nat)
  /-- R104: A PT receives the driver's truncation command for a host range. -/
  | hostRangeTruncate (asid : Nat) (va : Nat) (newEnd : Nat)
  /-- R102: The second invalidation re-walks every request held on a migrating page. -/
  | migrationRewalk (asid : Nat) (va : Nat) (len : Nat)
  deriving DecidableEq, Repr, Inhabited

end Sys2Proof
end

