-- ==== Sys2Proof/WellFormed.lean ====
section
/-! DEFINITION. What the loader asks of one instruction word by itself (R41 with the tables of R108, R138,
R155, R180, R221 to R246, R253, R295, R299, R316, R340, R362, R389, R405, R413, R423). What it asks of a
word beside its block and residency is in Machine/Load.lean. -/

namespace Sys2Proof

/-- The check a word fails, by the column of R41. -/
inductive WfErr where
  | sh | md | target | x
  deriving DecidableEq, Repr

/-- Width of an element in bytes; an e2m1 element has 4 bits and no byte width (R194, R201). -/
def Elem.width : Elem → Nat
  | .b64 | .s64 | .n64 => 8
  | .s32 | .n32 | .f32 => 4
  | .s16 | .n16 | .bf16 | .f16 => 2
  | .s8 | .n8 | .e4m3 | .e5m2 | .e8m0 => 1
  | .e2m1 => 0

def Elem.isInt : Elem → Bool
  | .s8 | .s16 | .s32 | .s64 | .n8 | .n16 | .n32 | .n64 | .b64 => true
  | _ => false

/-- SH of the float instructions (R229). -/
def Elem.isFloat3 : Elem → Bool
  | .bf16 | .f16 | .f32 => true
  | _ => false

/-- "Computing" SH of R233. -/
def Elem.isComputing : Elem → Bool
  | .s8 | .s16 | .s32 | .n8 | .n16 | .n32 | .bf16 | .f16 | .f32 => true
  | _ => false

/-- SH of gathers and scatters (R108, R155). -/
def Elem.isGather (e : Elem) : Bool := e.isInt || e.isFloat3

/-- Types a conversion may name (R240). -/
def Elem.isConv : Elem → Bool
  | .b64 | .e2m1 => false
  | _ => true

/-- The element type of a 4-bit code (R25). -/
def Elem.ofCode (n : Nat) : Elem :=
  match n % 16 with
  | 0 => .b64 | 1 => .s8 | 2 => .s16 | 3 => .s32 | 4 => .s64 | 5 => .n8 | 6 => .n16 | 7 => .n32
  | 8 => .n64 | 9 => .e2m1 | 10 => .e4m3 | 11 => .e5m2 | 12 => .bf16 | 13 => .f16 | 14 => .f32 | _ => .e8m0

def Target.isNone : Target → Bool
  | .none => true
  | _ => false

/-- The four columns of R41 in order; `none` when the word passes. -/
def check (sh md target x : Bool) : Option WfErr :=
  if !sh then some .sh else if !md then some .md else if !target then some .target
  else if !x then some .x else none

/-- An immediate of SH: 16-bit floats leave IMM[29:16] zero (R27). -/
def immOk (sh : Elem) (imm : BitVec 30) : Bool :=
  match sh with
  | .bf16 | .f16 => imm.toNat < 2 ^ 16
  | _ => true

/-- Bits [hi:lo] of an immediate. -/
def immBits (imm : BitVec 30) (lo len : Nat) : Nat := (imm.toNat / 2 ^ lo) % 2 ^ len

/-- Integer group with immediate form (R221). -/
def chkIntImm (h : Hd) (imm : BitVec 30) : Option WfErr :=
  check h.sh.isInt (h.md == 0 || h.md == 8) true (h.md == 8 || imm == 0)

/-- Integer group without immediate form (R216, R221). -/
def chkInt (h : Hd) (imm : BitVec 30) : Option WfErr := check h.sh.isInt (h.md == 0) true (imm == 0)

/-- BFX and BFI (R223). -/
def chkField (h : Hd) (imm : BitVec 30) : Option WfErr :=
  let len := immBits imm 6 7
  let lo := immBits imm 0 6
  check h.sh.isInt (h.md == 0) true
    (immBits imm 13 17 == 0 && decide (1 ≤ len) && decide (len ≤ 64) && decide (lo + len ≤ 8 * h.sh.width))

/-- Float group with immediate form (R229). -/
def chkFltImm (h : Hd) (imm : BitVec 30) : Option WfErr :=
  check h.sh.isFloat3 true true (if h.md.toNat ≥ 8 then immOk h.sh imm else imm == 0)

/-- Float group without immediate form (R229). -/
def chkFlt (h : Hd) (imm : BitVec 30) : Option WfErr :=
  check h.sh.isFloat3 (decide (h.md.toNat < 8)) true (imm == 0)

/-- A row instruction with sub-operations 0 to `top` and no IMM (R233). -/
def chkRow (sh : Bool) (top : Nat) (h : Hd) (imm : BitVec 30) : Option WfErr :=
  check sh (decide (h.md.toNat ≤ top)) true (imm == 0)

def moving (h : Hd) : Bool := h.sh != .e2m1

/-- Control instructions of family N with SH 0 and MD 0 (R180). -/
def chkPlain (h : Hd) : Option WfErr := check (h.sh == .b64) (h.md == 0) true true

/-- MEM subfields beside LSZ, TC and OFF at 0. -/
def noScope (x : MemX) : Bool := x.scp == 0 && x.cla == 0 && x.clb == 0

def lszOk (x : MemX) (top : Nat) : Bool := decide (x.lsz.toNat ≤ top)

/-- A MEM word that takes an access of code up to `top` with TC 0. -/
def chkMem (sh md tgt : Bool) (top : Nat) (x : MemX) : Option WfErr :=
  check sh md tgt (lszOk x top && !x.tc && noScope x)

/-- ENG subfields SB, ARV, FLG and BC at 0. -/
def engPlain (x : EngX) : Bool := x.sb == 0 && !x.arv && !x.flg && !x.bc

def engHere (x : EngX) : Bool := x.eqx == 0 && x.eqy == 0

def matZero (x : MatX) (q b s m t w : Bool) : Bool :=
  (q || (x.qrow == 0 && !x.acc)) && (b || x.bank == 0) && (s || x.src == 0) && (m || x.mcst == 0)
    && (t || !x.trn) && (w || x.woff == 0) && decide (x.src.toNat ≤ 2) && decide (x.woff.toNat ≤ 6143)

/-- SH and MD of the row instructions (R253). -/
def matRowSh (h : Hd) : Bool := h.sh == .bf16 || h.sh == .e4m3 || h.sh == .e5m2 || h.sh == .s16

def fp8 (e : Elem) : Bool := e == .e4m3 || e == .e5m2

def matRowMd (h : Hd) : Bool := h.md == 0 || (h.md == 1 && fp8 h.sh)

/-- VID subfields at 0 but those named. -/
def vidZero (x : VidX) (ax l2 mode wset woff : Bool) : Bool :=
  (ax || x.ax == 0) && (l2 || x.log2 == 0) && (mode || x.mode == 0) && (wset || x.wset == 0) && (woff || x.woff == 0)

def log2Ok (x : VidX) : Bool := decide (2 ≤ x.log2.toNat) && decide (x.log2.toNat ≤ 6)

/-- Tile control registers that exist (R411). -/
def crnDefined (n : Nat) : Bool :=
  n ≤ 5 || (8 ≤ n && n ≤ 12) || n == 0x10 || (0x18 ≤ n && n ≤ 0x1C) || (0x20 ≤ n && n ≤ 0x22)
    || (0x28 ≤ n && n ≤ 0x30) || n == 0x38 || n == 0x39 || (0x40 ≤ n && n ≤ 0x44) || (0x80 ≤ n && n ≤ 0x8F)

/-- Registers marked "residency write" (R411). -/
def crnWritable (n : Nat) : Bool :=
  n == 0x10 || (0x28 ≤ n && n ≤ 0x2B) || n == 0x38 || n == 0x39 || (0x80 ≤ n && n ≤ 0x8F)

/-- Source type and part selector of a conversion (R240). -/
def convSrc (imm : BitVec 30) : Elem := Elem.ofCode (immBits imm 0 4)

def convOk (imm : BitVec 30) (part : Bool) : Bool := immBits imm 6 24 == 0 && (part || immBits imm 4 2 == 0)

/-- The check of R41 that one word answers by itself; `none` when it passes. Xdmx words, commands and
events have nothing to check. Two words the rules leave open are accepted (DESIGN CHOICE, log 14): LDT, LDS and MOV with SH e2m1, whose token
keeps the size they give it though R203 gives e2m1 tokens 256 bytes, and PERM's xori, roti and revi with an SH that has no immediate form
(R41 refuses MD[3] = 1 there, R233 admits every moving SH). -/
def Instr.check : Instr → Option WfErr
  | .nop h x => Sys2Proof.check (h.sh == .b64) (h.md == 0) (h.t0.isNone && h.t1.isNone) (x == ⟨0, 0, 0⟩)
  | .exit h x => Sys2Proof.check (h.sh == .b64) (h.md == 1) (h.t0.isNone && h.t1.isNone) (x == ⟨0, 0, 0⟩)
  | .mov h => Sys2Proof.check true (h.md == 0) true true
  | .const h imm => Sys2Proof.check h.sh.isGather (h.md == 0) true (immOk h.sh imm)
  | .consth h _ => Sys2Proof.check (h.sh == .b64 || h.sh == .s64 || h.sh == .n64) true true true
  | .fan h _ => chkPlain h
  | .sink h => Sys2Proof.check (h.sh == .b64) (h.md == 0) (h.t0.isNone && h.t1.isNone) true
  | .route h | .merge h | .select h | .gate h | .enter h | .leave h | .timeof h | .cnt h | .repeat h | .eos h
  | .iseos h => chkPlain h
  | .step h imm => Sys2Proof.check (h.sh == .b64) (h.md == 0) true (imm != 0)
  | .epoch h imm => Sys2Proof.check (h.sh == .b64) (h.md == 0) true (imm != 0 && decide (imm.toNat < 2 ^ 20))
  | .hold h x | .release h x => Sys2Proof.check (h.sh == .b64) (h.md == 0) true (x.prb == 0 && x.scp == 0)
  | .resize h imm => Sys2Proof.check (h.sh == .b64) (h.md == 0) true
      (immBits imm 8 13 == 0 && immBits imm 0 8 != 0 && (immBits imm 28 2 != 3 || decide (immBits imm 21 7 < 64)))
  | .add h imm | .sub h imm | .mul h imm | .mulh h imm | .div h imm | .rem h imm | .min h imm | .max h imm
  | .adds h imm | .subs h imm | .and h imm | .or h imm | .xor h imm | .andn h imm | .shl h imm | .shr h imm
  | .rotl h imm => chkIntImm h imm
  | .mad h imm | .neg h imm | .abs h imm | .clz h imm | .popc h imm => chkInt h imm
  | .bfx h imm | .bfi h imm => chkField h imm
  | .cmp h imm => Sys2Proof.check h.sh.isInt (decide (h.md.toNat % 8 ≤ 5)) true (decide (h.md.toNat ≥ 8) || imm == 0)
  | .hash h imm => Sys2Proof.check (h.sh == .n32) (h.md == 0) true (imm == 0)
  | .fadd h imm | .fsub h imm | .fmul h imm | .fmin h imm | .fmax h imm => chkFltImm h imm
  | .fcmp h imm => Sys2Proof.check h.sh.isFloat3 (decide (h.md.toNat % 8 ≤ 6)) true
      (if h.md.toNat ≥ 8 then immOk h.sh imm else imm == 0)
  | .fscale h imm => Sys2Proof.check h.sh.isFloat3 true true (decide (h.md.toNat ≥ 8) || imm == 0)
  | .ffma h imm | .fabs h imm | .fneg h imm | .frcp h imm | .frsq h imm | .fsqrt h imm | .fexp2 h imm | .flog2 h imm
  | .fsin h imm | .fcos h imm | .ftanh h imm | .ferf h imm | .frnd h imm | .fclass h imm => chkFlt h imm
  | .rsum h imm => chkRow (h.sh.isComputing || h.sh == .s64 || h.sh == .n64) 2 h imm
  | .rmax h imm | .rmin h imm | .argmax h imm => chkRow h.sh.isComputing 1 h imm
  | .scan h imm => chkRow h.sh.isComputing 2 h imm
  | .perm h imm => Sys2Proof.check (moving h) (h.md == 0 || h.md == 9 || h.md == 10 || h.md == 11) true
      (if h.md == 0 || h.md == 11 then imm == 0 else decide (imm.toNat < 256))
  | .bcast h imm => Sys2Proof.check (moving h) (h.md == 0) true (immBits imm 11 19 == 0 && decide (immBits imm 8 3 ≤ 5))
  | .slice h imm => Sys2Proof.check (moving h) (h.md == 0) true
      (immBits imm 18 12 == 0 && decide (1 ≤ immBits imm 9 9) && decide (immBits imm 9 9 ≤ 256)
        && decide (immBits imm 9 9 * h.sh.width ≤ 256))
  | .cat h imm | .split h imm | .compr h imm | .expd h imm => chkRow (moving h) 0 h imm
  | .topk h imm => Sys2Proof.check h.sh.isComputing (decide (h.md.toNat ≤ 1)) true
      (immBits imm 7 23 == 0 && decide (1 ≤ imm.toNat) && decide (imm.toNat ≤ 64))
  | .maxrs h imm => chkRow (h.sh == .bf16 || h.sh == .f32) 0 h imm
  | .cvt h imm => Sys2Proof.check h.sh.isConv true true (convOk imm true && (convSrc imm).isConv)
  | .cvts h imm => Sys2Proof.check (h.sh == .bf16 || h.sh == .f16 || fp8 h.sh) (h.md.toNat % 4 == 0) true
      (convOk imm false && (convSrc imm).isFloat3 && decide (h.sh.width < (convSrc imm).width))
  | .qnt h imm => Sys2Proof.check (h.sh == .e2m1) (h.md == 0 || h.md == 8) true (convOk imm false && (convSrc imm).isFloat3)
  | .dqnt h imm => Sys2Proof.check h.sh.isFloat3 true true (convOk imm true && convSrc imm == .e2m1)
  | .pack h imm => Sys2Proof.check (h.sh != .e2m1) true true
      (convOk imm false && (convSrc imm).isConv && decide (2 * h.sh.width = (convSrc imm).width))
  | .unpk h imm => Sys2Proof.check (h.sh != .e2m1) true true
      (convOk imm false && (convSrc imm).isConv && decide (h.sh.width = 2 * (convSrc imm).width))
  | .isect h imm | .union h imm => Sys2Proof.check (h.sh == .s32 || h.sh == .n32 || h.sh.isFloat3) (h.md == 0) true (imm == 0)
  | .part h imm => Sys2Proof.check (h.sh == .n32) (h.md == 0) true (imm != 0 && decide (imm.toNat < 256))
  | .mcfg h x => Sys2Proof.check (matRowSh h || h.sh == .e2m1) (h.md == 0) true (matZero x false false false false false false)
  | .mldb h x => Sys2Proof.check (h.sh == .b64 || h.sh == .bf16 || fp8 h.sh || h.sh == .s8 || h.sh == .e2m1)
      (h.md == 0 || (h.md == 1 && h.sh == .e2m1 && !x.trn)) true
      (matZero x false true true true true true && !(x.trn && h.sh == .b64))
  | .mswp h x | .mdrn h x => Sys2Proof.check (h.sh == .b64) (h.md == 0) true (matZero x false false false false false false)
  | .mrow h x => Sys2Proof.check (matRowSh h) (matRowMd h) true (matZero x true false false false false false)
  | .mrowa h x => Sys2Proof.check (matRowSh h) (matRowMd h) true (matZero x true false true false false true)
  | .mblk h x => Sys2Proof.check (h.sh == .e2m1 || fp8 h.sh) (h.md == 0 || (h.md == 1 && fp8 h.sh)) true
      (matZero x false false false false false false)
  | .msca h x => Sys2Proof.check (h.sh == .e2m1 || fp8 h.sh) (h.md == 0) true (matZero x true false false false false false)
  | .mzero h x => Sys2Proof.check (h.sh == .b64) (h.md == 0) true (matZero x true false false false false false && !x.acc)
  | .ldt h x => chkMem true (h.md == 1 || h.md == 2) true 5 x
  | .stt h x => chkMem true (h.md == 1 || h.md == 2) h.t0.isNone 5 x
  | .lds h x => Sys2Proof.check true (h.md == 0) true (lszOk x 5 && noScope x)
  | .sts h x => Sys2Proof.check true (h.md == 0) h.t0.isNone (lszOk x 5 && noScope x)
  | .agen h x => Sys2Proof.check (h.sh == .b64) (h.md == 0) true (lszOk x 0 && !x.tc && noScope x && x.off.toNat % 8 == 0)
  | .gath h x => chkMem h.sh.isGather (decide (h.md.toNat ≤ 1)) true 5 x
  | .scat h x => chkMem (h.sh.isFloat3 || h.sh == .s16 || h.sh == .s32 || h.sh == .n16 || h.sh == .n32)
      (decide (h.md.toNat ≤ 3)) h.t0.isNone 0 x
  | .waita h x | .arrv h x => chkMem (h.sh == .b64) (decide (h.md.toNat ≤ 1)) true 0 x
  | .fence h x => Sys2Proof.check (h.sh == .b64) (h.md == 0) true
      (lszOk x 0 && !x.tc && x.cla == 0 && x.clb == 0 && x.off == 0 && decide (1 ≤ x.scp.toNat) && decide (x.scp.toNat ≤ 6))
  | .xfence h x => Sys2Proof.check (h.sh == .b64) (h.md == 0) true
      (lszOk x 0 && !x.tc && x.scp == 0 && x.off == 0 && x.cla != x.clb)
  | .ldv h x => chkMem true (h.md == 0) true 5 x
  | .stv h x => chkMem (h.sh == .b64) (h.md == 0) h.t0.isNone 5 x
  | .ldvs h x => chkMem h.sh.isGather (h.md == 0) true 5 x
  | .stvs h x => chkMem h.sh.isGather (h.md == 0) h.t0.isNone 5 x
  | .pfv h x => chkMem (h.sh == .b64) (h.md == 0) h.t1.isNone 0 x
  | .amo h x => chkMem
      (if h.md.toNat % 8 < 6 then h.sh.isInt && h.sh.width != 1 else h.sh == .bf16 || h.sh == .f32) true h.t0.isNone 3 x
  | .amor h x => chkMem
      (let base := h.sh == .s32 || h.sh == .s64 || h.sh == .n32 || h.sh == .n64
       match h.md.toNat % 4 with
       | 0 => base
       | 3 => h.sh == .n64
       | _ => base || h.sh == .b64 || h.sh == .f32) (decide (h.md.toNat % 8 ≤ 3)) true 0 x
  | .red h x => chkMem (h.sh.isFloat3 || (h.sh.isInt && h.sh.width != 1 && h.sh != .b64)) (decide (h.md.toNat ≤ 2)) h.t0.isNone 5 x
  | .bin h x => Sys2Proof.check (h.sh == .s32 || h.sh == .n32 || h.sh == .bf16 || h.sh == .f32) (h.md == 0) h.t0.isNone
      (lszOk x 0 && !x.tc && noScope x && x.off.toNat % 64 == 0)
  | .binf h x => Sys2Proof.check (h.sh == .s32 || h.sh == .n32 || h.sh == .bf16 || h.sh == .f32) (h.md == 0) true
      (lszOk x 0 && !x.tc && noScope x && x.off.toNat % 64 == 0)
  | .send h _ | .cpy h _ => chkPlain h
  | .cpys h x => Sys2Proof.check (h.sh == .b64) (h.md == 0) true (x.sb == 0 && !x.flg)
  | .cpyf h x | .cpyc h x => Sys2Proof.check (h.sh == .b64) (h.md == 0) h.t1.isNone (engPlain x && x.dsc == 0)
  | .sbw h x => Sys2Proof.check (h.sh == .b64) (h.md == 0) true (engPlain x && engHere x && decide (x.dsc.toNat < 256))
  | .snap h x => Sys2Proof.check (h.sh == .b64) (h.md == 0) true (x.sb == 0 && !x.arv && !x.flg && engHere x)
  | .cmbc h x => Sys2Proof.check (h.sh == .b64) (h.md == 0) true (engPlain x)
  | .cmba h x => Sys2Proof.check (if h.md == 1 then h.sh == .bf16 || h.sh == .f32 else h.sh == .b64) (decide (h.md.toNat ≤ 1)) true
      (engPlain x && x.dsc == 0)
  | .cmbi h x => Sys2Proof.check (h.sh == .b64) (decide (h.md.toNat ≤ 1)) true (engPlain x && x.dsc == 0)
  | .cmbr h x => Sys2Proof.check (h.sh == .b64) (h.md == 0) true (engPlain x && x.dsc == 0)
  | .syno h x => Sys2Proof.check (h.sh == .b64) (h.md == 0) true (x.sb == 0 && !x.arv && !x.flg && engHere x)
  | .synq h x => Sys2Proof.check (h.sh == .b64) (decide (h.md.toNat ≤ 2)) true (engPlain x && engHere x && x.dsc == 0)
  | .bmod h x => Sys2Proof.check (h.sh == .b64) (h.md == 0) true (log2Ok x && decide (x.mode.toNat < 8) && vidZero x false true true true true)
  | .cgex h x => Sys2Proof.check (h.sh == .s16) (decide (h.md.toNat ≤ 1)) true (log2Ok x && vidZero x false true false false false)
  | .cflp h x => Sys2Proof.check (h.sh == .s16 || h.sh == .s32 || h.sh.isFloat3) (decide (h.md.toNat ≤ 1)) true
      (log2Ok x && decide (x.ax.toNat ≤ 2) && vidZero x true true false false false)
  | .ctrn h x => Sys2Proof.check (h.sh == .s16 || h.sh == .s32 || h.sh.isFloat3) (decide (h.md.toNat ≤ 1)) true
      ((if h.md == 0 then x.log2 == 2 || x.log2 == 3 else x.log2 == 0) && vidZero x false true false false false)
  | .blkw h x | .drift h x => Sys2Proof.check (h.sh == .b64) (decide (h.md.toNat ≤ 1)) true (vidZero x false false false false false)
  | .cdmc h x => Sys2Proof.check (h.sh == .b64) (h.md == 0) true (vidZero x false false false false true && decide (x.woff.toNat ≤ 384))
  | .cdip h x => Sys2Proof.check (h.sh == .b64) true true (log2Ok x && vidZero x false true true false true && decide (x.woff.toNat ≤ 384))
  | .waitf h x | .front h x => Sys2Proof.check (h.sh == .b64) (h.md == 0) true
      (x.loc == 0 && decide (2 ≤ x.scp.toNat) && decide (x.scp.toNat ≤ 5))
  | .launch h imm => Sys2Proof.check (h.sh == .b64) (h.md == 0) true (immBits imm 19 11 == 0 && decide (immBits imm 15 4 ≤ 8))
  | .join h imm => Sys2Proof.check (h.sh == .b64) (decide (h.md.toNat ≤ 1)) true
      (if h.md == 0 then imm == 0 else imm != 0 && decide (imm.toNat < 2 ^ 16))
  | .trap h x => Sys2Proof.check (h.sh == .b64) (h.md == 0) true (x.crn == 0 && x.sel == 0)
  | .brk h x => Sys2Proof.check (h.sh == .b64) (decide (h.md.toNat ≤ 1)) true (x.crn == 0 && x.sel == 0)
  | .rdcr h x => Sys2Proof.check (h.sh == .b64) (h.md == 0) true (crnDefined x.crn.toNat && x.sel == 0 && x.code == 0)
  | .wrcr h x => Sys2Proof.check (h.sh == .b64) (h.md == 0) true (crnWritable x.crn.toNat && x.sel == 0 && x.code == 0)
  | .perf h x => Sys2Proof.check (h.sh == .b64) (decide (h.md.toNat ≤ 1)) true
      (x.crn == 0 && x.code == 0 && (if h.md == 1 then decide (x.sel.toNat ≤ 3) else decide (x.sel.toNat ≤ 4)))
  | .svc h x => Sys2Proof.check (h.sh == .b64) (h.md == 0) true (x.crn == 0 && decide (x.sel.toNat ≤ 11))
  | _ => none

/-- A well-formed instruction (R41, the part one word answers by itself). -/
def Instr.wf (i : Instr) : Bool := i.check.isNone

end Sys2Proof
end

