-- ==== Sys2Proof/Decode.lean ====
section
/-! DEFINITION. Decoding of fabric words (R22 to R36, R39) and of a service core's 32-bit words (R418, R419),
total on any bits and refusing by name, and the encoder written from the same tables. -/

namespace Sys2Proof

/-- Why the decoder refuses a fabric word (R41). -/
inductive DecodeErr where
  | reservedOpcode (op : Nat)
  | reservedTarget
  | reservedBits
  | modifier
  deriving DecidableEq, Repr

/-- The code of an element type (R25). -/
def Elem.code : Elem → BitVec 4
  | .b64 => 0 | .s8 => 1 | .s16 => 2 | .s32 => 3 | .s64 => 4 | .n8 => 5 | .n16 => 6 | .n32 => 7
  | .n64 => 8 | .e2m1 => 9 | .e4m3 => 10 | .e5m2 => 11 | .bf16 => 12 | .f16 => 13 | .f32 => 14 | .e8m0 => 15

/-- A target from its 9 bits (R23); kind 11 with index 64 to 126 is reserved. -/
def Target.decode (b : BitVec 9) : Option Target :=
  let idx := b.extractLsb' 0 7
  match (b.extractLsb' 7 2).toNat with
  | 0 => some (.pos .l idx)
  | 1 => some (.pos .r idx)
  | 2 => some (.pos .p idx)
  | _ => if idx.toNat < 64 then some (.chan (idx.extractLsb' 0 6)) else if idx.toNat = 127 then some .none else Option.none

/-- The 9 bits of a target (R23). -/
def Target.code : Target → BitVec 9
  | .pos .l s => (0 : BitVec 2) ++ s
  | .pos .r s => (1 : BitVec 2) ++ s
  | .pos .p s => (2 : BitVec 2) ++ s
  | .chan c => (6 : BitVec 3) ++ c
  | .none => 0x1FF

def Bool.bit (b : Bool) : BitVec 1 := if b then 1 else 0

def T3X.decode (x : BitVec 30) : Except DecodeErr T3X :=
  if x.extractLsb' 0 3 ≠ 0 then .error .reservedBits
  else match Target.decode (x.extractLsb' 21 9), Target.decode (x.extractLsb' 12 9), Target.decode (x.extractLsb' 3 9) with
    | some a, some b, some c => .ok ⟨a, b, c⟩
    | _, _, _ => .error .reservedTarget

def T3X.encode (x : T3X) : BitVec 30 := x.t2.code ++ x.t3.code ++ x.t4.code ++ (0 : BitVec 3)

def MemX.decode (x : BitVec 30) : MemX :=
  ⟨x.extractLsb' 27 3, x.extractLsb' 26 1 == 1, x.extractLsb' 23 3, x.extractLsb' 20 3, x.extractLsb' 17 3, x.extractLsb' 0 17⟩

def MemX.encode (x : MemX) : BitVec 30 := x.lsz ++ Bool.bit x.tc ++ x.scp ++ x.cla ++ x.clb ++ x.off

def EngX.decode (x : BitVec 30) : EngX :=
  ⟨x.extractLsb' 27 3, x.extractLsb' 26 1 == 1, x.extractLsb' 25 1 == 1, x.extractLsb' 24 1 == 1, x.extractLsb' 20 4,
   x.extractLsb' 16 4, x.extractLsb' 0 16⟩

def EngX.encode (x : EngX) : BitVec 30 :=
  x.sb ++ Bool.bit x.arv ++ Bool.bit x.flg ++ Bool.bit x.bc ++ x.eqx ++ x.eqy ++ x.dsc

def MatX.decode (x : BitVec 30) : MatX :=
  ⟨x.extractLsb' 22 8, x.extractLsb' 21 1 == 1, x.extractLsb' 20 1, x.extractLsb' 18 2, x.extractLsb' 15 3,
   x.extractLsb' 14 1 == 1, x.extractLsb' 0 14⟩

def MatX.encode (x : MatX) : BitVec 30 :=
  x.qrow ++ Bool.bit x.acc ++ x.bank ++ x.src ++ x.mcst ++ Bool.bit x.trn ++ x.woff

def VidX.decode (x : BitVec 30) : VidX :=
  ⟨x.extractLsb' 28 2, x.extractLsb' 25 3, x.extractLsb' 19 6, x.extractLsb' 11 8, x.extractLsb' 0 11⟩

def VidX.encode (x : VidX) : BitVec 30 := x.ax ++ x.log2 ++ x.mode ++ x.wset ++ x.woff

def PrbX.decode (x : BitVec 30) : Except DecodeErr PrbX :=
  if x.extractLsb' 0 15 ≠ 0 then .error .reservedBits
  else .ok ⟨x.extractLsb' 24 6, x.extractLsb' 21 3, x.extractLsb' 15 6⟩

def PrbX.encode (x : PrbX) : BitVec 30 := x.prb ++ x.scp ++ x.loc ++ (0 : BitVec 15)

def SysX.decode (x : BitVec 30) : SysX := ⟨x.extractLsb' 22 8, x.extractLsb' 16 6, x.extractLsb' 0 16⟩

def SysX.encode (x : SysX) : BitVec 30 := x.crn ++ x.sel ++ x.code

/-- Family N: X holds 0 (R28). -/
def famN (x : BitVec 30) (i : Instr) : Except DecodeErr Instr := if x = 0 then .ok i else .error .reservedBits

/-- The instruction of an opcode with its fields (R39); every opcode not listed is reserved. -/
def decodeOp (op : Nat) (h : Hd) (x : BitVec 30) : Except DecodeErr Instr :=
  match op with
  | 0x00 => match h.md.toNat with
    | 0 => .ok (.nop h (SysX.decode x))
    | 1 => .ok (.exit h (SysX.decode x))
    | _ => .error .modifier
  | 0x01 => famN x (.mov h)
  | 0x02 => .ok (.const h x)
  | 0x03 => .ok (.consth h x)
  | 0x04 => (T3X.decode x).map (.fan h)
  | 0x05 => famN x (.sink h)
  | 0x06 => famN x (.route h)
  | 0x07 => famN x (.merge h)
  | 0x08 => famN x (.select h)
  | 0x09 => famN x (.gate h)
  | 0x0A => famN x (.enter h)
  | 0x0B => .ok (.step h x)
  | 0x0C => famN x (.leave h)
  | 0x0D => .ok (.epoch h x)
  | 0x0E => famN x (.timeof h)
  | 0x0F => famN x (.cnt h)
  | 0x10 => famN x (.repeat h)
  | 0x11 => famN x (.eos h)
  | 0x12 => famN x (.iseos h)
  | 0x13 => (PrbX.decode x).map (.hold h)
  | 0x14 => (PrbX.decode x).map (.release h)
  | 0x15 => .ok (.resize h x)
  | 0x20 => .ok (.add h x)
  | 0x21 => .ok (.sub h x)
  | 0x22 => .ok (.mul h x)
  | 0x23 => .ok (.mulh h x)
  | 0x24 => .ok (.mad h x)
  | 0x25 => .ok (.div h x)
  | 0x26 => .ok (.rem h x)
  | 0x27 => .ok (.neg h x)
  | 0x28 => .ok (.abs h x)
  | 0x29 => .ok (.min h x)
  | 0x2A => .ok (.max h x)
  | 0x2B => .ok (.adds h x)
  | 0x2C => .ok (.subs h x)
  | 0x2D => .ok (.and h x)
  | 0x2E => .ok (.or h x)
  | 0x2F => .ok (.xor h x)
  | 0x30 => .ok (.andn h x)
  | 0x31 => .ok (.shl h x)
  | 0x32 => .ok (.shr h x)
  | 0x33 => .ok (.rotl h x)
  | 0x34 => .ok (.clz h x)
  | 0x35 => .ok (.popc h x)
  | 0x36 => .ok (.bfx h x)
  | 0x37 => .ok (.bfi h x)
  | 0x38 => .ok (.cmp h x)
  | 0x39 => .ok (.hash h x)
  | 0x40 => .ok (.fadd h x)
  | 0x41 => .ok (.fsub h x)
  | 0x42 => .ok (.fmul h x)
  | 0x43 => .ok (.ffma h x)
  | 0x44 => .ok (.fmin h x)
  | 0x45 => .ok (.fmax h x)
  | 0x46 => .ok (.fcmp h x)
  | 0x47 => .ok (.fabs h x)
  | 0x48 => .ok (.fneg h x)
  | 0x49 => .ok (.frcp h x)
  | 0x4A => .ok (.frsq h x)
  | 0x4B => .ok (.fsqrt h x)
  | 0x4C => .ok (.fexp2 h x)
  | 0x4D => .ok (.flog2 h x)
  | 0x4E => .ok (.fsin h x)
  | 0x4F => .ok (.fcos h x)
  | 0x50 => .ok (.ftanh h x)
  | 0x51 => .ok (.ferf h x)
  | 0x52 => .ok (.fscale h x)
  | 0x53 => .ok (.frnd h x)
  | 0x54 => .ok (.fclass h x)
  | 0x60 => .ok (.rsum h x)
  | 0x61 => .ok (.rmax h x)
  | 0x62 => .ok (.rmin h x)
  | 0x63 => .ok (.scan h x)
  | 0x64 => .ok (.perm h x)
  | 0x65 => .ok (.bcast h x)
  | 0x66 => .ok (.slice h x)
  | 0x67 => .ok (.cat h x)
  | 0x68 => .ok (.split h x)
  | 0x69 => .ok (.compr h x)
  | 0x6A => .ok (.expd h x)
  | 0x6B => .ok (.argmax h x)
  | 0x6C => .ok (.topk h x)
  | 0x6D => .ok (.maxrs h x)
  | 0x70 => .ok (.cvt h x)
  | 0x71 => .ok (.cvts h x)
  | 0x72 => .ok (.qnt h x)
  | 0x73 => .ok (.dqnt h x)
  | 0x74 => .ok (.pack h x)
  | 0x75 => .ok (.unpk h x)
  | 0x80 => .ok (.mcfg h (MatX.decode x))
  | 0x81 => .ok (.mldb h (MatX.decode x))
  | 0x82 => .ok (.mswp h (MatX.decode x))
  | 0x83 => .ok (.mrow h (MatX.decode x))
  | 0x84 => .ok (.mrowa h (MatX.decode x))
  | 0x85 => .ok (.mblk h (MatX.decode x))
  | 0x86 => .ok (.msca h (MatX.decode x))
  | 0x87 => .ok (.mzero h (MatX.decode x))
  | 0x88 => .ok (.mdrn h (MatX.decode x))
  | 0x90 => .ok (.ldt h (MemX.decode x))
  | 0x91 => .ok (.stt h (MemX.decode x))
  | 0x92 => .ok (.lds h (MemX.decode x))
  | 0x93 => .ok (.sts h (MemX.decode x))
  | 0x94 => .ok (.agen h (MemX.decode x))
  | 0x95 => .ok (.gath h (MemX.decode x))
  | 0x96 => .ok (.scat h (MemX.decode x))
  | 0x97 => .ok (.waita h (MemX.decode x))
  | 0x98 => .ok (.arrv h (MemX.decode x))
  | 0x99 => .ok (.fence h (MemX.decode x))
  | 0x9A => .ok (.xfence h (MemX.decode x))
  | 0xA0 => .ok (.ldv h (MemX.decode x))
  | 0xA1 => .ok (.stv h (MemX.decode x))
  | 0xA2 => .ok (.ldvs h (MemX.decode x))
  | 0xA3 => .ok (.stvs h (MemX.decode x))
  | 0xA4 => .ok (.pfv h (MemX.decode x))
  | 0xA8 => .ok (.amo h (MemX.decode x))
  | 0xA9 => .ok (.amor h (MemX.decode x))
  | 0xAA => .ok (.red h (MemX.decode x))
  | 0xAB => .ok (.bin h (MemX.decode x))
  | 0xAC => .ok (.binf h (MemX.decode x))
  | 0xB0 => .ok (.send h (EngX.decode x))
  | 0xB1 => .ok (.cpy h (EngX.decode x))
  | 0xB2 => .ok (.cpys h (EngX.decode x))
  | 0xB3 => .ok (.cpyf h (EngX.decode x))
  | 0xB4 => .ok (.cpyc h (EngX.decode x))
  | 0xB5 => .ok (.sbw h (EngX.decode x))
  | 0xB6 => .ok (.snap h (EngX.decode x))
  | 0xB7 => .ok (.cmbc h (EngX.decode x))
  | 0xB8 => .ok (.cmba h (EngX.decode x))
  | 0xB9 => .ok (.cmbi h (EngX.decode x))
  | 0xBA => .ok (.cmbr h (EngX.decode x))
  | 0xBB => .ok (.syno h (EngX.decode x))
  | 0xBC => .ok (.synq h (EngX.decode x))
  | 0xC0 => .ok (.bmod h (VidX.decode x))
  | 0xC1 => .ok (.cgex h (VidX.decode x))
  | 0xC2 => .ok (.cflp h (VidX.decode x))
  | 0xC3 => .ok (.ctrn h (VidX.decode x))
  | 0xC4 => .ok (.blkw h (VidX.decode x))
  | 0xC5 => .ok (.drift h (VidX.decode x))
  | 0xC6 => .ok (.cdmc h (VidX.decode x))
  | 0xC7 => .ok (.cdip h (VidX.decode x))
  | 0xD0 => (PrbX.decode x).map (.waitf h)
  | 0xD1 => (PrbX.decode x).map (.front h)
  | 0xD8 => .ok (.launch h x)
  | 0xD9 => .ok (.join h x)
  | 0xE0 => .ok (.isect h x)
  | 0xE1 => .ok (.union h x)
  | 0xE2 => .ok (.part h x)
  | 0xF0 => .ok (.trap h (SysX.decode x))
  | 0xF1 => .ok (.brk h (SysX.decode x))
  | 0xF2 => .ok (.rdcr h (SysX.decode x))
  | 0xF3 => .ok (.wrcr h (SysX.decode x))
  | 0xF4 => .ok (.perf h (SysX.decode x))
  | 0xF5 => .ok (.svc h (SysX.decode x))
  | _ => .error (.reservedOpcode op)

/-- A fabric word (R22): OP [63:56], SH [55:52], MD [51:48], T0 [47:39], T1 [38:30], X [29:0]. -/
def decodeWord (w : W64) : Except DecodeErr Instr :=
  match Target.decode (w.extractLsb' 39 9), Target.decode (w.extractLsb' 30 9) with
  | some t0, some t1 =>
    decodeOp (w.extractLsb' 56 8).toNat ⟨Elem.ofCode (w.extractLsb' 52 4).toNat, w.extractLsb' 48 4, t0, t1⟩
      (w.extractLsb' 0 30)
  | _, _ =>
    match decodeOp (w.extractLsb' 56 8).toNat ⟨.b64, 0, .none, .none⟩ 0 with
    | .error (.reservedOpcode op) => .error (.reservedOpcode op)
    | _ => .error .reservedTarget

/-- Whether a word's opcode is listed in R39. -/
def opcodeListed (w : W64) : Bool :=
  match decodeOp (w.extractLsb' 56 8).toNat ⟨.b64, 0, .none, .none⟩ 0 with
  | .error (.reservedOpcode _) => false
  | _ => true

/-- What a service core's 32-bit word is: an Xdmx instruction, an Xdmx word that is illegal because funct7 is
nonzero (R418), or a word of the RISC-V base ISA, which the table does not list. -/
inductive CoreWord where
  | xdmx (i : Instr)
  | illegal
  | base
  deriving DecidableEq, Repr

/-- R418, R419: opcode custom-0, funct3 names the instruction. -/
def decodeCore (w : BitVec 32) : CoreWord :=
  if w.extractLsb' 0 7 ≠ 0x0B then .base
  else if w.extractLsb' 25 7 ≠ 0 then .illegal
  else
    let rd := w.extractLsb' 7 5
    let rs1 := w.extractLsb' 15 5
    let rs2 := w.extractLsb' 20 5
    match (w.extractLsb' 12 3).toNat with
    | 0 => .xdmx (.dmxCmd rd rs1 rs2)
    | 1 => .xdmx (.dmxFence rd rs1 rs2)
    | 2 => .xdmx (.dmxTake rd rs1 rs2)
    | 3 => .xdmx (.dmxGive rd rs1 rs2)
    | 4 => .xdmx (.dmxResume rd rs1 rs2)
    | 5 => .xdmx (.dmxFrz rd rs1 rs2)
    | 6 => .xdmx (.dmxClaim rd rs1 rs2)
    | _ => .xdmx (.dmxWatch rd rs1 rs2)

/-- A little-endian number from its bytes (R3). -/
def leNat : List Byte → Nat
  | [] => 0
  | b :: bs => b.toNat + 256 * leNat bs

/-- The first `n` bytes of a number, little-endian (R3). -/
def leBytes : Nat → Nat → List Byte
  | 0, _ => []
  | n + 1, v => BitVec.ofNat 8 v :: leBytes n (v / 256)

/-- A service core's decoder on the four bytes at its pc. -/
def decodeCoreBytes (bs : List Byte) : CoreWord := decodeCore (BitVec.ofNat 32 (leNat (bs.take 4)))

/-- The fabric decoder on the eight bytes of a word in a block image (R38). -/
def decodeFabricBytes (bs : List Byte) : Except DecodeErr Instr := decodeWord (BitVec.ofNat 64 (leNat (bs.take 8)))

/-- The instruction this decoder reads from the bits `w`, numbered as spec/opcode_table.json numbers them:
rows of up to 32 bits are Xdmx words, rows of up to 64 bits fabric words. -/
def decodeTableWord (nbits w : Nat) : Option Instr :=
  if nbits ≤ 32 then
    match decodeCoreBytes (leBytes 4 w) with
    | .xdmx i => some i
    | _ => none
  else
    match decodeFabricBytes (leBytes 8 w) with
    | .ok i => some i
    | .error _ => none

/-! The encoder. -/

/-- A word from its fields (R22). -/
def packWord (op : BitVec 8) (h : Hd) (x : BitVec 30) : W64 :=
  op ++ h.sh.code ++ h.md ++ h.t0.code ++ h.t1.code ++ x

/-- The 64-bit word of a fabric instruction (R22 to R36, R39); the other rows have none. -/
def encodeWord : Instr → Option W64
  | .nop h x => some (packWord 0x00 h x.encode)
  | .exit h x => some (packWord 0x00 h x.encode)
  | .mov h => some (packWord 0x01 h 0)
  | .const h imm => some (packWord 0x02 h imm)
  | .consth h imm => some (packWord 0x03 h imm)
  | .fan h x => some (packWord 0x04 h x.encode)
  | .sink h => some (packWord 0x05 h 0)
  | .route h => some (packWord 0x06 h 0)
  | .merge h => some (packWord 0x07 h 0)
  | .select h => some (packWord 0x08 h 0)
  | .gate h => some (packWord 0x09 h 0)
  | .enter h => some (packWord 0x0A h 0)
  | .step h imm => some (packWord 0x0B h imm)
  | .leave h => some (packWord 0x0C h 0)
  | .epoch h imm => some (packWord 0x0D h imm)
  | .timeof h => some (packWord 0x0E h 0)
  | .cnt h => some (packWord 0x0F h 0)
  | .repeat h => some (packWord 0x10 h 0)
  | .eos h => some (packWord 0x11 h 0)
  | .iseos h => some (packWord 0x12 h 0)
  | .hold h x => some (packWord 0x13 h x.encode)
  | .release h x => some (packWord 0x14 h x.encode)
  | .resize h imm => some (packWord 0x15 h imm)
  | .add h imm => some (packWord 0x20 h imm)
  | .sub h imm => some (packWord 0x21 h imm)
  | .mul h imm => some (packWord 0x22 h imm)
  | .mulh h imm => some (packWord 0x23 h imm)
  | .mad h imm => some (packWord 0x24 h imm)
  | .div h imm => some (packWord 0x25 h imm)
  | .rem h imm => some (packWord 0x26 h imm)
  | .neg h imm => some (packWord 0x27 h imm)
  | .abs h imm => some (packWord 0x28 h imm)
  | .min h imm => some (packWord 0x29 h imm)
  | .max h imm => some (packWord 0x2A h imm)
  | .adds h imm => some (packWord 0x2B h imm)
  | .subs h imm => some (packWord 0x2C h imm)
  | .and h imm => some (packWord 0x2D h imm)
  | .or h imm => some (packWord 0x2E h imm)
  | .xor h imm => some (packWord 0x2F h imm)
  | .andn h imm => some (packWord 0x30 h imm)
  | .shl h imm => some (packWord 0x31 h imm)
  | .shr h imm => some (packWord 0x32 h imm)
  | .rotl h imm => some (packWord 0x33 h imm)
  | .clz h imm => some (packWord 0x34 h imm)
  | .popc h imm => some (packWord 0x35 h imm)
  | .bfx h imm => some (packWord 0x36 h imm)
  | .bfi h imm => some (packWord 0x37 h imm)
  | .cmp h imm => some (packWord 0x38 h imm)
  | .hash h imm => some (packWord 0x39 h imm)
  | .fadd h imm => some (packWord 0x40 h imm)
  | .fsub h imm => some (packWord 0x41 h imm)
  | .fmul h imm => some (packWord 0x42 h imm)
  | .ffma h imm => some (packWord 0x43 h imm)
  | .fmin h imm => some (packWord 0x44 h imm)
  | .fmax h imm => some (packWord 0x45 h imm)
  | .fcmp h imm => some (packWord 0x46 h imm)
  | .fabs h imm => some (packWord 0x47 h imm)
  | .fneg h imm => some (packWord 0x48 h imm)
  | .frcp h imm => some (packWord 0x49 h imm)
  | .frsq h imm => some (packWord 0x4A h imm)
  | .fsqrt h imm => some (packWord 0x4B h imm)
  | .fexp2 h imm => some (packWord 0x4C h imm)
  | .flog2 h imm => some (packWord 0x4D h imm)
  | .fsin h imm => some (packWord 0x4E h imm)
  | .fcos h imm => some (packWord 0x4F h imm)
  | .ftanh h imm => some (packWord 0x50 h imm)
  | .ferf h imm => some (packWord 0x51 h imm)
  | .fscale h imm => some (packWord 0x52 h imm)
  | .frnd h imm => some (packWord 0x53 h imm)
  | .fclass h imm => some (packWord 0x54 h imm)
  | .rsum h imm => some (packWord 0x60 h imm)
  | .rmax h imm => some (packWord 0x61 h imm)
  | .rmin h imm => some (packWord 0x62 h imm)
  | .scan h imm => some (packWord 0x63 h imm)
  | .perm h imm => some (packWord 0x64 h imm)
  | .bcast h imm => some (packWord 0x65 h imm)
  | .slice h imm => some (packWord 0x66 h imm)
  | .cat h imm => some (packWord 0x67 h imm)
  | .split h imm => some (packWord 0x68 h imm)
  | .compr h imm => some (packWord 0x69 h imm)
  | .expd h imm => some (packWord 0x6A h imm)
  | .argmax h imm => some (packWord 0x6B h imm)
  | .topk h imm => some (packWord 0x6C h imm)
  | .maxrs h imm => some (packWord 0x6D h imm)
  | .cvt h imm => some (packWord 0x70 h imm)
  | .cvts h imm => some (packWord 0x71 h imm)
  | .qnt h imm => some (packWord 0x72 h imm)
  | .dqnt h imm => some (packWord 0x73 h imm)
  | .pack h imm => some (packWord 0x74 h imm)
  | .unpk h imm => some (packWord 0x75 h imm)
  | .mcfg h x => some (packWord 0x80 h x.encode)
  | .mldb h x => some (packWord 0x81 h x.encode)
  | .mswp h x => some (packWord 0x82 h x.encode)
  | .mrow h x => some (packWord 0x83 h x.encode)
  | .mrowa h x => some (packWord 0x84 h x.encode)
  | .mblk h x => some (packWord 0x85 h x.encode)
  | .msca h x => some (packWord 0x86 h x.encode)
  | .mzero h x => some (packWord 0x87 h x.encode)
  | .mdrn h x => some (packWord 0x88 h x.encode)
  | .ldt h x => some (packWord 0x90 h x.encode)
  | .stt h x => some (packWord 0x91 h x.encode)
  | .lds h x => some (packWord 0x92 h x.encode)
  | .sts h x => some (packWord 0x93 h x.encode)
  | .agen h x => some (packWord 0x94 h x.encode)
  | .gath h x => some (packWord 0x95 h x.encode)
  | .scat h x => some (packWord 0x96 h x.encode)
  | .waita h x => some (packWord 0x97 h x.encode)
  | .arrv h x => some (packWord 0x98 h x.encode)
  | .fence h x => some (packWord 0x99 h x.encode)
  | .xfence h x => some (packWord 0x9A h x.encode)
  | .ldv h x => some (packWord 0xA0 h x.encode)
  | .stv h x => some (packWord 0xA1 h x.encode)
  | .ldvs h x => some (packWord 0xA2 h x.encode)
  | .stvs h x => some (packWord 0xA3 h x.encode)
  | .pfv h x => some (packWord 0xA4 h x.encode)
  | .amo h x => some (packWord 0xA8 h x.encode)
  | .amor h x => some (packWord 0xA9 h x.encode)
  | .red h x => some (packWord 0xAA h x.encode)
  | .bin h x => some (packWord 0xAB h x.encode)
  | .binf h x => some (packWord 0xAC h x.encode)
  | .send h x => some (packWord 0xB0 h x.encode)
  | .cpy h x => some (packWord 0xB1 h x.encode)
  | .cpys h x => some (packWord 0xB2 h x.encode)
  | .cpyf h x => some (packWord 0xB3 h x.encode)
  | .cpyc h x => some (packWord 0xB4 h x.encode)
  | .sbw h x => some (packWord 0xB5 h x.encode)
  | .snap h x => some (packWord 0xB6 h x.encode)
  | .cmbc h x => some (packWord 0xB7 h x.encode)
  | .cmba h x => some (packWord 0xB8 h x.encode)
  | .cmbi h x => some (packWord 0xB9 h x.encode)
  | .cmbr h x => some (packWord 0xBA h x.encode)
  | .syno h x => some (packWord 0xBB h x.encode)
  | .synq h x => some (packWord 0xBC h x.encode)
  | .bmod h x => some (packWord 0xC0 h x.encode)
  | .cgex h x => some (packWord 0xC1 h x.encode)
  | .cflp h x => some (packWord 0xC2 h x.encode)
  | .ctrn h x => some (packWord 0xC3 h x.encode)
  | .blkw h x => some (packWord 0xC4 h x.encode)
  | .drift h x => some (packWord 0xC5 h x.encode)
  | .cdmc h x => some (packWord 0xC6 h x.encode)
  | .cdip h x => some (packWord 0xC7 h x.encode)
  | .waitf h x => some (packWord 0xD0 h x.encode)
  | .front h x => some (packWord 0xD1 h x.encode)
  | .launch h imm => some (packWord 0xD8 h imm)
  | .join h imm => some (packWord 0xD9 h imm)
  | .isect h imm => some (packWord 0xE0 h imm)
  | .union h imm => some (packWord 0xE1 h imm)
  | .part h imm => some (packWord 0xE2 h imm)
  | .trap h x => some (packWord 0xF0 h x.encode)
  | .brk h x => some (packWord 0xF1 h x.encode)
  | .rdcr h x => some (packWord 0xF2 h x.encode)
  | .wrcr h x => some (packWord 0xF3 h x.encode)
  | .perf h x => some (packWord 0xF4 h x.encode)
  | .svc h x => some (packWord 0xF5 h x.encode)
  | _ => none

/-- An R-type word of opcode custom-0 with funct7 zero (R418). -/
def packCore (f3 : BitVec 3) (rd rs1 rs2 : BitVec 5) : BitVec 32 :=
  (0 : BitVec 7) ++ rs2 ++ rs1 ++ f3 ++ rd ++ (0x0B : BitVec 7)

/-- The 32-bit word of an Xdmx instruction (R418, R419); the other rows have none. -/
def encodeCore : Instr → Option (BitVec 32)
  | .dmxCmd rd rs1 rs2 => some (packCore 0 rd rs1 rs2)
  | .dmxFence rd rs1 rs2 => some (packCore 1 rd rs1 rs2)
  | .dmxTake rd rs1 rs2 => some (packCore 2 rd rs1 rs2)
  | .dmxGive rd rs1 rs2 => some (packCore 3 rd rs1 rs2)
  | .dmxResume rd rs1 rs2 => some (packCore 4 rd rs1 rs2)
  | .dmxFrz rd rs1 rs2 => some (packCore 5 rd rs1 rs2)
  | .dmxClaim rd rs1 rs2 => some (packCore 6 rd rs1 rs2)
  | .dmxWatch rd rs1 rs2 => some (packCore 7 rd rs1 rs2)
  | _ => none

/-- The bytes of an instruction as the device stores them; commands and events have none. -/
def encode (i : Instr) : Option (List Byte) :=
  match encodeWord i, encodeCore i with
  | some w, _ => some (leBytes 8 w.toNat)
  | none, some w => some (leBytes 4 w.toNat)
  | none, none => none

end Sys2Proof
end

