-- ==== Sys2Proof/Machine/State.lean ====
section
/-! DEFINITION. Everything the spec gives the machine, as plain data, and the machine right after reset.
Maps are lists of (key, value) pairs; an absent key reads as the stated default. -/

namespace Sys2Proof.Machine

/-- A map from numbers to values, keys strictly rising. -/
abbrev SMap (α : Type) := List (Nat × α)

/-- Bytes of one address space: keys strictly rising, no entry 0; an unlisted byte reads 0 (log 4). -/
abbrev Memory := List Host.Cell

/-! ### Tokens (R164 to R168) -/

/-- Token kinds (R165). -/
inductive Kind where
  | data | pulse | coord | eof | eos | count
  deriving DecidableEq, Repr, Inhabited

/-- A token (R164). The payload has 8, 16, 32, 64, 128 or 256 bytes, which gives SIZE (R165); an end-of-fibre
token holds its level in bits [2:0] of byte 0 (R167). -/
structure Token where
  sport : BitVec 12
  seq   : BitVec 16
  kind  : Kind
  type  : Elem
  time  : Time
  data  : List Byte
  /-- its payload failed a parity check (R433): whoever consumes it holds (R397) -/
  bad   : Bool := false
  /-- the counters of the generator that made each of its addresses, and what its value was made from (R154) -/
  gen   : List (List Nat) := []
  deriving DecidableEq, Repr, Inhabited

/-- A token on its way to a target, before its producer's SPORT and SEQ are put on it (R166). -/
structure Out where
  tgt  : Target
  kind : Kind
  type : Elem
  time : Time
  data : List Byte
  deriving DecidableEq, Repr, Inhabited

/-! ### Faults (R391, R392) -/

/-- Fault classes, with the codes of R392 in order from 1. -/
inductive FClass where
  | range | perm | migrating | notpresent | discarded | revoked | ragged | align | timeout | uncorr
  | timewrap | softtrap | brk | loadchk | undrained | launchovf
  deriving DecidableEq, Repr, Inhabited

/-- Dispositions (R396), with the codes of R391. -/
inductive Disp where
  | retry | skip | abort
  deriving DecidableEq, Repr, Inhabited

/-- What a record's hold stands on: the model's own pointer from the record to the held operation. -/
inductive Link where
  | none
  | slot (tile : Nat) (slot : Nat)
  | agen (tile : Nat) (ctx : Nat)
  | elem (req : Nat) (index : Nat)
  | strm (mt : Nat) (ctx : Nat)
  | msg (id : Nat)
  | stream (res : Nat) (bind : Nat) (sigma : Nat)
  | request (id : Nat)
  | dreq (id : Nat)
  deriving DecidableEq, Repr, Inhabited

/-- The places of a fault record (R391). -/
inductive Place where
  | at | mt | pt | lt | lane | dispatcher | loader | snapshot
  deriving DecidableEq, Repr, Inhabited

/-- A fault record (R391); GEN is at most ten words, absent ones 0. `fid` is 0 until the record enters the
controller's table (R393). -/
structure FRec where
  cls   : FClass
  fflg  : Nat := 0
  asid  : Nat := 0
  fid   : Nat := 0
  rid   : Nat := 0
  place : Place
  die   : Nat := 0
  qx    : Nat := 0
  qy    : Nat := 0
  tile  : Nat := 0
  slot  : Nat := 0xFF
  lane  : Nat := 0xFF
  disp  : Option Disp := none
  stat  : Nat := 0
  time  : Time := 0
  addr  : W64 := 0
  gen   : List Nat := []
  hkind : Nat := 0
  hdie  : Nat := 0
  hunit : Nat := 0
  link  : Link := .none
  /-- the descriptor that R129 adds to a copy's record; the image of R391 has no field for it (log 18) -/
  desc  : List W64 := []
  deriving DecidableEq, Repr, Inhabited

/-- What SKIP does to a held slot beside consuming its tokens: where not `none`, the tokens stay and the slot is evaluated
again, but for `discard` (R248, R249). -/
inductive SkipFx where
  | none
  /-- ISECT, UNION: lane of a position's head becomes padding -/
  | lane (pos lane : Nat)
  /-- PART: the row counts as empty -/
  | row (i : Nat)
  /-- PART: the buffer is discarded and only the marker will be sent -/
  | discard
  /-- MLDB, MROWA: evaluated again with zeros in place of what could not be read (R255, R258) -/
  | subst
  /-- evaluated again with zeros for the bad word at this byte of what it reads (R397) -/
  | word (byte : Nat)
  /-- the bad token of a position is taken with a payload of zero bytes (R397) -/
  | clean (pos : Nat)
  deriving DecidableEq, Repr, Inhabited

/-- A hold of a slot (R186, R391): what each disposition does at the slot. `onRetry` absent: the firing is
evaluated again. The matched tokens stay in place until then and are consumed with `onSkip` or `onAbort`. -/
structure SlotHold where
  cls     : FClass
  time    : Time
  onRetry : Option (List Out) := none
  onSkip  : List Out := []
  onAbort : List Out := []
  skipFx  : SkipFx := .none
  deriving DecidableEq, Repr, Inhabited

/-! ### The arithmetic tile -/

/-- An instruction bank (R43): the block image's words (R38) and the valid mark. -/
structure Bank where
  valid : Bool := false
  words : List W64 := []
  deriving DecidableEq, Repr, Inhabited

/-- A registration of WAITF (R341): the probe and scope, and the times released so far. -/
structure WaitF where
  time  : Time
  prb   : Nat
  scp   : Nat
  /-- `none` while the tracker has not released; `some none` released with an empty frontier; `some (some f)`
  released with frontier f. -/
  freed : Option (Option Time) := none
  deriving DecidableEq, Repr, Inhabited

/-- State a slot keeps beside its tokens (R187, R188, R245, R247, R249, R177). -/
structure Slot where
  /-- generator in progress at this time (CNT, REPEAT) -/
  gen    : Option Time := none
  index  : Nat := 0
  tokIdx : Nat := 0
  /-- the four `.st` counters -/
  st     : List Nat := [0, 0, 0, 0]
  /-- ISECT and UNION cursors and last coordinates -/
  curL   : Nat := 0
  curR   : Nat := 0
  lastL  : Option Nat := none
  lastR  : Option Nat := none
  /-- PART's buffered pointers -/
  part   : List Nat := []
  /-- rows that SKIP made empty, and whether SKIP discarded the buffer (R249) -/
  pskip  : List Nat := []
  pbad   : Bool := false
  /-- SKIP of a read: the firing at this time reads zeros where it cannot read (R255, R258) -/
  subst  : Option Time := none
  /-- of such a SKIP that ended an UNCORR hold: the byte of the bad word within what is read (R397) -/
  sword  : Option Nat := none
  aging  : Nat := 0
  aged   : Bool := false
  hold   : Option SlotHold := none
  wait   : Option WaitF := none
  /-- messages of this instruction that a unit refused and holds (R128) -/
  msgs   : List Nat := []
  /-- results of PART's last firing that are still to go out, one list a cycle, and the firing's SEQ (R219, R249) -/
  owed   : List (List Out) := []
  owedSeq : BitVec 16 := 0
  deriving DecidableEq, Repr, Inhabited

/-- An entry of the capability table (R190). -/
structure Cap where
  loc   : Nat
  time  : Time
  count : Nat
  deriving DecidableEq, Repr, Inhabited

/-- A RESIZE in progress (R192): the edge, the new depth, where and when the pulses go, and whether the new depth stands,
so that the pulses alone are owed. -/
structure Resizing where
  edge  : Nat
  depth : Nat
  slot  : Nat
  time  : Time
  seq   : BitVec 16
  done  : Bool := false
  deriving DecidableEq, Repr, Inhabited

/-- An address-generator context (R151 to R154). `at` is the point of the walk: the counters of an affine walk
(innermost first), or row i and element j with the row's pointers of a ragged one. -/
structure Agen where
  slot    : Nat
  time    : Time
  base    : Nat
  off     : Nat
  words   : List W64
  idx     : List Nat := []
  row     : Nat := 0
  elem    : Nat := 0
  ptrs    : Option (Nat × Nat) := none
  /-- lanes of the pending token, and the counters of each -/
  pend    : List Nat := []
  pendGen : List (List Nat) := []
  /-- tokens composed and not yet taken by the target, each with the counters of its addresses -/
  outq    : List (Out × List (List Nat)) := []
  /-- the walk is over: the context frees when outq is sent -/
  walked  : Bool := false
  held    : Bool := false
  seq     : BitVec 16 := 0
  /-- the address of a pointer word that was found bad; SKIP has it read as zero (R397) -/
  word    : Option Nat := none
  deriving DecidableEq, Repr, Inhabited

/-- The open configuration of a matrix node (R262). -/
structure MCfg where
  slot : Nat
  sh   : Elem
  time : Time
  seq  : BitVec 16
  outs : List Out
  qinc : Bool
  eofl : Nat
  k    : Nat
  n    : Nat
  m    : Nat
  /-- rows that fired under it -/
  used : Nat := 0
  /-- rows that sent their result, pulse or filled their set -/
  fin  : Nat := 0
  deriving DecidableEq, Repr, Inhabited

/-- What an operation of the node does when its result comes; Q writes keep the order of R260. -/
inductive NodeOp where
  /-- a float row with ACC 1: Q row and the lanes that are present (R259) -/
  | acc (q : Nat) (v : List (Option Nat))
  /-- an integer row with ACC 1 (R214) -/
  | iacc (q : Nat) (v : List (Option Int))
  /-- MBLK: set, products of block b and column n at 64b + n -/
  | blk (set : Nat) (p : List (Option Nat))
  /-- MSCA: Q row where ACC is 1, per block the two scale bytes, products -/
  | sca (q : Option Nat) (scales : List (Nat × Nat)) (p : List (Option Nat))
  /-- MZERO: first row and count -/
  | zero (q : Nat) (c : Nat)
  /-- a row with ACC 0 or a marker: nothing but what it sends -/
  | pass
  deriving DecidableEq, Repr, Inhabited

/-- The pipes of R176. -/
inductive Pipe where
  | vec | mem | row | oth
  deriving DecidableEq, Repr, Inhabited

/-- An operation of a node between its firing and its result. -/
structure InFlight where
  slot  : Nat
  time  : Time
  pipe  : Pipe
  seq   : BitVec 16
  op    : NodeOp
  outs  : List Out
  /-- governed by the open configuration (R262) -/
  cfg   : Bool := false
  row   : Bool := false
  /-- a marker: no row, whatever it waits for (R261) -/
  mark  : Bool := false
  deriving DecidableEq, Repr, Inhabited

/-- What a finished operation of a node, a load or a configuration still sends. -/
structure NodeOut where
  slot  : Nat
  time  : Time
  pipe  : Pipe
  seq   : BitVec 16
  outs  : List Out
  /-- a row or a marker of rows: it goes behind the rows before it (R261) -/
  row   : Bool := false
  /-- counts for the open configuration when it is sent (R262) -/
  cfg   : Bool := false
  /-- a result that MDRN waits for (R267) -/
  data  : Bool := false
  /-- the completion of the open configuration, which closes with it -/
  close : Bool := false
  deriving DecidableEq, Repr, Inhabited

/-- An MLDB in progress (R255): destination nodes, bank, special store or not, the source bytes read so far; the tile of the W buffer,
where the source begins there, how many bytes are still to be read, the element type and order, and the word that SKIP made zero. -/
structure MLoad where
  slot  : Nat
  time  : Time
  seq   : BitVec 16
  dest  : List Nat
  bank  : Nat
  sp    : Bool
  bytes : List Byte
  outs  : List Out
  src   : Nat := 0
  off   : Nat := 0
  left  : Nat := 0
  sh    : Elem := .b64
  trn   : Bool := false
  sword : Option Nat := none
  deriving DecidableEq, Repr, Inhabited

/-- A partial set of the SCA stage (R250): products of block b and column n at 64b + n; absent ones `none`. -/
structure PSet where
  valid   : Bool := false
  filling : Bool := false
  time    : Time := 0
  p       : List (Option Nat) := []
  deriving DecidableEq, Repr, Inhabited

/-- A matrix node (R250, R269). -/
structure Node where
  bank0   : Memory := []
  bank1   : Memory := []
  sp0     : Memory := []
  sp1     : Memory := []
  cur     : Bool := false
  cfg     : Option MCfg := none
  flight  : List InFlight := []
  outq    : List NodeOut := []
  sets    : SMap PSet := []
  loads   : List MLoad := []
  grant   : Bool := false
  /-- cycle in which the node began filling -/
  filling : Option Nat := none
  deriving DecidableEq, Repr, Inhabited

/-- Bytes of a typed buffer that were written in this cycle: what stood there before the cycle, and by which writer, the lower
priority having the greater number (R144). -/
structure Fresh where
  buf  : Nat
  addr : Nat
  prio : Nat
  old  : List Byte
  deriving DecidableEq, Repr, Inhabited

/-- An arithmetic tile. Edges are numbered slot * 3 + position (0 L, 1 R, 2 P) and 384 + channel. -/
structure AT where
  active   : Bank := {}
  inactive : Bank := {}
  /-- residency whose configuration the active bank holds, and the one being loaded -/
  res      : Option Nat := none
  next     : Option Nat := none
  pos      : SMap (List Token) := []
  chan     : SMap (List Token) := []
  /-- by edge: how many of its last tokens came in this cycle, and the times of those that left it in this cycle; decisions read
  the state at the start of the cycle (R173) -/
  newIn    : SMap Nat := []
  gone     : SMap (List Time) := []
  depth    : SMap Nat := []
  resizing : List Resizing := []
  slots    : SMap Slot := []
  /-- static depth of each slot's firing (R170), computed by the loader -/
  sdepth   : SMap Nat := []
  /-- progress location of each edge plus one (R325), computed by the loader -/
  cover    : SMap Nat := []
  seqs     : SMap Nat := []
  caps     : List Cap := []
  exd      : Nat := 0
  rlx      : Nat := 0
  mkd      : Nat := 0
  exited   : Bool := false
  sb       : SMap Nat := []
  agens    : SMap Agen := []
  /-- cycle plus one of each pipe's last firing (R176): 0 vector, 1 memory/engine, 2 row, 3 matrix other -/
  fired    : SMap Nat := []
  w        : Memory := []
  a        : Memory := []
  q        : Memory := []
  /-- the cycle plus one of what follows: this cycle's writes to the buffers (R144), and the bytes that each of their six ports
  has moved (R142, R143): twice the buffer's number, one more for the write port -/
  freshAt  : Nat := 0
  fresh    : List Fresh := []
  ports    : SMap Nat := []
  /-- cycle plus one of the generators' last token, and which context sent it (R151) -/
  agenAt   : Nat := 0
  agenLast : Nat := 0
  node     : Node := {}
  detseed  : W64 := 0
  faultst  : W64 := 0
  faultad  : W64 := 0
  dbgctl   : W64 := 1
  perfsel  : SMap W64 := []
  perfcnt  : SMap W64 := []
  driftLim : W64 := 0x18
  driftCost : W64 := 0x2321343223211210
  user     : SMap W64 := []
  /-- the cycle after which a syntax delivery last waited for the write port of A behind a copy engine (R143) -/
  synAsk : Nat := 0
  /-- quad-local index of the node that the read port of W, and that of A, last served (R143, R251) -/
  wLast : Nat := 2
  aLast : Nat := 2
  /-- set only while it is asked whether R174 alone refuses a token; in the machine's own states false (R416) -/
  lax : Bool := false
  deriving DecidableEq, Repr, Inhabited

/-! ### Memory requests (R105, R107, R109, R146 to R148) -/

/-- Space of an element's address: virtual, region scratchpad, or a typed buffer of a tile (0 W, 1 A, 2 Q). -/
inductive Space where
  | virt
  | scr
  | buf (tile : Nat) (b : Nat)
  deriving DecidableEq, Repr, Inhabited

/-- Where an element of a request stands. -/
inductive ESt where
  /-- at its ingress PT, not yet translated -/
  | new
  /-- waits for the range table (R97) -/
  | fetch
  /-- waits for the entry of a table at this level and address (R99) -/
  | walk (level : Nat) (table : Nat)
  /-- waits for an ATS completion (R101) -/
  | ats
  /-- on its way to a bank queue, or, of an engine's, not yet issued (R122, R147) -/
  | mesh
  /-- at its home, not yet performed -/
  | home
  /-- held by a fault (R105) -/
  | held (cls : FClass)
  /-- accepted into a commit or deterministic buffer (R157, R374) -/
  | accepted
  /-- held for a snapshot page (R407) -/
  | paged
  /-- a waiter of R161, registered at the owner node -/
  | wait
  | done
  deriving DecidableEq, Repr, Inhabited

/-- An element of a request: at most 256 bytes within one 256-byte line. `pa` is the physical address once it is
translated; `data` is what a store or update brings, or what a load has read; `keep` marks the bytes a store writes
(empty: all); `posn` is the place in a copy's payload; `words` lists the 64-byte words performed; `aux` holds BIN's
entry, the places of a copy's bytes, and the bad word of a time-committed load. -/
structure Elt where
  lane  : Nat := 0
  space : Space
  addr  : Nat
  n     : Nat
  data  : List Byte := []
  keep  : List Bool := []
  posn  : Nat := 0
  aux   : List Nat := []
  st    : ESt := .new
  pa    : Nat := 0
  words : List Nat := []
  useq  : Option Nat := none
  /-- watch slots whose word a translated write covers, each with that word's VA (R382) -/
  marks : List (Nat × Nat) := []
  /-- a page of a snapshot held it and has released it (R407) -/
  rel   : Bool := false
  /-- the answer to an update was lost on its way (R354, R370) -/
  lost  : Bool := false
  /-- its translation met an uncorrectable table entry (R433) -/
  tbl   : Bool := false
  dropped : Bool := false
  /-- arrival number at its MT (R146) -/
  arr   : Nat := 0
  /-- bytes that a copy delivers with it (R126) -/
  cnt   : Nat := 0
  /-- RETRY of a REVOKED hold: the host is asked again (R104) -/
  again : Bool := false
  deriving DecidableEq, Repr, Inhabited

/-- What a request does at its home. The number of `amo` and `scat` is the operation of R364 (0 add, 1 min, 2 max,
3 and, 4 or, 5 xor, 6 fadd, 7 fmax, 8 store), of `amor` MD of R362. -/
inductive ROp where
  | load | store | loadTc | storeTc | prefetch
  | amo (k : Nat) | amor (k : Nat) | scat (k : Nat)
  | arrv (reset : Bool) | waita (clr : Bool)
  | bin | binf
  /-- an end marker that keeps its place among the answers of its slot (R148, R178) -/
  | mark (rank : Nat)
  /-- FENCE or XFENCE: passes its L token, of this kind, once earlier accesses of these classes are performed; `tl`: at the tile -/
  | fence (classes : List Nat) (tl : Bool) (kind : Kind)
  deriving DecidableEq, Repr, Inhabited

/-- Who issued a request. Roles of an engine's requests: 0 reads, 1 writes, 2 flag; `part` is a stream's tile. -/
inductive Origin where
  | slot (tile : Nat) (slot : Nat)
  | engine (mt : Nat) (ctx : Nat) (strm : Bool) (part : Nat) (role : Nat)
  | syn (res : Nat) (bind : Nat) (sigma : Nat)
  | snap (page : Nat) (role : Nat)
  deriving DecidableEq, Repr, Inhabited

/-- An outstanding request. `size` is the result's size; `loc` the progress location and time it counts at (R324,
R373); `gen` the AGEN counters of its addresses, by lane (R154); `cmp` the P operand of `cas`. -/
structure Req where
  h     : Nat
  org   : Origin
  op    : ROp
  type  : Elem := .b64
  time  : Time := 0
  pipe  : Pipe := .mem
  seq   : BitVec 16 := 0
  size  : Nat := 8
  t0    : Target := .none
  t1    : Target := .none
  elts  : List Elt := []
  loc   : Option Nat := none
  gen   : List (List Nat) := []
  cmp   : List Byte := []
  /-- its elements are lanes of one instruction: a record names the lane (R110, R158, R159, R368) -/
  lanes : Bool := false
  /-- it stands behind a held request of its stream (R105) -/
  queued : Bool := false
  /-- BINF: 0 takes the bin, 1 applies its updates, 2 frees it; its count -/
  stage : Nat := 0
  cnt   : Nat := 0
  /-- end-to-end attempts and the cycle of the last (R370) -/
  tries : Nat := 1
  since : Nat := 0
  /-- behind-compute class (R135) -/
  bc    : Bool := false
  /-- ABORT was applied: only end-of-stream is still to be sent -/
  dead  : Bool := false
  deriving DecidableEq, Repr, Inhabited

/-- An entry of a commit buffer or of a deterministic buffer: a committed store's word, or the update of a word of a
request's element (R157, R346, R374). -/
structure CEnt where
  h     : Nat
  time  : Time
  sport : BitVec 12
  slot  : Nat
  seq   : BitVec 16
  lane  : Nat := 0
  off   : Nat := 0
  data  : List Byte := []
  upd   : Option (Nat × Nat × Nat) := none
  deriving DecidableEq, Repr, Inhabited

/-- The exactly-once window of a source port at an owner: at sequence mod 64, the sequence and the old value (R370). -/
structure Window where
  newest  : Nat := 0
  entries : SMap (Nat × List Byte) := []
  deriving DecidableEq, Repr, Inhabited

/-- What a home keeps beside its memory: windows by source port (R371), and a PT's or LT's deterministic buffer. -/
structure Home where
  windows  : SMap Window := []
  det      : List CEnt := []
  /-- the number of updates that have come to a PT's or LT's owner node -/
  arrivals : Nat := 0
  /-- one more than the cycle in which the owner node last applied an update (R360) -/
  upAt     : Nat := 0
  deriving DecidableEq, Repr, Inhabited

/-- Behind-compute grants of a PT or of the LT of a home (R135): the window of 1,024 cycles, its grants, and since which cycle
requests of the class wait without one. -/
structure Bc where
  win  : Nat := 0
  cnt  : Nat := 0
  wait : Option Nat := none
  deriving DecidableEq, Repr, Inhabited

/-- A byte of the scratchpad before a committed store replaced it (R355): residency, offset, the store's time, the byte. -/
structure Past where
  h    : Nat
  off  : Nat
  time : Nat
  old  : Byte
  deriving DecidableEq, Repr, Inhabited

/-! ### Messages and engines (R114 to R134) -/

/-- Who sent a message, and where its replies go: an AT slot, or a service core's command. -/
inductive From where
  | slot (tile : Nat) (slot : Nat)
  | core (core : Nat) (cmd : Nat)
  deriving DecidableEq, Repr, Inhabited

/-- An active message (R114); `mseq` is the header's SEQ. `dsc` is the byte of A from which RETRY reads the descriptor again and `lpay` the payload
that adjusts it (R118, R129); `past` says that the descriptor ran past the A buffer. -/
structure Msg where
  id    : Nat
  amop  : Nat
  h     : Nat
  asid  : Nat
  src   : From
  time  : Time := 0
  pipe  : Pipe := .mem
  seq   : BitVec 16 := 0
  t0    : Target := .none
  t1    : Target := .none
  sb    : Nat := 0
  arv   : Bool := false
  flg   : Bool := false
  bc    : Bool := false
  count : Nat := 0
  snum  : Nat := 0
  body  : List W64 := []
  dsc   : Nat := 0
  lpay  : List Byte := []
  rpay  : List Byte := []
  past  : Bool := false
  loc   : Option Nat := none
  /-- SKIP of a descriptor error was applied (R129) -/
  skip  : Bool := false
  mseq  : Nat := 0
  deriving DecidableEq, Repr, Inhabited

/-- A message whose check failed, at the unit of an MT or at a syntax binding (R128, R297, R316). -/
structure Held where
  msg : Msg
  mt  : Nat
  deriving DecidableEq, Repr, Inhabited

/-- A copy context (R120, R125): its read, write and flag requests, and the AT of its scoreboard. -/
structure Copy where
  msg  : Msg
  mgen : Bool := false
  sbt  : Option Nat := none
  rd   : Option Nat := none
  wr   : Option Nat := none
  fl   : Option Nat := none
  flagged : Bool := false
  failed  : Bool := false
  /-- step 4 of R125 is done: the scoreboard has fallen -/
  dec     : Bool := false
  deriving DecidableEq, Repr, Inhabited

/-- A stream context (R132, R133): credits, the next tile, tiles delivered, tiles in progress with their requests, and
CPYC messages that wait for the close. -/
structure Strm where
  msg     : Msg
  credits : Nat
  next    : Nat := 0
  sent    : Nat := 0
  tiles   : List (Nat × Nat × Nat) := []
  closing : Bool := false
  closers : List Msg := []
  held    : Bool := false
  failed  : Bool := false
  deriving DecidableEq, Repr, Inhabited

/-- A burst's arrival subtraction on its way (R126). -/
structure ArrSub where
  h    : Nat
  off  : Nat
  n    : Nat
  mt   : Nat
  ctx  : Nat
  strm : Bool
  part : Nat
  deriving DecidableEq, Repr, Inhabited

/-- A combine unit (R312 to R323). Head and slots stand in the scratchpad; here is what the unit keeps beside them. -/
structure Cmb where
  h       : Nat
  base    : Nat
  ret     : Nat
  det     : Bool
  /-- footprint of the declared configuration -/
  foot    : Nat
  waiting : Option Msg := none
  allocq  : List Msg := []
  recv    : Option (Nat × Nat × Target × Target) := none
  /-- slots in allocation order, and in the order of completion -/
  order   : List Nat := []
  ready   : List Nat := []
  markers : List Msg := []
  /-- live REMC of each open slot (R321) -/
  live    : SMap Nat := []
  /-- chunks received of each slot: entry (16 the shared row) and chunk -/
  got     : SMap (List (Nat × Nat)) := []
  /-- the slot whose release is in progress, and its next chunk -/
  rel     : Option (Nat × Nat) := none
  /-- the combine location's pointstamps: location of the unit -/
  loc     : Option Nat := none
  deriving DecidableEq, Repr, Inhabited

/-! ### Syntax engines (R277 to R284) -/

/-- A stream of a syntax binding: its VOPEN, state (0 waits for a lane, 1 parses or delivers, 2 ended), credits, pictures
delivered, bytes read, the read on its way, the status under which it ends, and closes that wait. -/
structure VStream where
  msg     : Msg
  state   : Nat := 0
  credits : Nat
  sent    : Nat := 0
  got     : List Byte := []
  read    : Option Nat := none
  closing : Bool := false
  status  : Option Nat := none
  closers : List Msg := []
  held    : Bool := false
  failed  : Bool := false
  /-- where the parse begins: byte offset, number of its first picture, frames shown before it (R284) -/
  off     : Nat := 0
  base    : Nat := 0
  shown   : Nat := 0
  /-- pictures below this number have a place in the output store of `engine`, or were delivered (R278) -/
  kept    : Nat := 0
  engine  : Nat := 0
  /-- lanes that parse it, and the picture for which those beyond the first were chosen (R279) -/
  lanes    : List Nat := []
  lanesFor : Option Nat := none
  /-- a read that held at a freeze, for the lane that reaches its address again (R284) -/
  later   : Option Nat := none
  /-- bytes of the next picture's image that the delivery has written so far (R143, R280) -/
  put    : Nat := 0
  deriving DecidableEq, Repr, Inhabited

/-- A syntax binding: its messages, the next submission sequence, its streams, the lanes of its die that it has (R277). -/
structure Syn where
  queue   : List Msg := []
  next    : Nat := 0
  streams : SMap VStream := []
  lanes   : List Nat := []
  deriving DecidableEq, Repr, Inhabited

/-! ### The memory tile -/

/-- A memory tile (R145): its banks' 1 MiB in line order, commit buffer, waiters by request (R161), the copy engine's
inbox (its first 16 entries; further ones wait in the mesh), set-aside queues and contexts, CPYCs whose stream has closed and
whose pulse is not yet sent, the combine unit and its messages. Of the banks: requests that have arrived (R146), the cycle plus one
in which each bank last performed a word, and what committed stores replaced (R355). -/
structure MT where
  scr    : Memory := []
  commit : List CEnt := []
  waiters : List Nat := []
  inbox  : List Msg := []
  asideC : List Msg := []
  asideS : List Msg := []
  closed : List Msg := []
  cctx   : SMap Copy := []
  sctx   : SMap Strm := []
  cmb    : Option Cmb := none
  cin    : List Msg := []
  /-- deliveries of the tile's engines (R166) -/
  seq    : Nat := 0
  arrivals : Nat := 0
  bankAt : SMap Nat := []
  past   : List Past := []
  deriving DecidableEq, Repr, Inhabited

/-- A user of scratchpad banks beside the requests (R146): an arrival subtraction, the commit buffer and the owner node of an MT, a
backing queue, a combine unit, a generator's pointer read, a syntax delivery. -/
inductive UnitId where
  | sub (work : Nat)
  | commit (mt : Nat)
  | det (mt : Nat)
  | backq (h : Nat) (q : Nat) (out : Bool)
  | cmb (mt : Nat) (op : Nat)
  | agen (tile : Nat) (ctx : Nat)
  | syn (key : Nat)
  deriving DecidableEq, Repr, Inhabited

/-- A place in bank queues that a unit's access took when it first had to wait: the cycle in which it last tried, and its arrival number in
each bank, named by 16 times its MT plus its number (R146). -/
structure Ticket where
  unit  : UnitId
  cycle : Nat
  banks : List (Nat × Nat)
  deriving DecidableEq, Repr, Inhabited

/-! ### Snapshot (R405 to R410) -/

/-- A page of a snapshot: source and destination page; whether it is pending, and whether its copy has begun. -/
structure SnapPage where
  src     : Nat
  dst     : Nat
  pending : Bool := true
  copying : Bool := false
  deriving DecidableEq, Repr, Inhabited

/-- The running snapshot: its message, cut, probe, scope, pages, and whether every home has marked and the cut has
passed. -/
structure Snap where
  msg    : Msg
  cut    : Time
  prb    : Nat
  scp    : Nat
  pages  : List SnapPage
  marked : Bool := false
  passed : Bool := false
  deriving DecidableEq, Repr, Inhabited

/-! ### Residencies (R62 to R86, R378) -/

/-- A progress location (R79). Quad and tile are region-relative. -/
inductive Loc where
  | pos (qx qy t slot pos : Nat)
  | chan (qx qy t c : Nat)
  | copy (qx qy : Nat)
  | cmb (qx qy : Nat)
  | owner (qx qy : Nat)
  | cap (qx qy t k : Nat)
  | detPend
  | syn (bind : Nat)
  /-- the part of an engine place (0 copy engine, 1 combine unit, 2 pending updates) that work of one static depth passes; no
  file names it (log 25) -/
  | hub (kind qx qy depth : Nat)
  deriving DecidableEq, Repr, Inhabited

/-- A path summary (R331). -/
structure Summary where
  p : Nat
  d : Nat
  q : Nat
  deriving DecidableEq, Repr, Inhabited

/-- A probe (R79). -/
structure Probe where
  num : Nat
  out : Bool
  tcp : Bool
  loc : Nat
  deriving DecidableEq, Repr, Inhabited

/-- Kinds of a range entry (R63, R81). -/
inductive RKind where
  | direct | paged | host
  deriving DecidableEq, Repr, Inhabited

/-- A range entry (R81): length in 2 MiB units, permission bits r 0, w 1, a 2, s 3. -/
structure Range where
  va   : Nat
  len  : Nat
  kind : RKind
  perm : Nat
  pa   : Nat
  deriving DecidableEq, Repr, Inhabited

/-- A cached translation of a paged or host range (R97): page base and size in the VA, physical base, RO, DISC. -/
structure Trans where
  asid : Nat
  h    : Nat
  va   : Nat
  size : Nat
  pa   : Nat
  ro   : Bool
  disc : Bool
  host : Bool
  deriving DecidableEq, Repr, Inhabited

/-- A port tile's caches: range entries by residency, and translations (R97). -/
structure Pt where
  ranges : List (Nat × Nat × Range) := []
  trans  : List Trans := []
  deriving DecidableEq, Repr, Inhabited

/-- What the host has taken back of an ASID's host ranges (R104): from `va`, `len` bytes; a truncation keeps refusing,
a revocation refuses until the host has validated the range again. `owed` completions wait for the in-flight count. -/
structure Revoked where
  asid : Nat
  va   : Nat
  len  : Nat
  cut  : Bool
  owed : Bool
  deriving DecidableEq, Repr, Inhabited

/-- The tier-2 bytes of an expander port (R91, R429): base, length, port, and whether its link is up. -/
structure Extent where
  base : Nat
  len  : Nat
  port : Nat
  up   : Bool := true
  deriving DecidableEq, Repr, Inhabited

/-- A watch slot (R382): WATCHA, WATCHB without QCNT, and its launch queue. -/
structure Watch where
  va    : Nat := 0
  prio  : Nat := 0
  aff   : Nat := 0
  once  : Bool := false
  en    : Bool := false
  tmpl  : Nat := 0
  asid  : Nat := 0
  /-- value, template, level, affinity, ASID at the enqueueing -/
  queue : List (W64 × Nat × Nat × Nat × Nat) := []
  deriving DecidableEq, Repr, Inhabited

/-- A binding record (R81): kind 0 egress, 1 ingress, 2 syntax. -/
structure Bind where
  name  : List Byte
  kind  : Nat
  qx    : Nat
  qy    : Nat
  tile  : Nat
  slot  : Nat
  pos   : Nat
  depth : Nat
  peer  : List Byte
  codec : Nat
  lanes : Nat
  dest  : List Byte
  deriving DecidableEq, Repr, Inhabited

/-- A combine unit's declaration (R66, R81). -/
structure CmbDecl where
  qx      : Nat
  qy      : Nat
  k       : Nat
  type    : Elem
  rowlen  : Nat
  slots   : Nat
  policy  : Nat
  release : Nat
  shared  : Bool
  ret     : Nat
  tmo     : Nat
  base    : Nat
  deriving DecidableEq, Repr, Inhabited

/-- A backing-queue record (R78). -/
structure BackqDecl where
  off    : Nat
  tokens : Nat
  size   : Nat
  deriving DecidableEq, Repr, Inhabited

/-- A block of a residency (R77): quad, tile, image words. -/
structure Block where
  qx    : Nat
  qy    : Nat
  t     : Nat
  words : List W64
  deriving DecidableEq, Repr, Inhabited

/-- A typed-buffer image (R82): buffer 0 W, 1 A, 2 Q. -/
structure TbImage where
  qx   : Nat
  qy   : Nat
  t    : Nat
  buf  : Nat
  off  : Nat
  size : Nat
  image : List Byte
  deriving DecidableEq, Repr, Inhabited

/-- A scratchpad image (R82). -/
structure ScrImage where
  off  : Nat
  size : Nat
  image : List Byte
  deriving DecidableEq, Repr, Inhabited

/-- An allocation that an image record declares (R82): buffer 0 W, 1 A, 2 Q, 3 scratchpad; `name` is what a binding calls it (R65). -/
structure Alloc where
  name : List Byte
  buf  : Nat
  qx   : Nat
  qy   : Nat
  t    : Nat
  off  : Nat
  size : Nat
  deriving DecidableEq, Repr, Inhabited

/-- A launch or watch entry (R76). -/
structure LaunchEntry where
  kind  : Nat
  lpri  : Nat
  wsl   : Nat
  jn    : Nat
  val   : Nat
  waits : List (Nat × Nat × Nat)
  epb   : Nat
  deriving DecidableEq, Repr, Inhabited

/-- A residency of a checked Skein file: its sections' content. -/
structure Desc where
  name     : List Byte
  w        : Nat
  h        : Nat
  prio     : Nat
  wgt      : Nat
  det      : Bool
  tcp      : Option Nat
  seed     : W64
  shapes   : List (List Nat)
  drain    : Nat
  eqx      : Nat
  eqy      : Nat
  etl      : Nat
  esl      : Nat
  eps      : Nat
  locs     : List Loc
  probes   : List Probe
  sums     : List (Option Summary)
  ranges   : List Range
  binds    : List Bind
  combines : List CmbDecl
  backqs   : List BackqDecl
  blocks   : List Block
  tbi      : List TbImage
  scr      : List ScrImage
  launches : List LaunchEntry
  allocs   : List Alloc
  sysImage : Bool
  /-- index in the section table of each section type the residency owns (R465) -/
  secs     : SMap Nat := []
  /-- address of the checked file -/
  file     : Nat
  deriving DecidableEq, Repr, Inhabited

/-- Tokens in a backing queue (R150), oldest first; the first `stored` of them stand in the scratchpad, which holds their bytes from
then on (R445). `src` is a token larger than the queue's entries, which waits at the channel's source. -/
structure BackQ where
  head : Nat := 0
  toks : List Token := []
  stored : Nat := 0
  src  : Option Token := none
  deriving DecidableEq, Repr, Inhabited

/-- A location that the loader adds beyond the file's, with its summary to every location of the file (log 25). -/
structure Hub where
  place : Loc
  sums  : List (Option Summary)
  deriving DecidableEq, Repr, Inhabited

/-- A residency in its region: what RES and the registers of R411, R412 hold for it. -/
structure Res where
  desc    : Desc
  asid    : Nat
  tmpl    : Nat
  rid     : Nat
  die     : Nat
  x0      : Nat
  y0      : Nat
  epb     : Nat
  larg    : W64
  /-- activated and not frozen or retired: its tiles may fire -/
  running : Bool := false
  /-- cycle from which the drain limit counts (R388) -/
  since   : Nat := 0
  backq   : SMap BackQ := []
  drd     : Bool := false
  fail    : Bool := false
  xsc     : Nat := 0
  dpf     : Nat := 0
  failt   : W64 := BitVec.allOnes 64
  /-- static depth and time shape of each progress location (R170, R336), computed by the loader -/
  ldepth  : List (Nat × List Nat) := []
  /-- location of each engine place, and of the slots whose work passes a hub, computed by the loader (R325) -/
  ecover  : List (Loc × Nat) := []
  /-- locations numbered on from the file's: one for each static depth of an engine place that has several -/
  hubs    : List Hub := []
  /-- peer of each binding: residency and BND index (R64) -/
  peers   : SMap (Nat × Nat) := []
  /-- counts per location and time that the package root parks while frozen (R402) -/
  parked  : List (Nat × Time × Int) := []
  deriving DecidableEq, Repr, Inhabited

/-! ### Progress (R327 to R329) -/

/-- One change of a batch (R327): residency handle, location, time, change. -/
structure Post where
  res  : Nat
  loc  : Nat
  time : Time
  n    : Int
  deriving DecidableEq, Repr, Inhabited

/-- A count of a tracker (R328). -/
structure Count where
  res  : Nat
  loc  : Nat
  time : Time
  n    : Int
  deriving DecidableEq, Repr, Inhabited

/-- A WAITF registration at a tracker (R341). -/
structure Waiter where
  res  : Nat
  tile : Nat
  slot : Nat
  time : Time
  prb  : Nat
  deriving DecidableEq, Repr, Inhabited

/-- A tracker: exact entries, spill entries, input FIFOs of batches, waiters, registrations in the tree and
FRONT queries (R329, R341, R342). -/
structure Tracker where
  exact   : List Count := []
  spill   : List Count := []
  inq     : SMap (List (List Post)) := []
  waiters : List Waiter := []
  regq    : List Waiter := []
  queries : List Msg := []
  deriving DecidableEq, Repr, Inhabited

/-! ### The step's own bookkeeping (log 1) -/

/-- Which slot and time, or which core, the running step concerns, and whether the word that it reads is uncorrectable: at which
byte of what it reads (R397, R433; what the outside supplies, log 11). -/
structure Focus where
  tile : Nat := 0
  slot : Nat := 0
  time : Time := 0
  core : Nat := 0
  bad  : Option Nat := none
  deriving DecidableEq, Repr, Inhabited

/-- One entry of the agenda: which step comes next; `bad`: the same, at whose memory read the word at this byte is uncorrectable; an answer
to an update is lost (R370); a die corrects a single-bit or symbol error (R435). -/
inductive Act where
  | fire (tile : Nat) (pipe : Pipe)
  | core (c : Nat)
  | event (i : Instr)
  | badFire (tile : Nat) (pipe : Pipe) (byte : Nat)
  | badCore (c : Nat) (byte : Nat)
  | badEvent (i : Instr) (byte : Nat)
  | lostAnswer (req elem : Nat)
  | corrected (die : Nat)
  deriving DecidableEq, Repr, Inhabited

/-! ### The Dispatcher (R377 to R386) -/

/-- States of a task record (R379). -/
inductive TState where
  | free | waiting | ready | loading | active | draining | frozen
  deriving DecidableEq, Repr, Inhabited

/-- A task record (R378). Its index is the 13-bit residency handle of RESID. -/
structure Task where
  gen    : Nat := 0
  state  : TState := .free
  prio   : Nat := 0
  bprio  : Nat := 0
  image  : Bool := false
  pinned : Bool := false
  failed : Bool := false
  asid   : Nat := 0
  tmpl   : Nat := 0
  parent : Nat := 0xFFFFFFFF
  arg    : W64 := 0
  join   : Nat := 0
  waits  : List (Nat × Nat × Time) := []
  aff    : Nat := 0
  skips  : Nat := 0
  ready  : Nat := 0
  die    : Nat := 0
  rx     : Nat := 0
  ry     : Nat := 0
  epb    : Nat := 0
  /-- blocks whose bank is valid (R387) -/
  loaded : Nat := 0
  /-- a freeze has been accepted and is not yet scanned out: its cause (R398, R400) -/
  freezing : Option Nat := none
  /-- failed placement since the last quad freed (R384) -/
  unplaced : Bool := false
  deriving DecidableEq, Repr, Inhabited

/-- An entry of the template table (R378). -/
structure Template where
  asid : Nat
  desc : Desc
  deriving DecidableEq, Repr, Inhabited

/-- Where a launch or join comes from (R381, R390). -/
inductive LSrc where
  | msg (m : Msg)
  | watch (slot : Nat) (value : W64)
  | cmd (core : Nat) (id : Nat)
  /-- a launch entry of a file, for the residency of this index (R68) -/
  | ask (file : Nat) (index : Nat)
  | retire
  deriving DecidableEq, Repr, Inhabited

/-- A launch request (R381). -/
structure LaunchReq where
  src    : LSrc
  asid   : Nat
  tmpl   : Nat
  prio   : Nat
  aff    : Nat
  epb    : Nat
  parent : Nat
  join   : Nat
  arg    : W64
  waits  : List (Nat × Nat × Time)
  deriving DecidableEq, Repr, Inhabited

/-- A JOIN message or a retirement decrement (R390). -/
structure JoinReq where
  src  : LSrc
  asid : Nat
  set  : Bool
  id   : Nat
  n    : Nat
  deriving DecidableEq, Repr, Inhabited

/-- A request that the Dispatcher holds (R381, R390). -/
inductive DReq where
  | launch (l : LaunchReq)
  | join (j : JoinReq)
  deriving DecidableEq, Repr, Inhabited

/-- The Dispatcher: DSPCTL, the ASID weights, credits by level and ASID, pointers by level, the request queue (its first 64
are in it), JOINs, freeze requests (record index, cause), DSPST's counters, held requests. -/
structure Dsp where
  ctl     : W64 := 1
  weights : SMap Nat := []
  credits : SMap Nat := []
  ptrs    : SMap Nat := []
  launchq : List LaunchReq := []
  joinq   : List JoinReq := []
  frzq    : List (Nat × Nat) := []
  wovf    : Nat := 0
  jund    : Nat := 0
  stale   : Nat := 0
  held    : SMap DReq := []
  /-- pre-emptions in progress: victim, claimant, die, origin (R385) -/
  preempt : List (Nat × Nat × Nat × Nat × Nat) := []
  deriving DecidableEq, Repr, Inhabited

/-- The frozen state of a residency (R399 to R404): its region then, and what its tiles held. A freeze in state 3 holds no
tiles, only which blocks had begun. -/
structure Image where
  cause   : Nat
  loading : Bool := false
  loaded  : Nat := 0
  die     : Nat
  x0      : Nat
  y0      : Nat
  ats     : SMap AT := []
  mts     : SMap MT := []
  deriving DecidableEq, Repr, Inhabited

/-- A Skein file that the loader has checked (R84): ASID and residencies. Beside them what its launch and watch entries still ask
for (R68): residency and entry, in file order; the template of each residency registered; the record made by the latest launch of
each residency; whether a launch of the file is on its way. -/
structure SkFile where
  asid  : Nat
  res   : List Desc
  asks  : List (Nat × Nat) := []
  tmpls : SMap Nat := []
  made  : SMap Nat := []
  busy  : Bool := false
  deriving DecidableEq, Repr, Inhabited

/-! ### Faults at the controller (R393 to R396) -/

/-- An open record of the controller's table: to which core and when it was delivered, whether the host has it, whether it
escalated, whether a core claimed it. -/
structure Open where
  fr      : FRec
  core    : Option Nat := none
  since   : Nat := 0
  host    : Bool := false
  esc     : Bool := false
  claimed : Bool := false
  deriving DecidableEq, Repr, Inhabited

/-- A disposition on its way: FID, what, from which core (the host where none), held until a restore (R402), and its number, by which its
issuer knows its result. -/
structure DispReq where
  fid  : Nat
  disp : Disp
  core : Option Nat
  held : Bool := false
  id   : Nat := 0
  deriving DecidableEq, Repr, Inhabited

/-- The package fault controller (R393 to R396): records on their way, the table of open records, the next
FID, dispositions received, copies owed to the host, records closed by a re-walk, the claim table by 16 · ASID + class, CLAIMTO, statistics. -/
structure FaultCtl where
  incoming  : List FRec := []
  table     : List Open := []
  nextFid   : Nat := 1
  disps     : List DispReq := []
  copies    : List FRec := []
  /-- records that a re-walk closed (R102) -/
  closed    : List FRec := []
  stale     : Nat := 0
  migrating : Nat := 0
  claim     : SMap Nat := []
  claimto   : Nat := 170000
  deriving DecidableEq, Repr, Inhabited

/-! ### Service cores (R417 to R425) -/

/-- A command at a core's port (R420). Once it is on its way to the Dispatcher its `op` is 0 and `arg` is what its completion
returns. -/
structure Cmd where
  id   : Nat
  op   : Nat
  asid : Nat
  die  : Nat
  x    : Nat
  y    : Nat
  body : List W64
  arg  : W64
  deriving DecidableEq, Repr, Inhabited

/-- An entry of a take queue (R424); `set` is the mailbox set of a host message (R427). -/
structure Take where
  cls    : Nat
  code   : Nat
  asid   : Nat
  handle : Nat
  tok    : Token
  set    : Nat := 0
  deriving DecidableEq, Repr, Inhabited

/-- An SVC that waits for its reply (R423), and a reply kept while its residency is frozen (R425). -/
structure Svc where
  msg  : Msg
  tok  : Token
  core : Nat
  kept : Option (List Out) := none
  deriving DecidableEq, Repr, Inhabited

/-- A service core: integer and float registers, pc, privilege mode (3 machine, 1 supervisor, 0 user), CSRs by number
(log 5), the local SRAM; the command port: commands not yet finished in issue order, the result bits and value of the
finished ones, the next id; the take queue (its first 64 entries are in it); a RESUME that waits for its result. -/
structure Core where
  started : Bool := false
  regs    : SMap W64 := []
  fregs   : SMap W64 := []
  pc      : W64 := 0
  mode    : Nat := 3
  csrs    : SMap W64 := []
  sram    : Memory := []
  pending : List Cmd := []
  done    : SMap (Nat × W64) := []
  nextCmd : Nat := 1
  takeq   : List Take := []
  resume  : Option (Option Nat) := none
  /-- the number of the disposition whose result it waits for -/
  resumed : Nat := 0
  /-- the 64 bytes that a load-reserved has reserved, by their core-physical address over 64 (R417) -/
  resv    : Option Nat := none
  deriving DecidableEq, Repr, Inhabited

/-! ### The dies, the host, the links (R268 to R270, R426 to R441) -/

/-- A slew domain (R268 to R270): steps, idle count, and the tables and cap in force since its last tick. -/
structure Slew where
  s     : Nat := 0
  j     : Nat := 0
  idle  : Nat := 0
  up0   : W64 := 0x2018100C08060402
  up1   : W64 := 0x2D
  dn0   : W64 := 0x0808040402020202
  dn1   : W64 := 0x2D2D2010
  lim   : W64 := 0x40
  level : Nat := 0
  /-- cycle plus one of the last SLEW_CYCLE and SLEW_TICK -/
  done  : Nat := 0
  tick  : Nat := 0
  deriving DecidableEq, Repr, Inhabited

/-- Words of a die: slew tables, THROT, QMASK0 and QMASK1, ERRCNT's fields, whether repair uses the spare column, and the link
tile that the spare one replaces. -/
structure Die where
  up0   : W64 := 0x2018100C08060402
  up1   : W64 := 0x2D
  dn0   : W64 := 0x0808040402020202
  dn1   : W64 := 0x2D2D2010
  lim   : W64 := 0x40
  throt : Nat := 0
  qmask : Nat := 0
  mpar  : Nat := 0
  lrep  : Nat := 0
  ue    : Nat := 0
  ce    : Nat := 0
  spare : Bool := false
  /-- the link tile that the spare one stands for (R8) -/
  ltSub : Option Nat := none
  deriving DecidableEq, Repr, Inhabited

/-- Repair settings of a die (R436): the physical quad column of its 13 that is out of use; the link tile for which the spare one stands;
the spare row, 0 to 7, that stands for a row of a scratchpad bank, by 1024 · bank + row; the spare pseudo-channel, 0 to 3, of an
HBM stack that stands for one of its 64, by 64 · stack + channel. -/
structure Repair where
  column : Option Nat := none
  lt     : Option Nat := none
  rows   : SMap Nat := []
  chans  : SMap Nat := []
  deriving DecidableEq, Repr, Inhabited

/-- A link: saddles 0 to 3, Sorpen links 4 to 39 (R430: nine a die); whether it is up, its version, spare lanes used. -/
structure LinkSt where
  up      : Bool := false
  version : Option (Nat × Nat) := none
  spares  : Nat := 0
  deriving DecidableEq, Repr, Inhabited

/-- A completion of a BAR2 access on its way to the host: whether it is supported, and the data read. -/
structure HostResp where
  ok   : Bool
  data : List Byte
  deriving DecidableEq, Repr, Inhabited

/-- An attestation report (R440). -/
structure Report where
  set    : Nat
  devid  : W64
  podid  : Nat
  rom    : List Byte
  fw     : List Byte
  tmpls  : List (List Byte)
  secVer : Nat
  featr  : W64
  nonce  : List Byte
  rsa    : List Byte
  slh    : List Byte
  deriving DecidableEq, Repr, Inhabited

/-- What the host reaches (R426 to R429): BAR0 registers, the settled mailbox versions, the next entry of each set that a poll
delivers, host memory, completions on their way, reports returned, port roles. -/
structure HostSt where
  mbbase   : SMap W64 := []
  win2base : Nat := 0
  mbpoll   : Nat := 2000
  mbcore   : SMap Nat := []
  mbver    : SMap Nat := []
  mbseen   : SMap Nat := []
  podid    : Nat := 0
  resumest : W64 := 0
  /-- the number of the disposition of the last RESUME write -/
  resumed  : Nat := 0
  mem      : Memory := []
  resp     : List HostResp := []
  reports  : List Report := []
  /-- entries of 64 bytes that wait for room in a set's device-to-host ring (R427) -/
  outq     : SMap (List (List Byte)) := []
  ports    : SMap PortRole := []
  deriving DecidableEq, Repr, Inhabited

/-- The boot (R439): 0 not yet verified, 1 verified, 2 refused; the firmware's security version and digest; the fuse
counter. -/
structure Boot where
  state   : Nat := 0
  secVer  : Nat := 0
  digest  : List Byte := []
  secFuse : Nat := 0
  deriving DecidableEq, Repr, Inhabited

/-- The machine. -/
structure State where
  /-- which steps come next; empty: a fabric cycle passes (log 1) -/
  agenda   : List Act := []
  focus    : Focus := {}
  /-- whether the last meaning did something (log 1) -/
  acted    : Bool := false
  /-- how many free values were drawn (log 2) -/
  free     : Nat := 0
  /-- next number of a request, a work or a message (log 1) -/
  nextId   : Nat := 0
  /-- CYCLE of every die (R268, R411) -/
  cycle    : Nat := 0
  /-- bytes of the device physical map (R91) -/
  mem      : Memory := []
  ats      : SMap AT := []
  mts      : SMap MT := []
  pts      : SMap Pt := []
  homes    : SMap Home := []
  revoked  : List Revoked := []
  /-- share k of the interleaved window, host windows (base, length), tier-2 extents (R91, R93, R429) -/
  share    : Nat := 0
  /-- the share has been selected (R93); bring-up is over (R83, R93, R429) -/
  shareSet : Bool := false
  broughtUp : Bool := false
  hostWins : List (Nat × Nat) := []
  extents  : List Extent := []
  /-- BCCAP of each die, and the grants of each PT (by its number of 0 to 191) and of each LT (by its home) (R135) -/
  bccap    : SMap Nat := []
  bcs      : SMap Bc := []
  /-- the ASID table: root of each ASID's level-0 table (R99) -/
  roots    : SMap Nat := []
  reqs     : SMap Req := []
  /-- places of units' accesses in bank queues (R146) -/
  tickets  : List Ticket := []
  /-- update sequence of each source port (R370), and message sequence of each sender (R114) -/
  useqs    : SMap Nat := []
  mseqs    : SMap Nat := []
  subs     : SMap ArrSub := []
  held     : SMap Held := []
  /-- syntax bindings by residency handle times 64 plus BND index -/
  syns     : SMap Syn := []
  /-- completions on their way to command ports: core, command id, aborted (R117, R422) -/
  cmdDone  : List (Nat × Nat × Bool) := []
  watch    : SMap Watch := []
  /-- performed watched stores on their way to the Dispatcher: slot and value (R382) -/
  watchq   : List (Nat × W64) := []
  snap     : Option Snap := none
  /-- SNAPs that wait (R407) -/
  snapq    : List Msg := []
  res      : SMap Res := []
  trackers : SMap Tracker := []
  /-- changes of count that each tile has gathered in this cycle (R327) -/
  posts    : SMap (List Post) := []
  tasks    : SMap Task := []
  templates : SMap Template := []
  dsp      : Dsp := {}
  images   : SMap Image := []
  /-- save areas by record id: the FRZ section that scan-out wrote there (R400) -/
  saved    : SMap (List Byte) := []
  files    : SMap SkFile := []
  faults   : FaultCtl := {}
  cores    : SMap Core := []
  svcs     : SMap Svc := []
  clsmap   : SMap Nat := []
  dies     : SMap Die := []
  /-- by die: the fuses, and the repair settings that the last reset read from them (R436) -/
  fuses    : SMap Repair := []
  repair   : SMap Repair := []
  slews    : SMap Slew := []
  links    : SMap LinkSt := []
  host     : HostSt := {}
  boot     : Boot := {}
  /-- quads that firmware tests (R437), numbered die · 120 + 12y + x -/
  testing  : List Nat := []
  deriving DecidableEq, Repr, Inhabited

/-- Why the machine stops with a fault. -/
inductive Fault where
  /-- A service core fetches from control space, for which the spec gives no layout (R91, R417). Raised by `step`; safe: the run
  ends. -/
  | fetchGap (addr : Nat)
  deriving DecidableEq, Repr, Inhabited

/-- Why a step has no meaning. -/
inductive Refusal where
  /-- Raised by the arms of `exec` that have no meaning yet; safe: the run ends. -/
  | notModelled (mnemonic : String)
  deriving DecidableEq, Repr, Inhabited

/-- The machine right after reset: every field at the default its declaration gives. -/
def State.reset : State := {}

end Sys2Proof.Machine
end

