-- ==== Sys2Proof/Machine/Mem.lean ====
section
/-! DEFINITION. Operations on maps, byte memories and numbers. -/

namespace Sys2Proof.Machine

/-! ### Maps -/

/-- The value of a key, or the default. -/
def getD {α : Type} (d : α) (k : Nat) : SMap α → α
  | [] => d
  | (k', v) :: m => if k = k' then v else getD d k m

/-- Whether a key is present, and its value. -/
def get? {α : Type} (k : Nat) : SMap α → Option α
  | [] => none
  | (k', v) :: m => if k = k' then some v else get? k m

/-- Put a value at a key, keeping the keys rising. -/
def put {α : Type} (k : Nat) (v : α) : SMap α → SMap α
  | [] => [(k, v)]
  | (k', v') :: m => if k < k' then (k, v) :: (k', v') :: m else if k = k' then (k, v) :: m else (k', v') :: put k v m

/-- Remove a key. -/
def del {α : Type} (k : Nat) : SMap α → SMap α
  | [] => []
  | (k', v') :: m => if k = k' then m else (k', v') :: del k m

/-- Change the value of a key. -/
def upd {α : Type} (d : α) (k : Nat) (f : α → α) (m : SMap α) : SMap α := put k (f (getD d k m)) m

/-! ### Bytes -/

/-- Keys strictly rising, and no entry 0. -/
def wfFrom : Nat → Memory → Bool
  | _, [] => true
  | lo, (a, b) :: m => decide (lo ≤ a) && b != 0 && wfFrom (a + 1) m

/-- The canonical form of a memory. -/
def Memory.wf (m : Memory) : Bool := wfFrom 0 m

/-- What an unlisted byte reads as (log 4). -/
def unlisted : Byte := 0

/-- Read one byte. -/
def readByte (m : Memory) (a : Nat) : Byte :=
  match m with
  | [] => unlisted
  | (a', b) :: m => if a = a' then b else readByte m a

/-- Write one byte, keeping the canonical form. -/
def writeByte (m : Memory) (a : Nat) (b : Byte) : Memory :=
  match m with
  | [] => if b = unlisted then [] else [(a, b)]
  | (a', b') :: m =>
    if a < a' then (if b = unlisted then (a', b') :: m else (a, b) :: (a', b') :: m)
    else if a = a' then (if b = unlisted then m else (a, b) :: m)
    else (a', b') :: writeByte m a b

/-- Read `n` bytes from address `a` upward. -/
def readBytes (m : Memory) (a : Nat) : Nat → List Byte
  | 0 => []
  | n + 1 => readByte m a :: readBytes m (a + 1) n

/-- Write bytes from address `a` upward. -/
def writeBytes (m : Memory) (a : Nat) : List Byte → Memory
  | [] => m
  | b :: bs => writeBytes (writeByte m a b) (a + 1) bs

/-- A little-endian number of `n` bytes (R3). -/
def readNat (m : Memory) (a n : Nat) : Nat := leNat (readBytes m a n)

/-- Write a number as `n` bytes (R3). -/
def writeNat (m : Memory) (a n v : Nat) : Memory := writeBytes m a (leBytes n v)

/-! ### Byte lists -/

/-- The first `n` bytes of a list, then zero bytes (R109, R156). -/
def fitBytes : Nat → List Byte → List Byte
  | 0, _ => []
  | n + 1, [] => 0 :: fitBytes n []
  | n + 1, b :: bs => b :: fitBytes n bs

/-- `n` bytes from offset `o`, missing ones 0. -/
def sliceBytes (bs : List Byte) (o n : Nat) : List Byte := fitBytes n (bs.drop o)

/-- The number in `n` bytes from offset `o`. -/
def natAt (bs : List Byte) (o n : Nat) : Nat := leNat (sliceBytes bs o n)

/-- Replace the bytes from offset `o` of a list. -/
def spliceBytes (bs : List Byte) (o : Nat) (v : List Byte) : List Byte := bs.take o ++ v ++ bs.drop (o + v.length)

/-- Bits [lo + len - 1 : lo] of a number. -/
def bits (v lo len : Nat) : Nat := v / 2 ^ lo % 2 ^ len

/-- One bit of a number. -/
def bit (v i : Nat) : Bool := v / 2 ^ i % 2 == 1

/-- 0 to n-1. -/
def upto (n : Nat) : List Nat := List.range n

/-! ### Insertion sort, stable, structural -/

/-- Insert before the first element that `lt` puts after it. -/
def insertBy {α : Type} (lt : α → α → Bool) (x : α) : List α → List α
  | [] => [x]
  | y :: ys => if lt x y then x :: y :: ys else y :: insertBy lt x ys

/-- Stable sort by a strict order. -/
def sortBy {α : Type} (lt : α → α → Bool) (l : List α) : List α := l.foldl (fun acc x => insertBy lt x acc) []

/-- Remove the first element that meets a test. -/
def removeFirst {α : Type} (p : α → Bool) : List α → List α
  | [] => []
  | x :: xs => if p x then xs else x :: removeFirst p xs

/-- The least of a list of numbers. -/
def minNat? : List Nat → Option Nat
  | [] => none
  | x :: xs => match minNat? xs with
    | none => some x
    | some m => some (if x ≤ m then x else m)

/-- Numbers without repeats, in order of first appearance. -/
def dedup : List Nat → List Nat
  | [] => []
  | x :: xs => let r := dedup xs; if r.contains x then x :: r.erase x else x :: r

/-- The first of several results. -/
def firstSome {α β : Type} (f : α → Option β) : List α → Option β
  | [] => none
  | x :: xs => match f x with
    | some e => some e
    | none => firstSome f xs

end Sys2Proof.Machine
end

