-- ==== Sys2Proof/Machine/Operands.lean ====
section
/-! DEFINITION. The parts of a block image and the operand forms: which positions an opcode uses, its pipe, the
immediate, lanes of payloads, markers. -/

namespace Sys2Proof

/-- Number of a position: 0 L, 1 R, 2 P. -/
def Pos.num : Pos → Nat
  | .l => 0 | .r => 1 | .p => 2

/-- Edge number of a position and of a channel (AT in State.lean). -/
def posEdge (slot : Nat) (q : Pos) : Nat := slot * 3 + q.num

def chanEdge (c : Nat) : Nat := 384 + c

/-- The edge a target names; none for no target. -/
def Target.edge : Target → Option Nat
  | .pos q slot => some (posEdge slot.toNat q)
  | .chan c => some (chanEdge c.toNat)
  | .none => Option.none

/-- Width of an element in bits. -/
def Elem.nbits (e : Elem) : Nat := if e = .e2m1 then 4 else 8 * e.width

/-- Signed element types. -/
def Elem.signed : Elem → Bool
  | .s8 | .s16 | .s32 | .s64 => true
  | _ => false

/-- Number of a tile in the package. -/
def tileKey (die x y t : Nat) : Nat := ((die * 10 + y) * 12 + x) * 4 + t

def TileId.key (i : TileId) : Nat := tileKey i.die i.x i.y i.t

end Sys2Proof

namespace Sys2Proof.Machine

/-! ### Block images (R37, R38, R59, R60) -/

def hdrBits (b : Bank) (lo len : Nat) : Nat := bits ((b.words.getD 0 0).toNat + 2 ^ 64 * (b.words.getD 1 0).toNat) lo len

def Bank.ver (b : Bank) : Nat := hdrBits b 124 4
def Bank.kind (b : Bank) : Nat := hdrBits b 121 3
def Bank.icnt (b : Bank) : Nat := hdrBits b 113 8
def Bank.tsi (b : Bank) : Nat := hdrBits b 110 3
def Bank.det (b : Bank) : Bool := hdrBits b 109 1 == 1
def Bank.cho (b : Bank) : Nat := hdrBits b 100 9
def Bank.sdo (b : Bank) : Nat := hdrBits b 91 9
def Bank.stc (b : Bank) : Nat := hdrBits b 84 7

/-- The word of a slot. -/
def Bank.word (b : Bank) (slot : Nat) : W64 := b.words.getD (2 + slot) 0

/-- The instruction of a slot. -/
def Bank.instr (b : Bank) (slot : Nat) : Option Instr :=
  if slot < b.icnt then (match decodeWord (b.word slot) with | .ok i => some i | .error _ => none) else none

/-- A channel word's fields (R59). -/
structure ChanWord where
  ch    : Nat
  dqx   : Nat
  dqy   : Nat
  dt    : Nat
  dslot : Nat
  dpos  : Nat
  depth : Nat
  cls   : Nat
  bq    : Nat
  bind  : Nat
  rest  : Nat
  deriving DecidableEq, Repr, Inhabited

def chanWord (w : W64) : ChanWord :=
  let v := w.toNat
  ⟨bits v 58 6, bits v 54 4, bits v 50 4, bits v 48 2, bits v 41 7, bits v 39 2, bits v 31 8, bits v 29 2, bits v 23 6,
   bits v 18 5, bits v 0 18⟩

/-- The channel table (R38). -/
def Bank.chans (b : Bank) : List ChanWord := ((b.words.drop b.cho).take (b.sdo - b.cho)).map chanWord

/-- The word of channel `c`. -/
def Bank.chan (b : Bank) (c : Nat) : Option ChanWord := b.chans.find? (fun w => w.ch == c)

def posOf (n : Nat) : Pos := match n with
  | 0 => .l | 1 => .r | _ => .p

/-- Depth of a position as the slot-depth table has it (R60). -/
def Bank.slotDepth (b : Bank) (slot p : Nat) : Nat :=
  bits (b.words.getD (b.sdo + slot / 2) 0).toNat (32 * (slot % 2) + 8 * p) 8

/-! ### Instructions (R22, R39, R176) -/

/-- The header fields of a fabric word. -/
def instrHd : Instr → Option Hd
  | .nop h _ => some h
  | .exit h _ => some h
  | .mov h => some h
  | .const h _ => some h
  | .consth h _ => some h
  | .fan h _ => some h
  | .sink h => some h
  | .route h => some h
  | .merge h => some h
  | .select h => some h
  | .gate h => some h
  | .enter h => some h
  | .step h _ => some h
  | .leave h => some h
  | .epoch h _ => some h
  | .timeof h => some h
  | .cnt h => some h
  | .repeat h => some h
  | .eos h => some h
  | .iseos h => some h
  | .hold h _ => some h
  | .release h _ => some h
  | .resize h _ => some h
  | .add h _ => some h
  | .sub h _ => some h
  | .mul h _ => some h
  | .mulh h _ => some h
  | .mad h _ => some h
  | .div h _ => some h
  | .rem h _ => some h
  | .neg h _ => some h
  | .abs h _ => some h
  | .min h _ => some h
  | .max h _ => some h
  | .adds h _ => some h
  | .subs h _ => some h
  | .and h _ => some h
  | .or h _ => some h
  | .xor h _ => some h
  | .andn h _ => some h
  | .shl h _ => some h
  | .shr h _ => some h
  | .rotl h _ => some h
  | .clz h _ => some h
  | .popc h _ => some h
  | .bfx h _ => some h
  | .bfi h _ => some h
  | .cmp h _ => some h
  | .hash h _ => some h
  | .fadd h _ => some h
  | .fsub h _ => some h
  | .fmul h _ => some h
  | .ffma h _ => some h
  | .fmin h _ => some h
  | .fmax h _ => some h
  | .fcmp h _ => some h
  | .fabs h _ => some h
  | .fneg h _ => some h
  | .frcp h _ => some h
  | .frsq h _ => some h
  | .fsqrt h _ => some h
  | .fexp2 h _ => some h
  | .flog2 h _ => some h
  | .fsin h _ => some h
  | .fcos h _ => some h
  | .ftanh h _ => some h
  | .ferf h _ => some h
  | .fscale h _ => some h
  | .frnd h _ => some h
  | .fclass h _ => some h
  | .rsum h _ => some h
  | .rmax h _ => some h
  | .rmin h _ => some h
  | .scan h _ => some h
  | .perm h _ => some h
  | .bcast h _ => some h
  | .slice h _ => some h
  | .cat h _ => some h
  | .split h _ => some h
  | .compr h _ => some h
  | .expd h _ => some h
  | .argmax h _ => some h
  | .topk h _ => some h
  | .maxrs h _ => some h
  | .cvt h _ => some h
  | .cvts h _ => some h
  | .qnt h _ => some h
  | .dqnt h _ => some h
  | .pack h _ => some h
  | .unpk h _ => some h
  | .mcfg h _ => some h
  | .mldb h _ => some h
  | .mswp h _ => some h
  | .mrow h _ => some h
  | .mrowa h _ => some h
  | .mblk h _ => some h
  | .msca h _ => some h
  | .mzero h _ => some h
  | .mdrn h _ => some h
  | .ldt h _ => some h
  | .stt h _ => some h
  | .lds h _ => some h
  | .sts h _ => some h
  | .agen h _ => some h
  | .gath h _ => some h
  | .scat h _ => some h
  | .waita h _ => some h
  | .arrv h _ => some h
  | .fence h _ => some h
  | .xfence h _ => some h
  | .ldv h _ => some h
  | .stv h _ => some h
  | .ldvs h _ => some h
  | .stvs h _ => some h
  | .pfv h _ => some h
  | .amo h _ => some h
  | .amor h _ => some h
  | .red h _ => some h
  | .bin h _ => some h
  | .binf h _ => some h
  | .send h _ => some h
  | .cpy h _ => some h
  | .cpys h _ => some h
  | .cpyf h _ => some h
  | .cpyc h _ => some h
  | .sbw h _ => some h
  | .snap h _ => some h
  | .cmbc h _ => some h
  | .cmba h _ => some h
  | .cmbi h _ => some h
  | .cmbr h _ => some h
  | .syno h _ => some h
  | .synq h _ => some h
  | .bmod h _ => some h
  | .cgex h _ => some h
  | .cflp h _ => some h
  | .ctrn h _ => some h
  | .blkw h _ => some h
  | .drift h _ => some h
  | .cdmc h _ => some h
  | .cdip h _ => some h
  | .waitf h _ => some h
  | .front h _ => some h
  | .launch h _ => some h
  | .join h _ => some h
  | .isect h _ => some h
  | .union h _ => some h
  | .part h _ => some h
  | .trap h _ => some h
  | .brk h _ => some h
  | .rdcr h _ => some h
  | .wrcr h _ => some h
  | .perf h _ => some h
  | .svc h _ => some h
  | _ => none

/-- The opcode of a fabric word (R39). -/
def opcodeOf : Instr → Nat
  | .nop _ _ => 0x00
  | .exit _ _ => 0x00
  | .mov _ => 0x01
  | .const _ _ => 0x02
  | .consth _ _ => 0x03
  | .fan _ _ => 0x04
  | .sink _ => 0x05
  | .route _ => 0x06
  | .merge _ => 0x07
  | .select _ => 0x08
  | .gate _ => 0x09
  | .enter _ => 0x0A
  | .step _ _ => 0x0B
  | .leave _ => 0x0C
  | .epoch _ _ => 0x0D
  | .timeof _ => 0x0E
  | .cnt _ => 0x0F
  | .repeat _ => 0x10
  | .eos _ => 0x11
  | .iseos _ => 0x12
  | .hold _ _ => 0x13
  | .release _ _ => 0x14
  | .resize _ _ => 0x15
  | .add _ _ => 0x20
  | .sub _ _ => 0x21
  | .mul _ _ => 0x22
  | .mulh _ _ => 0x23
  | .mad _ _ => 0x24
  | .div _ _ => 0x25
  | .rem _ _ => 0x26
  | .neg _ _ => 0x27
  | .abs _ _ => 0x28
  | .min _ _ => 0x29
  | .max _ _ => 0x2A
  | .adds _ _ => 0x2B
  | .subs _ _ => 0x2C
  | .and _ _ => 0x2D
  | .or _ _ => 0x2E
  | .xor _ _ => 0x2F
  | .andn _ _ => 0x30
  | .shl _ _ => 0x31
  | .shr _ _ => 0x32
  | .rotl _ _ => 0x33
  | .clz _ _ => 0x34
  | .popc _ _ => 0x35
  | .bfx _ _ => 0x36
  | .bfi _ _ => 0x37
  | .cmp _ _ => 0x38
  | .hash _ _ => 0x39
  | .fadd _ _ => 0x40
  | .fsub _ _ => 0x41
  | .fmul _ _ => 0x42
  | .ffma _ _ => 0x43
  | .fmin _ _ => 0x44
  | .fmax _ _ => 0x45
  | .fcmp _ _ => 0x46
  | .fabs _ _ => 0x47
  | .fneg _ _ => 0x48
  | .frcp _ _ => 0x49
  | .frsq _ _ => 0x4A
  | .fsqrt _ _ => 0x4B
  | .fexp2 _ _ => 0x4C
  | .flog2 _ _ => 0x4D
  | .fsin _ _ => 0x4E
  | .fcos _ _ => 0x4F
  | .ftanh _ _ => 0x50
  | .ferf _ _ => 0x51
  | .fscale _ _ => 0x52
  | .frnd _ _ => 0x53
  | .fclass _ _ => 0x54
  | .rsum _ _ => 0x60
  | .rmax _ _ => 0x61
  | .rmin _ _ => 0x62
  | .scan _ _ => 0x63
  | .perm _ _ => 0x64
  | .bcast _ _ => 0x65
  | .slice _ _ => 0x66
  | .cat _ _ => 0x67
  | .split _ _ => 0x68
  | .compr _ _ => 0x69
  | .expd _ _ => 0x6A
  | .argmax _ _ => 0x6B
  | .topk _ _ => 0x6C
  | .maxrs _ _ => 0x6D
  | .cvt _ _ => 0x70
  | .cvts _ _ => 0x71
  | .qnt _ _ => 0x72
  | .dqnt _ _ => 0x73
  | .pack _ _ => 0x74
  | .unpk _ _ => 0x75
  | .mcfg _ _ => 0x80
  | .mldb _ _ => 0x81
  | .mswp _ _ => 0x82
  | .mrow _ _ => 0x83
  | .mrowa _ _ => 0x84
  | .mblk _ _ => 0x85
  | .msca _ _ => 0x86
  | .mzero _ _ => 0x87
  | .mdrn _ _ => 0x88
  | .ldt _ _ => 0x90
  | .stt _ _ => 0x91
  | .lds _ _ => 0x92
  | .sts _ _ => 0x93
  | .agen _ _ => 0x94
  | .gath _ _ => 0x95
  | .scat _ _ => 0x96
  | .waita _ _ => 0x97
  | .arrv _ _ => 0x98
  | .fence _ _ => 0x99
  | .xfence _ _ => 0x9A
  | .ldv _ _ => 0xA0
  | .stv _ _ => 0xA1
  | .ldvs _ _ => 0xA2
  | .stvs _ _ => 0xA3
  | .pfv _ _ => 0xA4
  | .amo _ _ => 0xA8
  | .amor _ _ => 0xA9
  | .red _ _ => 0xAA
  | .bin _ _ => 0xAB
  | .binf _ _ => 0xAC
  | .send _ _ => 0xB0
  | .cpy _ _ => 0xB1
  | .cpys _ _ => 0xB2
  | .cpyf _ _ => 0xB3
  | .cpyc _ _ => 0xB4
  | .sbw _ _ => 0xB5
  | .snap _ _ => 0xB6
  | .cmbc _ _ => 0xB7
  | .cmba _ _ => 0xB8
  | .cmbi _ _ => 0xB9
  | .cmbr _ _ => 0xBA
  | .syno _ _ => 0xBB
  | .synq _ _ => 0xBC
  | .bmod _ _ => 0xC0
  | .cgex _ _ => 0xC1
  | .cflp _ _ => 0xC2
  | .ctrn _ _ => 0xC3
  | .blkw _ _ => 0xC4
  | .drift _ _ => 0xC5
  | .cdmc _ _ => 0xC6
  | .cdip _ _ => 0xC7
  | .waitf _ _ => 0xD0
  | .front _ _ => 0xD1
  | .launch _ _ => 0xD8
  | .join _ _ => 0xD9
  | .isect _ _ => 0xE0
  | .union _ _ => 0xE1
  | .part _ _ => 0xE2
  | .trap _ _ => 0xF0
  | .brk _ _ => 0xF1
  | .rdcr _ _ => 0xF2
  | .wrcr _ _ => 0xF3
  | .perf _ _ => 0xF4
  | .svc _ _ => 0xF5
  | _ => 0x100

/-- L and R, or L alone in the immediate form (R27, R39). -/
def lrImm (h : Hd) : List Pos := if h.md.toNat ≥ 8 then [.l] else [.l, .r]

/-- The operand positions an instruction uses (R39). -/
def uses : Instr → List Pos
  | .nop _ _ => [.l]
  | .exit _ _ => [.l]
  | .mov _ => [.l]
  | .const _ _ => [.l]
  | .consth _ _ => [.l]
  | .fan _ _ => [.l]
  | .sink _ => [.l]
  | .route _ => [.l, .p]
  | .merge _ => [.l, .r]
  | .select _ => [.l, .r, .p]
  | .gate _ => [.l, .p]
  | .enter _ => [.l]
  | .step _ _ => [.l]
  | .leave _ => [.l]
  | .epoch _ _ => [.l]
  | .timeof _ => [.l]
  | .cnt _ => [.l]
  | .repeat _ => [.l, .r]
  | .eos _ => [.l]
  | .iseos _ => [.l]
  | .hold _ _ => [.l]
  | .release _ _ => [.l]
  | .resize _ _ => [.l]
  | .add h _ => lrImm h
  | .sub h _ => lrImm h
  | .mul h _ => lrImm h
  | .mulh h _ => lrImm h
  | .mad _ _ => [.l, .r, .p]
  | .div h _ => lrImm h
  | .rem h _ => lrImm h
  | .neg _ _ => [.l]
  | .abs _ _ => [.l]
  | .min h _ => lrImm h
  | .max h _ => lrImm h
  | .adds h _ => lrImm h
  | .subs h _ => lrImm h
  | .and h _ => lrImm h
  | .or h _ => lrImm h
  | .xor h _ => lrImm h
  | .andn h _ => lrImm h
  | .shl h _ => lrImm h
  | .shr h _ => lrImm h
  | .rotl h _ => lrImm h
  | .clz _ _ => [.l]
  | .popc _ _ => [.l]
  | .bfx _ _ => [.l]
  | .bfi _ _ => [.l, .r]
  | .cmp h _ => lrImm h
  | .hash _ _ => [.l]
  | .fadd h _ => lrImm h
  | .fsub h _ => lrImm h
  | .fmul h _ => lrImm h
  | .ffma _ _ => [.l, .r, .p]
  | .fmin h _ => lrImm h
  | .fmax h _ => lrImm h
  | .fcmp h _ => lrImm h
  | .fabs _ _ => [.l]
  | .fneg _ _ => [.l]
  | .frcp _ _ => [.l]
  | .frsq _ _ => [.l]
  | .fsqrt _ _ => [.l]
  | .fexp2 _ _ => [.l]
  | .flog2 _ _ => [.l]
  | .fsin _ _ => [.l]
  | .fcos _ _ => [.l]
  | .ftanh _ _ => [.l]
  | .ferf _ _ => [.l]
  | .fscale h _ => lrImm h
  | .frnd _ _ => [.l]
  | .fclass _ _ => [.l]
  | .rsum _ _ => [.l]
  | .rmax _ _ => [.l]
  | .rmin _ _ => [.l]
  | .scan _ _ => [.l]
  | .perm h _ => lrImm h
  | .bcast _ _ => [.l]
  | .slice _ _ => [.l]
  | .cat _ _ => [.l, .r]
  | .split _ _ => [.l]
  | .compr _ _ => [.l, .p]
  | .expd _ _ => [.l, .p]
  | .argmax _ _ => [.l]
  | .topk _ _ => [.l]
  | .maxrs _ _ => [.l, .r]
  | .cvt _ _ => [.l]
  | .cvts _ _ => [.l, .r]
  | .qnt _ _ => [.l]
  | .dqnt _ _ => [.l]
  | .pack _ _ => [.l, .r]
  | .unpk _ _ => [.l]
  | .mcfg _ _ => [.l]
  | .mldb _ _ => [.l]
  | .mswp _ _ => [.l]
  | .mrow _ _ => [.l]
  | .mrowa _ _ => [.l]
  | .mblk _ _ => [.l]
  | .msca _ _ => [.l, .r]
  | .mzero _ _ => [.l]
  | .mdrn _ _ => [.l]
  | .ldt _ _ => [.l]
  | .stt _ _ => [.l, .r]
  | .lds _ _ => [.l]
  | .sts _ _ => [.l, .r]
  | .agen _ _ => [.l]
  | .gath _ _ => [.l]
  | .scat _ _ => [.l]
  | .waita _ _ => [.l]
  | .arrv _ _ => [.l]
  | .fence _ _ => [.l]
  | .xfence _ _ => [.l]
  | .ldv _ _ => [.l]
  | .stv _ _ => [.l, .r]
  | .ldvs _ _ => [.l]
  | .stvs _ _ => [.l, .r]
  | .pfv _ _ => [.l]
  | .amo _ _ => [.l, .r]
  | .amor h _ => if h.md.toNat % 4 = 2 then [.l, .r, .p] else [.l, .r]
  | .red _ _ => [.l, .r]
  | .bin _ _ => [.l, .r]
  | .binf _ _ => [.l]
  | .send _ _ => [.l]
  | .cpy _ _ => [.l]
  | .cpys _ _ => [.l]
  | .cpyf _ _ => [.l]
  | .cpyc _ _ => [.l]
  | .sbw _ _ => [.l]
  | .snap _ _ => [.l]
  | .cmbc _ _ => [.l]
  | .cmba _ _ => [.l]
  | .cmbi _ _ => [.l, .r]
  | .cmbr _ _ => [.l]
  | .syno _ _ => [.l]
  | .synq _ _ => [.l]
  | .bmod _ _ => [.l]
  | .cgex _ _ => [.l, .r]
  | .cflp _ _ => [.l]
  | .ctrn _ _ => [.l]
  | .blkw _ _ => [.l, .r]
  | .drift _ _ => [.l, .r]
  | .cdmc _ _ => [.l]
  | .cdip _ _ => [.l]
  | .waitf _ _ => [.l]
  | .front _ _ => [.l]
  | .launch _ _ => [.l]
  | .join _ _ => [.l]
  | .isect _ _ => [.l, .r]
  | .union _ _ => [.l, .r]
  | .part _ _ => [.l]
  | .trap _ _ => [.l]
  | .brk _ _ => [.l]
  | .rdcr _ _ => [.l]
  | .wrcr _ _ => [.l]
  | .perf _ _ => [.l]
  | .svc _ _ => [.l]
  | _ => []

/-- Whether either position alone fires it (R39: L|R). -/
def eitherFires : Instr → Bool
  | .merge _ => true
  | _ => false

/-- The pipe of an opcode (R176). -/
def pipeOf (i : Instr) : Pipe :=
  match i with
  | .ldt h _ | .stt h _ => if h.md = 2 then .vec else .mem
  | _ =>
    let op := opcodeOf i
    if 0x83 ≤ op ∧ op ≤ 0x85 then .row
    else if 0x80 ≤ op ∧ op ≤ 0x88 then .oth
    else if 0x90 ≤ op ∧ op ≤ 0xBC then .mem
    else .vec

/-- Number of a pipe in `AT.fired`. -/
def Pipe.num : Pipe → Nat
  | .vec => 0 | .mem => 1 | .row => 2 | .oth => 3

/-- Pipe bits of SPORT (R166): the matrix node is one port. -/
def Pipe.port : Pipe → Nat
  | .vec => 0 | .mem => 1 | .row => 2 | .oth => 2

/-- Targets a word drives, in order T0 to T4 (R22, R30). -/
def targetsOf (i : Instr) : List Target :=
  match i with
  | .fan h x => [h.t0, h.t1, x.t2, x.t3, x.t4]
  | _ => match instrHd i with
    | some h => [h.t0, h.t1]
    | none => []

/-! ### Payloads -/

/-- Payload bytes of a SIZE code (R165). -/
def sizeBytes (code : Nat) : Nat := 8 * 2 ^ code

/-- SIZE code of a payload (R165): the smallest that holds the bytes. -/
def sizeCode (n : Nat) : Nat :=
  if n ≤ 8 then 0 else if n ≤ 16 then 1 else if n ≤ 32 then 2 else if n ≤ 64 then 3 else if n ≤ 128 then 4 else 5

def lanesFrom (w : Nat) (bs : List Byte) (o : Nat) : Nat → List Nat
  | 0 => []
  | n + 1 => natAt bs o w :: lanesFrom w bs (o + w) n

/-- The lanes of a payload of `w`-byte elements, as raw numbers. -/
def lanes (w : Nat) (bs : List Byte) : List Nat := lanesFrom w bs 0 (bs.length / w)

/-- Bytes of lanes of `w` bytes. -/
def packLanes (w : Nat) (ls : List Nat) : List Byte := ls.flatMap (leBytes w)

/-- Lane `i` of a payload; a missing lane is 0. -/
def lane (w : Nat) (bs : List Byte) (i : Nat) : Nat := natAt bs (i * w) w

/-- A value repeated to fill `n` bytes (R182, R234). -/
def fillWith (w v n : Nat) : List Byte := packLanes w (List.replicate (n / w) v)

/-- The immediate as an element of SH (R27), a raw number of the element's width. -/
def immElem (sh : Elem) (imm : BitVec 30) : Nat :=
  match sh with
  | .s8 | .s16 | .s32 | .s64 | .b64 => (imm.signExtend 64).toNat % 2 ^ (8 * sh.width)
  | .f32 => imm.toNat * 4
  | .bf16 | .f16 => imm.toNat % 2 ^ 16
  | _ => imm.toNat % 2 ^ (8 * sh.width)

/-- A predicate (R183). -/
def isTrue (t : Token) : Bool := natAt t.data 0 1 != 0

def zeros (n : Nat) : List Byte := List.replicate n 0

/-! ### Markers (R167, R178) -/

def Kind.isMarker : Kind → Bool
  | .eof | .eos => true
  | _ => false

def Token.isMarker (t : Token) : Bool := t.kind.isMarker

/-- Rank of a token among markers: 0 for none, the level for end-of-fibre, 5 for end-of-stream (R178, R189). -/
def Token.rank (t : Token) : Nat :=
  match t.kind with
  | .eof => natAt t.data 0 1 % 8
  | .eos => 5
  | _ => 0

/-- The marker of a rank: kind and payload. -/
def markerKind (rank : Nat) : Kind := if rank ≥ 5 then .eos else .eof

def markerData (rank : Nat) : List Byte := if rank ≥ 5 then zeros 8 else leBytes 8 rank

/-- A marker to a target. -/
def markerOut (rank : Nat) (t : Time) (tgt : Target) : Out := ⟨tgt, markerKind rank, .b64, t, markerData rank⟩

/-- A pulse to a target (R167). -/
def pulseOut (t : Time) (tgt : Target) : Out := ⟨tgt, .pulse, .b64, t, zeros 8⟩

/-- A data token to a target. -/
def dataOut (ty : Elem) (t : Time) (d : List Byte) (tgt : Target) : Out := ⟨tgt, .data, ty, t, d⟩

/-- A token as it stands, to a target. -/
def Token.to (k : Token) (tgt : Target) : Out := ⟨tgt, k.kind, k.type, k.time, k.data⟩

/-- A result to T0 and a copy to T1 (R23). -/
def both (h : Hd) (o : Target → Out) : List Out := [o h.t0, o h.t1]

/-! ### Times (R168) -/

/-- S(k): the sum of the first k widths. -/
def shapeSum (shape : List Nat) (k : Nat) : Nat := (shape.take k).sum

/-- Width of level k (1 is the outermost). -/
def levelWidth (shape : List Nat) (k : Nat) : Nat := shape.getD (k - 1) 0

/-- Counter of level k. -/
def ctr (shape : List Nat) (t : Time) (k : Nat) : Nat := bits t.toNat (44 - shapeSum shape k) (levelWidth shape k)

/-- A time with the counter of level k replaced. -/
def setCtr (shape : List Nat) (t : Time) (k c : Nat) : Time :=
  let lo := 44 - shapeSum shape k
  let old := ctr shape t k
  BitVec.ofNat 64 (t.toNat - old * 2 ^ lo + c * 2 ^ lo)

/-- Epoch of a time. -/
def epochOf (t : Time) : Nat := t.toNat / 2 ^ 44

/-! ### Tiles (R7, R10) -/

def keyT (k : Nat) : Nat := k % 4
def keyX (k : Nat) : Nat := k / 4 % 12
def keyY (k : Nat) : Nat := k / 48 % 10
def keyDie (k : Nat) : Nat := k / 480

/-- Number of the quad a tile stands in, 0 to 479. -/
def quadOf (k : Nat) : Nat := k / 4

/-- Key of the tile of a residency from its region-relative quad. -/
def resTile (r : Res) (qx qy t : Nat) : Nat := tileKey r.die (r.x0 + qx) (r.y0 + qy) t

/-- Region-relative quad of a tile. -/
def relX (r : Res) (k : Nat) : Nat := keyX k - r.x0
def relY (r : Res) (k : Nat) : Nat := keyY k - r.y0

end Sys2Proof.Machine
end

