-- ==== Sys2Proof/Machine/Flags.lean ====
section
/-! DEFINITION. Counters and status words an instruction leaves: TOKSTAT, RESST, FAILT, FAULTST, the performance
counters and the statistics of the conversions. -/

namespace Sys2Proof.Machine

/-- Saturating counter (R179, R412). -/
def satAdd (top a n : Nat) : Nat := if a + n ≤ top then a + n else top

def AT.addMkd (at' : AT) (n : Nat) : AT := { at' with mkd := satAdd (2 ^ 32 - 1) at'.mkd n }
def AT.addExd (at' : AT) (n : Nat) : AT := { at' with exd := satAdd (2 ^ 16 - 1) at'.exd n }
def AT.addRlx (at' : AT) (n : Nat) : AT := { at' with rlx := satAdd (2 ^ 16 - 1) at'.rlx n }

/-- TOKSTAT (R179). -/
def AT.tokstat (at' : AT) : W64 := BitVec.ofNat 64 (at'.exd * 2 ^ 48 + at'.rlx * 2 ^ 32 + at'.mkd)

/-- RESST (R412). -/
def Res.resst (r : Res) : W64 :=
  BitVec.ofNat 64 ((if r.drd then 2 ^ 63 else 0) + (if r.fail then 2 ^ 62 else 0) + r.xsc * 2 ^ 32 + r.dpf * 2 ^ 16)

/-- SBSTATE (R124): scoreboard k at bits [8k+7:8k]. -/
def AT.sbstate (at' : AT) : W64 :=
  BitVec.ofNat 64 ((upto 8).foldl (fun v k => v + getD 0 k at'.sb % 256 * 2 ^ (8 * k)) 0)

/-- Count an event of R416 in every counter that selects it. -/
def AT.perf (at' : AT) (code n : Nat) : AT :=
  { at' with perfcnt := (upto 4).foldl (fun m k =>
      if (getD 0 k at'.perfsel).toNat % 256 = code then put k (getD 0 k m + BitVec.ofNat 64 n) m else m) at'.perfcnt }

/-- What a converted element counts as (R212): none, or row 1 to 4. -/
inductive StEvent where
  | none | sat | nan | inf | flush
  deriving DecidableEq, Repr, Inhabited

/-- Add the elements' events to the four counters, which saturate (R245). -/
def stAdd (st : List Nat) (evs : List StEvent) : List Nat :=
  let cnt (e : StEvent) : Nat := (evs.filter (fun x => x == e)).length
  [satAdd (2 ^ 32 - 1) (st.getD 0 0) (cnt .sat), satAdd (2 ^ 32 - 1) (st.getD 1 0) (cnt .nan),
   satAdd (2 ^ 32 - 1) (st.getD 2 0) (cnt .inf), satAdd (2 ^ 32 - 1) (st.getD 3 0) (cnt .flush)]

end Sys2Proof.Machine
end

