-- ==== Sys2Proof/Machine/Ops.lean ====
section
/-! DEFINITION. The named operations over the state that meanings share: reading and writing tiles, the token
store (R171 to R174), progress batches (R326, R327), firing (R175, R176, R178), raising and ending holds
(R391, R393, R396), the region scratchpad (R145), free values (log 2). -/

namespace Sys2Proof.Machine

abbrev Result := Host.Outcome State Fault Refusal

/-! ### Tiles, residencies -/

def State.at (s : State) (k : Nat) : AT := getD {} k s.ats
def State.setAt (s : State) (k : Nat) (a : AT) : State := { s with ats := put k a s.ats }
def State.modAt (s : State) (k : Nat) (f : AT → AT) : State := s.setAt k (f (s.at k))
def State.mt (s : State) (k : Nat) : MT := getD {} k s.mts
def State.setMt (s : State) (k : Nat) (m : MT) : State := { s with mts := put k m s.mts }
def State.modMt (s : State) (k : Nat) (f : MT → MT) : State := s.setMt k (f (s.mt k))
def State.modRes (s : State) (h : Nat) (f : Res → Res) : State :=
  match get? h s.res with
  | some r => { s with res := put h (f r) s.res }
  | none => s
def State.modTask (s : State) (h : Nat) (f : Task → Task) : State := { s with tasks := upd {} h f s.tasks }

/-- The step did something (log 1). -/
def State.act (s : State) : State := { s with acted := true }

/-- Draw the number of a free value (log 2). -/
def State.draw (s : State) : Nat × State := (s.free, { s with free := s.free + 1 })

/-- A new number for a request, a work or a message (log 1). -/
def State.newId (s : State) : Nat × State := (s.nextId, { s with nextId := s.nextId + 1 })

def AT.slot (a : AT) (k : Nat) : Slot := getD {} k a.slots
def AT.modSlot (a : AT) (k : Nat) (f : Slot → Slot) : AT := { a with slots := upd {} k f a.slots }

/-- A slot is aged once marked or once its count stands at 64 (R177). -/
def Slot.isAged (x : Slot) : Bool := x.aged || decide (x.aging ≥ 64)

/-- Record id of a residency handle (R377). -/
def ridOf (s : State) (h : Nat) : Nat := h + (getD {} h s.tasks).gen * 2 ^ 13

/-! ### The region scratchpad (R145) -/

/-- Number of MTs of a region. -/
def Res.mtCount (r : Res) : Nat := r.desc.w * r.desc.h

/-- Bytes of a region's scratchpad. -/
def Res.scrSize (r : Res) : Nat := 2 ^ 20 * r.mtCount

/-- Home MT of a scratchpad offset and the byte of its 1 MiB. -/
def Res.scrHome (r : Res) (a : Nat) : Nat × Nat :=
  let g := a / 256
  let n := g % r.mtCount
  (resTile r (n % r.desc.w) (n / r.desc.w) 3, g / r.mtCount * 256 + a % 256)

/-- Line within its MT, bank and bank row of a scratchpad offset (R145). -/
def Res.scrLine (r : Res) (a : Nat) : Nat := a / 256 / r.mtCount
def Res.scrBank (r : Res) (a : Nat) : Nat := (4 * r.scrLine a + a / 64 % 4) % 16
def Res.scrRow (r : Res) (a : Nat) : Nat := r.scrLine a / 4

/-- Read scratchpad bytes of a region, byte by byte through the mapping. -/
def scrRead (r : Res) (s : State) (a : Nat) : Nat → List Byte
  | 0 => []
  | n + 1 => let (k, o) := r.scrHome a; readByte (s.mt k).scr o :: scrRead r s (a + 1) n

/-- Write scratchpad bytes of a region. -/
def scrWrite (r : Res) (s : State) (a : Nat) : List Byte → State
  | [] => s
  | b :: bs =>
    let (k, o) := r.scrHome a
    scrWrite r (s.modMt k (fun m => { m with scr := writeByte m.scr o b })) (a + 1) bs

/-- A write that is no committed store takes the place of what committed stores left in these bytes (R345, R355). -/
def forgetPast (r : Res) (a n : Nat) (s : State) : State :=
  let mt := (r.scrHome a).1
  if (s.mt mt).past.isEmpty then s
  else s.modMt mt (fun m => { m with past := m.past.filter (fun p => !(decide (a ≤ p.off) && decide (p.off < a + n))) })

/-- What a write of scratchpad bytes leaves, whoever makes it but a commit buffer; an access that crosses lines goes line by line. -/
def scrPut (r : Res) (s : State) (a : Nat) (bs : List Byte) : State :=
  (upto ((a % 256 + bs.length + 255) / 256)).foldl (fun s i =>
    let line := (a / 256 + i) * 256
    forgetPast r (max a line) (min (a + bs.length) (line + 256) - max a line) s) (scrWrite r s a bs)

/-! ### The typed buffers (R142 to R144) -/

/-- Bytes of a typed buffer (R142): 0 W, 1 A, 2 Q. -/
def bufSize (b : Nat) : Nat := if b = 2 then 0x10000 else 0x18000

def AT.buf (a : AT) (b : Nat) : Memory := if b = 0 then a.w else if b = 1 then a.a else a.q
def AT.setBuf (a : AT) (b : Nat) (m : Memory) : AT :=
  if b = 0 then { a with w := m } else if b = 1 then { a with a := m } else { a with q := m }

/-- What a tile keeps of a cycle, for this cycle: an earlier cycle's is empty. -/
def AT.freshIn (a : AT) (cycle : Nat) : List Fresh := if a.freshAt = cycle + 1 then a.fresh else []
def AT.portsIn (a : AT) (cycle : Nat) : SMap Nat := if a.freshAt = cycle + 1 then a.ports else []

/-- A buffer as an agent of priority `prio` reads it (R144): without what others have written in this cycle. -/
def AT.seen (a : AT) (cycle b prio : Nat) : Memory :=
  (a.freshIn cycle).foldr (fun f m => if f.buf = b && f.prio ≠ prio then writeBytes m f.addr f.old else m) (a.buf b)

/-- Whether a writer of lower priority has written a byte in this cycle (R144): its byte remains. -/
def AT.beaten (a : AT) (cycle b prio o : Nat) : Bool :=
  (a.freshIn cycle).any (fun f => f.buf == b && decide (f.prio > prio) && decide (f.addr ≤ o) && decide (o < f.addr + f.old.length))

/-- One byte written by an agent of a priority. -/
def AT.putByte (cycle b prio : Nat) (a : AT) (x : Nat × Byte) : AT :=
  if a.beaten cycle b prio x.1 then a
  else { a.setBuf b (writeByte (a.buf b) x.1 x.2) with
    freshAt := cycle + 1
    fresh := a.freshIn cycle ++ [⟨b, x.1, prio, [readByte (a.buf b) x.1]⟩]
    ports := a.portsIn cycle }

/-- Bytes written to a buffer by an agent of a priority, those that `keep` marks (empty: all) (R144). -/
def AT.writeBuf (a : AT) (cycle b prio o : Nat) (bs : List Byte) (keep : List Bool := []) : AT :=
  (((bs.zipIdx).filter (fun x => keep.getD x.2 true)).map (fun x => (o + x.2, x.1))).foldl (AT.putByte cycle b prio) a

/-- Whether a port, 2b to read buffer b and 2b + 1 to write it, can still move n bytes in this cycle (R142). -/
def AT.portFree (a : AT) (cycle port n : Nat) : Bool := decide (getD 0 port (a.portsIn cycle) + n ≤ 256)

def AT.usePort (a : AT) (cycle port n : Nat) : AT :=
  { a with freshAt := cycle + 1, fresh := a.freshIn cycle, ports := upd 0 port (· + n) (a.portsIn cycle) }

/-! ### The token store of a tile (R171 to R174) -/

/-- Tokens of a position. -/
def AT.posToks (a : AT) (slot : Nat) (q : Pos) : List Token := getD [] (posEdge slot q) a.pos

/-- Tokens between a channel's producer and the destination's admission (R172). -/
def AT.chanToks (a : AT) (c : Nat) : List Token := getD [] c a.chan

/-- Those of an edge's tokens that it held at the start of the cycle (R173). -/
def AT.before (a : AT) (edge : Nat) (ts : List Token) : List Token := ts.take (ts.length - getD 0 edge a.newIn)
def AT.posNow (a : AT) (slot : Nat) (q : Pos) : List Token := a.before (posEdge slot q) (a.posToks slot q)
def AT.chanNow (a : AT) (c : Nat) : List Token := a.before (chanEdge c) (a.chanToks c)

/-- Entries of an edge in use: an entry freed in this cycle admits nothing before the next (R173). -/
def AT.inUse (a : AT) (edge : Nat) (ts : List Token) : Nat := ts.length + (getD [] edge a.gone).length

/-- A token joins the `n` of an edge that came in this cycle, in ascending SPORT order (R173). -/
def joinNew (n : Nat) (k : Token) (ts : List Token) : List Token :=
  let new := ts.drop (ts.length - n)
  let low (x : Token) : Bool := decide (x.sport.toNat ≤ k.sport.toNat)
  ts.take (ts.length - n) ++ new.takeWhile low ++ k :: new.dropWhile low

/-- A token comes to an edge. -/
def AT.pushPos (a : AT) (slot : Nat) (q : Pos) (k : Token) : AT :=
  let e := posEdge slot q
  { a with pos := upd [] e (joinNew (getD 0 e a.newIn) k) a.pos, newIn := upd 0 e (· + 1) a.newIn }
def AT.pushChan (a : AT) (c : Nat) (k : Token) : AT :=
  { a with chan := put c (a.chanToks c ++ [k]) a.chan, newIn := upd 0 (chanEdge c) (· + 1) a.newIn }

/-- The oldest token leaves a channel. -/
def AT.popChan (a : AT) (c : Nat) (rest : List Token) (t : Time) : AT :=
  { a with chan := put c rest a.chan, gone := upd [] (chanEdge c) (· ++ [t]) a.gone }

/-- A new cycle begins: what came stands, what left is free. -/
def AT.settle (a : AT) : AT :=
  if a.newIn.isEmpty && a.gone.isEmpty then a else { a with newIn := [], gone := [] }

/-- Positions that slots of a block use. -/
def usedPositions (b : Bank) : Nat :=
  ((upto b.icnt).map (fun k => match b.instr k with | some i => (uses i).length | none => 0)).sum

/-- Entries reserved as floors (R171). -/
def AT.floors (a : AT) : Nat :=
  usedPositions a.active + (a.active.chans.filter (fun w => decide (w.depth ≠ 0))).length

/-- Shared entries in use: every holder's tokens beyond its first. -/
def AT.sharedUsed (a : AT) : Nat :=
  (a.pos.map (fun e => a.inUse e.1 e.2 - 1)).sum + (a.chan.map (fun e => a.inUse (chanEdge e.1) e.2 - 1)).sum

/-- Free shared entries of the pool (R171). -/
def AT.sharedFree (a : AT) : Nat := 256 - a.floors - a.sharedUsed

/-- Tokens a tile holds (R387, SLOTPOOL of R411). -/
def AT.tokensHeld (a : AT) : Nat := (a.pos.map (fun e => e.2.length)).sum + (a.chan.map (fun e => e.2.length)).sum

/-- Current depth of a position (R60, R192). -/
def AT.posDepth (a : AT) (slot : Nat) (q : Pos) : Nat := getD (a.active.slotDepth slot q.num) (posEdge slot q) a.depth

/-- Current depth of a channel (R59, R192). -/
def AT.chanDepth (a : AT) (w : ChanWord) : Nat := getD w.depth (chanEdge w.ch) a.depth

/-- An edge whose RESIZE has not taken effect admits nothing (R192). -/
def AT.closed (a : AT) (edge : Nat) : Bool := a.resizing.any (fun x => x.edge == edge && !x.done)

def leastTime (ts : List Token) : Option Nat := minNat? (ts.map (fun t => t.time.toNat))

/-- Whether a position can take one more token (R171, R192). -/
def AT.room (a : AT) (slot : Nat) (q : Pos) : Bool :=
  let held := a.inUse (posEdge slot q) (a.posToks slot q)
  !a.closed (posEdge slot q) && decide (held < a.posDepth slot q) && (held == 0 || decide (a.sharedFree > 0))

/-- Whether a channel's buffer can take one more token. -/
def AT.chanRoom (a : AT) (w : ChanWord) : Bool :=
  let held := a.inUse (chanEdge w.ch) (a.chanToks w.ch)
  decide (held < a.chanDepth w) && (held == 0 || decide (a.sharedFree > 0))

/-- Whether a position stands at its last entry (R174). -/
def AT.atLast (a : AT) (slot : Nat) (q : Pos) : Bool :=
  let held := a.inUse (posEdge slot q) (a.posToks slot q)
  held + 1 == a.posDepth slot q || (held == 0 && a.sharedFree == 0) || (held != 0 && a.sharedFree == 1)

/-- The smallest time that a position held at the start of the cycle. -/
def AT.leastBefore (a : AT) (slot : Nat) (q : Pos) : Option Nat :=
  minNat? ((a.posNow slot q).map (fun t => t.time.toNat) ++ (getD [] (posEdge slot q) a.gone).map (fun t => t.toNat))

/-- Whether the rule of R174 admits a token of time t to the last entry. -/
def AT.lastRule (a : AT) (slot : Nat) (q : Pos) (t : Time) : Bool :=
  match a.active.instr slot with
  | none => false
  | some i =>
    if eitherFires i || (uses i).length ≤ 1 then true
    else (uses i).all (fun q' => q' == q ||
      (match a.leastBefore slot q' with | none => true | some m => decide (t.toNat ≤ m)))

/-- Whether a position can take a token of time t (R171, R174, R192); a finished tile admits everything (R191). -/
def AT.canTake (a : AT) (slot : Nat) (q : Pos) (t : Time) : Bool :=
  a.exited || (a.room slot q && (a.lax || !a.atLast slot q || a.lastRule slot q t))

/-- A token enters a position; a finished tile discards it and counts it (R191). -/
def AT.takeToken (a : AT) (slot : Nat) (q : Pos) (k : Token) : AT :=
  if a.exited then a.addExd 1 else a.pushPos slot q k

/-! ### Progress (R325 to R327) -/

/-- Location of an edge (R325). -/
def AT.loc (a : AT) (edge : Nat) : Option Nat := match getD 0 edge a.cover with
  | 0 => none
  | n + 1 => some n

/-- A change at the location of an edge of a tile. -/
def postAt (a : AT) (edge : Nat) (t : Time) (n : Int) : List Post :=
  match a.res, a.loc edge with
  | some h, some l => [⟨h, l, t, n⟩]
  | _, _ => []

/-- Net equal pointstamps (R327). -/
def netAdd (p : Post) : List Post → List Post
  | [] => [p]
  | x :: xs => if x.res = p.res ∧ x.loc = p.loc ∧ x.time = p.time then { x with n := x.n + p.n } :: xs
    else x :: netAdd p xs

def net (ps : List Post) : List Post := (ps.foldl (fun acc p => netAdd p acc) []).filter (fun p => p.n != 0)

/-- A tile's changes of this cycle are gathered into its batch (R327). -/
def State.post (s : State) (k : Nat) (ps : List Post) : State :=
  match net ps with
  | [] => s
  | b => { s with posts := upd [] k (· ++ b) s.posts }

/-- A tile's batch joins the input FIFO of its quad node; an empty batch is not sent (R327). -/
def sendBatch (s : State) (k : Nat) (ps : List Post) : State :=
  match net ps with
  | [] => s
  | b =>
    let q := quadOf k
    let t := getD {} q s.trackers
    { s with trackers := put q { t with inq := upd [] (keyT k) (fun l => l ++ [b]) t.inq } s.trackers }

/-- The cycle's batches go out. -/
def sendBatches (s : State) : State :=
  if s.posts.isEmpty then s else s.posts.foldl (fun s e => sendBatch s e.1 e.2) { s with posts := [] }

/-! ### Sending -/

/-- Header image of a token (R86, R164). -/
def Token.header (t : Token) : Nat :=
  t.sport.toNat * 2 ^ 90 + t.seq.toNat * 2 ^ 74
    + (match t.kind with | .data => 0 | .pulse => 1 | .coord => 2 | .eof => 3 | .eos => 4 | .count => 5) * 2 ^ 71
    + sizeCode t.data.length * 2 ^ 68 + t.type.code.toNat * 2 ^ 64 + t.time.toNat

/-- Whether a token may join a backing queue (R150). -/
def backqRoom (d : BackqDecl) (q : BackQ) (k : Token) : Bool :=
  decide (q.toks.length < d.tokens) && decide (sizeCode k.data.length ≤ d.size)

/-- A token joins the tail of backing queue `q` (R150). -/
def pushBackq (h q : Nat) (k : Token) (s : State) : State :=
  s.modRes h (fun r => let b := getD {} q r.backq; { r with backq := put q { b with toks := b.toks ++ [k] } r.backq })

/-- One token to one target of tile `k` (R171 to R174, R150): the state and the changes of count, or `none` when the
target cannot take it. -/
def sendOne (s : State) (k : Nat) (tgt : Target) (tok : Token) : Option (State × List Post) :=
  let a := s.at k
  match tgt with
  | .none => some (s, [])
  | .pos q slot =>
    if a.canTake slot.toNat q tok.time then
      some (s.setAt k (a.takeToken slot.toNat q tok),
        if a.exited then [] else postAt a (posEdge slot.toNat q) tok.time 1)
    else none
  | .chan c =>
    if a.exited then some (s.setAt k (a.addExd 1), [])
    else match a.res, a.active.chan c.toNat with
    | some h, some w =>
      match get? h s.res with
      | none => none
      | some r =>
        let here := postAt a (chanEdge c.toNat) tok.time 1
        let push := s.setAt k (a.pushChan c.toNat tok)
        if a.closed (chanEdge c.toNat) then none
        else if a.chanDepth w = 0 then
          let d := resTile r w.dqx w.dqy w.dt
          let b := s.at d
          if b.canTake w.dslot (posOf w.dpos) tok.time then
            some (s.setAt d (b.takeToken w.dslot (posOf w.dpos) tok),
              if b.exited then [] else postAt b (w.dslot * 3 + w.dpos) tok.time 1)
          else none
        else
          let room := a.chanRoom w
          match if w.bq = 63 then none else r.desc.backqs[w.bq]? with
          | none => if room then some (push, here) else none
          | some d =>
            let q := getD {} w.bq r.backq
            if q.src.isSome then none
            else if q.toks.isEmpty && room then some (push, here)
            else if sizeCode tok.data.length > d.size then
              if decide (q.toks.length ≥ d.tokens) && !room then none
              else some (s.modRes h (fun r => { r with backq := put w.bq { q with src := some tok } r.backq }), here)
            else if backqRoom d q tok then some (pushBackq h w.bq tok s, here)
            else none
    | _, _ => none

/-- A running residency. -/
def runRes (s : State) (h : Nat) : Option Res := match get? h s.res with
  | some r => if r.running then some r else none
  | none => none

/-- Whether a counter of the tile selects an event of R416. -/
def AT.counts (a : AT) (code : Nat) : Bool := a.perfsel.any (fun e => e.2.toNat % 256 == code)

/-- R416, event 7: each running tile that counts it counts the attempts that fail and would succeed but for its rule of R174. -/
def countRefused (tries : List (State → Bool)) (s : State) : State :=
  if tries.isEmpty then s
  else (s.ats.filter (fun e => e.2.counts 7 && ((e.2.res.bind (runRes s)).isSome))).foldl (fun t e =>
    t.modAt e.1 (fun a => a.perf 7 (tries.filter (fun f => !f s && f (s.setAt e.1 { e.2 with lax := true }))).length)) s

/-- Tokens of one firing or delivery in target order (R173); `none` when one of them cannot be taken. `gen` are the generator
counters that they carry on (R154). -/
def sendAll (s : State) (k : Nat) (sport : BitVec 12) (seq : BitVec 16) (outs : List Out) (gen : List (List Nat) := []) :
    Option (State × List Post) :=
  match outs with
  | [] => some (s, [])
  | o :: os =>
    match sendOne s k o.tgt ⟨sport, seq, o.kind, o.type, o.time, o.data, false, gen⟩ with
    | none => none
    | some (s, ps) =>
      match sendAll s k sport seq os gen with
      | none => none
      | some (s, ps') => some (s, ps ++ ps')

/-- SPORT of a port of a tile, relative to the region (R166). -/
def sportOf (r : Res) (k port : Nat) : BitVec 12 :=
  BitVec.ofNat 12 (relX r k * 256 + relY r k * 16 + keyT k * 4 + port)

/-- The MT of the quad of the position that a target of tile `k` leads to (R166); an egress channel's tokens are counted by the MT
of its own quad (DEDUCED, log 1). -/
def recvMt (s : State) (r : Res) (k : Nat) (tgt : Target) : Nat := match tgt with
  | .chan c => (match (s.at k).active.chan c.toNat with
    | some w => if w.cls = 2 then k / 4 * 4 + 3 else resTile r w.dqx w.dqy 3
    | none => k / 4 * 4 + 3)
  | _ => k / 4 * 4 + 3

/-- SEQ of an MT's next delivery (R166). -/
def MT.nextSeq (m : MT) : MT := { m with seq := (m.seq + 1) % 2 ^ 16 }

/-- Tokens that the MTs of the receiving quads deliver: each in the SPORT of its MT, pipe 11, with that MT's SEQ (R166). -/
def mtSend (s : State) (r : Res) (k : Nat) (outs : List Out) : Option (State × List Post) :=
  let mts := dedup ((outs.filter (fun o => o.tgt != .none)).map (fun o => recvMt s r k o.tgt))
  (outs.foldl (fun (acc : Option (State × List Post)) o =>
    let mt := recvMt s r k o.tgt
    acc.bind (fun x => (sendAll x.1 k (sportOf r mt 3) (BitVec.ofNat 16 (s.mt mt).seq) [o]).map (fun y =>
      (y.1, x.2 ++ y.2)))) (some (s, []))).map (fun x => (mts.foldl (fun s mt => s.modMt mt MT.nextSeq) x.1, x.2))

/-! ### Faults (R391 to R393) -/

/-- The record of a hold of a slot (R391, PLACE 0). -/
def slotRec (r : Res) (rid k slot : Nat) (cls : FClass) (t : Time) (addr : W64) (gen : List Nat) : FRec :=
  { cls := cls, asid := r.asid, rid := rid, place := .at, die := keyDie k, qx := relX r k, qy := relY r k,
    tile := keyT k, slot := slot, time := t, addr := addr, gen := gen, link := .slot k slot }

/-- FFLG of a typed-buffer hold: buffer 0 W, 1 A, 2 Q (R391). -/
def bufFlag (b : Nat) : Nat := 8 + 16 * b

/-- Descriptor-error bit of FFLG. -/
def descFlag : Nat := 2

/-- A record goes to the fault controller (R393). -/
def State.raise (s : State) (f : FRec) : State :=
  { s with faults := { s.faults with incoming := s.faults.incoming ++ [f] } }

/-- A time of a residency is marked failed (R397, R412). -/
def State.markFailed (s : State) (h : Nat) (t : Time) : State :=
  (s.modRes h (fun r => { r with fail := true, failt := if t.toNat < r.failt.toNat then t else r.failt })).modTask h
    (fun k => { k with failed := true })

/-! ### Exceptions of a service core (R418, log 5) -/

/-- A register of a core; x0 reads 0. -/
def Core.reg (c : Core) (n : Nat) : W64 := if n = 0 then 0 else getD 0 n c.regs

/-- Write a register; x0 discards. -/
def Core.setReg (c : Core) (n : Nat) (v : W64) : Core := if n = 0 then c else { c with regs := put n v c.regs }

def Core.csr (c : Core) (n : Nat) : Nat := (getD 0 n c.csrs).toNat
def Core.setCsr (c : Core) (n v : Nat) : Core := { c with csrs := put n (BitVec.ofNat 64 v) c.csrs }

/-- Replace bits of a number. -/
def setBits (v lo len x : Nat) : Nat := v - bits v lo len * 2 ^ lo + x % 2 ^ len * 2 ^ lo

/-- Take an exception of a cause. To machine mode: mepc, mcause, mtval, MPP, MPIE, MIE and mtvec; to supervisor mode, where
medeleg delegates it from below machine mode: sepc, scause, stval, SPP, SPIE, SIE and stvec. -/
def Core.takeTrap (c : Core) (cause : Nat) (tval : W64) : Core :=
  let st := c.csr 0x300
  if decide (c.mode < 3) && bit (c.csr 0x302) cause then
    let st := setBits (setBits (setBits st 8 1 (if c.mode = 1 then 1 else 0)) 5 1 (bits st 1 1)) 1 1 0
    { ((((c.setCsr 0x300 st).setCsr 0x141 c.pc.toNat).setCsr 0x142 cause).setCsr 0x143 tval.toNat) with
      mode := 1
      pc := BitVec.ofNat 64 (c.csr 0x105 / 4 * 4) }
  else
    let st := setBits (setBits (setBits st 11 2 c.mode) 7 1 (bits st 3 1)) 3 1 0
    { ((((c.setCsr 0x300 st).setCsr 0x341 c.pc.toNat).setCsr 0x342 cause).setCsr 0x343 tval.toNat) with
      mode := 3
      pc := BitVec.ofNat 64 (c.csr 0x305 / 4 * 4) }

/-- Return from an exception, of machine mode or of supervisor mode. MPP never holds 2, which no write stores. -/
def Core.returnTrap (c : Core) (machine : Bool) : Core :=
  let st := c.csr 0x300
  if machine then
    let mpp := bits st 11 2
    let st' := setBits (setBits (setBits st 3 1 (bits st 7 1)) 7 1 1) 11 2 0
    { (c.setCsr 0x300 (if mpp = 3 then st' else setBits st' 17 1 0)) with
      mode := if mpp = 2 then 0 else mpp
      pc := BitVec.ofNat 64 (c.csr 0x341) }
  else
    let st' := setBits (setBits (setBits st 1 1 (bits st 5 1)) 5 1 1) 8 1 0
    { (c.setCsr 0x300 (setBits st' 17 1 0)) with mode := bits st 8 1, pc := BitVec.ofNat 64 (c.csr 0x141) }

/-- An illegal instruction of core n (cause 2). -/
def State.illegal (s : State) (n : Nat) : State :=
  let (v, s) := s.draw
  { s with cores := upd {} n (fun c => c.takeTrap 2 (Config.trapValue v)) s.cores }

/-- The words of a die. -/
def State.die (s : State) (d : Nat) : Die := getD {} d s.dies
def State.modDie (s : State) (d : Nat) (f : Die → Die) : State := { s with dies := upd {} d f s.dies }

/-- A 16-bit count rises and saturates (R435). -/
def count16 (n : Nat) : Nat := min (n + 1) 0xFFFF

/-- A die counts an error that it has corrected (R435). -/
def noteCe (d : Nat) (s : State) : State := if d < 4 then s.modDie d (fun x => { x with ce := count16 x.ce }) else s

/-- A die counts an uncorrectable error that it has detected (R435). -/
def noteUe (die : Nat) (s : State) : State := s.modDie die (fun d => { d with ue := count16 d.ue })

/-- A write of n bytes to the device's memory breaks the reservations that cores hold there (R417, log 5). -/
def dropResv (pa n : Nat) (s : State) : State :=
  let hit (x : Core) : Bool := x.resv.any (fun g => decide (0x2000 ≤ g) && decide (g * 64 < pa + n) && decide (pa < g * 64 + 64))
  if s.cores.any (fun e => hit e.2) then
    { s with cores := s.cores.map (fun e => if hit e.2 then (e.1, { e.2 with resv := none }) else e) }
  else s

/-! ### Firing -/

/-- What a firing stands on. -/
structure Ctx where
  key   : Nat
  slot  : Nat
  time  : Time
  depth : Nat
  shape : List Nat
  h     : Nat
  r     : Res
  a     : AT
  toks  : List (Pos × Token)
  deriving DecidableEq, Repr, Inhabited

/-- What a meaning answers. -/
inductive FireRes where
  /-- the gate is closed: the slot is not ready (R175) -/
  | idle
  /-- the firing: positions whose token is consumed, tokens sent, further changes of count, the state it leaves -/
  | fired (eat : List Pos) (outs : List Out) (posts : List Post) (s : State)
  /-- the firing is held in its slot (R186, R391); the tokens stay -/
  | hold (hd : SlotHold) (f : FRec) (s : State)

/-- The earliest-arrived token of time t in a position (R175). -/
def AT.head (a : AT) (slot : Nat) (q : Pos) (t : Time) : Option Token := (a.posNow slot q).find? (fun k => k.time == t)

/-- The matched tokens: one of time t in each position, or in either (R175, R39). -/
def AT.matched (a : AT) (slot : Nat) (t : Time) (ps : List Pos) (either : Bool) : Option (List (Pos × Token)) :=
  let found := ps.filterMap (fun q => (a.head slot q t).map (fun k => (q, k)))
  if found.length = ps.length || (either && !found.isEmpty) then some found else none

def Ctx.tok (c : Ctx) (q : Pos) : Token :=
  match c.toks.find? (fun e => e.1 == q) with
  | some e => e.2
  | none => ⟨0, 0, .data, .b64, c.time, [], false, []⟩

def Ctx.l (c : Ctx) : Token := c.tok .l
def Ctx.rt (c : Ctx) : Token := c.tok .r
def Ctx.p (c : Ctx) : Token := c.tok .p

/-- Generator counters that a firing carries on: those of L, else of another operand (R154). -/
def Ctx.gens (c : Ctx) : List (List Nat) := ((c.toks.map (fun e => e.2.gen)).find? (fun g => !g.isEmpty)).getD []

/-- Time shape of a block (R37, R75). -/
def shapeOf (r : Res) (b : Bank) : List Nat := r.desc.shapes.getD b.tsi []

/-- The context of a firing of instruction `i` at the slot and time in focus: the residency runs, the tile is not
finished, the bank is valid, the slot is neither held, nor by a message (R128), nor generating, nor still sending, the pipe has not fired in this cycle, and the
positions hold tokens of that time (R175, R176, R186, R187, R191, R398). -/
def ctxOf (i : Instr) (s : State) : Option Ctx :=
  let k := s.focus.tile
  let slot := s.focus.slot
  let t := s.focus.time
  let a := s.at k
  match a.res with
  | none => none
  | some h =>
    match get? h s.res with
    | none => none
    | some r =>
      let sl := a.slot slot
      if r.running && !a.exited && a.active.valid && sl.hold.isNone && sl.msgs.isEmpty && sl.gen.isNone && sl.owed.isEmpty
          && getD 0 (pipeOf i).num a.fired != s.cycle + 1 then
        match a.matched slot t (uses i) (eitherFires i) with
        | none => none
        | some toks => some ⟨k, slot, t, getD 0 slot a.sdepth, shapeOf r a.active, h, r, a, toks⟩
      else none

/-- Consume the earliest token of time t from positions of a slot: the tile and the −1 changes (R175, R326). -/
def consume (a : AT) (slot : Nat) (t : Time) : List Pos → AT × List Post
  | [] => (a, [])
  | q :: qs =>
    let e := posEdge slot q
    let a' := { a with pos := upd [] e (removeFirst (fun k => k.time == t)) a.pos, gone := upd [] e (· ++ [t]) a.gone }
    let (a'', ps) := consume a' slot t qs
    (a'', postAt a (posEdge slot q) t (-1) ++ ps)

/-- The pipe fired in this cycle and its port's SEQ advances (R166, R176); counted by PERF (R416). -/
def AT.markFired (a : AT) (p : Pipe) (cycle : Nat) : AT :=
  let a := { a with fired := put p.num (cycle + 1) a.fired, seqs := upd 0 p.port (fun n => (n + 1) % 2 ^ 16) a.seqs }
  match p with
  | .vec => a.perf 2 1
  | .mem => a.perf 3 1
  | .row => a.perf 4 1
  | .oth => a

/-- SEQ that a firing of this pipe carries (R166). -/
def AT.seqOf (a : AT) (p : Pipe) : BitVec 16 := BitVec.ofNat 16 (getD 0 p.port a.seqs)

/-- A held slot: HELD of FAULTST follows when the record enters (R393). -/
def holdSlot (k slot : Nat) (hd : SlotHold) (f : FRec) (s : State) : State :=
  (s.modAt k (fun a => a.modSlot slot (fun x => { x with hold := some hd }))).raise f

/-- A whole firing, or nothing when a target cannot take its token (R175, R193). -/
def finish (i : Instr) (c : Ctx) : FireRes → State → State
  | .idle, s => s
  | .hold hd f s', _ => (holdSlot c.key c.slot hd f s').act
  | .fired eat outs posts s', s =>
    match sendAll s' c.key (sportOf c.r c.key (pipeOf i).port) (c.a.seqOf (pipeOf i)) outs c.gens with
    | none => s
    | some (s1, ps) =>
      let (a, cs) := consume (s1.at c.key) c.slot c.time eat
      ((s1.setAt c.key (a.markFired (pipeOf i) s.cycle)).post c.key (cs ++ ps ++ posts)).act

/-- Rank of the marker that R178 sends. -/
def Ctx.topRank (c : Ctx) : Nat := (c.toks.map (fun e => e.2.rank)).foldl max 0

/-- The tokens consumed with a marker that are none themselves are counted (R178, R416). -/
def Ctx.countLost (c : Ctx) (s : State) : State :=
  let lost := (c.toks.filter (fun e => !e.2.isMarker)).length
  s.modAt c.key (fun a => (a.addMkd lost).perf 8 lost)

/-- The end-marker rule (R178): everything matched is consumed and the highest-ranked marker goes to every target at
the transformed time. -/
def markerRule (i : Instr) (t' : Time) (c : Ctx) (s : State) : FireRes :=
  .fired (c.toks.map (·.1)) ((targetsOf i).map (markerOut c.topRank t')) [] (c.countLost s)

/-- The position of a matched token whose payload fails its parity check: one that came so (R433), or, where the step's bad byte is below
8, the one it numbers. -/
def Ctx.badTok (c : Ctx) (s : State) : Option Pos :=
  match c.toks.find? (fun e => e.2.bad) with
  | some e => some e.1
  | none => match s.focus.bad with
    | some b => if b < 8 then (c.toks.find? (fun e => e.1.num == b)).map (·.1) else none
    | none => none

/-- Fire an instruction that defines its own marker behaviour. A token whose payload failed its parity check holds the slot
that would consume it; LANE names the position (R397). -/
def fireOwn (i : Instr) (body : Ctx → State → FireRes) (s : State) : Result :=
  match ctxOf i s with
  | none => .next s
  | some c => match c.badTok s with
    | some q =>
      .next ((holdSlot c.key c.slot
        { cls := .uncorr, time := c.time, onAbort := (targetsOf i).map (markerOut 5 c.time), skipFx := .clean q.num }
        { slotRec c.r (ridOf s c.h) c.key c.slot .uncorr c.time 0 [] with lane := q.num }
        (if s.focus.bad.isSome then noteUe (keyDie c.key) s else s)).act)
    | none => .next (finish i c (body c s) s)

/-- Fire an instruction whose markers go their own way: `mark` when one is among the matched tokens. -/
def fireWith (i : Instr) (mark body : Ctx → State → FireRes) (s : State) : Result :=
  fireOwn i (fun c s => if c.toks.any (fun e => e.2.isMarker) then mark c s else body c s) s

/-- Fire an instruction under the end-marker rule, with its time transform. -/
def fireAt (i : Instr) (mtime : Ctx → Time) (body : Ctx → State → FireRes) (s : State) : Result :=
  fireWith i (fun c s => markerRule i (mtime c) c s) body s

/-- Fire an instruction under the end-marker rule at the L token's time. -/
def fire (i : Instr) (body : Ctx → State → FireRes) (s : State) : Result := fireAt i (fun c => c.time) body s

/-- Consume everything matched and send these tokens. -/
def Ctx.send (c : Ctx) (outs : List Out) (s : State) : FireRes := .fired (c.toks.map (·.1)) outs [] s

/-- GEN of a RANGE hold: the generator's counters, where the address came from one, beside GEN9 (R392). -/
def withCounters (counters gen : List Nat) : List Nat :=
  if counters.isEmpty then gen else (counters ++ List.replicate (9 - counters.length) 0).take 9 ++ gen.drop 9

/-- Hold the slot: SKIP consumes and sends `skip`, ABORT sends end-of-stream to every target (R186, R464). -/
def Ctx.holdWith (c : Ctx) (i : Instr) (cls : FClass) (fflg : Nat) (addr : W64) (gen : List Nat) (skip : List Out)
    (s : State) : FireRes :=
  .hold { cls := cls, time := c.time, onSkip := skip, onAbort := (targetsOf i).map (markerOut 5 c.time) }
    { slotRec c.r (ridOf s c.h) c.key c.slot cls c.time addr
        (if cls == .range then withCounters (c.gens.headD []) gen else gen) with fflg := fflg } s

end Sys2Proof.Machine
end

