-- ==== Sys2Proof/Machine/Frontier.lean ====
section
/-! DEFINITION. Path summaries and frontiers (R331 to R337, R461). -/

namespace Sys2Proof.Machine

/-- A time with the levels from `lo` to `hi` set to 0. -/
def clearLevels (shape : List Nat) (t : Time) (lo hi : Nat) : Time :=
  ((upto (hi + 1)).filter (fun k => decide (lo ≤ k))).foldl (fun t k => setCtr shape t k 0) t

/-- R331: apply a summary to a time at static depth e. -/
def applySum (shape : List Nat) (sm : Summary) (t : Time) (e : Nat) : Time :=
  let k := e - sm.p
  let t := clearLevels shape t (k + 1) e
  if k = 0 then
    let ep := epochOf t + sm.d
    BitVec.ofNat 64 (t.toNat % 2 ^ 44 + (if ep ≤ 2 ^ 20 - 1 then ep else 2 ^ 20 - 1) * 2 ^ 44)
  else
    let top := 2 ^ levelWidth shape k - 1
    let c := ctr shape t k + sm.d
    setCtr shape t k (if c ≤ top then c else top)

/-- R333: the summary of one path followed by another. -/
def composeSum (a b : Summary) : Summary :=
  if b.p > a.q then ⟨a.p + b.p - a.q, b.d, b.q⟩
  else if b.p = a.q then ⟨a.p, (if a.d + b.d ≤ 2 ^ 56 - 1 then a.d + b.d else 2 ^ 56 - 1), b.q⟩
  else ⟨a.p, a.d, a.q - b.p + b.q⟩

/-- R334: the order of the summaries of one pair of locations. -/
def leSum (a b : Summary) : Bool :=
  if a.p = b.p then decide (a.d ≤ b.d) else if a.p < b.p then decide (b.d ≥ 1) else a.d == 0

/-- Summary from location i to location j of a residency (R80). -/
def Desc.sum (d : Desc) (i j : Nat) : Option Summary := (d.sums[i * d.locs.length + j]?).getD none

/-- Summary from a location of a residency, hubs included. -/
def Res.sum (r : Res) (i j : Nat) : Option Summary :=
  if i < r.desc.locs.length then r.desc.sum i j
  else match r.hubs[i - r.desc.locs.length]? with
    | some h => (h.sums[j]?).getD none
    | none => none

/-- The place that a location of a residency stands for. -/
def Res.locAt (r : Res) (i : Nat) : Option Loc :=
  if i < r.desc.locs.length then r.desc.locs[i]? else (r.hubs[i - r.desc.locs.length]?).map (·.place)

/-- The hub that work of a slot passes, where its place serves several depths. -/
def Res.hubAt (r : Res) (k slot : Nat) : Option Nat :=
  (r.ecover.find? (fun e => e.1 == .pos (relX r k) (relY r k) (keyT k) slot 0)).map (·.2)

/-- Index of a location. -/
def Desc.locIdx (d : Desc) (l : Loc) : Option Nat := d.locs.findIdx? (fun x => x == l)

/-- The probe of a number. -/
def Desc.probe (d : Desc) (n : Nat) : Option Probe := d.probes.find? (fun x => x.num == n)

/-- Channels that feed an egress binding (R59, R64), as locations. -/
def egressLocs (d : Desc) (b : Nat) : List Nat :=
  (d.blocks.flatMap (fun k =>
    ((({ valid := true, words := k.words } : Bank).chans.filter (fun w => w.cls == 2 && w.bind == b)).map
      (fun w => Loc.chan k.qx k.qy k.t w.ch)))).filterMap d.locIdx

/-- The ingress position of a binding, as a location. -/
def ingressLoc (d : Desc) (b : Nat) : Option Nat :=
  match d.binds[b]? with
  | none => none
  | some x => d.locIdx (.pos x.qx x.qy x.tile x.slot x.pos)

/-- Summaries from location i of residency `a` to location j of residency `h`, within it and through chains of
bindings of at most `n` residencies, which may return to one (R335). -/
def sumsTo (rs : SMap Res) : Nat → Nat → Nat → Nat → Nat → List Summary
  | 0, _, _, _, _ => []
  | n + 1, a, i, h, j =>
    match get? a rs with
    | none => []
    | some r =>
      (if a = h then (r.sum i j).toList else []) ++
      (r.peers.flatMap (fun e =>
        match r.desc.binds[e.1]?, get? e.2.1 rs with
        | some x, some r' =>
          if x.kind ≠ 0 then []
          else match ingressLoc r'.desc e.2.2 with
            | none => []
            | some m => (egressLocs r.desc e.1).flatMap (fun l =>
                match r.sum i l with
                | none => []
                | some s1 => (sumsTo rs n e.2.1 m h j).map (composeSum s1))
        | _, _ => []))

/-- Least value of the times that a count could still reach at location j of residency h; `chain` residencies may be
crossed (R335). -/
def reach (rs : SMap Res) (chain : Nat) (h j : Nat) (c : Count) : List Nat :=
  if c.n ≤ 0 then []
  else match get? c.res rs with
    | none => []
    | some r =>
      let (e, shape) := r.ldepth.getD c.loc (0, [])
      (sumsTo rs chain c.res c.loc h j).map (fun sm => (applySum shape sm c.time e).toNat)

/-- Residencies of the longest chain that can give a least summary. A chain that comes to an ingress position for the third time
gives nothing less: of its two rounds, which keep the depth, the one that leaves more levels does alone what both do (R334). -/
def chainMax (rs : SMap Res) : Nat := (rs.map (fun e => e.2.peers.length)).sum + 1

/-- R336: the frontier of a probe of residency h at a tracker; `none` when empty. Bindings are crossed at the package
root only (R335, R337). -/
def frontier (s : State) (trk : Nat) (h : Nat) (prb : Nat) : Option Nat :=
  match get? h s.res with
  | none => none
  | some r =>
    match r.desc.probe prb with
    | none => none
    | some p =>
      let t := getD {} trk s.trackers
      let chain := if trk ≥ 484 then chainMax s.res else 1
      let own := if trk ≥ 484 then t.exact ++ t.spill else (t.exact ++ t.spill).filter (fun c => c.res == h)
      minNat? (own.flatMap (reach s.res chain h p.loc))

/-- A frontier passes t when it is empty or greater (R336). -/
def passes (f : Option Nat) (t : Nat) : Bool :=
  match f with
  | none => true
  | some v => decide (v > t)

/-- Tracker of a scope for a unit in a quad (R337): `.qd` 2, `.di` 3, `.pk` 4; the package root serves `.pd` (R326). -/
def scopeTracker (scp quad : Nat) : Nat := if scp = 2 then quad else if scp = 3 then 480 + quad / 120 else 484

/-- Quad of a location relative to the region, where it lies in one. -/
def locQuad : Loc → Option (Nat × Nat)
  | .pos x y _ _ _ => some (x, y)
  | .chan x y _ _ => some (x, y)
  | .copy x y => some (x, y)
  | .cmb x y => some (x, y)
  | .owner x y => some (x, y)
  | .cap x y _ _ => some (x, y)
  | .detPend => none
  | .syn _ => none
  | .hub k x y _ => if k = 2 then none else some (x, y)

/-- Whether a location has a path to a probe's location. -/
def hasPath (d : Desc) (i j : Nat) : Bool := (d.sum i j).isSome

/-- Whether a scope contains every location with a path to location j, read from quad (qx, qy) (R337); counts at an egress channel are
kept at the package root only (R462). -/
def scopeHolds (d : Desc) (qx qy j scp : Nat) : Bool :=
  let into := (upto d.locs.length).filter (fun i => hasPath d i j)
  let through := (upto d.binds.length).any (fun b =>
    ((d.binds[b]?).map (fun x => x.kind == 1)).getD false &&
      (match ingressLoc d b with | none => false | some m => hasPath d m j))
  let inQuad := into.all (fun i => match (d.locs[i]?).bind locQuad with
    | some (x, y) => x == qx && y == qy
    | none => false)
  let onDie := into.all (fun i => match d.locs[i]? with | some .detPend => false | _ => true)
  let egress := (upto d.binds.length).any (fun b => ((d.binds[b]?).map (fun x => x.kind == 0)).getD false &&
    (egressLocs d b).any (fun l => l == j || into.contains l))
  if scp ≥ 4 then true else if through || egress then false else if scp = 3 then onDie else inQuad

/-- The lowest scope of R337. -/
def lowestScope (d : Desc) (qx qy j : Nat) : Nat :=
  if scopeHolds d qx qy j 2 then 2 else if scopeHolds d qx qy j 3 then 3 else 4

/-- Frontier of a probe read by a unit of tile `k` at the lowest scope. -/
def frontierOf (s : State) (k h prb : Nat) : Option Nat :=
  match get? h s.res with
  | none => none
  | some r =>
    match r.desc.probe prb with
    | none => none
    | some p => frontier s (scopeTracker (lowestScope r.desc (relX r k) (relY r k) p.loc) (quadOf k)) h prb

end Sys2Proof.Machine
end

