-- ==== Sys2Proof/Machine/Control.lean ====
section
/-! DEFINITION. The control and time instructions (R180 to R192) and the emissions of CNT and REPEAT. -/

namespace Sys2Proof.Machine

/-- R181: consumes its L token and sends nothing. -/
def execNop (h : Hd) (x : SysX) (s : State) : Result := fire (.nop h x) (fun c s => c.send [] s) s

/-- Changes of count for every token a tile holds, and how many they are. -/
def discardAll (a : AT) : List Post :=
  a.pos.flatMap (fun e => e.2.flatMap (fun k => postAt a e.1 k.time (-1))) ++
  a.chan.flatMap (fun e => e.2.flatMap (fun k => postAt a (chanEdge e.1) k.time (-1)))

/-- Changes of count of a tile's capabilities, released (R190). -/
def releaseCaps (a : AT) : List Post :=
  match a.res with
  | none => []
  | some h => a.caps.map (fun c => ⟨h, c.loc, c.time, -(c.count : Int)⟩)

/-- A slot of a finished tile generates nothing, holds nothing and waits for nothing (R191, R341). -/
def Slot.finished (x : Slot) : Slot := { x with gen := none, index := 0, tokIdx := 0, hold := none, wait := none }

/-- The registrations of a finished tile end: its L positions hold no token (R341). -/
def dropTileWaiters (k : Nat) (s : State) : State :=
  { s with trackers := s.trackers.map (fun e => (e.1,
      { e.2 with waiters := e.2.waiters.filter (fun w => w.tile != k), regq := e.2.regq.filter (fun w => w.tile != k) })) }

/-- A node's configuration whose rows can no longer all fire is over (R191); one whose rows have fired completes. -/
def AT.endCfg (a : AT) : AT × List Post := match a.node.cfg with
  | some g =>
    if g.used < g.m then ({ a with node := { a.node with cfg := none } }, postAt a (posEdge g.slot .l) g.time (-1)) else (a, [])
  | none => (a, [])

/-- R191: finishes the tile. The L token is consumed by the firing; every other token of the tile is discarded. -/
def execExit (h : Hd) (x : SysX) (s : State) : Result :=
  fire (.exit h x) (fun c s =>
    let (a, own) := consume (s.at c.key) c.slot c.time [.l]
    let gone := discardAll a
    let n := a.tokensHeld
    let (a, cfg) := a.endCfg
    .fired [] [] (own ++ gone ++ releaseCaps a ++ cfg)
      ((dropTileWaiters c.key s).setAt c.key { (a.addExd n) with
        pos := [], chan := [], newIn := [], caps := [], exited := true, slots := a.slots.map (fun e => (e.1, e.2.finished)) })) s

/-- R181: the L token with TYPE SH. -/
def execMov (h : Hd) (s : State) : Result :=
  fire (.mov h) (fun c s => c.send (both h (fun t => { c.l.to t with type := h.sh })) s) s

/-- R182: the immediate, repeated to fill 8 bytes. -/
def execConst (h : Hd) (imm : BitVec 30) (s : State) : Result :=
  fire (.const h imm) (fun c s =>
    c.send (both h (dataOut h.sh c.time (fillWith h.sh.width (immElem h.sh imm) 8))) s) s

/-- R182: bits [29:0] from L, [59:30] from IMM, [63:60] from MD. -/
def execConsth (h : Hd) (imm : BitVec 30) (s : State) : Result :=
  fire (.consth h imm) (fun c s =>
    let v := natAt c.l.data 0 8 % 2 ^ 30 + imm.toNat * 2 ^ 30 + h.md.toNat * 2 ^ 60
    c.send (both h (dataOut h.sh c.time (leBytes 8 v))) s) s

/-- R181: the L token to T0 to T4. -/
def execFan (h : Hd) (x : T3X) (s : State) : Result :=
  fire (.fan h x) (fun c s => c.send ((targetsOf (.fan h x)).map c.l.to) s) s

/-- R181: consumes its L token. -/
def execSink (h : Hd) (s : State) : Result := fire (.sink h) (fun c s => c.send [] s) s

/-- R183: L to T0 when P is true, to T1 when false. -/
def execRoute (h : Hd) (s : State) : Result :=
  fire (.route h) (fun c s => c.send [c.l.to (if isTrue c.p then h.t0 else h.t1)] s) s

/-- Whether deterministic mode lets MERGE take the head token of time t from one side (R375). -/
def mergeDet (c : Ctx) (s : State) (side : Pos) : Bool :=
  let other : Pos := if side = .l then .r else .l
  let toks := c.a.posNow c.slot other
  let waiting := ((c.a.head c.slot other c.time).map Token.isMarker).getD false
  let times := (toks.filter (fun k => !(waiting && k.time == c.time))).map (fun k => k.time.toNat)
  match minNat? times with
  | some m => if m > c.time.toNat || (side == .l && m == c.time.toNat) then true else byProbe other
  | none => if waiting then true else byProbe other
where
  /-- The other side's implicit probe passes t. -/
  byProbe (other : Pos) : Bool :=
    let place := Loc.pos (relX c.r c.key) (relY c.r c.key) (keyT c.key) c.slot other.num
    match c.r.desc.probes.find? (fun p => c.r.desc.locs[p.loc]? == some place) with
    | none => false
    | some p => passes (frontierOf s c.key c.h p.num) c.time.toNat

/-- R184: data of time t from L, else from R; a marker waits until the other side's marker of time t heads. -/
def execMerge (h : Hd) (s : State) : Result :=
  fireOwn (.merge h) (fun c s =>
    let l := c.a.head c.slot .l c.time
    let r := c.a.head c.slot .r c.time
    let take (q : Pos) (k : Token) : FireRes :=
      if c.a.active.det && !mergeDet c s q then .idle else .fired [q] (both h k.to) [] s
    match l, r with
    | some kl, some kr =>
      if !kl.isMarker then take .l kl
      else if !kr.isMarker then take .r kr
      else .fired [.l, .r] (both h (markerOut (max kl.rank kr.rank) c.time)) [] s
    | some kl, none => if kl.isMarker then .idle else take .l kl
    | none, some kr => if kr.isMarker then .idle else take .r kr
    | none, none => .idle) s

/-- R183: L when P is true, else R. -/
def execSelect (h : Hd) (s : State) : Result :=
  fire (.select h) (fun c s => c.send (both h (if isTrue c.p then c.l else c.rt).to) s) s

/-- R183: L to T0 and P to T1. -/
def execGate (h : Hd) (s : State) : Result := fire (.gate h) (fun c s => c.send [c.l.to h.t0, c.p.to h.t1] s) s

/-- The L token at another time, to T0 and T1 (R185); markers likewise. -/
def sendAtTime (h : Hd) (c : Ctx) (t' : Time) (s : State) : FireRes :=
  if c.l.isMarker then c.send (both h (markerOut c.l.rank t')) s
  else c.send (both h (fun t => { c.l.to t with time := t' })) s

/-- TIMEWRAP of STEP and EPOCH (R186): SKIP consumes L. -/
def timewrap (i : Instr) (c : Ctx) (level : Nat) (s : State) : FireRes :=
  c.holdWith i .timewrap 0 0 [level] [] s

/-- R185: the time is unchanged; the new counter is already 0. -/
def execEnter (h : Hd) (s : State) : Result := fireOwn (.enter h) (fun c s => sendAtTime h c c.time s) s

/-- R185: adds IMM to the counter of the firing's depth, or holds TIMEWRAP. -/
def execStep (h : Hd) (imm : BitVec 30) (s : State) : Result :=
  fireOwn (.step h imm) (fun c s =>
    let v := ctr c.shape c.time c.depth + imm.toNat
    if v ≥ 2 ^ levelWidth c.shape c.depth then timewrap (.step h imm) c c.depth s
    else sendAtTime h c (setCtr c.shape c.time c.depth v) s) s

/-- R185: the counter of the firing's depth becomes 0. -/
def execLeave (h : Hd) (s : State) : Result :=
  fireOwn (.leave h) (fun c s => sendAtTime h c (setCtr c.shape c.time c.depth 0) s) s

/-- R185: advances the epoch, or holds TIMEWRAP. -/
def execEpoch (h : Hd) (imm : BitVec 30) (s : State) : Result :=
  fireOwn (.epoch h imm) (fun c s =>
    let v := epochOf c.time + imm.toNat
    if v ≥ 2 ^ 20 then timewrap (.epoch h imm) c 0 s
    else sendAtTime h c (BitVec.ofNat 64 (v * 2 ^ 44)) s) s

/-- R185: the time as n64. -/
def execTimeof (h : Hd) (s : State) : Result :=
  fire (.timeof h) (fun c s => c.send (both h (dataOut .n64 c.time (leBytes 8 c.time.toNat))) s) s

/-! ### Generators (R187, R188) -/

/-- A time with the pushed counter of level e + 1 at i. -/
def pushed (c : Ctx) (i : Nat) : Time := setCtr c.shape c.time (c.depth + 1) i

/-- Whether index i fits the pushed counter. -/
def fits (c : Ctx) (i : Nat) : Bool := decide (i < 2 ^ levelWidth c.shape (c.depth + 1))

/-- Index i of CNT. -/
def cntOut (h : Hd) (c : Ctx) (i : Nat) : Out := dataOut .n64 (pushed c i) (leBytes 8 i) h.t0

/-- R187: n of 0 sends the pulse; otherwise index 0 is sent and the generator starts. -/
def execCnt (h : Hd) (s : State) : Result :=
  fireOwn (.cnt h) (fun c s =>
    if c.l.isMarker then markerRule (.cnt h) c.time c s
    else if natAt c.l.data 0 4 = 0 then c.send [pulseOut c.time h.t1] s
    else .fired [] [cntOut h c 0] []
      (s.modAt c.key (fun a => a.modSlot c.slot (fun x => { x with gen := some c.time, index := 1 })))) s

/-- Tokens of time t up to and including the first marker; `none` while there is no marker (R188). -/
def streamOf : List Token → Option (List Token)
  | [] => none
  | k :: ks => if k.isMarker then some [k] else (streamOf ks).map (fun l => k :: l)

/-- The stream of time t in L. -/
def AT.stream (a : AT) (slot : Nat) (t : Time) : Option (List Token) :=
  streamOf ((a.posNow slot .l).filter (fun k => k.time == t))

/-- R188: waits for the closing marker; c of 0 sends the pulse; otherwise the first token of pass 0 is sent. -/
def execRepeat (h : Hd) (s : State) : Result :=
  fireOwn (.repeat h) (fun c s =>
    match c.a.stream c.slot c.time with
    | none => .idle
    | some ks =>
      let eat := List.replicate ks.length Pos.l ++ [Pos.r]
      if c.rt.isMarker then
        .fired eat (both h (markerOut c.rt.rank c.time)) [] s
      else if natAt c.rt.data 0 4 = 0 then .fired eat [pulseOut c.time h.t1] [] s
      else match ks with
        | [] => .idle
        | k :: rest =>
          .fired [] [{ k.to h.t0 with time := pushed c 0 }] []
            (s.modAt c.key (fun a => a.modSlot c.slot (fun x =>
              { x with
                gen := some c.time
                index := if rest.isEmpty then 1 else 0
                tokIdx := if rest.isEmpty then 0 else 1 })))) s

/-- The context of an emission: the slot's generator is in progress and the vector pipe is free (R177, R187). -/
def genCtx (s : State) (k slot : Nat) : Option (Instr × Ctx) :=
  let a := s.at k
  match a.res, (a.slot slot).gen, a.active.instr slot with
  | some h, some t, some i =>
    match get? h s.res with
    | none => none
    | some r =>
      if r.running && !a.exited && a.active.valid && (a.slot slot).hold.isNone && getD 0 0 a.fired != s.cycle + 1 then
        (a.matched slot t (uses i) false).map (fun toks =>
          (i, ⟨k, slot, t, getD 0 slot a.sdepth, shapeOf r a.active, h, r, a, toks⟩))
      else none
  | _, _, _ => none

/-- The time of the next token of a slot's generator (R177): the emitted token's, or that of the done pulse or of a hold. -/
def genTime (s : State) (k slot : Nat) (t : Time) : Time :=
  match genCtx s k slot with
  | none => t
  | some (i, c) =>
    let x := c.a.slot slot
    let n := natAt (match i with | .repeat _ => c.rt.data | _ => c.l.data) 0 4
    if decide (x.index < n) && fits c x.index then pushed c x.index else t

/-- A slot's generator after an emission; `none` ends it. -/
def setGen (c : Ctx) (nxt : Option (Nat × Nat)) (s : State) : State :=
  s.modAt c.key (fun a => a.modSlot c.slot (fun x => match nxt with
    | some (i, j) => { x with index := i, tokIdx := j }
    | none => { x with gen := none, index := 0, tokIdx := 0 }))

/-- TIMEWRAP at an index or pass (R186): SKIP stops the generation and sends the done pulse. -/
def genWrap (i : Instr) (h : Hd) (c : Ctx) (idx : Nat) (s : State) : FireRes :=
  c.holdWith i .timewrap 0 0 [c.depth + 1, idx] [pulseOut c.time h.t1] s

/-- R187: the next index, or the done pulse, which consumes the L token. -/
def execCntEmission (tile : TileId) (slot : Nat) (s : State) : Result :=
  match genCtx s tile.key slot with
  | some (.cnt h, c) =>
    let i := (c.a.slot slot).index
    let n := natAt c.l.data 0 4
    .next (finish (.cnt h) c
      (if i ≥ n then .fired [.l] [pulseOut c.time h.t1] [] (setGen c none s)
       else if fits c i then .fired [] [cntOut h c i] [] (setGen c (some (i + 1, 0)) s)
       else genWrap (.cnt h) h c i s) s)
  | _ => .next s

/-- R188: the next token of the current pass, or the done pulse, which consumes the stream and R. -/
def execRepeatEmission (tile : TileId) (slot : Nat) (s : State) : Result :=
  match genCtx s tile.key slot with
  | some (.repeat h, c) =>
    match c.a.stream slot c.time with
    | none => .next s
    | some ks =>
      let p := (c.a.slot slot).index
      let j := (c.a.slot slot).tokIdx
      let n := natAt c.rt.data 0 4
      .next (finish (.repeat h) c
        (if p ≥ n then
          .fired (List.replicate ks.length Pos.l ++ [Pos.r]) [pulseOut c.time h.t1] [] (setGen c none s)
         else if fits c p then
          match ks[j]? with
          | none => .idle
          | some k => .fired [] [{ k.to h.t0 with time := pushed c p }] []
              (setGen c (some (if j + 1 ≥ ks.length then (p + 1, 0) else (p, j + 1))) s)
         else genWrap (.repeat h) h c p s) s)
  | _ => .next s

/-- R189: end-of-stream at t, whatever L holds. -/
def execEos (h : Hd) (s : State) : Result := fireOwn (.eos h) (fun c s => c.send (both h (markerOut 5 c.time)) s) s

/-- R189: the class of L to T0, L itself to T1. -/
def execIseos (h : Hd) (s : State) : Result :=
  fireOwn (.iseos h) (fun c s =>
    c.send [dataOut .n8 c.time (leBytes 8 c.l.rank) h.t0, c.l.to h.t1] s) s

/-! ### Capabilities (R190) -/

/-- Count of an entry (LOC, t). -/
def capCount (cs : List Cap) (loc : Nat) (t : Time) : Nat :=
  match cs.find? (fun c => c.loc == loc && c.time == t) with
  | some c => c.count
  | none => 0

/-- Set the count of an entry; 0 frees it. -/
def capSet (cs : List Cap) (loc : Nat) (t : Time) (n : Nat) : List Cap :=
  let rest := cs.filter (fun c => !(c.loc == loc && c.time == t))
  if n = 0 then rest else rest ++ [⟨loc, t, n⟩]

/-- R190: adds 1 to (LOC, t); does not fire while the table is full, whatever entry it would take, or the count stands at 65,535. -/
def execHold (h : Hd) (x : PrbX) (s : State) : Result :=
  fire (.hold h x) (fun c s =>
    let loc := x.loc.toNat
    let n := capCount c.a.caps loc c.time
    if n = 65535 || c.a.caps.length ≥ 32 then .idle
    else .fired [.l] (both h c.l.to) [⟨c.h, loc, c.time, 1⟩]
      (s.modAt c.key (fun a => { a with caps := capSet a.caps loc c.time (n + 1) }))) s

/-- R190: subtracts 1 from (LOC, t); without an entry only RLX counts. -/
def execRelease (h : Hd) (x : PrbX) (s : State) : Result :=
  fire (.release h x) (fun c s =>
    let loc := x.loc.toNat
    let n := capCount c.a.caps loc c.time
    if n = 0 then c.send (both h c.l.to) (s.modAt c.key (fun a => a.addRlx 1))
    else .fired [.l] (both h c.l.to) [⟨c.h, loc, c.time, -1⟩]
      (s.modAt c.key (fun a => { a with caps := capSet a.caps loc c.time (n - 1) }))) s

/-! ### RESIZE (R192) -/

/-- The edge that RESIZE's IMM names. -/
def resizeEdge (imm : BitVec 30) : Nat :=
  let ix := immBits imm 21 7
  match immBits imm 28 2 with
  | 3 => chanEdge ix
  | p => ix * 3 + p

/-- R192: stops admission on the edge; a second RESIZE waits until the first has taken effect. The pulse counts at L until
sent (R324). -/
def execResize (h : Hd) (imm : BitVec 30) (s : State) : Result :=
  fire (.resize h imm) (fun c s =>
    let e := resizeEdge imm
    if c.a.closed e then .idle
    else .fired [.l] [] (postAt c.a (posEdge c.slot .l) c.time 1)
      (s.modAt c.key (fun a =>
        { a with resizing := a.resizing ++ [⟨e, immBits imm 0 8, c.slot, c.time, c.a.seqOf .vec, false⟩] }))) s

/-- Whether an edge held no token when the cycle began, backing-queue entries included (R173, R192). -/
def edgeEmpty (r : Res) (a : AT) (e : Nat) : Bool :=
  (getD [] e a.gone).isEmpty &&
  if e < 384 then (getD [] e a.pos).isEmpty
  else (a.chanToks (e - 384)).isEmpty && (match a.active.chan (e - 384) with
    | none => true
    | some w => w.bq == 63 || ((getD {} w.bq r.backq).toks.isEmpty && (getD {} w.bq r.backq).src.isNone))

/-- R192: the new depth stands and admission resumes; the pulses are still owed. -/
def AT.resized (a : AT) (index : Nat) (x : Resizing) : AT :=
  if x.done then a
  else { a with resizing := a.resizing.set index { x with done := true }, depth := put x.edge x.depth a.depth }

/-- The pulses of the RESIZE at an index have gone. -/
def AT.dropResize (a : AT) (index : Nat) : AT := { a with resizing := a.resizing.eraseIdx index }

/-- R192: once the edge holds no token the new depth stands and admission resumes; the pulses follow as soon as the targets
take them. -/
def execResizeEffect (tile : TileId) (index : Nat) (s : State) : Result :=
  let k := tile.key
  let a := s.at k
  match a.resizing[index]?, a.res with
  | some x, some h =>
    match get? h s.res, a.active.instr x.slot with
    | some r, some i =>
      if r.running && (x.done || edgeEmpty r a x.edge) then
        let a1 := a.resized index x
        match sendAll (s.setAt k (a1.dropResize index)) k (sportOf r k 0) x.seq ((targetsOf i).map (pulseOut x.time)) with
        | none => .next (if x.done then s else (s.setAt k a1).act)
        | some (s2, ps) => .next ((s2.post k (postAt a (posEdge x.slot .l) x.time (-1) ++ ps)).act)
      else .next s
    | _, _ => .next s
  | _, _ => .next s

end Sys2Proof.Machine
end

