-- ==== Sys2Proof/Machine/Request.lean ====
section
/-! DEFINITION. Memory requests: the physical map and homes (R91 to R95, R145, R360), the checks before an access
issues (R149), issuing from a slot, and holds of elements (R105, R391). -/

namespace Sys2Proof.Machine

/-! ### The physical map (R91 to R94) -/

/-- What stands at a physical address: HBM of a die at an offset, the interleaved window at an offset, tier-2 of a
port, a host window of an index, control space, or nothing. -/
inductive PKind where
  | hbm (die off : Nat)
  | inter (off : Nat)
  | tier2 (port : Nat)
  | host (win : Nat)
  | control
  | gap
  deriving DecidableEq, Repr, Inhabited

/-- End of a die's local HBM (R4, R93): 240 GB less 3k GiB. -/
def hbmEnd (k : Nat) : Nat := 240 * 10 ^ 9 - 3 * k * 2 ^ 30

/-- R91, R93, R429. -/
def pkind (s : State) (pa : Nat) : PKind :=
  if pa < 0x010000000000 then
    let d := pa / 0x4000000000
    let o := pa % 0x4000000000
    if o < hbmEnd s.share then .hbm d o else .gap
  else if pa < 0x020000000000 then
    let o := pa - 0x010000000000
    if o < 12 * s.share * 2 ^ 30 then .inter o else .gap
  else if pa < 0x0100000000000 then .gap
  else if pa < 0x8000000000000 then
    match s.extents.find? (fun e => decide (e.base ≤ pa) && decide (pa < e.base + e.len) && e.up) with
    | some e => .tier2 e.port
    | none => match (s.hostWins.zipIdx).find? (fun w => decide (w.1.1 ≤ pa) && decide (pa < w.1.1 + w.1.2)) with
      | some w => .host w.2
      | none => .gap
  else if pa < 0xF000000000000 then .gap
  else if pa < 0x10000000000000 then .control
  else .gap

/-- Whether translation may reach an address (R94). -/
def PKind.backed : PKind → Bool
  | .gap | .control => false
  | _ => true

/-! ### Dies, saddles and link tiles (R6, R8, R9) -/

/-- The two dies that a saddle joins (R6): saddles 0 to 3, which are links 0 to 3. -/
def saddleEnds (n : Nat) : Nat × Nat := match n with
  | 0 => (0, 1)
  | 1 => (0, 2)
  | 2 => (1, 3)
  | _ => (2, 3)

/-- Whether a saddle ends at a die. -/
def saddleAt (n die : Nat) : Bool := decide (n < 4) && ((saddleEnds n).1 == die || (saddleEnds n).2 == die)

/-- The saddles that traffic between two dies crosses, in order: none within a die, one between neighbours, two over an
intermediate die between diagonal dies. Which die that is the spec leaves open; the model takes the horizontal neighbour first
(DESIGN CHOICE, log 32). -/
def diePath (a b : Nat) : List Nat :=
  let across := if a < 2 then 0 else 3
  let up (d : Nat) : Nat := if d % 2 = 0 then 1 else 2
  (if a % 2 = b % 2 then [] else [across]) ++ (if a / 2 = b / 2 then [] else [up (a / 2 * 2 + b % 2)])

/-- What a link tile does (R8): ends a saddle, ends a Sorpen link (by its link number), serves a port, or stands spare. -/
inductive LtRole where
  | saddle (n : Nat)
  | sorpen (link : Nat)
  | port (n : Nat)
  | spare
  deriving DecidableEq, Repr, Inhabited

/-- The role of link tile n of a die, 0 to 31: 9 for the saddle to its horizontal neighbour, 9 for the one to its vertical
neighbour, 9 for its Sorpen links, 4 for its ports, and the spare one. R8 gives the counts; the numbers are the model's
(DESIGN CHOICE, log 32). -/
def ltRole (die n : Nat) : LtRole :=
  if n < 9 then .saddle (if die < 2 then 0 else 3)
  else if n < 18 then .saddle (if die % 2 = 0 then 1 else 2)
  else if n < 27 then .sorpen (4 + 9 * die + (n - 18))
  else if n < 31 then .port (4 * die + (n - 27))
  else .spare

/-- Die and number of the link tile that serves a port: ports 4d to 4d + 3 stand on die d (DESIGN CHOICE, log 32). That the spare
tile stands for it shows nowhere (R436). -/
def portLt (port : Nat) : Nat × Nat := (port / 4, 27 + port % 4)

/-- The port of a host window: windows belong to the host ports in ascending port number (DESIGN CHOICE, log 32). -/
def winPort (s : State) (win : Nat) : Nat := ((s.host.ports.filter (fun p => p.2 == .host)).map (·.1)).getD win 0

/-- Numbers of homes: MTs by their key; PT n of die d; the LT of a port; the LT of a host window. -/
def ptHome (die n : Nat) : Nat := 2048 + die * 48 + n
def tierHome (port : Nat) : Nat := 2304 + port
def hostHome (win : Nat) : Nat := 2560 + win

/-- The pseudo-channel of its PT in which a byte of HBM lies (R92), by die-local offset. -/
def pseudoChannel (off : Nat) : Nat := off / 256 / 48 % 4

/-- The stripe of the PT's share in which a byte of the interleaved window lies (R93), by window offset. -/
def windowStripe (off : Nat) : Nat := off / 4096 / 192

/-- Where the bytes of an address stand: die, PT of the die, and, in HBM, the pseudo-channel or, in the window, the stripe of the
PT's share (R92, R93). -/
def hbmPlace (s : State) (pa : Nat) : Option (Nat × Nat × Nat) :=
  match pkind s pa with
  | .hbm d o => some (d, o / 256 % 48, pseudoChannel o)
  | .inter o => let g := o / 4096 % 192; some (g / 48, g % 48, windowStripe o)
  | _ => none

/-- The home of a physical address (R92, R93, R360). -/
def paHome (s : State) (pa : Nat) : Option Nat :=
  match pkind s pa with
  | .hbm _ _ | .inter _ => (hbmPlace s pa).map (fun p => ptHome p.1 p.2.1)
  | .tier2 p => some (tierHome p)
  | .host w => some (hostHome w)
  | _ => none

/-- Number of the ingress PT of a tile (R95). -/
def ingressPt (k : Nat) : Nat :=
  let col := 2 * keyX k + keyT k % 2
  keyDie k * 48 + (if keyY k ≤ 4 then col else 24 + col)

/-- The tile from which a request enters the edge (R95). R95 names tiles and copy engines alone: a syntax lane enters by the MT of
its region's quad (0,0), the snapshot controller by the MT of quad (0,0) of die 0 (DESIGN CHOICE, log 23). -/
def Origin.tile (s : State) : Origin → Nat
  | .slot k _ => k
  | .engine k _ _ _ _ => k
  | .syn h _ _ => match get? h s.res with | some r => resTile r 0 0 3 | none => 3
  | .snap _ _ => 3

/-- The home of an element once it is translated; a typed buffer is its own tile's. -/
def eltHome (s : State) (r : Req) (e : Elt) : Option Nat :=
  match e.space with
  | .virt => paHome s e.pa
  | .scr => match get? r.h s.res with | some x => some (x.scrHome e.addr).1 | none => none
  | .buf k _ => some k

/-! ### Checks (R149, R315) -/

/-- Combine units of a residency: base and footprint (R313). -/
def cmbAreas (s : State) (r : Res) : List (Nat × Nat) :=
  (upto (r.desc.w * r.desc.h)).filterMap (fun n =>
    ((s.mt (resTile r (n % r.desc.w) (n / r.desc.w) 3)).cmb).map (fun u => (u.base, u.foot)))

/-- Whether an operation writes. -/
def ROp.writes : ROp → Bool
  | .load | .loadTc | .prefetch | .waita _ | .fence _ _ _ => false
  | _ => true

/-- Whether an operation is an update of an owner node. -/
def ROp.isUpdate : ROp → Bool
  | .amo _ | .amor _ | .scat _ | .arrv _ | .bin | .binf => true
  | _ => false

/-- Alignment of an element (R109, R122, R149): its size, or the element size of an engine's request. -/
def alignOf (q : Req) (e : Elt) : Nat :=
  match q.org with
  | .engine _ _ _ _ _ => q.size
  | .slot _ _ => if q.op == .prefetch then 1 else e.n
  | _ => 1

/-- The first failing check of an element that needs no translation (R149); `al`: its alignment. -/
def checkElt (s : State) (r : Res) (op : ROp) (al : Nat) (e : Elt) : Option FClass :=
  let size := match e.space with | .scr => r.scrSize | .buf _ b => bufSize b | .virt => 2 ^ 64
  if e.addr ≥ size then some .range
  else if e.addr % al ≠ 0 then some .align
  else if e.addr + e.n > size then some .range
  else if e.space == .scr && op.writes
      && (cmbAreas s r).any (fun u => decide (u.1 < e.addr + e.n) && decide (e.addr < u.1 + u.2)) then some .perm
  else none

/-! ### Records of elements (R391) -/

/-- FFLG of an element's hold: the typed buffer, where it is one. -/
def eltFlag (e : Elt) : Nat := match e.space with | .buf _ b => 8 + 16 * b | _ => 0

/-- Key of a syntax binding. -/
def synKey (h bind : Nat) : Nat := h * 64 + bind

/-- The stream that a lane's request reads. -/
def synStream (s : State) (q : Req) : Option VStream := match q.org with
  | .syn h bind sig => get? sig (getD {} (synKey h bind) s.syns).streams
  | _ => none

/-- GEN words of a request's record: those of a lane name its stream, by binding, submission sequence and byte offset (R282), in GEN5
to GEN8, which no class of R392 uses (DESIGN CHOICE, log 7). -/
def recGen (s : State) (q : Req) (gen : List Nat) : List Nat := match q.org, synStream s q with
  | .syn _ bind sig, some v =>
    let at' := v.off + v.got.length
    (upto 5).map (fun i => gen.getD i 0) ++ [bind, sig, at' % 2 ^ 32, at' / 2 ^ 32]
  | _, _ => gen

/-- Place fields: the issuer of the request (R105); a lane's number in its die is that of its engine and of the lane in it (DESIGN
CHOICE, log 7). -/
def issuerRec (s : State) (r : Req) (cls : FClass) : FRec :=
  let rid := ridOf s r.h
  match r.org, get? r.h s.res with
  | .slot k slot, some x => slotRec x rid k slot cls r.time 0 []
  | .engine k _ _ _ _, some x =>
    { cls := cls, asid := x.asid, rid := rid, place := .mt, die := keyDie k, qx := relX x k, qy := relY x k, tile := 3,
      time := r.time }
  | .syn _ _ _, some x => { cls := cls, asid := x.asid, rid := rid, place := .lane, die := x.die, time := r.time, lane := ((synStream s r).bind (fun v => v.lanes.head?)).getD 0xFF }
  | .snap _ _, x => { cls := cls, asid := (x.map (·.asid)).getD 0, rid := rid, place := .snapshot, time := r.time }
  | _, none => { cls := cls, rid := rid, place := .at, time := r.time }

/-- HKIND, HDIE and HUNIT of a home (R391); a link tile is named by its die and the model's number of it (log 32). -/
def holderOf (s : State) (r : Req) (home : Nat) : Nat × Nat × Nat :=
  if home < 2048 then
    match get? r.h s.res with
    | some x => (1, keyDie home, relX x home + 16 * relY x home)
    | none => (1, keyDie home, 0)
  else if home < 2304 then (2, (home - 2048) / 48, (home - 2048) % 48)
  else
    let (die, n) := portLt (if home < 2560 then home - 2304 else winPort s (home - 2560))
    (3, die, n)

/-- Replace element `i` of a request. -/
def Req.setElt (r : Req) (i : Nat) (e : Elt) : Req := { r with elts := r.elts.set i e }

def State.setReq (s : State) (id : Nat) (r : Req) : State := { s with reqs := put id r s.reqs }

/-- The message of an engine's context. -/
def ctxMsg (s : State) (mt ctx : Nat) (strm : Bool) : Option Msg :=
  if strm then (get? ctx (s.mt mt).sctx).map (·.msg) else (get? ctx (s.mt mt).cctx).map (·.msg)

/-- Digits of a number in mixed radix, the first digit fastest. -/
def digits : List Nat → Nat → List Nat
  | [], _ => []
  | e :: es, n => n % e :: digits es (n / e)

/-- The index vector at which an engine's element holds, a stream's tile outermost (R129, R132), else the counters of the
generator that made its address (R154). -/
def eltGen (s : State) (q : Req) (e : Elt) : List Nat :=
  match q.org with
  | .engine mt ctx strm part role =>
    match ctxMsg s mt ctx strm with
    | none => []
    | some m =>
      if role = 2 then [] else
      let w0 := (m.body.getD 0 0).toNat
      let ext := (upto (bits w0 60 4)).map (fun k => bits ((m.body.getD (7 + 2 * k) 0).toNat) 32 32)
      let size := match bits w0 58 2 with | 0 => 1 | 1 => 1 | 2 => 2 | _ => 4
      if strm then digits ext.dropLast (e.posn / size) ++ [part] else digits ext (e.posn / size)
  | _ => q.gen.getD e.lane []

/-- The descriptor of the copy or stream that issued a request (R129). -/
def reqDesc (s : State) (q : Req) : List W64 := match q.org with
  | .engine mt ctx strm _ _ => ((ctxMsg s mt ctx strm).map (·.body)).getD []
  | _ => []

/-! ### Streams, and requests behind a held one (R105, R107, R148) -/

/-- The stream of a request (R148). -/
def Req.stream (q : Req) : Option (Nat × Nat) := match q.org with
  | .slot k slot => some (k, slot)
  | _ => none

/-- Whether an element has not yet passed its PT, or its check. -/
def Elt.early (e : Elt) : Bool := match e.st with
  | .new | .fetch | .walk _ _ | .ats => true
  | _ => false

def Elt.isHeld (e : Elt) : Bool := match e.st with | .held _ => true | _ => false

/-- Whether an earlier request of the same stream is held, or queues itself. -/
def waitsBehind (s : State) (id : Nat) (st : Option (Nat × Nat)) : Bool :=
  st.isSome && s.reqs.any (fun e => decide (e.1 < id) && e.2.stream == st
    && (e.2.elts.any Elt.isHeld || (e.2.queued && e.2.elts.any Elt.early)))

/-- Whether two requests are of one context of an engine, or of one page of a snapshot. -/
def Origin.together : Origin → Origin → Bool
  | .engine mt ctx strm _ _, .engine mt' ctx' strm' _ _ => mt == mt' && ctx == ctx' && strm == strm'
  | .snap p _, .snap p' _ => p == p'
  | _, _ => false

/-- Whether a request's context is held: one of its requests is (R129, R409). -/
def ctxHeld (s : State) (q : Req) : Bool := s.reqs.any (fun e => e.2.org.together q.org && e.2.elts.any Elt.isHeld)

/-- R105, R107, R129: a queued request waits while one before it in its stream is held or queues, a context's while the context is held. -/
def behindHeld (s : State) (id : Nat) (q : Req) : Bool := (q.queued && waitsBehind s id q.stream) || ctxHeld s q

/-- A hold begins: the request and the later ones of its stream that have not passed queue in order. -/
def queueBehind (id : Nat) (r : Req) (s : State) : State :=
  { s with reqs := s.reqs.map (fun e =>
      if e.1 = id || (decide (id < e.1) && r.stream.isSome && e.2.stream == r.stream && e.2.elts.any Elt.early)
      then (e.1, { e.2 with queued := true }) else e) }

/-! ### Holding -/

/-- Hold element `i` with a class at a holder, and write its record (R105); an uncorrectable byte's address is its own (R392). -/
def holdElt (id i : Nat) (cls : FClass) (fflg : Nat) (holder : Nat × Nat × Nat) (gen : Option (List Nat)) (s : State) : State :=
  match get? id s.reqs with
  | none => s
  | some r =>
    match r.elts[i]? with
    | none => s
    | some e =>
      let base := issuerRec s r cls
      let f := { base with
        fflg := fflg + eltFlag e
        lane := if r.lanes then e.lane else base.lane
        addr := BitVec.ofNat 64 (e.addr + if cls == .uncorr then (gen.getD []).headD 0 else 0)
        gen := recGen s r (gen.getD (eltGen s r e))
        hkind := holder.1
        hdie := holder.2.1
        hunit := holder.2.2
        desc := reqDesc s r
        link := .elem id i }
      (queueBehind id r (s.setReq id (r.setElt i { e with st := .held cls }))).raise f

/-- Where a check that precedes issue holds: the buffer itself, or the MT of the issuing quad (R149). -/
def checkHolder (s : State) (r : Req) (e : Elt) : Nat × Nat × Nat :=
  match e.space with
  | .buf _ _ => (0, 0, 0)
  | _ => match get? r.h s.res with
    | some x => if e.addr < x.scrSize then holderOf s r (x.scrHome e.addr).1 else holderOf s r (sib3 (r.org.tile s))
    | none => (0, 0, 0)
where
  sib3 (k : Nat) : Nat := k / 4 * 4 + 3

/-- Whether an element is issued straight to its home: a tile's access to its own buffers, over the port (R143). -/
def Req.direct (q : Req) (e : Elt) : Bool := match q.org, e.space with
  | .slot _ _, .buf _ _ => true
  | _, _ => false

/-- The check of an element of a request: a BIN lane's bin number comes first (R368). -/
def checkReq (s : State) (x : Res) (r : Req) (e : Elt) : Option FClass :=
  if r.op == .bin && decide (e.aux.getD 2 0 > e.aux.getD 3 0) then some .range else checkElt s x r.op (alignOf r e) e

/-- A request of a slot goes out after its checks: its tile counts it (R416, events 10 and 11). -/
def countIssue (code : Nat) (q : Req) (s : State) : State := match q.org with
  | .slot k _ => s.modAt k (fun a => a.perf code 1)
  | _ => s

/-- Check elements `i` and following, and send the sound ones on their way (R149); behind a held request they queue (R105). -/
def issueElts (id : Nat) : List Nat → State → State
  | [], s => s
  | i :: is, s =>
    match get? id s.reqs with
    | none => s
    | some r =>
      match r.elts[i]?, get? r.h s.res with
      | some e, some x =>
        if e.space == .virt || behindHeld s id r then issueElts id is s
        else match checkReq s x r e with
          | some cls => issueElts id is (holdElt id i cls 0 (checkHolder s r e) none s)
          | none => issueElts id is ((if e.space == .scr then countIssue 10 r s else s).setReq id
            (r.setElt i { e with st := if r.direct e then .home else .mesh }))
      | _, _ => issueElts id is s

/-- A new request: numbered, checked, issued. -/
def State.newReq (s : State) (r : Req) : Nat × State :=
  let id := s.nextId
  let r := { r with since := s.cycle, queued := waitsBehind s id r.stream }
  let s := { s with nextId := id + 1, reqs := put id r s.reqs }
  (id, issueElts id (upto r.elts.length) s)

/-! ### Issue from a slot -/

/-- Requests of a tile that still have an element on its way to a bank queue (R147). -/
def meshCount (s : State) (k : Nat) : Nat :=
  (s.reqs.filter (fun e => match e.2.org with
    | .slot k' _ => k' == k && e.2.elts.any (fun x => x.st == .mesh)
    | _ => false)).length

/-- R147: with 16 requests in the tile's outgoing queue no instruction that names the scratchpad fires. What a tile has in the
mesh counts in the queue: the spec gives the mesh no size (DESIGN CHOICE, log 6). -/
def meshFree (s : State) (k : Nat) : Bool := decide (meshCount s k < 16)

/-- Loads of a tile that wait for a response-buffer entry (R148). -/
def respCount (s : State) (k : Nat) : Nat :=
  (s.reqs.filter (fun e => match e.2.org, e.2.op with
    | .slot k' _, .load => k' == k && e.2.elts.any (fun x => match x.space with | .buf _ _ => false | _ => true)
    | .slot k' _, .loadTc => k' == k
    | .slot k' _, .amor _ => k' == k
    | _, _ => false)).length

/-- R148: a load fires only when a response-buffer entry is free. -/
def respFree (s : State) (k : Nat) : Bool := decide (respCount s k < 32)

/-- Instructions whose request has lanes that a record names (R110, R158, R159, R368). -/
def laned : Instr → Bool
  | .ldvs _ _ | .stvs _ _ | .gath _ _ | .scat _ _ | .bin _ _ => true
  | _ => false

/-- A request of a slot: everything matched is consumed and the pointstamp stays at L until the answer (R324); closed while the
outgoing queue is full (R147). -/
def Ctx.request (c : Ctx) (i : Instr) (h : Hd) (op : ROp) (size : Nat) (elts : List Elt) (s : State) : FireRes :=
  let r : Req :=
    { h := c.h, org := .slot c.key c.slot, op := op, type := h.sh, time := c.time, pipe := pipeOf i,
      seq := c.a.seqOf (pipeOf i), size := size, t0 := h.t0, t1 := h.t1, elts := elts,
      loc := c.a.loc (posEdge c.slot .l), gen := c.gens, lanes := laned i }
  if elts.any (fun e => e.space == .scr) && !meshFree s c.key then .idle
  else .fired (c.toks.map (·.1)) [] (postAt c.a (posEdge c.slot .l) c.time 1)
    (s.newReq r).2

/-- Whether an earlier request of a slot awaits its answer. -/
def streamBusy (s : State) (k slot : Nat) : Bool := s.reqs.any (fun e => e.2.stream == some (k, slot))

/-- Fire a memory instruction: a marker takes its place behind the slot's outstanding requests (R148, R178). -/
def fireStream (i : Instr) (h : Hd) (body : Ctx → State → FireRes) (s : State) : Result :=
  fireWith i (fun c s => if streamBusy s c.key c.slot then c.request i h (.mark c.topRank) 8 [] (c.countLost s)
    else markerRule i c.time c s) body s

/-- Effective address: the payload's first 8 bytes plus OFF, a virtual one modulo 2^64 (R109); of the scratchpad and the buffers a
sum that overflows stays beyond every size (R149, R156). -/
def effAddr (sp : Space) (v off : Nat) : Nat := match sp with
  | .virt => (v + off) % 2 ^ 64
  | _ => v + off

/-- Number of lanes of 8 bytes of a payload. -/
def laneCount (k : Token) : Nat := k.data.length / 8

/-- Elements of an LDVS, STVS or GATH (R110, R158). -/
def gatherElts (sp : Space) (k : Token) (off n w : Nat) (data : Nat → List Byte) : List Elt :=
  (upto (min (laneCount k) (n / w))).map (fun i =>
    { lane := i, space := sp, addr := effAddr sp (natAt k.data (8 * i) 8) off, n := w, data := data i })

/-! ### Snapshots (R407) -/

/-- Whether a write of residency h at a time (`none`: untimed) to a virtual address is held for a pending page. -/
def snapHolds (s : State) (h : Nat) (t : Option Time) (va : Nat) : Bool :=
  match s.snap, t with
  | some n, some t => n.msg.h == h && decide (t.toNat > n.cut.toNat)
      && n.pages.any (fun p => p.pending && p.src == va / 65536 * 65536)
  | _, _ => false

end Sys2Proof.Machine
end

