-- ==== Sys2Proof/Machine/Mesh.lean ====
section
/-! DEFINITION. The way of a request to its home: the words of an element, what a copy's write carries, the limits of engines
(R120, R122, R131), and the service mesh with the bank queues of the MTs (R146 to R148). -/

namespace Sys2Proof.Machine

/-! ### Words of an element (R109, R146) -/

/-- Number of 64-byte words that an element touches; byte of the element at which word w begins, and how many bytes lie in it. -/
def Elt.nwords (e : Elt) : Nat := (e.addr % 64 + e.n + 63) / 64
def Elt.wordOff (e : Elt) (w : Nat) : Nat := 64 * w - e.addr % 64
def Elt.wordLen (e : Elt) (w : Nat) : Nat := min (64 * (w + 1) - e.addr % 64) e.n - e.wordOff w

/-- The word in which byte o of an element lies. -/
def Elt.wordOf (e : Elt) (o : Nat) : Nat := (e.addr % 64 + o) / 64

/-- Word w is performed; the element is done with its last. -/
def Elt.didWord (e : Elt) (w : Nat) : Elt :=
  let ws := e.words ++ [w]
  { e with words := ws, st := if ws.length ≥ e.nwords then .done else e.st }

/-! ### A copy's payload (R120) -/

/-- A place of a payload that no element reads: it holds 0. -/
def noPlace : Nat := 2 ^ 80

/-- Payload byte (or nibble) at a place, from the read request; bytes no element reads are 0; `none` until read. -/
def payloadAt (rd : Req) (nib : Bool) (p : Nat) : Option Nat :=
  match rd.elts.find? (fun e => decide (e.posn ≤ p) && decide (p < e.posn + (if nib then 1 else e.n))) with
  | none => some 0
  | some e =>
    if e.st ≠ .done then none
    else if nib then some (bits (natAt e.data 0 1) (4 * (e.aux.getD 0 0)) 4)
    else some (natAt e.data (p - e.posn) 1)

/-- Places a write element takes its bytes from; two nibbles a byte where there are twice as many. -/
def payloadBytes (rd : Req) (e : Elt) : Option (List Byte) :=
  if e.aux.length = 2 * e.n then (pairs (e.aux.map (payloadAt rd true)))
  else (e.aux.map (payloadAt rd false)).foldr (fun v acc => match v, acc with
    | some b, some l => some (BitVec.ofNat 8 b :: l)
    | _, _ => none) (some [])
where
  pairs : List (Option Nat) → Option (List Byte)
    | some a :: some b :: rest => (pairs rest).map (fun l => BitVec.ofNat 8 (a + 16 * b) :: l)
    | [] => some []
    | _ => none

/-- The read request that supplies a write request. -/
def readOf (s : State) (q : Req) : Option Req :=
  match q.org with
  | .engine mt ctx strm part 1 =>
    let id := if strm then ((get? ctx (s.mt mt).sctx).bind (fun c => (c.tiles.find? (fun t => t.1 == part)).map (·.2.1)))
      else (get? ctx (s.mt mt).cctx).bind (·.rd)
    id.bind (fun i => get? i s.reqs)
  | .snap p 1 => (s.reqs.find? (fun e => match e.2.org with | .snap p' 0 => p' == p | _ => false)).map (·.2)
  | _ => none

/-- What a store writes, once it is known. -/
def storeBytes (s : State) (q : Req) (e : Elt) : Option (List Byte) :=
  if e.aux.isEmpty then some e.data
  else match readOf s q with
    | some rd => payloadBytes rd e
    | none => some (zeros e.n)

/-! ### What an engine may issue (R122, R131) -/

/-- Whether an engine's context generates a matrix, which a freeze lets finish (R311). -/
def generation (s : State) (mt ctx : Nat) : Bool := ((get? ctx (s.mt mt).cctx).map (·.mgen)).getD false

/-- Whether a request may be issued: a slot's while its residency is not frozen, an engine's and a lane's while its residency runs, a held
context's not (R129), a copy's write once its bytes are read. -/
def mayIssue (s : State) (q : Req) (e : Elt) : Bool :=
  let runs := match get? q.h s.res with | some r => r.running | none => false
  match q.org with
  | .slot _ _ => (get? q.h s.images).isNone
  | .engine mt ctx strm _ _ =>
    (runs || (!strm && generation s mt ctx)) && !ctxHeld s q && (q.op != .store || (storeBytes s q e).isSome)
  | .syn _ _ _ => runs
  | .snap _ _ => !ctxHeld s q

/-- Elements of an engine's context outstanding at a home (R122). -/
def engineOut (s : State) (q : Req) (home : Nat) : Nat :=
  match q.org with
  | .engine mt ctx strm _ _ =>
    ((s.reqs.flatMap (fun e => match e.2.org with
      | .engine mt' ctx' strm' _ _ =>
        if mt' = mt && ctx' = ctx && strm' = strm then e.2.elts.filter (fun x => x.st == .home && eltHome s e.2 x == some home)
        else []
      | _ => []))).length
  | _ => 0

/-! ### Requests that cannot go on (R105, R149) -/

/-- Whether a lane stands behind a held one of its instruction, to the same home or with no home yet. -/
def laneHeld (s : State) (q : Req) (i : Nat) (e : Elt) : Bool := match q.org with
  | .slot _ _ => q.elts.any Elt.isHeld && (q.elts.take i).any (fun x => match x.st with
      | .held .range | .held .align | .held .perm => true
      | .held _ => x.space == .virt || eltHome s q x == eltHome s q e
      | _ => false)
  | _ => false

/-- Whether an element waits, on its way or at its home, behind a held request of its stream, or on the chip behind a held lane: it stands in
nobody's way (R105). -/
def stuck (s : State) (id : Nat) (q : Req) (i : Nat) (e : Elt) : Bool :=
  (e.st == .mesh || e.st == .home) && ((e.space != .virt && laneHeld s q i e) || waitsBehind s id q.stream)

/-! ### Commit buffers (R157) -/

/-- The frontier of a residency's tc-probe, read by an MT at the lowest scope (R346). -/
def tcFrontier (s : State) (mt h : Nat) : Option Nat :=
  match get? h s.res with
  | some r => match r.desc.tcp with | some p => frontierOf s mt h p | none => none
  | none => none

/-- Whether a commit buffer has an entry for a store of time t (R157): 512 entries serve only the frontier's time. -/
def commitRoom (s : State) (mt h : Nat) (t : Time) : Bool :=
  let n := (s.mt mt).commit.length
  decide (n < 4096 - 512) || (decide (n < 4096) && tcFrontier s mt h == some t.toNat)

/-! ### Places for deterministic updates (R372 to R374) -/

/-- Whether a request's updates are deterministic ones. -/
def detUpdate (s : State) (q : Req) (i : Nat) : Bool :=
  (match get? q.h s.res with | some r => r.desc.det | none => false)
  && (match q.op with
    | .amo _ | .amor _ | .scat _ | .bin => true
    | .binf => i != 0
    | _ => false)

/-- R373: the issue frontier: the tc-probe's with the deterministic-pending location left out. -/
def issueFrontier (s : State) (home h : Nat) : Option Nat :=
  match get? h s.res with
  | none => none
  | some r =>
    match r.desc.tcp, r.desc.locIdx .detPend with
    | some p, some d =>
      let pend (l : Nat) : Bool := l == d || (match r.locAt l with | some (.hub 2 _ _ _) => true | _ => false)
      let drop (t : Tracker) : Tracker :=
        { t with
          exact := t.exact.filter (fun c => !(c.res == h && pend c.loc))
          spill := t.spill.filter (fun c => !(c.res == h && pend c.loc)) }
      let s' := { s with trackers := s.trackers.map (fun e => (e.1, drop e.2)) }
      if home < 2048 then frontierOf s' home h p else frontier s' 484 h p
    | _, _ => none

/-- Entries a home has for deterministic updates of time t (R157, R374). -/
def detRoom (s : State) (home h : Nat) (t : Time) : Bool :=
  let cur := issueFrontier s home h == some t.toNat
  if home < 2048 then
    let n := (s.mt home).commit.length
    decide (n < 4096 - 512) || (decide (n < 4096) && cur)
  else
    let n := (getD {} home s.homes).det.length
    decide (n < 2048 - 256) || (decide (n < 2048) && cur)

/-! ### Bank queues (R146) -/

/-- Banks of the words of an element that are not yet performed. -/
def Elt.banks (r : Res) (e : Elt) : List Nat :=
  ((upto e.nwords).filter (fun w => !e.words.contains w)).map (fun w => r.scrBank (e.addr + e.wordOff w))

/-- Whether an element stands in bank queues of an MT: BINF's, once it holds its bin, waits at the owner node (R369). -/
def inQueue (s : State) (mt : Nat) (q : Req) (e : Elt) : Bool :=
  e.space == .scr && e.st == .home && !(q.op == .binf && q.stage != 0) && eltHome s q e == some mt

/-- Requests in the queue of a bank. -/
def bankCount (s : State) (r : Res) (mt b : Nat) : Nat :=
  (s.reqs.map (fun e => (e.2.elts.filter (fun x => inQueue s mt e.2 x && (x.banks r).contains b)).length)).sum

/-- Whether an element finds no entry of its home's commit buffer, or of its home's store of deterministic updates, and waits for one
(R157, R374). -/
def noEntry (s : State) (mt : Nat) (q : Req) (i : Nat) : Bool :=
  (q.op == .storeTc && !commitRoom s mt q.h q.time) || (q.op.isUpdate && detUpdate s q i && !detRoom s mt q.h q.time)

/-- Number of the oldest access of a bank of an MT that waits for such an entry. -/
def oldestNoEntry (s : State) (r : Res) (mt b : Nat) : Option Nat :=
  minNat? (s.reqs.flatMap (fun p => ((p.2.elts.zipIdx).filter (fun x => inQueue s mt p.2 x.1 && (x.1.banks r).contains b
    && noEntry s mt p.2 x.2)).map (fun x => x.1.arr)))

/-- Whether a unit empties the commit buffer: what waits for an entry of that, and what came after, does not stand before it (DESIGN CHOICE,
log 6: the other order would never end). -/
def UnitId.empties : UnitId → Bool
  | .commit _ | .det _ => true
  | _ => false

/-- Whether an access that arrived as number n would be the oldest of a bank of an MT, among the requests in its queue and the units' places
that their units still ask for. -/
def oldestAt (s : State) (r : Res) (mt b n : Nat) (unit : Option UnitId) : Bool :=
  let upTo := match unit with
    | some u => if u.empties then (match oldestNoEntry s r mt b with | some k => min k n | none => n) else n
    | none => n
  s.reqs.all (fun p => (p.2.elts.zipIdx).all (fun x => !(inQueue s mt p.2 x.1 && decide (x.1.arr < upTo) && (x.1.banks r).contains b
      && !stuck s p.1 p.2 x.2 x.1)))
    && (s.tickets.takeWhile (fun t => some t.unit != unit)).all (fun t => decide (t.cycle + 1 < s.cycle)
      || !t.banks.any (fun e => e.1 == 16 * mt + b && decide (e.2 < n)))

/-- Whether a word of an arrived element is the oldest access of its bank. -/
def oldestInBank (s : State) (r : Res) (mt : Nat) (e : Elt) (w : Nat) : Bool :=
  oldestAt s r mt (r.scrBank (e.addr + e.wordOff w)) e.arr none

/-- Whether a bank of an MT has performed a word in this cycle. -/
def bankUsed (s : State) (mt b : Nat) : Bool := getD 0 b (s.mt mt).bankAt == s.cycle + 1

/-- R146: a bank performs one word per cycle, the oldest of its queue; elsewhere nothing stands in the way here. -/
def bankTurn (s : State) (q : Req) (e : Elt) (w : Nat) : Bool :=
  match e.space, get? q.h s.res with
  | .scr, some r =>
    if q.op == .binf && q.stage != 0 then true
    else
      let mt := (r.scrHome e.addr).1
      !bankUsed s mt (r.scrBank (e.addr + e.wordOff w)) && oldestInBank s r mt e w
  | _, _ => true

/-- The bank of a word has performed it in this cycle. -/
def useBank (q : Req) (e : Elt) (w : Nat) (s : State) : State :=
  match e.space, get? q.h s.res with
  | .scr, some r => s.modMt (r.scrHome e.addr).1 (fun m =>
      { m with bankAt := put (r.scrBank (e.addr + e.wordOff w)) (s.cycle + 1) m.bankAt })
  | _, _ => s

/-! ### Units' accesses (R146) -/

/-- MT and bank, as 16 times the one plus the other, of each word of some scratchpad bytes. -/
def rangeBanks (r : Res) (off len : Nat) : List Nat :=
  (upto ((off % 64 + len + 63) / 64)).map (fun i => let a := (off / 64 + i) * 64; 16 * (r.scrHome a).1 + r.scrBank a)

/-- The place of a unit in bank queues, while it still asks for it. -/
def ticketOf (s : State) (unit : UnitId) : Option Ticket :=
  s.tickets.find? (fun t => t.unit == unit && decide (s.cycle ≤ t.cycle + 1))

/-- The arrival number of a unit's access in a bank: its place's, else behind everything. -/
def unitArr (s : State) (unit : UnitId) (b : Nat) : Nat :=
  (((ticketOf s unit).bind (fun t => t.banks.find? (fun e => e.1 == b))).map (·.2)).getD (s.mt (b / 16)).arrivals

/-- R146: a unit's access to scratchpad bytes has its turn: it is the oldest of every bank it touches, and none of them has performed a
word in this cycle. The words of one step in one bank count as one (DEDUCED, log 6). -/
def unitTurn (s : State) (r : Res) (unit : UnitId) (ranges : List (Nat × Nat)) : Bool :=
  (dedup (ranges.flatMap (fun x => rangeBanks r x.1 x.2))).all (fun b =>
    !bankUsed s (b / 16) (b % 16) && oldestAt s r (b / 16) (b % 16) (unitArr s unit b) (some unit))

/-- The banks perform a unit's words, and its places there go. -/
def unitTake (r : Res) (unit : UnitId) (ranges : List (Nat × Nat)) (s : State) : State :=
  let bs := dedup (ranges.flatMap (fun x => rangeBanks r x.1 x.2))
  let s := bs.foldl (fun s b => s.modMt (b / 16) (fun m => { m with bankAt := put (b % 16) (s.cycle + 1) m.bankAt })) s
  if s.tickets.isEmpty then s
  else
    let left := s.tickets.map (fun t => if t.unit == unit then { t with banks := t.banks.filter (fun e => !bs.contains e.1) } else t)
    { s with tickets := left.filter (fun t => !t.banks.isEmpty) }

/-- A unit that has to wait takes, or keeps, its place in the queues of the banks it touches. -/
def unitWait (r : Res) (unit : UnitId) (ranges : List (Nat × Nat)) (s : State) : State :=
  let bs := dedup (ranges.flatMap (fun x => rangeBanks r x.1 x.2))
  let t : Ticket := ⟨unit, s.cycle, bs.map (fun b => (b, unitArr s unit b))⟩
  let fresh := s.tickets.filter (fun x => decide (s.cycle ≤ x.cycle + 1))
  if (ticketOf s unit).isSome then { s with tickets := fresh.map (fun x => if x.unit == unit then t else x) }
  else
    let s := (dedup (bs.map (· / 16))).foldl (fun s k => s.modMt k (fun m => { m with arrivals := m.arrivals + 1 })) s
    { s with tickets := fresh ++ [t] }

/-- A unit's step over some scratchpad bytes: at its turn in the banks it goes on, else it waits there. -/
def atBanks (r : Res) (unit : UnitId) (ranges : List (Nat × Nat)) (s : State) (go : State → State) : State :=
  if unitTurn s r unit ranges then go (unitTake r unit ranges s) else unitWait r unit ranges s

/-! ### Sequences of updates at their source (R370) -/

/-- Source port of a request: tile and pipe, or the engine. -/
def Req.port (q : Req) : Nat := match q.org with
  | .slot k _ => k * 4 + q.pipe.port
  | .engine k _ _ _ _ => k * 4 + 3
  | _ => 0

/-- Requests of a source port to an owner that it has not yet seen answered. -/
def unanswered (s : State) (port home : Nat) : List Elt :=
  s.reqs.flatMap (fun e => if e.2.port = port then
    e.2.elts.filter (fun x => x.useq.isSome && eltHome s e.2 x == some home) else [])

/-- How far a sequence of 16 bits lies before another. -/
def seqBack (a b : Nat) : Nat := (b + 65536 - a % 65536) % 65536

/-- The mark of a source port: no sequence before it waits for its acknowledgement. -/
def markOf (s : State) (port : Nat) : Nat :=
  let nxt := getD 0 port s.useqs
  (s.reqs.flatMap (fun e => if e.2.port = port then e.2.elts.filterMap (·.useq) else [])).foldl (fun m n =>
    if seqBack n nxt > seqBack m nxt then n else m) nxt

/-- The sequence under which an update is sent to an owner: its own once it has one, else the port's next; none while 64 are outstanding
there, while one of them has the same place of 64 in the owner's window, or while the oldest outstanding lies 2^15 back (DESIGN CHOICE,
log 8). -/
def seqFor (s : State) (q : Req) (e : Elt) (home : Nat) : Option Nat := match e.useq with
  | some n => some n
  | none =>
    let n := getD 0 q.port s.useqs
    let out := unanswered s q.port home
    if decide (out.length ≥ 64) || out.any (fun x => match x.useq with | some m => m % 64 == n % 64 | none => false)
        || decide (seqBack (markOf s q.port) n ≥ 2 ^ 15) then none else some n

/-- The port has given a sequence. -/
def useSeq (q : Req) (e : Elt) (n : Nat) (s : State) : State :=
  if e.useq.isSome || !q.op.isUpdate then s else { s with useqs := put q.port ((n + 1) % 65536) s.useqs }

/-! ### The service mesh (R146 to R148) -/

/-- Elements of a stream whose response an MT has not yet returned, for its reorder buffer (R148): what it has performed waits there for
what came before it in its stream. -/
def reorderCount (s : State) (q : Req) (mt : Nat) : Nat :=
  if q.stream.isNone then 0
  else
    let mine := s.reqs.flatMap (fun e => if e.2.stream == q.stream
      then e.2.elts.filter (fun x => x.space == .scr && eltHome s e.2 x == some mt) else [])
    let wait := mine.filter (fun x => x.st == .home || x.st == .accepted)
    match minNat? (wait.map (·.arr)) with
    | none => 0
    | some n => wait.length + (mine.filter (fun x => x.st == .done && decide (x.arr > n))).length

/-- Whether a home takes an element now: its bank queues have room for it, the stream's reorder buffer has an entry, and an update has its
sequence. -/
def homeTakes (s : State) (q : Req) (e : Elt) (home : Nat) : Bool := match e.space, get? q.h s.res with
  | .scr, some r => (e.banks r).all (fun b => decide (bankCount s r home b < 8)) && decide (reorderCount s q home < 64)
      && (!q.op.isUpdate || (seqFor s q e home).isSome)
  | _, _ => true

/-- What the mesh remembers within a cycle: how many requests each MT has taken, and which sources wait on the way to which home. -/
structure MeshRun where
  state   : State
  taken   : SMap Nat := []
  blocked : List (Nat × Nat) := []
  deriving DecidableEq, Repr, Inhabited

/-- One element on its way: it arrives, or it and what comes after it from the same source to the same home wait; one that its engine has not
issued, or that stands behind a hold, is not on its way. -/
def meshElt (id i : Nat) (m : MeshRun) : MeshRun :=
  let s := m.state
  match get? id s.reqs with
  | none => m
  | some q => match q.elts[i]? with
    | none => m
    | some e =>
      match eltHome s q e with
      | none => m
      | some home =>
        let src := (q.org.tile s, home)
        if e.st ≠ .mesh || stuck s id q i e || !mayIssue s q e || decide (engineOut s q home ≥ 64) || m.blocked.contains src then m
        else if homeTakes s q e home && (e.space != .scr || decide (getD 0 home m.taken < 4)) then
          let n := (s.mt home).arrivals
          let seq := if q.op.isUpdate then seqFor s q e home else none
          let s := useSeq q e (seq.getD 0) (s.setReq id
            { (q.setElt i { e with st := .home, arr := n, useq := seq }) with since := s.cycle, tries := 1 })
          if e.space == .scr then
            { m with state := s.modMt home (fun t => { t with arrivals := n + 1 }), taken := upd 0 home (· + 1) m.taken }
          else { m with state := s }
        else { m with blocked := m.blocked ++ [src] }

/-- Requests that queued behind a hold that has ended are checked and issued (R107). -/
def issueQueued (s : State) : State :=
  s.reqs.foldl (fun s e =>
    let is := ((e.2.elts.zipIdx).filter (fun x => x.1.st == .new && x.1.space != .virt)).map (·.2)
    if is = [] || (get? e.2.h s.images).isSome then s else issueElts e.1 is s) s

/-- One cycle of the mesh: an MT takes at most four requests; those issued first arrive first (DESIGN CHOICE, log 1). -/
def meshStep (s : State) : State :=
  let s := issueQueued s
  ((s.reqs.flatMap (fun e => (upto e.2.elts.length).map (fun i => (e.1, i)))).foldl (fun m x => meshElt x.1 x.2 m) { state := s }).state

end Sys2Proof.Machine
end

