-- ==== Sys2Proof/Machine/Arrival.lean ====
section
/-! DEFINITION. Arrival words and their waiters (R126, R160, R161). -/

namespace Sys2Proof.Machine

/-- REM of an arrival word, s31. -/
def arrRem (v : Nat) : Int := let r := bits v 32 31; if r ≥ 2 ^ 30 then (r : Int) - 2 ^ 31 else r

/-- An arrival word from its fields. -/
def arrWord (pst : Bool) (rem : Int) (seq : Nat) : Nat :=
  (if pst then 2 ^ 63 else 0) + (rem % 2 ^ 31).toNat * 2 ^ 32 + seq % 2 ^ 32

/-- R126: a subtraction of n bytes. -/
def arrSub (v n : Nat) : Nat :=
  let r := arrRem v - n
  arrWord (bit v 63) (if r < -(2 ^ 30) then -(2 ^ 30) else r) (v % 2 ^ 32 + 1)

/-- R160: `expect` of a count. -/
def arrExpect (v c : Nat) : Nat :=
  let r := arrRem v + c
  arrWord true (if r > 2 ^ 30 - 1 then 2 ^ 30 - 1 else r) (v % 2 ^ 32)

/-- R126: 0 complete, 1 overrun, `none` pending. -/
def arrState (v : Nat) : Option Nat :=
  if !bit v 63 then none else if arrRem v = 0 then some 0 else if arrRem v < 0 then some 1 else none

/-- The 8-byte word at a scratchpad offset. -/
def scrWord (s : State) (r : Res) (off : Nat) : Nat := leNat (scrRead r s off 8)

def setScrWord (s : State) (r : Res) (off v : Nat) : State := scrPut r s off (leBytes 8 v)

/-- A waiter observes its word; it is satisfied when the word reads complete or overrun, and `clr` then writes 0
(R161). -/
def observe (id : Nat) (s : State) : State :=
  match get? id s.reqs with
  | none => s
  | some q =>
    match q.elts.head?, get? q.h s.res, q.op with
    | some e, some r, .waita clr =>
      if e.st ≠ .wait then s
      else match arrState (scrWord s r e.addr) with
        | none => s
        | some v =>
          let s := s.setReq id (q.setElt 0 { e with st := .done, data := [BitVec.ofNat 8 v] })
          let s := s.modMt (r.scrHome e.addr).1 (fun m => { m with waiters := m.waiters.filter (fun w => w != id) })
          if clr then setScrWord s r e.addr 0 else s
    | _, _, _ => s

/-- Waiters of the word at an offset observe an update of it, in the order of registration. -/
def wake (h : Nat) (off : Nat) (s : State) : State :=
  match get? h s.res with
  | none => s
  | some r =>
    ((s.mt (r.scrHome off).1).waiters.filter (fun id => match get? id s.reqs with
      | some q => q.h == h && (match q.elts.head? with | some e => e.addr == off / 8 * 8 | none => false)
      | none => false)).foldl (fun s id => observe id s) s

end Sys2Proof.Machine
end

