-- ==== Sys2Proof/Machine/Integer.lean ====
section
/-! DEFINITION. The integer instructions (R216 to R218, R221 to R228). -/

namespace Sys2Proof.Machine

/-! ### Lanewise forms (R216, R217) -/

/-- Lanes of an operand widened to `n` bytes: 8 bytes repeat element 0, others are extended with zero elements (R217). -/
def widen (w n : Nat) (d : List Byte) : List Nat :=
  if d.length = n then lanes w d
  else if d.length = 8 then List.replicate (n / w) (lane w d 0)
  else lanes w (fitBytes n d)

/-- Apply a function to two rows of lanes. -/
def zip2 {α : Type} (f : Nat → Nat → α) : List Nat → List Nat → List α
  | a :: as, b :: bs => f a b :: zip2 f as bs
  | _, _ => []

/-- Apply a function to three rows of lanes. -/
def zip3 {α : Type} (f : Nat → Nat → Nat → α) : List Nat → List Nat → List Nat → List α
  | a :: as, b :: bs, c :: cs => f a b c :: zip3 f as bs cs
  | _, _, _ => []

/-- Fire a lanewise instruction of one operand; the result has type `ty` of the same width as SH (R218). -/
def lanes1 (i : Instr) (h : Hd) (ty : Elem) (f : Ctx → Nat → Nat) (s : State) : Result :=
  fire i (fun c s =>
    c.send (both h (dataOut ty c.time (packLanes h.sh.width ((lanes h.sh.width c.l.data).map (f c))))) s) s

/-- The two operands' rows: R, or the immediate broadcast (R27, R217). `bw` reads the immediate. -/
def operands2 (h : Hd) (im : Nat) (c : Ctx) : List Nat × List Nat :=
  let w := h.sh.width
  if h.md.toNat ≥ 8 then
    let a := lanes w c.l.data
    (a, List.replicate a.length im)
  else
    let n := max c.l.data.length c.rt.data.length
    (widen w n c.l.data, widen w n c.rt.data)

/-- Fire a lanewise instruction of two operands. -/
def lanes2 (i : Instr) (h : Hd) (imm : BitVec 30) (ty : Elem) (f : Nat → Nat → Nat) (s : State) : Result :=
  fire i (fun c s =>
    let (a, b) := operands2 h (immElem h.sh imm) c
    c.send (both h (dataOut ty c.time (packLanes h.sh.width (zip2 f a b)))) s) s

/-- The three operands' rows (R217). -/
def operands3 (h : Hd) (c : Ctx) : List Nat × List Nat × List Nat :=
  let w := h.sh.width
  let n := max c.l.data.length (max c.rt.data.length c.p.data.length)
  (widen w n c.l.data, widen w n c.rt.data, widen w n c.p.data)

/-- Fire a lanewise instruction of three operands. -/
def lanes3 (i : Instr) (h : Hd) (f : Nat → Nat → Nat → Nat) (s : State) : Result :=
  fire i (fun c s =>
    let (a, b, d) := operands3 h c
    c.send (both h (dataOut h.sh c.time (packLanes h.sh.width (zip3 f a b d)))) s) s

/-! ### Integers (R195, R196) -/

/-- A raw element as the integer its type gives (R195). -/
def intOf (e : Elem) (v : Nat) : Int :=
  if e.signed && decide (v ≥ 2 ^ (e.nbits - 1)) then (v : Int) - 2 ^ e.nbits else v

/-- An integer modulo 2^W, raw. -/
def rawOf (e : Elem) (v : Int) : Nat := (v % (2 ^ e.nbits : Int)).toNat

/-- Range of a type. -/
def intMin (e : Elem) : Int := if e.signed then -(2 ^ (e.nbits - 1) : Int) else 0
def intMax (e : Elem) : Int := if e.signed then 2 ^ (e.nbits - 1) - 1 else 2 ^ e.nbits - 1

/-- Clamp to the type's range. -/
def clampInt (e : Elem) (v : Int) : Int := if v < intMin e then intMin e else if v > intMax e then intMax e else v

def iadd (e : Elem) (a b : Nat) : Nat := rawOf e (intOf e a + intOf e b)
def isub (e : Elem) (a b : Nat) : Nat := rawOf e (intOf e a - intOf e b)
def imul (e : Elem) (a b : Nat) : Nat := rawOf e (intOf e a * intOf e b)
def imulh (e : Elem) (a b : Nat) : Nat := rawOf e ((intOf e a * intOf e b) / (2 ^ e.nbits : Int))
def imad (e : Elem) (a b c : Nat) : Nat := rawOf e (intOf e a * intOf e b + intOf e c)

/-- Quotient of R196: truncated toward zero; all ones for divisor 0; MIN ÷ −1 wraps to MIN. -/
def idiv (e : Elem) (a b : Nat) : Nat :=
  if b = 0 then 2 ^ e.nbits - 1 else rawOf e (Int.tdiv (intOf e a) (intOf e b))

/-- Remainder of R196: the sign of the dividend; the dividend for divisor 0. -/
def irem (e : Elem) (a b : Nat) : Nat := if b = 0 then a else rawOf e (Int.tmod (intOf e a) (intOf e b))

def ineg (e : Elem) (a : Nat) : Nat := rawOf e (-(intOf e a))
def iabs (e : Elem) (a : Nat) : Nat := if intOf e a < 0 then ineg e a else a
def imin (e : Elem) (a b : Nat) : Nat := if intOf e b < intOf e a then b else a
def imax (e : Elem) (a b : Nat) : Nat := if intOf e a < intOf e b then b else a
def iadds (e : Elem) (a b : Nat) : Nat := rawOf e (clampInt e (intOf e a + intOf e b))
def isubs (e : Elem) (a b : Nat) : Nat := rawOf e (clampInt e (intOf e a - intOf e b))
def iand (_ : Elem) (a b : Nat) : Nat := a &&& b
def ior (_ : Elem) (a b : Nat) : Nat := a ||| b
def ixor (_ : Elem) (a b : Nat) : Nat := a ^^^ b
def iandn (e : Elem) (a b : Nat) : Nat := a &&& (2 ^ e.nbits - 1 - b)
def ishl (e : Elem) (a b : Nat) : Nat := if b ≥ e.nbits then 0 else a * 2 ^ b % 2 ^ e.nbits

/-- SHR: arithmetic for signed types; by W or more 0 or all sign bits. -/
def ishr (e : Elem) (a b : Nat) : Nat :=
  if intOf e a < 0 then (if b ≥ e.nbits then 2 ^ e.nbits - 1 else rawOf e (intOf e a / (2 ^ b : Int)))
  else if b ≥ e.nbits then 0 else a / 2 ^ b

def irotl (e : Elem) (a b : Nat) : Nat :=
  let k := b % e.nbits
  (a * 2 ^ k % 2 ^ e.nbits) + a / 2 ^ (e.nbits - k)

/-- Number of bits of a number below 2^n. -/
def bitLen : Nat → Nat → Nat
  | 0, _ => 0
  | n + 1, v => if v ≥ 2 ^ n then n + 1 else bitLen n v

def iclz (e : Elem) (a : Nat) : Nat := e.nbits - bitLen e.nbits a

def ipopc (e : Elem) (a : Nat) : Nat := ((upto e.nbits).filter (bit a)).length

/-- BFX (R223). -/
def ibfx (e : Elem) (lo len a : Nat) : Nat :=
  let f := bits a lo len
  if e.signed && bit f (len - 1) then rawOf e ((f : Int) - 2 ^ len) else f

/-- BFI (R223). -/
def ibfi (lo len a b : Nat) : Nat := a - bits a lo len * 2 ^ lo + b % 2 ^ len * 2 ^ lo

/-- A condition of CMP (R224): `eq` `ne` `lt` `le` `gt` `ge`. -/
def intCond (cc : Nat) (a b : Int) : Bool :=
  match cc with
  | 0 => a == b | 1 => a != b | 2 => decide (a < b) | 3 => decide (a ≤ b) | 4 => decide (a > b) | _ => decide (a ≥ b)

/-- The unsigned type of the same width (R224). -/
def unsignedOf (e : Elem) : Elem :=
  match e.width with
  | 1 => .n8 | 2 => .n16 | 4 => .n32 | _ => .n64

/-! ### HASH (R225) -/

/-- x XOR (x >> k). -/
def xorShift (x k : Nat) : Nat := x ^^^ (x / 2 ^ k)

/-- The hash of R225 under a seed. -/
def hash32 (seed : W64) (v : Nat) : Nat :=
  let m := 2 ^ 32
  let x := v ^^^ (seed.toNat % m)
  let x := xorShift (x * 0x9E3779B1 % m) 15
  let x := xorShift (x * 0x2C1B3C6D % m) 12
  let x := x ^^^ (seed.toNat / m)
  xorShift (x * 0x297A2D39 % m) 15

/-! ### The instructions (R222) -/

/-- R228: four n32 counts, clamped. -/
def countAdd (a b : List Byte) : List Byte :=
  packLanes 4 (zip2 (fun x y => if x + y ≤ 2 ^ 32 - 1 then x + y else 2 ^ 32 - 1) (lanes 4 (fitBytes 16 a)) (lanes 4 (fitBytes 16 b)))

/-- R222, and R228 for two count tokens. -/
def execAdd (h : Hd) (imm : BitVec 30) (s : State) : Result :=
  fire (.add h imm) (fun c s =>
    if decide (h.md.toNat < 8) && c.l.kind == .count && c.rt.kind == .count then
      c.send (both h (fun t => ⟨t, .count, .n32, c.time, countAdd c.l.data c.rt.data⟩)) s
    else
      let (a, b) := operands2 h (immElem h.sh imm) c
      c.send (both h (dataOut h.sh c.time (packLanes h.sh.width (zip2 (iadd h.sh) a b)))) s) s

/-- R222. -/
def execSub (h : Hd) (imm : BitVec 30) (s : State) : Result := lanes2 (.sub h imm) h imm h.sh (isub h.sh) s

/-- R222. -/
def execMul (h : Hd) (imm : BitVec 30) (s : State) : Result := lanes2 (.mul h imm) h imm h.sh (imul h.sh) s

/-- R222: the high half of the exact product. -/
def execMulh (h : Hd) (imm : BitVec 30) (s : State) : Result := lanes2 (.mulh h imm) h imm h.sh (imulh h.sh) s

/-- R222, R196: the quotient. -/
def execDiv (h : Hd) (imm : BitVec 30) (s : State) : Result := lanes2 (.div h imm) h imm h.sh (idiv h.sh) s

/-- R222, R196: the remainder. -/
def execRem (h : Hd) (imm : BitVec 30) (s : State) : Result := lanes2 (.rem h imm) h imm h.sh (irem h.sh) s

/-- R222. -/
def execMin (h : Hd) (imm : BitVec 30) (s : State) : Result := lanes2 (.min h imm) h imm h.sh (imin h.sh) s

/-- R222. -/
def execMax (h : Hd) (imm : BitVec 30) (s : State) : Result := lanes2 (.max h imm) h imm h.sh (imax h.sh) s

/-- R222: clamped to the type's range. -/
def execAdds (h : Hd) (imm : BitVec 30) (s : State) : Result := lanes2 (.adds h imm) h imm h.sh (iadds h.sh) s

/-- R222: clamped to the type's range. -/
def execSubs (h : Hd) (imm : BitVec 30) (s : State) : Result := lanes2 (.subs h imm) h imm h.sh (isubs h.sh) s

/-- R222. -/
def execAnd (h : Hd) (imm : BitVec 30) (s : State) : Result := lanes2 (.and h imm) h imm h.sh (iand h.sh) s

/-- R222. -/
def execOr (h : Hd) (imm : BitVec 30) (s : State) : Result := lanes2 (.or h imm) h imm h.sh (ior h.sh) s

/-- R222. -/
def execXor (h : Hd) (imm : BitVec 30) (s : State) : Result := lanes2 (.xor h imm) h imm h.sh (ixor h.sh) s

/-- R222. -/
def execAndn (h : Hd) (imm : BitVec 30) (s : State) : Result := lanes2 (.andn h imm) h imm h.sh (iandn h.sh) s

/-- R222. -/
def execShl (h : Hd) (imm : BitVec 30) (s : State) : Result := lanes2 (.shl h imm) h imm h.sh (ishl h.sh) s

/-- R222. -/
def execShr (h : Hd) (imm : BitVec 30) (s : State) : Result := lanes2 (.shr h imm) h imm h.sh (ishr h.sh) s

/-- R222. -/
def execRotl (h : Hd) (imm : BitVec 30) (s : State) : Result := lanes2 (.rotl h imm) h imm h.sh (irotl h.sh) s

/-- R222: the low half of a·b + c. -/
def execMad (h : Hd) (imm : BitVec 30) (s : State) : Result := lanes3 (.mad h imm) h (imad h.sh) s

/-- R222. -/
def execNeg (h : Hd) (imm : BitVec 30) (s : State) : Result := lanes1 (.neg h imm) h h.sh (fun _ => ineg h.sh) s

/-- R222. -/
def execAbs (h : Hd) (imm : BitVec 30) (s : State) : Result := lanes1 (.abs h imm) h h.sh (fun _ => iabs h.sh) s

/-- R222. -/
def execClz (h : Hd) (imm : BitVec 30) (s : State) : Result := lanes1 (.clz h imm) h h.sh (fun _ => iclz h.sh) s

/-- R222. -/
def execPopc (h : Hd) (imm : BitVec 30) (s : State) : Result := lanes1 (.popc h imm) h h.sh (fun _ => ipopc h.sh) s

/-- R223: the field, moved down to bit 0 and extended by signedness. -/
def execBfx (h : Hd) (imm : BitVec 30) (s : State) : Result :=
  lanes1 (.bfx h imm) h h.sh (fun _ => ibfx h.sh (immBits imm 0 6) (immBits imm 6 7)) s

/-- R223: L with the field replaced by the low bits of R. -/
def execBfi (h : Hd) (imm : BitVec 30) (s : State) : Result :=
  fire (.bfi h imm) (fun c s =>
    let n := max c.l.data.length c.rt.data.length
    let w := h.sh.width
    c.send (both h (dataOut h.sh c.time (packLanes w
      (zip2 (ibfi (immBits imm 0 6) (immBits imm 6 7)) (widen w n c.l.data) (widen w n c.rt.data))))) s) s

/-- R224: 1 or 0 per element, of the unsigned type of SH's width. -/
def execCmp (h : Hd) (imm : BitVec 30) (s : State) : Result :=
  lanes2 (.cmp h imm) h imm (unsignedOf h.sh)
    (fun a b => if intCond (h.md.toNat % 8) (intOf h.sh a) (intOf h.sh b) then 1 else 0) s

/-- R225: the hash under DETSEED as it stands at the firing. -/
def execHash (h : Hd) (imm : BitVec 30) (s : State) : Result :=
  lanes1 (.hash h imm) h h.sh (fun c => hash32 c.a.detseed) s

end Sys2Proof.Machine
end

