-- ==== Sys2Proof/Machine/Float.lean ====
section
/-! DEFINITION. Number formats to the bit (R197 to R211): values, one rounding, saturation, the block format. -/

namespace Sys2Proof.Machine

/-! ### Values -/

/-- A value of a float format: NaN, an infinity, or (-1)^neg · m · 2^e exactly. -/
inductive FVal where
  | nan
  | inf (neg : Bool)
  | fin (neg : Bool) (m : Nat) (e : Int)
  deriving DecidableEq, Repr, Inhabited

/-- Layout of a format (R197): exponent bits, mantissa bits, bias, whether it has infinities. -/
structure Fmt where
  eb   : Nat
  mb   : Nat
  bias : Nat
  ieee : Bool
  deriving DecidableEq, Repr, Inhabited

/-- R197. Types without such a layout read as f32's. -/
def fmtOf : Elem → Fmt
  | .f16 => ⟨5, 10, 15, true⟩
  | .bf16 => ⟨8, 7, 127, true⟩
  | .e5m2 => ⟨5, 2, 15, true⟩
  | .e4m3 => ⟨4, 3, 7, false⟩
  | _ => ⟨8, 23, 127, true⟩

def Fmt.width (f : Fmt) : Nat := 1 + f.eb + f.mb

/-- Canonical NaN (R197). -/
def Fmt.nanBits (f : Fmt) : Nat := if f.ieee then (2 ^ f.eb - 1) * 2 ^ f.mb + 2 ^ (f.mb - 1) else 0x7F

/-- Infinity, sign clear. -/
def Fmt.infBits (f : Fmt) : Nat := (2 ^ f.eb - 1) * 2 ^ f.mb

/-- Largest finite value, sign clear. -/
def Fmt.maxBits (f : Fmt) : Nat := if f.ieee then (2 ^ f.eb - 1) * 2 ^ f.mb - 1 else 0x7E

def Fmt.signBit (f : Fmt) (neg : Bool) : Nat := if neg then 2 ^ (f.eb + f.mb) else 0

/-- The value of a bit pattern (R197). -/
def decodeF (f : Fmt) (v : Nat) : FVal :=
  let neg := bit v (f.eb + f.mb)
  let e := bits v f.mb f.eb
  let m := bits v 0 f.mb
  if f.ieee && e == 2 ^ f.eb - 1 then (if m = 0 then .inf neg else .nan)
  else if !f.ieee && e == 2 ^ f.eb - 1 && m == 2 ^ f.mb - 1 then .nan
  else if e = 0 then .fin neg m (1 - (f.bias : Int) - f.mb)
  else .fin neg (2 ^ f.mb + m) ((e : Int) - f.bias - f.mb)

/-- Value of an e8m0 byte (R200). -/
def decodeE8 (v : Nat) : FVal := if v % 256 = 255 then .nan else .fin false 1 ((v % 256 : Nat) - 127)

/-- The value of a raw element of a float type or e8m0, or of an integer type. -/
def valueOf (t : Elem) (v : Nat) : FVal :=
  match t with
  | .e8m0 => decodeE8 v
  | .f32 | .f16 | .bf16 | .e4m3 | .e5m2 => decodeF (fmtOf t) v
  | _ => let i := intOf t v; .fin (decide (i < 0)) i.natAbs 0

/-! ### Rounding (R205, R206) -/

/-- Bit length of a number; structural on the number of 64-bit pieces. -/
def bigLen (v : Nat) : Nat := Nat.log2 v + (if v = 0 then 0 else 1)

/-- Round n + r/2^d up under rn, rz, rd, ru, and, on service cores only, to nearest with ties away (4)? `half` compares the discarded part with one half: 0 zero, 1 below, 2 tie, 3 above. -/
def roundsUp (mode : Nat) (neg : Bool) (n half : Nat) : Bool :=
  match mode with
  | 0 => half == 3 || (half == 2 && n % 2 == 1)
  | 1 => false
  | 2 => neg && half != 0
  | 4 => decide (half ≥ 2)
  | _ => !neg && half != 0

/-- m · 2^e plus, where sticky, something strictly between 0 and 2^e, cut at 2^q: the whole part and how the rest
compares with one half. -/
def cutAt (m : Nat) (e q : Int) (sticky : Bool) : Nat × Nat :=
  if q ≤ e then (m * 2 ^ (e - q).toNat, if sticky then 1 else 0)
  else
    let d := (q - e).toNat
    if d > bigLen m + 1 then (0, if m = 0 && !sticky then 0 else 1)
    else
      let r := m % 2 ^ d
      let h := 2 ^ (d - 1)
      (m / 2 ^ d, if r = 0 then (if sticky then 1 else 0) else if r < h then 1 else if r = h && !sticky then 2 else 3)

/-- Result of an overflow (R206). -/
def overflowF (f : Fmt) (mode : Nat) (sat neg : Bool) : Nat × StEvent :=
  if !sat && (mode == 0 || mode == 4 || (mode == 2 && neg) || (mode == 3 && !neg)) then
    (if f.ieee then (f.signBit neg + f.infBits, .inf) else (f.nanBits, .nan))
  else (f.signBit neg + f.maxBits, .sat)

/-- Round an exact value (with sticky, a value just above m · 2^e) to a format (R205, R206). -/
def roundMag (f : Fmt) (mode : Nat) (sat neg : Bool) (m : Nat) (e : Int) (sticky : Bool) : Nat × StEvent :=
  if m = 0 && !sticky then (f.signBit neg, .none)
  else
    let top := e + (bigLen m : Int) - 1
    let emin : Int := 1 - (f.bias : Int)
    if top > (f.bias : Int) + 2 then overflowF f mode sat neg
    else
      let q := (if top < emin then emin else top) - f.mb
      let (n, half) := cutAt m e q sticky
      let n := if roundsUp mode neg n half then n + 1 else n
      let (n, q) := if n ≥ 2 ^ (f.mb + 1) then (n / 2, q + 1) else (n, q)
      if n < 2 ^ f.mb then (f.signBit neg + n, if n = 0 then .flush else .none)
      else
        let ef := (q + f.mb + f.bias).toNat
        let b := ef * 2 ^ f.mb + (n - 2 ^ f.mb)
        if b > f.maxBits then overflowF f mode sat neg else (f.signBit neg + b, .none)

/-- An exact value to a format: NaN canonical, an infinity by R206, else one rounding. -/
def encodeF (f : Fmt) (mode : Nat) (sat : Bool) : FVal → Nat × StEvent
  | .nan => (f.nanBits, .nan)
  | .inf neg => if sat then (f.signBit neg + f.maxBits, .sat)
      else if f.ieee then (f.signBit neg + f.infBits, .inf) else (f.nanBits, .nan)
  | .fin neg m e => roundMag f mode sat neg m e false

/-! ### Exact arithmetic (R211) -/

def FVal.neg : FVal → FVal
  | .nan => .nan
  | .inf s => .inf (!s)
  | .fin s m e => .fin (!s) m e

def FVal.abs : FVal → FVal
  | .nan => .nan
  | .inf _ => .inf false
  | .fin _ m e => .fin false m e

/-- Signed mantissa at exponent `e`. -/
def atExp (neg : Bool) (m : Nat) (k e : Int) : Int :=
  let v : Int := (m * 2 ^ (k - e).toNat : Nat)
  if neg then -v else v

/-- The exact sum; zeros by R211 under the mode. -/
def addV (mode : Nat) : FVal → FVal → FVal
  | .nan, _ => .nan
  | _, .nan => .nan
  | .inf a, .inf b => if a = b then .inf a else .nan
  | .inf a, _ => .inf a
  | _, .inf b => .inf b
  | .fin s1 m1 e1, .fin s2 m2 e2 =>
    if m1 = 0 && m2 = 0 then .fin (if mode = 2 then s1 || s2 else s1 && s2) 0 0
    else if m1 = 0 then .fin s2 m2 e2
    else if m2 = 0 then .fin s1 m1 e1
    else
      let e := if e1 ≤ e2 then e1 else e2
      let v := atExp s1 m1 e1 e + atExp s2 m2 e2 e
      if v = 0 then .fin (mode == 2) 0 0 else .fin (decide (v < 0)) v.natAbs e

/-- The exact product. -/
def mulV : FVal → FVal → FVal
  | .nan, _ => .nan
  | _, .nan => .nan
  | .inf a, .inf b => .inf (a != b)
  | .inf a, .fin s m _ => if m = 0 then .nan else .inf (a != s)
  | .fin s m _, .inf b => if m = 0 then .nan else .inf (s != b)
  | .fin s1 m1 e1, .fin s2 m2 e2 => .fin (s1 != s2) (m1 * m2) (e1 + e2)

def FVal.isNan : FVal → Bool
  | .nan => true
  | _ => false

/-- Order of two values that are not NaN; `none` when equal, −0 equal to +0 (R198). -/
def ltV : FVal → FVal → Bool
  | .inf a, .inf b => a && !b
  | .inf a, .fin _ _ _ => a
  | .fin _ _ _, .inf b => !b
  | .fin s1 m1 e1, .fin s2 m2 e2 =>
    let e := if e1 ≤ e2 then e1 else e2
    decide (atExp s1 m1 e1 e < atExp s2 m2 e2 e)
  | _, _ => false

def FVal.sign : FVal → Bool
  | .nan => false
  | .inf s => s
  | .fin s _ _ => s

/-- FMIN (R230): NaN if either is; −0 below +0. -/
def minV (a b : FVal) : FVal :=
  if a.isNan || b.isNan then .nan else if ltV a b then a else if ltV b a then b else if a.sign then a else b

/-- FMAX (R230). -/
def maxV (a b : FVal) : FVal :=
  if a.isNan || b.isNan then .nan else if ltV a b then b else if ltV b a then a else if a.sign then b else a

/-! ### f32 shorthand -/

def f32 : Fmt := fmtOf .f32

/-- Round to f32 under `rn`, not saturating. -/
def rnF32 (v : FVal) : Nat := (encodeF f32 0 false v).1

/-- rn_f32(a + b) of two f32 bit patterns. -/
def addF32 (a b : Nat) : Nat := rnF32 (addV 0 (decodeF f32 a) (decodeF f32 b))

/-- rn_f32 of the exact product of two values. -/
def mulF32 (a b : FVal) : Nat := rnF32 (mulV a b)

/-! ### Integers (R207) -/

/-- A float value to an integer type: rounded by the mode, then clamped. -/
def toIntV (t : Elem) (mode : Nat) : FVal → Nat × StEvent
  | .nan => (0, .none)
  | .inf neg => (rawOf t (if neg then intMin t else intMax t), .sat)
  | .fin neg m e =>
    if e > 80 && m != 0 then (rawOf t (if neg then intMin t else intMax t), .sat)
    else
      let (n, half) := cutAt m e 0 false
      let n := if roundsUp mode neg n half then n + 1 else n
      let v : Int := if neg then -(n : Int) else n
      let c := clampInt t v
      (rawOf t c, if c = v then .none else .sat)

/-! ### e8m0 (R208) -/

/-- A value to e8m0. A finite value that R208 sets to 0xFE under saturate counts as a saturation: row 1 of R212 names R206, R207 and infinite
sources and is silent on R208 (DESIGN CHOICE, log 14). -/
def toE8 (mode : Nat) (sat : Bool) : FVal → Nat × StEvent
  | .nan => (0xFF, .nan)
  | .inf neg => if neg then (0xFF, .nan) else if sat then (0xFE, .sat) else (0xFF, .nan)
  | .fin neg m e =>
    if neg || m == 0 then (0xFF, .nan)
    else
      let k := e + (bigLen m : Int) - 1
      if k < -127 then (0, .none)
      else
        let l := bigLen m - 1
        let rest := m - 2 ^ l
        let k' := if rest = 0 then k
          else match mode with
            | 0 => if 2 * rest > 2 ^ l then k + 1 else if 2 * rest < 2 ^ l then k
                else if (k + 127) % 2 = 0 then k else k + 1
            | 3 => k + 1
            | _ => k
        if k' > 127 then (if sat then (0xFE, .sat) else (0xFF, .nan)) else ((k' + 127).toNat, .none)

/-! ### Conversions of one element (R207 to R209, R241) -/

def Elem.isFlt (t : Elem) : Bool :=
  match t with
  | .f32 | .f16 | .bf16 | .e4m3 | .e5m2 | .e8m0 => true
  | _ => false

/-- R209: a float target that represents every value of a source with infinities: the saturate bit has no effect. -/
def Elem.widensTo (src dst : Elem) : Bool := match src, dst with
  | .f32, .f32 | .bf16, .bf16 | .bf16, .f32 | .f16, .f16 | .f16, .f32 => true
  | .e5m2, .e5m2 | .e5m2, .f16 | .e5m2, .bf16 | .e5m2, .f32 => true
  | _, _ => false

/-- One element from type `src` to type `dst`. An integer clamped to an integer counts in no row (R212). -/
def convert (src dst : Elem) (mode : Nat) (sat : Bool) (v : Nat) : Nat × StEvent :=
  let sat := sat && !Elem.widensTo src dst
  if Elem.isFlt dst then
    (if dst = .e8m0 then toE8 mode sat (valueOf src v) else encodeF (fmtOf dst) mode sat (valueOf src v))
  else if Elem.isFlt src then toIntV dst mode (valueOf src v)
  else
    let i := intOf src v
    if sat then
      (if dst.width ≤ src.width then
        let c := clampInt dst i
        (rawOf dst c, .none)
       else (rawOf dst i, .none))
    else (rawOf dst i, .none)

/-- Stochastic rounding (R210): a + r·u/2^16 truncated; overflow as under `rz`. -/
def stochastic (dst : Elem) (sat : Bool) (r : Nat) (v : FVal) : Nat × StEvent :=
  let f := fmtOf dst
  match v with
  | .fin neg m e =>
    if m = 0 then (f.signBit neg, .none)
    else
      let top := e + (bigLen m : Int) - 1
      let emin : Int := 1 - (f.bias : Int)
      let u := (if top < emin then emin else top) - f.mb - 16
      let lo := if u ≤ e then u else e
      roundMag f 1 sat neg (m * 2 ^ (e - lo).toNat + r * 2 ^ (u - lo).toNat) lo false
  | x => encodeF f 0 sat x

/-! ### The block format (R201 to R204) -/

/-- Twice the magnitude of an e2m1 code (R201). -/
def e2m1Twice (c : Nat) : Nat :=
  match c % 8 with
  | 0 => 0 | 1 => 1 | 2 => 2 | 3 => 3 | 4 => 4 | 5 => 6 | 6 => 8 | _ => 12

/-- Value of a code without the scale; 0b1000 is the special byte as e4m3 (R202, R215). -/
def e2m1Val (special c : Nat) : FVal :=
  if c % 16 = 8 then decodeF (fmtOf .e4m3) special else .fin (bit c 3) (e2m1Twice c) (-1)

/-- Nibble `j` of a byte list: low nibble first (R203). -/
def nibble (bs : List Byte) (j : Nat) : Nat := bits (natAt bs (j / 2) 1) (4 * (j % 2)) 4

/-- Element `e` of a 256-byte e2m1 token, scaled (R202, R203). -/
def e2m1Elem (d : List Byte) (e : Nat) : FVal :=
  let b := e / 32
  let scale := natAt d (128 + b) 1
  if scale = 255 then .nan
  else match e2m1Val (natAt d (136 + b) 1) (nibble d e) with
    | .fin s m x => .fin s m (x + (scale : Int) - 127)
    | v => v

/-- Distance of |y| = m · 2^e from half of `t` units, at exponent min(e, -1). -/
def e2m1Err (m : Nat) (e : Int) (t : Nat) : Nat :=
  let lo : Int := if e ≤ -1 then e else -1
  let y := m * 2 ^ (e - lo).toNat
  let v := t * 2 ^ (-1 - lo).toNat
  if y ≤ v then v - y else y - v

/-- Nearest magnitude code, ties to bit 0 = 0 (R204), and the error. -/
def e2m1Nearest (m : Nat) (e : Int) : Nat × Nat :=
  (upto 8).foldl (fun (best : Nat × Nat) c =>
    let er := e2m1Err m e (e2m1Twice c)
    if er < best.2 || (er == best.2 && c % 2 == 0) then (c, er) else best) (0, e2m1Err m e 0)

/-- A quantised block: codes, scale, special byte, and per element what it counts as (R204, R243). -/
structure QBlock where
  codes   : List Nat
  scale   : Nat
  special : Nat
  evs     : List StEvent
  deriving DecidableEq, Repr, Inhabited

/-- Largest magnitude: the value of the list that no other exceeds. -/
def largest (l : List FVal) : FVal := l.foldl (fun m x => if ltV m x.abs then x.abs else m) (.fin false 0 0)

/-- R204 on 32 values. -/
def quantise (xs : List FVal) : QBlock :=
  if xs.any (fun x => match x with | .fin _ _ _ => false | _ => true) then
    ⟨List.replicate 32 0, 0xFF, 0, List.replicate 32 .nan⟩
  else match largest xs with
  | .fin _ mm me =>
    if mm = 0 then ⟨List.replicate 32 0, 0x7F, 0, List.replicate 32 .none⟩
    else
      let s0 := me + (bigLen mm : Int) - 1 - 2
      let s := if s0 < -127 then -127 else s0
      -- all values at one exponent, in units of 2^s
      let lo := xs.foldl (fun (l : Int) x => match x with | .fin _ _ e => if e - s < l then e - s else l | _ => l) (-1)
      let ys : List (Bool × Nat) := xs.map (fun x => match x with
        | .fin n m e => (n, m * 2 ^ (e - s - lo).toNat)
        | _ => (false, 0))
      let near := ys.map (fun y => e2m1Nearest y.2 lo)
      let worst := (near.map (·.2)).foldl max 0
      let j := (near.findIdx? (fun x => x.2 == worst)).getD 0
      let code (y : Bool × Nat) (c : Nat) : Nat := if y.1 && c != 0 then c + 8 else c
      let codes := (ys.zip near).map (fun p => code p.1 p.2.1)
      let yj := ys.getD j (false, 0)
      let sp := if worst = 0 then 0 else (encodeF (fmtOf .e4m3) 0 true (.fin yj.1 yj.2 lo)).1
      let ev (i : Nat) (y : Bool × Nat) (c : Nat) : StEvent :=
        if worst ≠ 0 && i = j then (if sp % 128 = 0 then .flush else .none)
        else if y.2 > 6 * 2 ^ (-lo).toNat then .sat
        else if y.2 ≠ 0 && c = 0 then .flush else .none
      ⟨if worst = 0 then codes else codes.set j 8, (s + 127).toNat, sp,
       ((upto 32).zip (ys.zip near)).map (fun p => ev p.1 p.2.1 p.2.2.1)⟩
  | _ => ⟨List.replicate 32 0, 0x7F, 0, List.replicate 32 .none⟩

/-! ### The pairwise tree (R213), with absent leaves (R259) -/

/-- One level: neighbours joined; one absent input passes the other. -/
def treeLevel : List (Option Nat) → List (Option Nat)
  | a :: b :: rest =>
    (match a, b with
      | some x, some y => some (addF32 x y)
      | some x, none => some x
      | none, y => y) :: treeLevel rest
  | [a] => [a]
  | [] => []

/-- `n` levels. -/
def treeLevels : Nat → List (Option Nat) → List (Option Nat)
  | 0, l => l
  | n + 1, l => treeLevels n (treeLevel l)

/-- The tree over a list of f32 patterns. -/
def treeSum (levels : Nat) (l : List (Option Nat)) : Option Nat := ((treeLevels levels l).head?).getD none

end Sys2Proof.Machine
end

