-- ==== Sys2Proof/Machine/Matrix.lean ====
section
/-! DEFINITION. The matrix node and the SCA stage: the nine instructions and the steps in which their results come
(R250 to R267, R271). An operation computes its products when it fires and reads and writes Q when its result
comes. -/

namespace Sys2Proof.Machine

/-! ### The node -/

def State.modNode (s : State) (k : Nat) (f : Node → Node) : State := s.modAt k (fun a => { a with node := f a.node })

/-- Bank b, and its special store. -/
def Node.bank (n : Node) (b : Bool) : Memory := if b then n.bank1 else n.bank0
def Node.sp (n : Node) (b : Bool) : Memory := if b then n.sp1 else n.sp0
def Node.setBank (n : Node) (b : Bool) (m : Memory) : Node := if b then { n with bank1 := m } else { n with bank0 := m }
def Node.setSp (n : Node) (b : Bool) (m : Memory) : Node := if b then { n with sp1 := m } else { n with sp0 := m }

/-- Key of quad-local AT t of the same quad. -/
def sibling (k t : Nat) : Nat := k / 4 * 4 + t

/-- Loads in progress whose destinations contain the node of tile k (R255 to R257). -/
def loadsAt (s : State) (k : Nat) : List MLoad :=
  ((upto 3).flatMap (fun t => (s.at (sibling k t)).node.loads)).filter (fun l => l.dest.contains k)

/-- R256: a load into the current bank stops the node's row firings. -/
def rowsStopped (s : State) (k : Nat) : Bool := (loadsAt s k).any (fun l => (l.bank == 1) == (s.at k).node.cur)

/-- A hold that SKIP ends by evaluating again with zeros for what cannot be read (R255, R258). -/
def Ctx.holdSubst (c : Ctx) (i : Instr) (cls : FClass) (buf addr : Nat) (s : State) : FireRes :=
  .hold { cls := cls, time := c.time, skipFx := .subst, onAbort := (targetsOf i).map (markerOut 5 c.time) }
    { slotRec c.r (ridOf s c.h) c.key c.slot cls c.time (BitVec.ofNat 64 addr) [] with fflg := bufFlag buf } s

/-- Whether SKIP lets this firing read zeros. -/
def Ctx.substs (c : Ctx) : Bool := (c.a.slot c.slot).subst == some c.time

/-- The firing uses its substitution up. -/
def clearSubst (c : Ctx) (s : State) : State :=
  if c.substs then s.modAt c.key (fun a => a.modSlot c.slot (fun x => { x with subst := none, sword := none })) else s

/-- The byte of the 64-bit word, of `n` bytes that a firing reads from a buffer, that is found uncorrectable: the step's bad byte, counted
from 8; none once SKIP has substituted (R397, R433). -/
def Ctx.badWord (c : Ctx) (n : Nat) (s : State) : Option Nat :=
  if c.substs then none
  else match s.focus.bad with
    | some b => if 8 ≤ b && decide (b - 8 < n) then some ((b - 8) / 8 * 8) else none
    | none => none

/-- R397: a read that meets a bad word holds with UNCORR; SKIP has that word read as zero. -/
def Ctx.holdWord (c : Ctx) (i : Instr) (buf addr byte : Nat) (s : State) : FireRes :=
  .hold { cls := .uncorr, time := c.time, skipFx := .word byte, onAbort := (targetsOf i).map (markerOut 5 c.time) }
    { slotRec c.r (ridOf s c.h) c.key c.slot .uncorr c.time (BitVec.ofNat 64 (addr + byte)) [byte] with fflg := bufFlag buf } (noteUe (keyDie c.key) s)

/-- The bad word for which SKIP puts zeros. -/
def Ctx.skipWord (c : Ctx) : Option Nat := if c.substs then (c.a.slot c.slot).sword else none

/-- Bytes with the word at a byte of them zero. -/
def zeroWord (byte : Option Nat) (bs : List Byte) : List Byte := match byte with
  | some b => spliceBytes bs b (zeros 8)
  | none => bs

/-- The pointstamp an outstanding operation keeps at the slot's L position (R271, R324). -/
def Ctx.stay (c : Ctx) (n : Int) : List Post := postAt c.a (posEdge c.slot .l) c.time n

/-! ### Counts (R262) -/

/-- K_max of a row type (R254). -/
def kMax (sh : Elem) : Nat :=
  match sh with
  | .e4m3 | .e5m2 => 128
  | .e2m1 => 256
  | _ => 64

/-- Fields of an MCFG payload (R262). -/
structure CfgWord where
  rsv  : Nat
  qinc : Bool
  eofl : Nat
  k    : Nat
  n    : Nat
  m    : Nat
  deriving DecidableEq, Repr, Inhabited

def cfgWord (v : Nat) : CfgWord := ⟨bits v 36 28, bit v 35, bits v 32 3, bits v 23 9, bits v 16 7, bits v 0 16⟩

/-- The checks of R263. -/
def CfgWord.bad (w : CfgWord) (sh : Elem) : Bool :=
  w.rsv != 0 || decide (w.eofl > 4) || decide (w.n > 64) || decide (w.k > kMax sh) || (sh == .e2m1 && w.k % 32 != 0)

/-- What the completion of a configuration sends (R262). -/
def cfgDone (h : Hd) (t : Time) (eofl : Nat) : List Out :=
  [pulseOut t h.t0, if eofl = 0 then pulseOut t h.t1 else markerOut eofl t h.t1]

/-- R262, R263: opens a configuration of M rows, or completes at once when M is 0. -/
def execMcfg (h : Hd) (x : MatX) (s : State) : Result :=
  fireOwn (.mcfg h x) (fun c s =>
    if c.a.node.cfg.isSome then .idle
    else if c.l.isMarker then markerRule (.mcfg h x) c.time c s
    else
      let w := cfgWord (natAt c.l.data 0 8)
      let done := cfgDone h c.time w.eofl
      if w.bad h.sh then
        c.holdWith (.mcfg h x) .range descFlag 0 [] (cfgDone h c.time (if w.eofl > 4 then 0 else w.eofl)) s
      else if w.m = 0 then c.send done s
      else .fired [.l] [] (c.stay 1) (s.modNode c.key (fun n =>
        { n with cfg := some ⟨c.slot, h.sh, c.time, c.a.seqOf .oth, done, w.qinc, w.eofl, w.k, w.n, w.m, 0, 0⟩ }))) s

/-! ### Markers behind the operations of a slot (R178) -/

/-- Whether a slot has an operation whose answer is not yet sent. -/
def nodeBusy (a : AT) (slot : Nat) : Bool :=
  a.node.flight.any (fun f => f.slot == slot) || a.node.loads.any (fun l => l.slot == slot) || a.node.outq.any (fun o => o.slot == slot)

/-- Fire an instruction of the node: a marker goes behind what its slot has under way, as `mark` says. -/
def fireNode (i : Instr) (mark body : Ctx → State → FireRes) (s : State) : Result :=
  fireWith i (fun c s => if nodeBusy c.a c.slot then mark c s else markerRule i c.time c s) body s

/-- The node takes an operation into its pipeline. -/
def Node.push (n : Node) (f : InFlight) : Node :=
  { n with
    flight := n.flight ++ [f]
    cfg := n.cfg.map (fun g => if f.cfg then { g with used := g.used + 1 } else g) }

/-- A marker behind the operations of its slot. -/
def opMarker (i : Instr) (c : Ctx) (s : State) : FireRes :=
  .fired (c.toks.map (·.1)) [] (c.stay 1) ((c.countLost s).modNode c.key (fun n =>
    n.push { slot := c.slot, time := c.time, pipe := .oth, seq := c.a.seqOf .oth, op := .pass, mark := true,
             outs := (targetsOf i).map (markerOut c.topRank c.time) }))

/-- A marker behind the loads of its slot: a load into no node. -/
def loadMarker (i : Instr) (c : Ctx) (s : State) : FireRes :=
  .fired (c.toks.map (·.1)) [] (c.stay 1) ((c.countLost s).modNode c.key (fun n =>
    { n with loads := n.loads ++ [{ slot := c.slot, time := c.time, seq := c.a.seqOf .oth, dest := [], bank := 0, sp := false, bytes := [],
                                    outs := (targetsOf i).map (markerOut c.topRank c.time) }] }))

/-! ### Loading B (R254 to R257) -/

/-- B of MLDB: the elements of R254 for SH, numbered 64k + n, from the source in the bank's own order, or under TRN 1
from the column-major one (R255). -/
def loadB (sh : Elem) (trn : Bool) (bs : List Byte) : List Byte :=
  let km := kMax sh
  match sh with
  | .e2m1 =>
    if trn then nibblePairs ((upto (64 * km)).map (fun e => nibble bs (km * (e % 64) + e / 64))) else bs
  | .b64 => bs
  | _ =>
    let w := sh.width
    (upto (64 * km)).flatMap (fun e => sliceBytes bs (w * (if trn then km * (e % 64) + e / 64 else e)) w)
where
  nibblePairs : List Nat → List Byte
    | a :: b :: rest => BitVec.ofNat 8 (a + 16 * b) :: nibblePairs rest
    | _ => []

/-- Destination nodes (R255). -/
def mldbDest (k : Nat) (mcst : BitVec 3) : List Nat :=
  if mcst = 0 then [k] else ((upto 3).filter (fun t => bit mcst.toNat t)).map (sibling k)

/-- The bytes that an MLDB loads, for its MD. -/
def mldbLen (h : Hd) : Nat := if h.md = 1 then 512 else 8192

/-- The load that an MLDB begins: nothing of it is read yet (R255). -/
def mldbLoad (h : Hd) (x : MatX) (c : Ctx) : MLoad :=
  { slot := c.slot, time := c.time, seq := c.a.seqOf .oth, dest := mldbDest c.key x.mcst, bank := x.bank.toNat, sp := h.md == 1, bytes := []
    outs := both h (pulseOut c.time), src := sibling c.key x.src.toNat, off := 16 * x.woff.toNat, left := mldbLen h, sh := h.sh, trn := x.trn
    sword := c.skipWord }

/-- R255, R256: begins a load once no row is in the pipeline of a node whose current bank it names. A bad word of the source is found
here (log 16). -/
def execMldb (h : Hd) (x : MatX) (s : State) : Result :=
  fireNode (.mldb h x) (loadMarker (.mldb h x)) (fun c s =>
    let dest := mldbDest c.key x.mcst
    let b := x.bank == 1
    let off := 16 * x.woff.toNat
    let n := mldbLen h
    if dest.any (fun d => (loadsAt s d).any (fun l => (l.bank == 1) == b)) then .idle
    else if dest.any (fun d => (s.at d).node.cur == b && (s.at d).node.flight.any (fun f => f.row)) then .idle
    else if decide (off + n > 0x18000) && !c.substs then c.holdSubst (.mldb h x) .range 0 off s
    else match c.badWord n s with
      | some e => c.holdWord (.mldb h x) 0 off e s
      | none => .fired [.l] [] (c.stay 1) ((clearSubst c s).modNode c.key (fun nd => { nd with loads := nd.loads ++ [mldbLoad h x c] }))) s

/-- What an operation of a tile sends, and the end of its pointstamp; `none` while a target cannot take a token. -/
def deliver (s : State) (k slot : Nat) (t : Time) (p : Pipe) (seq : BitVec 16) (outs : List Out) : Option State :=
  let a := s.at k
  match a.res with
  | none => none
  | some h =>
    match get? h s.res with
    | none => none
    | some r =>
      match sendAll s k (sportOf r k p.port) seq outs with
      | none => none
      | some (s, ps) => some ((s.post k (postAt a (posEdge slot .l) t (-1) ++ ps)).act)

/-- An answer joins what the node still sends. -/
def Node.owe (n : Node) (o : NodeOut) : Node := { n with outq := n.outq ++ [o] }

/-- Whether the answer at an index waits for an earlier one: rows and their markers keep their order, and so does a slot (R261). -/
def outBlocked (q : List NodeOut) (index : Nat) (o : NodeOut) : Bool :=
  (q.take index).any (fun g => (o.row && g.row) || g.slot == o.slot)

/-- A governed row has sent its result or pulse, or has filled its set: the configuration's completion is owed with the last (R262). -/
def Node.rowDone (n : Node) : Node := match n.cfg with
  | some g =>
    let n := { n with cfg := some { g with fin := g.fin + 1 } }
    if g.fin + 1 < g.m then n
    else n.owe { slot := g.slot, time := g.time, pipe := .oth, seq := g.seq, outs := g.outs, close := true }
  | none => n

/-- An answer has been sent. -/
def Node.sent (n : Node) (index : Nat) (o : NodeOut) : Node :=
  let n := { n with outq := n.outq.eraseIdx index, cfg := if o.close then none else n.cfg }
  if o.cfg then n.rowDone else n

/-- The answer at an index goes out when nothing stands before it and its targets take it. -/
def sendOwed (k index : Nat) (s : State) : State :=
  let q := (s.at k).node.outq
  match q[index]? with
  | none => s
  | some o =>
    if outBlocked q index o then s
    else (deliver (s.modNode k (fun n => n.sent index o)) k o.slot o.time o.pipe o.seq o.outs).getD s

/-- Everything that a node owes and its targets take now. -/
def sendAllOwed (k : Nat) (s : State) : State :=
  ((upto (s.at k).node.outq.length).reverse).foldl (fun s i => sendOwed k i s) s

/-- An operation has its effect and owes its answer, which goes out at once where it can. -/
def finishOp (k : Nat) (o : NodeOut) (s : State) : State :=
  let s := s.modNode k (fun n => n.owe o)
  sendOwed k ((s.at k).node.outq.length - 1) s

/-- The bytes of a load in the order of a bank, or of a special store. -/
def MLoad.image (l : MLoad) : List Byte :=
  let bs := zeroWord l.sword l.bytes
  if l.sp then bs else loadB l.sh l.trn bs

/-- Bytes of a load as they reach a node. -/
def Node.takeLoad (n : Node) (l : MLoad) : Node :=
  if l.sp then n.setSp (l.bank == 1) (writeBytes (n.sp (l.bank == 1)) 0 l.image)
  else n.setBank (l.bank == 1) (writeBytes (n.bank (l.bank == 1)) 0 l.image)

/-- The quad-local indexes of a quad's nodes in the order in which a port serves them after it has served one (R143, R251). -/
def roundFrom (last : Nat) : List Nat := [(last + 1) % 3, (last + 2) % 3, last % 3]

/-- Whether a node has a load that still reads the W buffer of a tile. -/
def readsW (s : State) (k src : Nat) : Bool := (s.at k).node.loads.any (fun l => decide (l.left > 0) && l.src == src)

/-- R143: whether the load at an index of a node has the read port of its W buffer in this cycle: one read per cycle, the nodes in turn,
each with its first load. -/
def loadTurn (s : State) (k index : Nat) (l : MLoad) : Bool :=
  let w := s.at l.src
  getD 0 0 (w.portsIn s.cycle) == 0
    && !((s.at k).node.loads.take index).any (fun g => decide (g.left > 0) && g.src == l.src)
    && (roundFrom w.wLast).find? (fun t => readsW s (sibling k t) l.src) == some (k % 4)

/-- The load at an index reads the next 256 bytes of its source. -/
def readLoad (k index : Nat) (l : MLoad) (s : State) : State :=
  let n := min 256 l.left
  let bs := readBytes ((s.at l.src).seen s.cycle 0 3) (l.off + l.bytes.length) n
  (s.modNode k (fun nd => { nd with loads := nd.loads.set index { l with bytes := l.bytes ++ bs, left := l.left - n } })).modAt l.src
    (fun a => { a.usePort s.cycle 0 256 with wLast := k % 4 })

/-- R255, R256: a load reads on, 256 bytes in a cycle in which it has the port; once every destination node holds the whole load it ends,
and its pulses are owed. -/
def execMldbLoadDone (tile : TileId) (index : Nat) (s : State) : Result :=
  let k := tile.key
  let ls := (s.at k).node.loads
  match ls[index]? with
  | none => .next s
  | some l =>
    if l.left > 0 then (if loadTurn s k index l then .next (readLoad k index l s).act else .next s)
    else if (ls.take index).any (fun g => g.slot == l.slot) then .next s
    else
      let s1 := (l.dest.foldl (fun s d => s.modNode d (fun n => n.takeLoad l)) s).modNode k (fun n =>
        { n with loads := n.loads.eraseIdx index })
      .next (finishOp k { slot := l.slot, time := l.time, pipe := .oth, seq := l.seq, outs := l.outs } s1).act

/-- R257: exchanges the banks, unless a load into one of them is in progress. -/
def execMswp (h : Hd) (x : MatX) (s : State) : Result :=
  fire (.mswp h x) (fun c s =>
    if !(loadsAt s c.key).isEmpty then .idle
    else c.send (both h (pulseOut c.time)) (s.modNode c.key (fun n => { n with cur := !n.cur }))) s

/-! ### Rows (R213, R214, R258 to R261) -/

/-- Type of B for a row's SH and MD (R254). -/
def bType (h : Hd) : Elem :=
  match h.sh with
  | .e4m3 | .e5m2 => if h.md = 1 then .e5m2 else .e4m3
  | .s16 => .s8
  | e => e

/-- Products of column n as f32 patterns; leaves from K on are absent. -/
def rowLeaves (h : Hd) (row : List Byte) (bank : Memory) (k n : Nat) : List (Option Nat) :=
  let wa := h.sh.width
  let wb := (bType h).width
  (upto (kMax h.sh)).map (fun i =>
    if i < k then some (mulF32 (valueOf h.sh (natAt row (wa * i) wa)) (valueOf (bType h) (readNat bank (wb * (64 * i + n)) wb)))
    else none)

/-- R213, R259: lane n of a float row. -/
def rowLane (h : Hd) (row : List Byte) (bank : Memory) (k n : Nat) : Option Nat :=
  if k = 0 then none else treeSum (if kMax h.sh = 128 then 7 else 6) (rowLeaves h row bank k n)

/-- R214: the exact sum of lane n of an integer row. -/
def rowInt (row : List Byte) (bank : Memory) (k n : Nat) : Option Int :=
  if k = 0 then none
  else some ((upto k).foldl (fun acc i =>
    acc + intOf .s16 (natAt row (2 * i) 2) * intOf .s8 (readNat bank (64 * i + n) 1)) 0)

/-- The clamp of R214, as s32 bits. -/
def clampS32 (v : Int) : Nat := rawOf .s32 (clampInt .s32 v)

/-- A 256-byte payload of 64 lanes; absent lanes are 0 (R259). -/
def lanePayload (l : List (Option Nat)) : List Byte := packLanes 4 (l.map (fun v => v.getD 0))

/-- K, N and the row index under the open configuration, and whether it governs this row (R259, R262). -/
def rowCounts (n : Node) (sh : Elem) : Nat × Nat × Nat × Bool :=
  match n.cfg with
  | some g => if g.used < g.m then (min g.k (kMax sh), g.n, if g.qinc then g.used else 0, true) else (kMax sh, 64, 0, false)
  | none => (kMax sh, 64, 0, false)

/-- Whether a row instruction may fire: a slew grant, but for a marker, and no stop (R256, R259, R261). -/
def rowReady (c : Ctx) (s : State) : Bool := (c.a.node.grant || c.l.isMarker) && !rowsStopped s c.key

/-- Whether the targets of a row can take what it will send (R175, R259). -/
def Ctx.rowRoom (c : Ctx) (outs : List Out) (s : State) : Bool :=
  (sendAll s c.key (sportOf c.r c.key Pipe.row.port) (c.a.seqOf .row) outs).isSome

/-- R261: a marker goes behind the rows fired before it. -/
def rowMarker (i : Instr) (c : Ctx) (s : State) : FireRes :=
  let outs := (targetsOf i).map (markerOut c.l.rank c.time)
  if !c.rowRoom outs s then .idle
  else .fired [.l] [] (c.stay 1) (s.modNode c.key (fun n =>
    n.push { slot := c.slot, time := c.time, pipe := .row, seq := c.a.seqOf .row, op := .pass, row := true, mark := true,
             outs := outs }))

/-- R259: fire a row of 128 bytes, once its targets can take what it will send. -/
def fireRow (h : Hd) (x : MatX) (c : Ctx) (row : List Byte) (s : State) : FireRes :=
  let nd := c.a.node
  let (k, n, i, gov) := rowCounts nd h.sh
  let bank := nd.bank nd.cur
  let q := (x.qrow.toNat + i) % 256
  let push (op : NodeOp) (outs : List Out) : FireRes :=
    .fired [.l] [] (c.stay 1) ((clearSubst c s).modNode c.key (fun nd =>
      nd.push { slot := c.slot, time := c.time, pipe := .row, seq := c.a.seqOf .row, op := op, outs := outs, cfg := gov,
                row := true }))
  let accum (op : NodeOp) : FireRes :=
    let outs := both h (pulseOut c.time)
    if !c.rowRoom outs s then .idle else push op outs
  let data (ty : Elem) (l : List (Option Nat)) : FireRes :=
    let outs := both h (dataOut ty c.time (lanePayload l))
    if !c.rowRoom outs s then .idle else push .pass (if n = 0 then [] else outs)
  if h.sh = .s16 then
    let v := (upto 64).map (fun j => if j < n then rowInt row bank k j else none)
    if x.acc then accum (.iacc q v) else data .s32 (v.map (fun o => o.map clampS32))
  else
    let v := (upto 64).map (fun j => if j < n then rowLane h row bank k j else none)
    if x.acc then accum (.acc q v) else data .f32 v

/-- R258, R259: the A row is the L token's first 128 bytes. -/
def execMrow (h : Hd) (x : MatX) (s : State) : Result :=
  fireOwn (.mrow h x) (fun c s =>
    if !rowReady c s then .idle
    else if c.l.isMarker then rowMarker (.mrow h x) c s
    else fireRow h x c (fitBytes 128 c.l.data) s) s

/-- R258: the A row is read from an A buffer of the quad, whose read port `turn` grants; ALIGN, RANGE and UNCORR hold, and SKIP substitutes
zeros. -/
def mrowaWith (turn : State → Nat → Nat → Bool) (h : Hd) (x : MatX) (s : State) : Result :=
  fireOwn (.mrowa h x) (fun c s =>
    if !rowReady c s then .idle
    else if c.l.isMarker then rowMarker (.mrowa h x) c s
    else
      let off := natAt c.l.data 0 4 + 16 * x.woff.toNat
      let d := sibling c.key x.src.toNat
      if c.substs && c.skipWord.isNone then fireRow h x c (zeros 128) s
      else if off + 128 > 0x18000 then c.holdSubst (.mrowa h x) .range 1 off s
      else if off % 16 ≠ 0 then c.holdSubst (.mrowa h x) .align 1 off s
      else if !turn s c.key d then .idle
      else match c.badWord 128 s with
        | some e => c.holdWord (.mrowa h x) 1 off e s
        | none => match fireRow h x c (zeroWord c.skipWord (readBytes ((s.at d).seen s.cycle 1 3) off 128)) s with
          | .fired eat outs posts s' => .fired eat outs posts (s'.modAt d (fun a => { a.usePort s.cycle 2 256 with aLast := c.key % 4 }))
          | f => f) s

/-! ### Results (R260, R262) -/

/-- Lane n of Q row q. -/
def qLane (m : Memory) (q n : Nat) : Nat := readNat m (256 * q + 4 * n) 4

/-- The present lanes of a Q row as writes: byte of Q and bytes. -/
def qWrite (q : Nat) : Nat → List (Option Nat) → List (Nat × List Byte)
  | _, [] => []
  | n, some v :: vs => (256 * q + 4 * n, leBytes 4 v) :: qWrite q (n + 1) vs
  | n, none :: vs => qWrite q (n + 1) vs

/-- Present products of column n, per block in ascending order, scaled (R215, R265). -/
def scaTerms (scales : List (Nat × Nat)) (p : List (Option Nat)) (n : Nat) : List Nat :=
  (scales.zipIdx).filterMap (fun e =>
    (p.getD (64 * e.2 + n) none).map (fun v =>
      if e.1.1 = 255 || e.1.2 = 255 then (fmtOf .f32).nanBits
      else match decodeF (fmtOf .f32) v with
        | .fin sg m ex => rnF32 (.fin sg m (ex + (e.1.1 : Int) - 127 + (e.1.2 : Int) - 127))
        | y => rnF32 y))

/-- R265: one lane accumulated. -/
def scaLane (start : Option Nat) (terms : List Nat) : Option Nat :=
  terms.foldl (fun acc t => some (match acc with | none => t | some v => addF32 v t)) start

/-- What an operation writes to Q, which it reads as `q`. -/
def opWrites (q : Memory) : NodeOp → List (Nat × List Byte)
  | .acc r v => qWrite r 0 ((v.zipIdx).map (fun e => e.1.map (fun x => addF32 (qLane q r e.2) x)))
  | .iacc r v => qWrite r 0 ((v.zipIdx).map (fun e => e.1.map (fun x => clampS32 (intOf .s32 (qLane q r e.2) + x))))
  | .sca (some r) sc p => qWrite r 0 ((upto 64).map (fun n => scaLane (some (qLane q r n)) (scaTerms sc p n)))
  | .zero r c => [(256 * r, zeros (256 * c))]
  | _ => []

/-- The Q buffer after an operation: the node goes before the vector pipe at the write port (R143). -/
def applyOp (a : AT) (cycle : Nat) (op : NodeOp) : AT :=
  let ws := opWrites (a.seen cycle 2 0) op
  let a := ws.foldl (fun a w => a.writeBuf cycle 2 0 w.1 w.2) a
  if ws.isEmpty then a else a.usePort cycle 5 256

/-- Whether an operation writes Q. -/
def NodeOp.writesQ : NodeOp → Bool
  | .acc _ _ | .iacc _ _ | .sca (some _) _ _ | .zero _ _ => true
  | _ => false

/-- Whether the operation at an index waits for an earlier one: rows and markers for rows, Q writes for Q writes
(R260, R261), and any for those of its own slot. -/
def opBlocked (fl : List InFlight) (index : Nat) (f : InFlight) : Bool :=
  (fl.take index).any (fun g => (f.row && g.row) || (f.op.writesQ && g.op.writesQ) || g.slot == f.slot)

/-- The result of the operation at an index: Q, and what it then owes. -/
def opResult (k index : Nat) (f : InFlight) (s : State) : State :=
  let s1 := s.modAt k (fun a =>
    let a := applyOp a s.cycle f.op
    { a with node := { a.node with flight := a.node.flight.eraseIdx index } })
  (finishOp k { slot := f.slot, time := f.time, pipe := f.pipe, seq := f.seq, outs := f.outs, row := f.row && !f.outs.isEmpty,
                cfg := f.cfg, data := !f.mark && !f.op.writesQ && !f.outs.isEmpty } s1).act

/-- R261, R262: what a node owes goes out as its targets take it. -/
def owedStep (k : Nat) (s : State) : Result :=
  let s1 := sendAllOwed k s
  if (s1.at k).node.outq.length = (s.at k).node.outq.length then .next s else .next s1.act

/-- R260: a row's result reaches Q or T0; with no operation at the index, what the node owes goes on. -/
def execRowResult (tile : TileId) (index : Nat) (s : State) : Result :=
  let fl := (s.at tile.key).node.flight
  match fl[index]? with
  | some f =>
    if f.row && !opBlocked fl index f then
      (match f.op with
       | .blk _ _ => .next s
       | _ => .next (opResult tile.key index f s))
    else .next s
  | none => owedStep tile.key s

/-! ### Block-scaled products (R215, R264, R265) -/

/-- Number of blocks of a row type. -/
def blocksOfSh (sh : Elem) : Nat := if sh = .e2m1 then 8 else 4

/-- Value of A element k of an MBLK group without its scale. -/
def blkA (sh : Elem) (d : List Byte) (k : Nat) : FVal :=
  if sh = .e2m1 then e2m1Val (natAt d (136 + k / 32) 1) (nibble d k) else valueOf sh (natAt d k 1)

/-- Value of B element (k, n) without its scale. -/
def blkB (h : Hd) (bank sp : Memory) (k n : Nat) : FVal :=
  if h.sh = .e2m1 then
    e2m1Val (readNat sp (64 * (k / 32) + n) 1) (bits (readNat bank ((64 * k + n) / 2) 1) (4 * (n % 2)) 4)
  else valueOf (bType h) (readNat bank (64 * k + n) 1)

/-- Partial sum of block b and column n (R215); absent when every leaf is. -/
def blkSum (h : Hd) (d : List Byte) (bank sp : Memory) (kk b n : Nat) : Option Nat :=
  treeSum 5 ((upto 32).map (fun j =>
    let k := 32 * b + j
    if k < kk then some (mulF32 (blkA h.sh d k) (blkB h bank sp k n)) else none))

/-- A block scales of a group, bytes 0 to 7 of the set token (R264). -/
def blkScales (sh : Elem) (d : List Byte) : List Byte :=
  if sh = .e2m1 then sliceBytes d 128 8 else sliceBytes d 128 4 ++ zeros 4

/-- R264: forms a partial set in the lowest free one; the set token goes out at the firing. -/
def execMblk (h : Hd) (x : MatX) (s : State) : Result :=
  fireOwn (.mblk h x) (fun c s =>
    if !rowReady c s then .idle
    else if c.l.isMarker then rowMarker (.mblk h x) c s
    else
      let nd := c.a.node
      let d := fitBytes 256 c.l.data
      match (upto 4).find? (fun i => !(getD {} i nd.sets).valid && !(getD {} i nd.sets).filling) with
      | none => .idle
      | some set =>
        let (k, n, _, gov) := rowCounts nd h.sh
        let p := (upto (blocksOfSh h.sh)).flatMap (fun b => (upto 64).map (fun j =>
          if j < n then blkSum h d (nd.bank nd.cur) (nd.sp nd.cur) k b j else none))
        let tok := dataOut .e8m0 c.time (blkScales h.sh d ++ leBytes 8 set)
        .fired [.l] (both h tok) (c.stay 1) (s.modNode c.key (fun nd =>
          { nd.push { slot := c.slot, time := c.time, pipe := .row, seq := c.a.seqOf .row, op := .blk set p, outs := [],
                      cfg := gov, row := true } with
            sets := put set { valid := false, filling := true, time := c.time, p := [] } nd.sets }))) s

/-- Whether an operation forms partial set `set`. -/
def fillsSet (set : Nat) (f : InFlight) : Bool := match f.op with
  | .blk i _ => i == set
  | _ => false

/-- R264: the set becomes valid. -/
def execMblkSetValid (tile : TileId) (set : Nat) (s : State) : Result :=
  let k := tile.key
  let fl := (s.at k).node.flight
  match fl.findIdx? (fillsSet set) with
  | none => .next s
  | some index =>
    match fl[index]? with
    | some f =>
      if opBlocked fl index f then .next s
      else
        let p := match f.op with | .blk _ p => p | _ => []
        .next (opResult k index f (s.modNode k (fun n =>
          { n with sets := put set { valid := true, filling := false, time := f.time, p := p } n.sets })))
    | none => .next s

/-- R265: applies the block scales of a set and frees it. -/
def execMsca (h : Hd) (x : MatX) (s : State) : Result :=
  fireNode (.msca h x) (opMarker (.msca h x)) (fun c s =>
    let set := natAt c.l.data 8 8
    let ps := getD {} set c.a.node.sets
    if set > 3 then c.holdWith (.msca h x) .range descFlag 0 [] [] s
    else if ps.filling then .idle
    else if !ps.valid then c.holdWith (.msca h x) .range descFlag 0 [] [] s
    else
      let sc := (upto (blocksOfSh h.sh)).map (fun b =>
        (natAt c.l.data b 1, if b < c.rt.data.length then natAt c.rt.data b 1 else 0x7F))
      let outs := if x.acc then both h (pulseOut c.time)
        else both h (dataOut .f32 c.time (lanePayload ((upto 64).map (fun n => scaLane none (scaTerms sc ps.p n)))))
      .fired [.l, .r] [] (c.stay 1) (s.modNode c.key (fun nd =>
        { nd.push { slot := c.slot, time := c.time, pipe := .oth, seq := c.a.seqOf .oth, outs := outs,
                    op := .sca (if x.acc then some x.qrow.toNat else none) sc ps.p } with
          sets := put set { ps with valid := false } nd.sets }))) s

/-- R265: the accumulated result is written or sent; a marker of MSCA or MZERO goes behind the results of its slot. -/
def execMscaResult (tile : TileId) (index : Nat) (s : State) : Result :=
  let fl := (s.at tile.key).node.flight
  match fl[index]? with
  | some f =>
    match f.op with
    | .sca _ _ _ => if opBlocked fl index f then .next s else .next (opResult tile.key index f s)
    | .pass => if f.row || opBlocked fl index f then .next s else .next (opResult tile.key index f s)
    | _ => .next s
  | none => .next s

/-! ### Clearing and draining Q (R266, R267) -/

/-- R266: zero bits to Q rows; a count of 0 pulses at once. -/
def execMzero (h : Hd) (x : MatX) (s : State) : Result :=
  fireNode (.mzero h x) (opMarker (.mzero h x)) (fun c s =>
    let v := natAt c.l.data 0 8
    let n := bits v 0 9
    let q := x.qrow.toNat
    if bits v 9 55 ≠ 0 then c.holdWith (.mzero h x) .range descFlag 0 [] [] s
    else if n = 0 then c.send (both h (pulseOut c.time)) s
    else .fired [.l] [] (c.stay 1) (s.modNode c.key (fun nd =>
      nd.push { slot := c.slot, time := c.time, pipe := .oth, seq := c.a.seqOf .oth, op := .zero q (min n (256 - q)),
                outs := both h (pulseOut c.time) }))) s

/-- R266: the last row is written and the pulse goes out. -/
def execMzeroDone (tile : TileId) (index : Nat) (s : State) : Result :=
  let fl := (s.at tile.key).node.flight
  match fl[index]? with
  | some f =>
    match f.op with
    | .zero _ _ => if opBlocked fl index f then .next s else .next (opResult tile.key index f s)
    | _ => .next s
  | none => .next s

/-- R267: passes L, or a marker, once every row, MSCA and MZERO of the node has performed its Q write or sent its token. -/
def execMdrn (h : Hd) (x : MatX) (s : State) : Result :=
  fireOwn (.mdrn h x) (fun c s =>
    if c.a.node.flight.any (fun f => !f.mark && (match f.op with | .blk _ _ => false | _ => true))
        || c.a.node.outq.any (fun o => o.data) then .idle
    else if c.l.isMarker then markerRule (.mdrn h x) c.time c s
    else c.send (both h c.l.to) s) s

/-! ### Which row a node fires, and whose read an A buffer serves (R143, R177, R251, R269) -/

/-- The meaning of a row instruction, where no other node wants its A buffer. -/
def rowExec (i : Instr) (s : State) : Option Result := match i with
  | .mrow h x => some (execMrow h x s)
  | .mrowa h x => some (mrowaWith (fun _ _ _ => true) h x s)
  | .mblk h x => some (execMblk h x s)
  | _ => none

/-- Ready row firings of a tile apart from its grant: time, slot, and whether an end marker makes it ready. -/
def rowsReady (s : State) (k : Nat) : List (Nat × Nat × Bool) :=
  let s1 := s.modAt k (fun a => { a with node := { a.node with grant := true } })
  let a := s1.at k
  (upto a.active.icnt).flatMap (fun slot => match a.active.instr slot with
    | none => []
    | some i => (dedup ((a.posNow slot .l).map (fun t => t.time.toNat))).filterMap (fun t =>
        match rowExec i { s1 with focus := { tile := k, slot := slot, time := BitVec.ofNat 64 t }, acted := false } with
        | some (.next s') =>
          if s'.acted then some (t, slot, ((a.head slot .l (BitVec.ofNat 64 t)).map Token.isMarker).getD false) else none
        | _ => none))

/-- Ready row firings in the order in which the pipe takes them: aged slots first, lowest index; else smallest time, lowest slot (R177). -/
def rowOrder (s : State) (k : Nat) : List (Nat × Nat × Bool) :=
  let rs := rowsReady s k
  let aged := rs.filter (fun x => ((s.at k).slot x.2.1).isAged)
  let before (a b : Nat × Nat × Bool) : Bool := decide (a.1 < b.1) || (a.1 == b.1 && decide (a.2.1 < b.2.1))
  if aged.isEmpty then sortBy before rs
  else sortBy (fun a b => decide (a.2.1 < b.2.1) || (a.2.1 == b.2.1 && decide (a.1 < b.1))) aged

/-- The tile whose A buffer a ready row firing reads. -/
def rowPort (s : State) (k : Nat) (x : Nat × Nat × Bool) : Option Nat :=
  if x.2.2 then none
  else match (s.at k).active.instr x.2.1 with
    | some (.mrowa _ m) => if ((s.at k).slot x.2.1).subst.isSome && ((s.at k).slot x.2.1).sword.isNone then none else some (sibling k m.src.toNat)
    | _ => none

/-- Whether a slot of a tile could bring a read of the A buffer of tile d: what no other tile needs to be asked about. -/
def mayRead (a : AT) (k d : Nat) : Bool :=
  a.node.grant && (upto a.active.icnt).any (fun slot => match a.active.instr slot with
    | some (.mrowa _ m) => sibling k m.src.toNat == d && (a.posNow slot .l) != []
    | _ => false)

/-- Whether a node's next row reads the A buffer of tile d. -/
def wantsRow (s : State) (d k : Nat) : Bool :=
  mayRead (s.at k) k d && (((rowOrder s k).head?).bind (rowPort s k)) == some d

/-- R143, R251: whether the node of tile k has the read port of the A buffer of tile d: one read per cycle, the nodes that want it in turn. -/
def rowTurn (s : State) (k d : Nat) : Bool :=
  getD 0 2 ((s.at d).portsIn s.cycle) == 0
    && ((roundFrom (s.at d).aLast).takeWhile (fun t => t != k % 4)).all (fun t => !wantsRow s d (sibling k t))

/-- R143: whether the memory/engine pipe of tile d has the read port of its own A buffer: nothing has, and no node wants it. -/
def pipeTurn (s : State) (d : Nat) : Bool :=
  getD 0 2 ((s.at d).portsIn s.cycle) == 0 && (upto 3).all (fun t => !wantsRow s d (sibling d t))

/-- R258: the A row is read from an A buffer of the quad, at its turn at the buffer's read port. -/
def execMrowa (h : Hd) (x : MatX) (s : State) : Result := mrowaWith rowTurn h x s

end Sys2Proof.Machine
end

