-- ==== Sys2Proof/Machine/OnChip.lean ====
section
/-! DEFINITION. The instructions on typed buffers and the scratchpad, and the address generators (R151 to R163). An
access is issued by the firing, performed by HOME_ACCESS or OWNER_UPDATE, answered by RESPONSE_DELIVERY. -/

namespace Sys2Proof.Machine

/-- Buffer of MD `a` or `q` (R155). -/
def bufOf (h : Hd) : Nat := if h.md = 2 then 2 else 1

/-- One block of 8 << LSZ bytes (R156). -/
def blockElt (sp : Space) (c : Ctx) (x : MemX) (data : List Byte) : List Elt :=
  [{ space := sp, addr := effAddr sp (natAt c.l.data 0 8) x.off.toNat, n := sizeBytes x.lsz.toNat, data := data }]

/-- Bytes a store takes from R (R109, R156). -/
def storeData (c : Ctx) (x : MemX) : List Byte := fitBytes (sizeBytes x.lsz.toNat) c.rt.data

/-- R156: load from A or Q. -/
def execLdt (h : Hd) (x : MemX) (s : State) : Result :=
  fireStream (.ldt h x) h (fun c s =>
    c.request (.ldt h x) h .load (sizeBytes x.lsz.toNat) (blockElt (.buf c.key (bufOf h)) c x []) s) s

/-- R156: store to A or Q. -/
def execStt (h : Hd) (x : MemX) (s : State) : Result :=
  fireStream (.stt h x) h (fun c s =>
    c.request (.stt h x) h .store (sizeBytes x.lsz.toNat) (blockElt (.buf c.key (bufOf h)) c x (storeData c x)) s) s

/-- R156, R157: load from the scratchpad. -/
def execLds (h : Hd) (x : MemX) (s : State) : Result :=
  fireStream (.lds h x) h (fun c s =>
    if !respFree s c.key then .idle
    else c.request (.lds h x) h (if x.tc then .loadTc else .load) (sizeBytes x.lsz.toNat) (blockElt .scr c x []) s) s

/-- R156, R157: store to the scratchpad. -/
def execSts (h : Hd) (x : MemX) (s : State) : Result :=
  fireStream (.sts h x) h (fun c s =>
    c.request (.sts h x) h (if x.tc then .storeTc else .store) (sizeBytes x.lsz.toNat)
      (blockElt .scr c x (storeData c x)) s) s

/-- R158: gather. -/
def execGath (h : Hd) (x : MemX) (s : State) : Result :=
  fireStream (.gath h x) h (fun c s =>
    if !respFree s c.key then .idle
    else
      let sp : Space := if h.md = 1 then .buf c.key 1 else .scr
      let n := sizeBytes x.lsz.toNat
      c.request (.gath h x) h .load n (gatherElts sp c.l x.off.toNat n h.sh.width (fun _ => [])) s) s

/-- Operation number of SCAT's MD (R159). -/
def scatOp (md : BitVec 4) : Nat := match md.toNat with
  | 0 => 8 | 1 => 0 | 2 => 1 | _ => 2

/-- R159: scatter; lane i holds the offset in [31:0] and the value above. -/
def execScat (h : Hd) (x : MemX) (s : State) : Result :=
  fireStream (.scat h x) h (fun c s =>
    let w := h.sh.width
    let elts := (upto (laneCount c.l)).map (fun i =>
      ({ lane := i, space := .scr, addr := natAt c.l.data (8 * i) 4 + x.off.toNat, n := w,
         data := sliceBytes c.l.data (8 * i + 4) w } : Elt))
    c.request (.scat h x) h (.scat (scatOp h.md)) 8 elts s) s

/-- R160: posts an expectation, or resets an arrival word. -/
def execArrv (h : Hd) (x : MemX) (s : State) : Result :=
  fireStream (.arrv h x) h (fun c s =>
    let cnt := natAt c.l.data 4 4
    let off := natAt c.l.data 0 4 + x.off.toNat
    if h.md = 0 && decide (cnt > 2 ^ 30 - 1) then
      c.holdWith (.arrv h x) .range descFlag (BitVec.ofNat 64 off) [] (both h (pulseOut c.time)) s
    else c.request (.arrv h x) h (.arrv (h.md == 1)) 8
      [{ space := .scr, addr := off, n := 8, data := leBytes 8 cnt }] s) s

/-- WAITAs that have a place among the waiters of an owner node, or are on their way to it. -/
def waitersAt (s : State) (mt : Nat) : Nat :=
  (s.mt mt).waiters.length + (s.reqs.filter (fun e => match e.2.op with
    | .waita _ => e.2.elts.any (fun x => (x.st == .new || x.st == .mesh || x.st == .home) && eltHome s e.2 x == some mt)
    | _ => false)).length

/-- R161: goes to the owner node of an arrival word, where it registers; one that finds none of the 64 places free waits in its operand
position (a place is taken when it fires: DEDUCED, log 6). -/
def execWaita (h : Hd) (x : MemX) (s : State) : Result :=
  fire (.waita h x) (fun c s =>
    let off := natAt c.l.data 0 4 + x.off.toNat
    let e : Elt := { space := .scr, addr := off, n := 8 }
    let op : ROp := .waita (h.md == 1)
    if (checkElt s c.r op 8 e).isNone && decide (waitersAt s (c.r.scrHome off).1 ≥ 64) then .idle
    else c.request (.waita h x) h op 8 [e] s) s

/-! ### Fences (R162, R163) -/

/-- A fence fires at once, and its L token goes on once the accesses of these classes that the tile has issued so far are performed; later
ones it does not hold back. -/
def Ctx.fence (c : Ctx) (i : Instr) (h : Hd) (classes : List Nat) (tl : Bool) (s : State) : FireRes :=
  match c.request i h (.fence classes tl c.l.kind) c.l.data.length [] s with
  | .fired eat outs posts s1 =>
    .fired eat outs posts (match get? s.nextId s1.reqs with
      | some q => s1.setReq s.nextId { q with type := c.l.type, cmp := c.l.data }
      | none => s1)
  | f => f

/-- R162: passes L once every access that the tile issued before is performed at the scope; at `.tl` only typed-buffer accesses
and the outgoing queue count. -/
def execFence (h : Hd) (x : MemX) (s : State) : Result :=
  fireStream (.fence h x) h (fun c s => c.fence (.fence h x) h [2, 7] (x.scp == 1) s) s

/-- R163: passes L once the tile's earlier accesses of class CLA are performed; no unit of the model buffers read data. -/
def execXfence (h : Hd) (x : MemX) (s : State) : Result :=
  let cla := x.cla.toNat
  fireStream (.xfence h x) h (fun c s => c.fence (.xfence h x) h (if cla = 2 || cla = 7 then [cla] else []) false s) s

/-! ### Address generators (R151 to R154) -/

/-- Fields of a descriptor's word 0 (R151). -/
structure AgenWord where
  ndim : Nat
  mode : Nat
  vec  : Nat
  mark : Nat
  psp  : Nat
  rsv  : Nat
  deriving DecidableEq, Repr, Inhabited

def agenWord (w : W64) : AgenWord :=
  let v := w.toNat
  ⟨bits v 60 4, bits v 58 2, bits v 52 6, bits v 49 3, bits v 48 1, bits v 0 48⟩

/-- Words of a descriptor. -/
def agenLen (a : AgenWord) : Nat := if a.mode = 1 then 5 else 2 + 2 * a.ndim

/-- Words from a byte of the A buffer. -/
def readWords (m : Memory) (o : Nat) : Nat → List W64
  | 0 => []
  | n + 1 => BitVec.ofNat 64 (readNat m o 8) :: readWords m (o + 8) n

def wordAt (ws : List W64) (i : Nat) : Nat := (ws.getD i 0).toNat

/-- The failing word of a descriptor at offset o (R154), or none. -/
def agenBad (o : Nat) (ws : List W64) : Option Nat :=
  let a := agenWord (ws.getD 0 0)
  if a.mode ≥ 2 || a.rsv ≠ 0 || a.vec = 0 || decide (a.vec > 32) then some 0
  else if a.mode = 0 && (a.ndim = 0 || decide (a.ndim > 9) || decide (a.mark > 4)) then some 0
  else if a.mode = 1 && (a.ndim ≠ 0 || a.mark = 0 || decide (a.mark > 2)) then some 0
  else if o + 8 * agenLen a > 0x18000 then some ((0x18000 - o) / 8)
  else if a.mode = 0 then
    ((upto a.ndim).find? (fun k => wordAt ws (3 + 2 * k) ≥ 2 ^ 32)).map (fun k => 3 + 2 * k)
  else if wordAt ws 2 % 4 ≠ 0 then some 2 else none

/-- The A buffer as the memory/engine pipe reads a descriptor from byte `o` in this cycle (R144), the word that SKIP made zero read so. -/
def Ctx.descRead (c : Ctx) (o : Nat) (s : State) : Memory :=
  let m := c.a.seen s.cycle 1 3
  match c.skipWord with
  | some b => writeBytes m (o + b) (zeros 8)
  | none => m

/-- R151, R154: takes a context, reads and checks the descriptor. Of two free contexts it is the lower one: R151 asks for a free one alone (DESIGN
CHOICE, log 39). -/
def execAgen (h : Hd) (x : MemX) (s : State) : Result :=
  fire (.agen h x) (fun c s =>
    match (upto 2).find? (fun i => (get? i c.a.agens).isNone) with
    | none => .idle
    | some g =>
      let o := x.off.toNat
      let m := c.descRead o s
      let w0 := readWords m o 1
      let ws := readWords m o (agenLen (agenWord (w0.getD 0 0)))
      if !pipeTurn s c.key then .idle
      else match c.badWord (8 * ws.length) s, agenBad o ws with
      | some e, _ => c.holdWord (.agen h x) 1 o e s
      | none, some j => c.holdWith (.agen h x) .range descFlag (BitVec.ofNat 64 o) (List.replicate 9 0 ++ [j])
          [pulseOut c.time h.t1] s
      | none, none =>
        let a := agenWord (ws.getD 0 0)
        let ctx : Agen :=
          { slot := c.slot
            time := c.time
            base := natAt c.l.data 0 8
            off := o
            words := ws
            idx := if a.mode = 0 then List.replicate a.ndim 0 else []
            seq := c.a.seqOf .mem }
        .fired [.l] [] (postAt c.a (posEdge c.slot .l) c.time 1)
          ((clearSubst c s).modAt c.key (fun t => { t.usePort s.cycle 2 256 with agens := put g ctx t.agens }))) s

/-- Next index vector, dimension 0 fastest, and how many innermost dimensions wrapped; `none` after the last. -/
def nextIdx (ext : List Nat) : List Nat → Option (List Nat) × Nat
  | [] => (none, 0)
  | i :: is =>
    match ext with
    | [] => (none, 0)
    | e :: es =>
      if i + 1 < e then (some ((i + 1) :: is), 0)
      else
        let (r, n) := nextIdx es is
        (r.map (fun l => 0 :: l), n + 1)

/-- The pending lanes as a token to T0, each lane with its counters (R152 `flush`, R154). -/
def flushLanes (h : Hd) (g : Agen) : Agen :=
  match g.pend.getLast? with
  | none => g
  | some last =>
    let n := sizeBytes (sizeCode (8 * g.pend.length)) / 8
    let ls := g.pend ++ List.replicate (n - g.pend.length) last
    let cs := g.pendGen ++ List.replicate (n - g.pend.length) (g.pendGen.getLastD [])
    { g with pend := [], pendGen := [], outq := g.outq ++ [(dataOut .n64 g.time (packLanes 8 ls) h.t0, cs)] }

/-- The counters of a context: i_0 to i_8, or i and j (R154). -/
def Agen.counters (g : Agen) : List Nat := if (agenWord (g.words.getD 0 0)).mode = 1 then [g.row, g.elem] else g.idx

/-- R152 `emit`. -/
def emitLane (h : Hd) (g : Agen) (addr : Nat) : Agen :=
  let g := { g with pend := g.pend ++ [addr % 2 ^ 64], pendGen := g.pendGen ++ [g.counters] }
  if g.pend.length ≥ (agenWord (g.words.getD 0 0)).vec then flushLanes h g else g

/-- A marker behind the pending lanes. -/
def agenMark (h : Hd) (g : Agen) (lv : Nat) : Agen :=
  let g := flushLanes h g
  { g with outq := g.outq ++ [(markerOut lv g.time h.t0, [])] }

/-- The end of the walk: flush and the T1 pulse. -/
def agenEnd (h : Hd) (g : Agen) : Agen :=
  let g := flushLanes h g
  { g with outq := g.outq ++ [(pulseOut g.time h.t1, [])], walked := true }

/-- One address of an affine walk. -/
def affineStep (h : Hd) (g : Agen) : Agen :=
  let a := agenWord (g.words.getD 0 0)
  let ext := (upto a.ndim).map (fun k => wordAt g.words (3 + 2 * k))
  if ext.any (fun e => e == 0) then agenEnd h g
  else
    let addr := ((upto a.ndim).map (fun k => g.idx.getD k 0 * wordAt g.words (2 + 2 * k))).sum
    let g := emitLane h g (g.base + wordAt g.words 1 + addr)
    let (nxt, wr) := nextIdx ext g.idx
    let lv := if wr ≤ a.mark then wr else a.mark
    let g := if lv > 0 then agenMark h g lv else g
    match nxt with
    | some i => { g with idx := i }
    | none => agenEnd h g

/-- A ragged row is finished: its marker, or at the last row the level-2 marker (R152). -/
def rowEnd (h : Hd) (g : Agen) : Agen :=
  let a := agenWord (g.words.getD 0 0)
  let rows := wordAt g.words 3 % 2 ^ 32
  let g := agenMark h g (if a.mark = 2 && g.row + 1 = rows then 2 else 1)
  let g := { g with row := g.row + 1, elem := 0, ptrs := none }
  if g.row ≥ rows then agenEnd h g else g

/-- Where a row's two pointers stand. -/
def Agen.ptrAt (g : Agen) : Nat := wordAt g.words 2 % 2 ^ 32 + 4 * g.row

/-- Whether the next step of a walk reads a row's pointers. -/
def Agen.needs (g : Agen) : Bool :=
  g.outq.isEmpty && !g.walked && (agenWord (g.words.getD 0 0)).mode == 1 && g.ptrs.isNone && decide (g.row < wordAt g.words 3 % 2 ^ 32)

/-- A row's pointers, read from the scratchpad or the A buffer, or the hold they cause (R152, R153). -/
def agenPtrs (s : State) (r : Res) (k : Nat) (g : Agen) : Except (FClass × Nat × List Nat) (Nat × Nat) :=
  let a := agenWord (g.words.getD 0 0)
  let o := g.ptrAt
  let size := if a.psp = 1 then 0x18000 else r.scrSize
  let rd (o : Nat) : Nat :=
    if g.word == some (o / 8 * 8) then 0
    else if a.psp = 1 then readNat ((s.at k).seen s.cycle 1 3) o 4 else leNat (scrRead r s o 4)
  if o + 4 > size then .error (.range, o, [g.row])
  else if o + 8 > size then .error (.range, o + 4, [g.row])
  else if s.focus.bad.isSome && g.word.isNone then
    let w := (o + (s.focus.bad.getD 0) % 8) / 8 * 8
    .error (.uncorr, w, [g.row])
  else
    let p0 := rd o
    let p1 := rd (o + 4)
    let bound := wordAt g.words 3 / 2 ^ 32
    if p1 < p0 || decide (p0 > bound) || decide (p1 > bound) then .error (.ragged, o, [g.row, p0, p1]) else .ok (p0, p1)

/-- Walk until something stands in the queue, within a bound of steps (VEC is at most 32). -/
def agenWalk (s : State) (r : Res) (k : Nat) (h : Hd) : Nat → Agen → Except (FClass × Nat × List Nat) Agen
  | 0, g => .ok g
  | n + 1, g =>
    if !g.outq.isEmpty || g.walked then .ok g
    else if (agenWord (g.words.getD 0 0)).mode = 0 then agenWalk s r k h n (affineStep h g)
    else if wordAt g.words 3 % 2 ^ 32 ≤ g.row then agenWalk s r k h n (agenEnd h g)
    else match g.ptrs with
      | none => match agenPtrs s r k g with
        | .error e => .error e
        | .ok p => agenWalk s r k h n { g with ptrs := some p, elem := p.1, word := none }
      | some (_, p1) =>
        if g.elem ≥ p1 then agenWalk s r k h n (rowEnd h g)
        else agenWalk s r k h n
          { emitLane h g (g.base + wordAt g.words 1 + g.elem * wordAt g.words 4) with elem := g.elem + 1 }

/-- The record of a context's hold (R153): FFLG marks the A buffer. -/
def agenRec (s : State) (r : Res) (k ctx : Nat) (g : Agen) (cls : FClass) (addr : Nat) (gen : List Nat) : FRec :=
  let psp := (agenWord (g.words.getD 0 0)).psp
  { slotRec r (ridOf s ((s.at k).res.getD 0)) k g.slot cls g.time (BitVec.ofNat 64 addr) gen with
    fflg := if psp = 1 then bufFlag 1 else 0
    link := .agen k ctx }

/-- A context's next token goes out, where its target takes it; the context frees with its last (R152). -/
def agenSend (s : State) (r : Res) (k ctx : Nat) (g : Agen) : Option State :=
  match g.outq with
  | [] => none
  | o :: os =>
    let last := os.isEmpty && g.walked
    let s1 := s.modAt k (fun a => { a with
      agens := if last then del ctx a.agens else put ctx { g with outq := os } a.agens
      agenAt := s.cycle + 1
      agenLast := ctx })
    (sendAll s1 k (sportOf r k 1) g.seq [o.1] o.2).map (fun x =>
      x.1.post k (x.2 ++ if last then postAt (s.at k) (posEdge g.slot .l) g.time (-1) else []))

/-- Whether a context's pointer read has its turn: at the read port of A after the nodes (R143), or at its banks of the scratchpad (R146);
a read outside them waits for nothing. -/
def ptrTurn (s : State) (r : Res) (k ctx : Nat) (g : Agen) : Bool :=
  if (agenWord (g.words.getD 0 0)).psp = 1 then pipeTurn s k
  else decide (g.ptrAt + 8 > r.scrSize) || unitTurn s r (.agen k ctx) [(g.ptrAt, 8)]

/-- The port or the banks have served a pointer read. -/
def ptrTake (r : Res) (k ctx : Nat) (g : Agen) (s : State) : State :=
  if (agenWord (g.words.getD 0 0)).psp = 1 then s.modAt k (fun a => a.usePort s.cycle 2 8)
  else if g.ptrAt + 8 > r.scrSize then s else unitTake r (.agen k ctx) [(g.ptrAt, 8)] s

/-- A pointer read that waits keeps its place in its banks. -/
def ptrWait (r : Res) (k ctx : Nat) (g : Agen) (s : State) : State :=
  if (agenWord (g.words.getD 0 0)).psp = 1 then s else unitWait r (.agen k ctx) [(g.ptrAt, 8)] s

/-- Whether a context could send a token now. -/
def agenReady (s : State) (r : Res) (k ctx : Nat) : Bool :=
  let a := s.at k
  match get? ctx a.agens with
  | none => false
  | some g => match (a.active.instr g.slot).bind instrHd with
    | none => false
    | some h => !g.held && (!g.needs || ptrTurn s r k ctx g) && (match agenWalk s r k h 80 g with
      | .ok g => (agenSend s r k ctx g).isSome
      | .error _ => false)

/-- Whether a context may send in this cycle: one token per cycle for the tile, the two contexts in turn (R151). -/
def agenTurn (s : State) (r : Res) (k ctx : Nat) : Bool :=
  let a := s.at k
  a.agenAt != s.cycle + 1 && !(a.agenLast == ctx && agenReady s r k (1 - ctx))

/-- A step of a walk: its context with the next token composed, or held at a row. -/
def agenStep (r : Res) (k ctx : Nat) (h : Hd) (g : Agen) (s : State) : State × Option Agen :=
  match agenWalk s r k h 80 g with
  | .error (cls, addr, gen) =>
    let g' := { g with held := true, word := if cls == .uncorr then some addr else none }
    let s := if cls == .uncorr then noteUe (keyDie k) s else s
    (((s.modAt k (fun a => { a with agens := put ctx g' a.agens })).raise (agenRec s r k ctx g cls addr gen)).act, none)
  | .ok g' => (s.modAt k (fun a => { a with agens := put ctx g' a.agens }), some g')

/-- R152, R153: the context's next token goes out, or it holds at a row. A row's pointers are read at their turn. -/
def execAgenEmission (tile : TileId) (ctx : Nat) (s : State) : Result :=
  let k := tile.key
  let a := s.at k
  match get? ctx a.agens, a.res with
  | some g, some hd =>
    match get? hd s.res, (a.active.instr g.slot).bind instrHd with
    | some r, some h =>
      if !r.running || g.held then .next s
      else if g.needs && !ptrTurn s r k ctx g then .next (ptrWait r k ctx g s)
      else match agenStep r k ctx h g (if g.needs then ptrTake r k ctx g s else s) with
        | (s1, none) => .next s1
        | (s1, some g) =>
          if g.outq.isEmpty || !agenTurn s r k ctx then .next s1
          else match agenSend s1 r k ctx g with
            | none => .next s1
            | some s' => .next s'.act
    | _, _ => .next s
  | _, _ => .next s

end Sys2Proof.Machine
end

