-- ==== Sys2Proof/Machine/Virtual.lean ====
section
/-! DEFINITION. The virtual-memory instructions (R108 to R113). -/

namespace Sys2Proof.Machine

/-- R109: load of one aligned block. -/
def execLdv (h : Hd) (x : MemX) (s : State) : Result :=
  fireStream (.ldv h x) h (fun c s =>
    if !respFree s c.key then .idle
    else c.request (.ldv h x) h .load (sizeBytes x.lsz.toNat) (blockElt .virt c x []) s) s

/-- R109: store of one aligned block, a timed write. -/
def execStv (h : Hd) (x : MemX) (s : State) : Result :=
  fireStream (.stv h x) h (fun c s =>
    c.request (.stv h x) h .store (sizeBytes x.lsz.toNat) (blockElt .virt c x (storeData c x)) s) s

/-- R110: gather of elements. -/
def execLdvs (h : Hd) (x : MemX) (s : State) : Result :=
  fireStream (.ldvs h x) h (fun c s =>
    if !respFree s c.key then .idle
    else
      let n := sizeBytes x.lsz.toNat
      c.request (.ldvs h x) h .load n (gatherElts .virt c.l x.off.toNat n h.sh.width (fun _ => [])) s) s

/-- R110: scatter of elements; element i stores R bytes from i·w, missing ones 0. -/
def execStvs (h : Hd) (x : MemX) (s : State) : Result :=
  fireStream (.stvs h x) h (fun c s =>
    let n := sizeBytes x.lsz.toNat
    let w := h.sh.width
    c.request (.stvs h x) h .store n (gatherElts .virt c.l x.off.toNat n w (fun i => sliceBytes c.rt.data (i * w) w)) s) s

/-- R111: warms the ingress PT's caches; never holds. -/
def execPfv (h : Hd) (x : MemX) (s : State) : Result :=
  fireStream (.pfv h x) h (fun c s =>
    c.request (.pfv h x) h .prefetch 8 [{ space := .virt, addr := effAddr .virt (natAt c.l.data 0 8) x.off.toNat, n := 1 }] s) s

end Sys2Proof.Machine
end

