-- ==== Sys2Proof/Machine/Atomic.lean ====
section
/-! DEFINITION. The update instructions (R362 to R369). -/

namespace Sys2Proof.Machine

/-- R363: elements that R does not supply stay unchanged; MD bit 3 names the scratchpad. -/
def execAmo (h : Hd) (x : MemX) (s : State) : Result :=
  fireStream (.amo h x) h (fun c s =>
    let n := sizeBytes x.lsz.toNat
    let sp : Space := if h.md.toNat ≥ 8 then .scr else .virt
    c.request (.amo h x) h (.amo (h.md.toNat % 8)) n (blockElt sp c x (c.rt.data.take n)) s) s

/-- R365: one element; the old value is returned. -/
def execAmor (h : Hd) (x : MemX) (s : State) : Result :=
  fireStream (.amor h x) h (fun c s =>
    let w := h.sh.width
    let sp : Space := if h.md.toNat ≥ 8 then .scr else .virt
    if !respFree s c.key then .idle
    else match c.request (.amor h x) h (.amor (h.md.toNat % 4)) 8
        [{ space := sp, addr := effAddr sp (natAt c.l.data 0 8) x.off.toNat, n := w, data := fitBytes w c.rt.data }] s with
      | .fired eat outs posts s1 =>
        .fired eat outs posts (match get? s.nextId s1.reqs with
          | some q => s1.setReq s.nextId { q with cmp := fitBytes w c.p.data }
          | none => s1)
      | f => f) s

/-- R363: a memory-side reduction, up to 256 bytes. -/
def execRed (h : Hd) (x : MemX) (s : State) : Result :=
  fireStream (.red h x) h (fun c s =>
    let n := sizeBytes x.lsz.toNat
    c.request (.red h x) h (.amo h.md.toNat) n (blockElt .virt c x (c.rt.data.take n)) s) s

/-! ### Binning (R367 to R369) -/

/-- Fields of a bin-set descriptor (R367). -/
structure BinSet where
  tbase : Nat
  nbin  : Nat
  bsh   : Nat
  qcap  : Nat
  qoff  : Nat
  coff  : Nat
  bad   : Option Nat
  deriving DecidableEq, Repr, Inhabited

/-- A descriptor at a scratchpad offset, with its failing word where it has one. -/
def binSet (s : State) (r : Res) (off w : Nat) : BinSet :=
  let ws := (upto 8).map (fun i => leNat (scrRead r s (off + 8 * i) 8))
  let v (i : Nat) : Nat := ws.getD i 0
  let nbin := bits (v 1) 0 16
  let bsh := bits (v 1) 16 5
  let qcap := bits (v 1) 32 32
  let qoff := bits (v 2) 0 32
  let coff := bits (v 2) 32 32
  let bad :=
    if off + 64 > r.scrSize then some 0
    else if v 0 % w ≠ 0 then some 0
    else if bits (v 1) 21 11 ≠ 0 || decide (bsh > 16) || qcap = 0 || decide (qcap > 65536) then some 1
    else if qoff % 256 ≠ 0 || coff % 64 ≠ 0 || decide (qoff + 8 * qcap * (nbin + 1) > r.scrSize)
        || decide (coff + 4 * (nbin + 1) > r.scrSize) then some 2
    else (upto 5).findSome? (fun i => if v (3 + i) ≠ 0 then some (3 + i) else none)
  ⟨v 0, nbin, bsh, qcap, qoff, coff, bad⟩

/-- GEN of a descriptor error: the failing word in GEN9 (R392). -/
def descGen (i : Nat) : List Nat := List.replicate 9 0 ++ [i]

/-- R368: one update per lane at the owner of its bin's count word; 0xFFFF_FFFF is padding. -/
def execBin (h : Hd) (x : MemX) (s : State) : Result :=
  fireStream (.bin h x) h (fun c s =>
    let w := h.sh.width
    let b := binSet s c.r x.off.toNat w
    match b.bad with
    | some i => c.holdWith (.bin h x) .range descFlag (BitVec.ofNat 64 x.off.toNat) (descGen i) [pulseOut c.time h.t1] s
    | none =>
      let k := min (c.l.data.length / 4) (c.rt.data.length / w)
      let elts := (upto k).filterMap (fun i =>
        let ix := natAt c.l.data (4 * i) 4
        let n := ix / 2 ^ b.bsh
        if ix = 0xFFFFFFFF then none
        else some ({ lane := i, space := .scr, addr := b.coff + 4 * n, n := 4,
                     data := leBytes 4 ix ++ fitBytes 4 (sliceBytes c.rt.data (w * i) w),
                     aux := [b.qoff + 8 * b.qcap * n, b.qcap, n, b.nbin] } : Elt))
      c.request (.bin h x) h .bin 8 elts s) s

/-- R369: takes a bin at the owner of its count word. -/
def execBinf (h : Hd) (x : MemX) (s : State) : Result :=
  fireStream (.binf h x) h (fun c s =>
    let b := binSet s c.r x.off.toNat h.sh.width
    match b.bad with
    | some i => c.holdWith (.binf h x) .range descFlag (BitVec.ofNat 64 x.off.toNat) (descGen i)
        [pulseOut c.time h.t0, dataOut .n32 c.time (zeros 8) h.t1] s
    | none =>
      let n := natAt c.l.data 0 4
      c.request (.binf h x) h .binf 8
        [{ space := .scr, addr := b.coff + 4 * n, n := 4, aux := [b.qoff + 8 * b.qcap * n, b.qcap, n, b.tbase] }] s) s

end Sys2Proof.Machine
end

