-- ==== Sys2Proof/Machine/Translate.lean ====
section
/-! DEFINITION. Translation at the ingress PT (R95 to R104, R111, R122, R135, R382). -/

namespace Sys2Proof.Machine

/-- A request writes, for permission and page checks: stores and updates. -/
def ROp.writeClass : ROp → Bool
  | .store | .amo _ | .amor _ | .binf => true
  | _ => false

/-- Permission bit a request needs (R98): r 0, w 1, a 2, s 3. -/
def permBit (q : Req) : Nat :=
  match q.org, q.op with
  | .snap _ 0, _ => 3
  | _, .store => 1
  | _, .amo _ => 2
  | _, .amor _ => 2
  | _, .binf => 2
  | _, _ => 0

/-- Whether a range covers an address (R96). -/
def Range.covers (g : Range) (va : Nat) : Bool := decide (g.va ≤ va) && decide (va < g.va + g.len * 2 ^ 21)

/-- Element `i` is done without data: a prefetch that ended, or a discarded page that reads as zeros. -/
def endElt (id i : Nat) (s : State) : State :=
  match get? id s.reqs with
  | none => s
  | some q => match q.elts[i]? with
    | none => s
    | some e => s.setReq id (q.setElt i { e with st := .done, data := zeros e.n })

/-- R111: a prefetch never holds; the drop is counted. -/
def dropPrefetch (id i h : Nat) (s : State) : State :=
  (endElt id i s).modRes h (fun r => { r with dpf := satAdd (2 ^ 16 - 1) r.dpf 1 })

/-- A failing check at PT number p (R98): a hold, or for PFV a drop. -/
def failElt (id i p : Nat) (q : Req) (cls : FClass) (fflg : Nat) (s : State) : Result :=
  if q.op == .prefetch then .next ((dropPrefetch id i q.h s).act)
  else .next ((holdElt id i cls fflg (2, p / 48, p % 48) none s).act)

/-- Watch slots whose word these bytes include, each with the word's VA (R382); bytes narrower than a word, which BINF's target updates are,
mark the slot of the word in which they lie (DEDUCED, log 26). -/
def watchMarks (s : State) (asid va n : Nat) : List (Nat × Nat) :=
  (s.watch.filter (fun w => w.2.en && w.2.asid == asid
    && ((decide (va ≤ w.2.va) && decide (w.2.va + 8 ≤ va + n)) || (decide (n < 8) && va / 8 * 8 == w.2.va)))).map (fun w => (w.1, w.2.va))

/-! ### The behind-compute class (R135) -/

def State.modBc (s : State) (u : Nat) (f : Bc → Bc) : State := { s with bcs := upd {} u f s.bcs }

/-- Die on which a PT (0 to 191) or the LT of a home stands. -/
def bcDie (s : State) (u : Nat) : Nat :=
  if u < 192 then u / 48 else (portLt (if u < 2560 then u - 2304 else winPort s (u - 2560))).1

/-- Whether an element waits at a PT to be translated, or at the PT or LT that is its home. -/
def waitsAt (s : State) (u : Nat) (q : Req) (e : Elt) : Bool :=
  e.space == .virt && ((decide (u < 192) && e.st == .new && ingressPt (q.org.tile s) == u && mayIssue s q e)
    || (e.st == .home && e.words.isEmpty && paHome s e.pa == some (if u < 192 then 2048 + u else u)))

/-- R135: whether a behind-compute request is granted at a unit in this cycle: no other request waits there and the window has room,
or none has been granted for 4,096 cycles while some waited. -/
def bcGrant (s : State) (u : Nat) (q : Req) : Bool :=
  if !q.bc then true
  else
    let b := getD {} u s.bcs
    let cap := getD 0x100 (bcDie s u) s.bccap
    let used := if b.win = s.cycle / 1024 then b.cnt else 0
    let others := s.reqs.any (fun e => !e.2.bc && e.2.elts.any (waitsAt s u e.2))
    (!others && (cap = 0 || decide (used < cap))) || (match b.wait with | some c => decide (s.cycle ≥ c + 4095) | none => false)

/-- A grant of one line is counted. -/
def bcCount (u : Nat) (q : Req) (s : State) : State :=
  if !q.bc then s
  else s.modBc u (fun b =>
    { win := s.cycle / 1024, cnt := (if b.win = s.cycle / 1024 then b.cnt else 0) + 1, wait := none })

/-- Whether a behind-compute element waits at a unit, be it that its PT still fetches what translates it. -/
def bcWaits (s : State) (u : Nat) (q : Req) (e : Elt) : Bool :=
  waitsAt s u q e || (decide (u < 192) && ingressPt (q.org.tile s) == u && (match e.st with
    | .fetch | .walk _ _ | .ats => true
    | _ => false))

/-- A cycle of a unit: from when its behind-compute requests wait. -/
def bcWatch (u : Nat) (s : State) : State :=
  let b := getD {} u s.bcs
  if s.reqs.any (fun e => e.2.bc && e.2.elts.any (bcWaits s u e.2)) then
    (if b.wait.isNone then s.modBc u (fun b => { b with wait := some s.cycle }) else s)
  else if b.wait.isSome then s.modBc u (fun b => { b with wait := none }) else s

/-- A cycle of every unit at which a behind-compute request may stand. -/
def bcCycle (s : State) : State :=
  let at' (e : Nat × Req) : List Nat := if !e.2.bc then [] else
    ingressPt (e.2.org.tile s) :: e.2.elts.filterMap (fun x =>
      if x.space == .virt && x.st == .home then (paHome s x.pa).map (fun u => if u < 2304 then u - 2048 else u) else none)
  (dedup (s.bcs.map (·.1) ++ s.reqs.flatMap at')).foldl (fun s u => bcWatch u s) s

/-! ### The way home -/

/-- A translated element goes to its home, where updates and writes are numbered in the order in which they come (R360, R407), an update under its
sequence (R370); an update into a host window holds with PERM (R360), a byte that became a gap
with NOTPRESENT and the FFLG given (R94). A prefetch ends here. What may not go yet, by R122, R135 or R370, stays at the PT. -/
def toHome (id i p : Nat) (q : Req) (e : Elt) (pa fflg : Nat) (s : State) : Result :=
  let asid := match get? q.h s.res with | some r => r.asid | none => 0
  match paHome s pa with
  | none => failElt id i p q .notpresent fflg s
  | some home =>
    if q.op == .prefetch then .next ((endElt id i (countIssue 11 q s)).act)
    else if decide (home ≥ 2560) && permBit q = 2 then failElt id i p q .perm 0 s
    else if decide (engineOut s q home ≥ 64) || !bcGrant s p q || (q.op.isUpdate && (seqFor s q e home).isNone) then .next (s.setReq id (q.setElt i { e with st := .new }))
    else
      let marks := if q.op.writeClass then watchMarks s asid e.addr e.n else []
      let x := getD {} home s.homes
      let arr := if q.op.writes then x.arrivals else e.arr
      let seq := if q.op.isUpdate then seqFor s q e home else none
      let s := if q.op.writes then { s with homes := put home { x with arrivals := arr + 1 } s.homes } else s
      .next ((bcCount p q (useSeq q e (seq.getD 0) ((countIssue 11 q s).setReq id
        (q.setElt i { e with st := .home, pa := pa, marks := marks, arr := arr, useq := seq })))).act)

/-! ### Page tables (R99, R100) -/

/-- What a table entry says at a level. -/
inductive Pte where
  | bad
  | absent
  | table (addr : Nat)
  | leaf (pa size : Nat) (mig disc ro : Bool)
  deriving DecidableEq, Repr, Inhabited

/-- Index of a VA into the table of a level, and the size of a level's table. -/
def pteIndex (level va : Nat) : Nat := match level with
  | 0 => bits va 48 8
  | 1 => bits va 39 9
  | 2 => bits va 30 9
  | 3 => bits va 21 9
  | _ => bits va 16 5

def tableSize (level : Nat) : Nat := if level = 0 then 2048 else if level ≤ 3 then 4096 else 256

/-- R100. -/
def readPte (s : State) (level v : Nat) : Pte :=
  let ty := bits v 0 2
  let addr := bits v 8 44 * 256
  let size := if level = 3 then 2 ^ 21 else 2 ^ 16
  if ty = 3 || bits v 52 4 ≠ 0 || bits v 2 3 ≠ 0 then .bad
  else if ty = 0 then .absent
  else if ty = 1 then
    if level ≥ 4 || addr % tableSize (level + 1) ≠ 0 || !(pkind s addr).backed then .bad else .table addr
  else if level < 3 || addr % size ≠ 0 || !(pkind s addr).backed || !(pkind s (addr + size - 1)).backed then .bad
  else .leaf addr size (bit v 7) (bit v 6) (bit v 5)

/-- Whether an ASID's root is sound (R99). -/
def rootOk (s : State) (root : Nat) : Bool := root % 2048 == 0 && (pkind s root).backed

/-- The whole walk at once, for the re-walk of R102: the leaf, where the walk ends in one. -/
def walkAll (s : State) (va : Nat) : Nat → Nat → Nat → Pte
  | 0, _, _ => .bad
  | n + 1, level, table =>
    match readPte s level (readNat s.mem (table + 8 * pteIndex level va) 8) with
    | .table t => walkAll s va n (level + 1) t
    | x => x

def State.modPt (s : State) (p : Nat) (f : Pt → Pt) : State := { s with pts := upd {} p f s.pts }

/-- A new cache entry; the oldest leaves a full cache (R97). -/
def cacheIn {α : Type} (cap : Nat) (l : List α) (x : α) : List α := (if l.length ≥ cap then l.drop 1 else l) ++ [x]

/-- Checks 3 to 5 of R98 on a leaf, then the access goes to its home. -/
def useLeaf (id i p : Nat) (q : Req) (e : Elt) (pa : Nat) (ro disc : Bool) (s : State) : Result :=
  if ro && q.op.writeClass then failElt id i p q .perm 0 s
  else if disc then
    if q.op == .prefetch then .next ((endElt id i s).act)
    else if q.op.writeClass then failElt id i p q .discarded 0 s
    else
      let s := endElt id i (countIssue 11 q s)
      .next ((match q.org with
        | .snap _ _ => s
        | _ => s.modRes q.h (fun r => { r with drd := true })).act)
  else toHome id i p q e pa 1 s

/-! ### Host ranges (R104) -/

/-- Whether a truncation refuses an address. -/
def cutOff (s : State) (asid va : Nat) : Bool :=
  s.revoked.any (fun v => v.cut && v.asid == asid && decide (v.va ≤ va) && decide (va < v.va + v.len))

/-! ### INGRESS_TRANSLATE -/

/-- R96 to R104: the checks of R98 in their order, translation, and the way to the home, to a table or to the host. -/
def execIngressTranslate (req elem : Nat) (s : State) : Result :=
  match get? req s.reqs with
  | none => .next s
  | some q =>
    match q.elts[elem]?, get? q.h s.res with
    | some e, some r =>
      let p := ingressPt (q.org.tile s)
      if e.st ≠ .new || e.space ≠ .virt || behindHeld s req q || !mayIssue s q e || !bcGrant s p q then .next s
      else if e.addr ≥ 2 ^ 56 then failElt req elem p q .range 0 s
      else if e.addr % alignOf q e ≠ 0 then failElt req elem p q .align 0 s
      else match (getD {} p s.pts).ranges.find? (fun x => x.1 == r.asid && x.2.1 == q.h && x.2.2.covers e.addr) with
        | none => .next ((s.setReq req (q.setElt elem { e with st := .fetch })).act)
        | some (_, _, g) =>
          if !bit g.perm (permBit q) then failElt req elem p q .perm 0 s
          else match g.kind with
            | .direct => toHome req elem p q e (g.pa + (e.addr - g.va)) 0 s
            | .paged =>
              match (getD {} p s.pts).trans.find? (fun t => t.asid == r.asid && t.h == q.h && !t.host
                  && decide (t.va ≤ e.addr) && decide (e.addr < t.va + t.size)) with
              | some t => useLeaf req elem p q e (t.pa + (e.addr - t.va)) t.ro t.disc s
              | none =>
                let root := getD 0 r.asid s.roots
                if rootOk s root then .next ((s.setReq req (q.setElt elem { e with st := .walk 0 root })).act)
                else failElt req elem p q .notpresent 1 s
            | .host =>
              if cutOff s r.asid e.addr && !e.again then failElt req elem p q .revoked 0 s
              else match (getD {} p s.pts).trans.find? (fun t => t.asid == r.asid && t.h == q.h && t.host
                  && decide (t.va ≤ e.addr) && decide (e.addr < t.va + t.size) && !(t.ro && q.op.writeClass)) with
                | some t => toHome req elem p q e (t.pa + (e.addr - t.va)) 0 s
                | none => .next ((s.setReq req (q.setElt elem { e with st := .ats })).act)
    | _, _ => .next s

/-- R97: the range table's answer: the entry enters the cache, or none covers the address. -/
def execRangeTableFetch (req elem : Nat) (s : State) : Result :=
  match get? req s.reqs with
  | none => .next s
  | some q =>
    match q.elts[elem]?, get? q.h s.res with
    | some e, some r =>
      let p := ingressPt (q.org.tile s)
      if e.st ≠ .fetch || behindHeld s req q then .next s
      else match r.desc.ranges.find? (fun g => g.covers e.addr) with
        | none => failElt req elem p q .range 0 s
        | some g =>
          .next (((s.setReq req (q.setElt elem { e with st := .new })).modPt p (fun t =>
            { t with ranges := cacheIn 1024 t.ranges (r.asid, q.h, g) })).act)
    | _, _ => .next s

/-- R99, R100: a table's entry is read; the walk goes on, ends in a leaf, or holds. An entry that reads as uncorrectable holds the access that
needs it, at its PT, under its own address (R433; DEDUCED, log 11). A leaf with DISC is not cached: software
materialises the page under it (R103; DESIGN CHOICE, log 23). -/
def execPageWalkRead (req elem : Nat) (s : State) : Result :=
  match get? req s.reqs with
  | none => .next s
  | some q =>
    match q.elts[elem]?, get? q.h s.res with
    | some e, some r =>
      let p := ingressPt (q.org.tile s)
      if behindHeld s req q then .next s
      else match e.st with
      | .walk level table =>
        if s.focus.bad.isSome then
          if q.op == .prefetch then .next ((dropPrefetch req elem q.h s).act)
          else .next ((holdElt req elem .uncorr 0 (2, p / 48, p % 48) (some [0]) 
            (noteUe (((hbmPlace s table).map (·.1)).getD (p / 48)) (s.setReq req (q.setElt elem { e with tbl := true })))).act)
        else match readPte s level (readNat s.mem (table + 8 * pteIndex level e.addr) 8) with
        | .bad => failElt req elem p q .notpresent 1 s
        | .absent => failElt req elem p q .notpresent 0 s
        | .table t => .next ((s.setReq req (q.setElt elem { e with st := .walk (level + 1) t })).act)
        | .leaf pa size mig disc ro =>
          if mig then failElt req elem p q .migrating 0 s
          else
            let va := e.addr / size * size
            let t : Trans := ⟨r.asid, q.h, va, size, pa, ro, disc, false⟩
            let s1 := s.setReq req (q.setElt elem { e with st := .new })
            useLeaf req elem p q { e with st := .new } (pa + (e.addr - va)) ro disc
              (if disc then s1 else s1.modPt p (fun x => { x with trans := cacheIn 256 x.trans t }))
      | _ => .next s
    | _, _ => .next s

/-- A grant ends a truncation's refusal of the address: the host has validated the range again (R104). -/
def endCut (asid va : Nat) (s : State) : State :=
  let hit (v : Revoked) : Bool := v.cut && v.asid == asid && decide (v.va ≤ va) && decide (va < v.va + v.len)
  { s with revoked := (s.revoked.filter (fun v => !hit v || v.owed)).map (fun v => if hit v then { v with len := 0 } else v) }

/-- R101: the host's completion; without access, or without write access for a write, the request holds. -/
def execAtsCompletion (req elem : Nat) (grant : Option AtsGrant) (s : State) : Result :=
  match get? req s.reqs with
  | none => .next s
  | some q =>
    match q.elts[elem]?, get? q.h s.res with
    | some e, some r =>
      let p := ingressPt (q.org.tile s)
      if e.st ≠ .ats then .next s
      else match grant with
        | none => failElt req elem p q .notpresent 0 s
        | some g =>
          if (q.op.writeClass && !g.write) || g.size = 0 then failElt req elem p q .notpresent 0 s
          else
            let va := e.addr / g.size * g.size
            let t : Trans := ⟨r.asid, q.h, va, g.size, g.pa, !g.write, false, true⟩
            let s1 := (endCut r.asid e.addr (s.setReq req (q.setElt elem { e with st := .new }))).modPt p (fun x =>
              { x with trans := cacheIn 256 x.trans t })
            if behindHeld s req q then .next s1.act
            else toHome req elem p q { e with st := .new } (g.pa + (e.addr - va)) 0 s1
    | _, _ => .next s

/-! ### Revocation (R104) and invalidation (R102) -/

/-- Every PT drops its translations of an ASID that overlap an area. -/
def dropTrans (asid va len : Nat) (host : Bool) (s : State) : State :=
  { s with pts := s.pts.map (fun e => (e.1, { e.2 with trans := e.2.trans.filter (fun t =>
      !(t.asid == asid && t.host == host && decide (t.va < va + len) && decide (va < t.va + t.size))) })) }

/-- Whether a residency's VA lies in a host range. -/
def inHostRange (r : Res) (va : Nat) : Bool := r.desc.ranges.any (fun g => g.kind == .host && g.covers va)

/-- Requests to a host area that are not yet translated hold with REVOKED. -/
def revokeWaiting (asid va len : Nat) (s : State) : State :=
  s.reqs.foldl (fun s e =>
    match get? e.2.h s.res with
    | none => s
    | some r =>
      if r.asid ≠ asid then s
      else (e.2.elts.zipIdx).foldl (fun s x =>
        let waiting := match x.1.st with | .new | .fetch | .ats => true | _ => false
        if waiting && !ctxHeld s e.2 && x.1.space == .virt && decide (va ≤ x.1.addr) && decide (x.1.addr < va + len) && inHostRange r x.1.addr then
          let p := ingressPt (e.2.org.tile s)
          if e.2.op == .prefetch then dropPrefetch e.1 x.2 e.2.h s
          else holdElt e.1 x.2 .revoked 0 (2, p / 48, p % 48) none s
        else s) s) s

/-- R104: an Invalidate Request: cached translations go, waiting requests hold, the completion is owed. -/
def execAtsInvalidateRequest (asid va len : Nat) (s : State) : Result :=
  let s := revokeWaiting asid va len (dropTrans asid va len true s)
  .next (({ s with revoked := s.revoked ++ [(⟨asid, va, len, false, true⟩ : Revoked)] }).act)

/-- End of the host range that contains an address, over the ASID's residencies. -/
def hostEnd (s : State) (asid va : Nat) : Nat :=
  (s.res.flatMap (fun e => if e.2.asid = asid then (e.2.desc.ranges.filter (fun g => g.kind == .host && g.covers va)).map
    (fun g => g.va + g.len * 2 ^ 21) else [])).foldl max 0

/-- R104: the truncation of the host range at `va` to a new end. -/
def execHostRangeTruncate (asid va newEnd : Nat) (s : State) : Result :=
  let len := hostEnd s asid va - newEnd
  let s := revokeWaiting asid newEnd len (dropTrans asid newEnd len true s)
  .next (({ s with revoked := s.revoked ++ [(⟨asid, newEnd, len, true, true⟩ : Revoked)] }).act)

/-- R104: requests of an ASID that are translated and not yet performed in a host range. -/
def inFlight (s : State) (v : Revoked) : Bool :=
  s.reqs.any (fun e => match get? e.2.h s.res with
    | none => false
    | some r => r.asid == v.asid && e.2.elts.any (fun x => x.space == .virt && (x.st == .home || x.st == .paged) && inHostRange r x.addr
        && r.desc.ranges.any (fun g => g.kind == .host && g.covers x.addr && decide (g.va < v.va + v.len)
            && decide (v.va < g.va + g.len * 2 ^ 21))))

/-- R104: the in-flight count is 0: the completion or the acknowledgement is sent. -/
def execInvalidateCompletion (index : Nat) (s : State) : Result :=
  match s.revoked[index]? with
  | none => .next s
  | some v =>
    if !v.owed || inFlight s v then .next s
    else if v.cut then .next (({ s with revoked := s.revoked.set index { v with owed := false } }).act)
    else .next (({ s with revoked := s.revoked.eraseIdx index }).act)

/-- R102: an invalidation reaches every PT. -/
def execPageInvalidation (asid va len : Nat) (s : State) : Result := .next ((dropTrans asid va len false s).act)

/-- Close the record of a held element, wherever it stands; `walked`: by the device's own re-walk, with DISP 1 and STAT[2]
(R102). -/
def closeElt (id i : Nat) (walked : Bool) (s : State) : State :=
  let keep (f : FRec) : Bool := !(f.link == .elem id i)
  let gone := (s.faults.incoming ++ s.faults.table.map (·.fr)).filter (fun f => !keep f)
  { s with faults := { s.faults with
      incoming := s.faults.incoming.filter keep
      table := s.faults.table.filter (fun o => keep o.fr)
      closed := if walked then s.faults.closed ++ gone.map (fun f => { f with disp := some .retry, stat := f.stat ||| 4 })
        else s.faults.closed } }

/-- R102: the second invalidation re-walks every request held on a page; one that meets MIG again stays under its
record. -/
def execMigrationRewalk (asid va len : Nat) (s : State) : Result :=
  let s0 := dropTrans asid va len false s
  .next ((s.reqs.foldl (fun s e =>
    match get? e.2.h s.res with
    | none => s
    | some r =>
      if r.asid ≠ asid then s
      else (e.2.elts.zipIdx).foldl (fun s x =>
        if x.1.st == .held .migrating && decide (va ≤ x.1.addr) && decide (x.1.addr < va + len) then
          match walkAll s x.1.addr 5 0 (getD 0 asid s.roots) with
          | .leaf _ _ true _ _ => s
          | _ => match get? e.1 s.reqs with
            | some q => closeElt e.1 x.2 true (s.setReq e.1 (q.setElt x.2 { x.1 with st := .new }))
            | none => s
        else s) s) s0).act)

end Sys2Proof.Machine
end

