-- ==== Sys2Proof/Machine/Home.lean ====
section
/-! DEFINITION. Accesses performed at their homes, answers to slots, and the time-committed accesses (R109, R110, R126,
R144 to R148, R156, R157, R345, R346, R382, R397, R407). An element's 64-byte word `w` is numbered 4 times the
element's index plus `w` in HOME_ACCESS and OWNER_UPDATE. -/

namespace Sys2Proof.Machine

/-! ### Bytes of a space (R144, R145) -/

/-- Priority of a request's access to a typed buffer, as `AT.seen` numbers it (R143): a tile's own goes before an engine's. -/
def bufPrio (q : Req) : Nat := match q.org with
  | .slot _ _ => 1
  | _ => 2

/-- Read bytes of an element from byte `o` of it. -/
def eltRead (s : State) (q : Req) (e : Elt) (o n : Nat) : List Byte :=
  match e.space with
  | .virt => readBytes s.mem (e.pa + o) n
  | .scr => match get? q.h s.res with | some r => scrRead r s (e.addr + o) n | none => []
  | .buf k b => readBytes ((s.at k).seen s.cycle b 3) (e.addr + o) n

/-- Bytes kept by a store's mask over what stood there. -/
def maskBytes : List Bool → List Byte → List Byte → List Byte
  | k :: ks, v :: vs, o :: os => (if k then v else o) :: maskBytes ks vs os
  | [], v :: vs, _ :: os => v :: maskBytes [] vs os
  | _, vs, _ => vs

/-- Scratchpad bytes written by a plain store, those that its mask keeps: the others are not written (R345, R355). -/
def putMasked (r : Res) (s : State) (a : Nat) (keep : List Bool) (bs : List Byte) : State :=
  if keep.all (fun b => b) then scrPut r s a bs
  else ((bs.zipIdx).filter (fun x => keep.getD x.2 true)).foldl (fun s x => scrPut r s (a + x.2) [x.1]) s

/-- Write bytes of an element from byte `o` of it, those that its mask keeps. -/
def eltWrite (s : State) (q : Req) (e : Elt) (o : Nat) (bs : List Byte) : State :=
  let keep := e.keep.drop o
  match e.space with
  | .virt => dropResv (e.pa + o) bs.length
      { s with mem := writeBytes s.mem (e.pa + o) (maskBytes keep bs (readBytes s.mem (e.pa + o) bs.length)) }
  | .scr => match get? q.h s.res with
    | some r => putMasked r s (e.addr + o) keep bs
    | none => s
  | .buf k b => s.modAt k (fun a => a.writeBuf s.cycle b (bufPrio q) (e.addr + o) bs keep)

/-- Whether a slot's access waits at a buffer's port, which it takes before an engine's (R143). -/
def slotWaits (s : State) (k b : Nat) (write : Bool) : Bool :=
  s.reqs.any (fun e => (match e.2.org with | .slot _ _ => true | _ => false) && e.2.op.writes == write
    && (e.2.elts.zipIdx).any (fun x => x.1.st == .home && x.1.space == .buf k b && !stuck s e.1 e.2 x.2 x.1))

/-- R142, R143: whether the port of a typed buffer serves a request's word now; an agent that loses tries again in the next cycle. A copy engine
gives way in A to a syntax delivery that waited in the cycle before: the two take turns. -/
def portTurn (s : State) (q : Req) (e : Elt) (n : Nat) : Bool := match e.space with
  | .buf k b =>
    let write := q.op.writes
    (s.at k).portFree s.cycle (2 * b + if write then 1 else 0) n
      && (match q.org with
        | .slot _ _ => true
        | _ => !slotWaits s k b write && !(write && b == 1 && (s.at k).synAsk == s.cycle && s.cycle != 0))
  | _ => true

/-- Its bytes pass the port. -/
def passPort (q : Req) (e : Elt) (n : Nat) (s : State) : State := match e.space with
  | .buf k b => s.modAt k (fun a => a.usePort s.cycle (2 * b + if q.op.writes then 1 else 0) n)
  | _ => s

/-! ### Arrival subtractions (R126) -/

/-- A burst whose elements are all performed sends its subtraction. -/
def burstDone (id i : Nat) (s : State) : State :=
  match get? id s.reqs with
  | none => s
  | some q =>
    match q.elts[i]?, q.org with
    | some e, .engine mt ctx strm part 1 =>
      let all := q.elts.filter (fun x => x.lane == e.lane)
      match ctxMsg s mt ctx strm with
      | some m =>
        if m.arv && all.all (fun x => x.st == .done) then
          let n := (all.map (·.cnt)).sum
          let off := ((m.body.getD 3 0).toNat) % 2 ^ 32
          { s with nextId := s.nextId + 1, subs := put s.nextId ⟨q.h, off, n, mt, ctx, strm, part⟩ s.subs }
        else s
      | none => s
    | _, _ => s

/-- R126, R146: the owner node applies a burst's subtraction at its turn in the word's bank, and the word's waiters observe it. -/
def execArrivalSubtraction (work : Nat) (s : State) : Result :=
  match get? work s.subs with
  | none => .next s
  | some b =>
    match get? b.h s.res with
    | none => .next s
    | some r =>
      .next (atBanks r (.sub work) [(b.off, 8)] s (fun s =>
        let s := { s with subs := del work s.subs }
        (wake b.h b.off (setScrWord s r b.off (arrSub (scrWord s r b.off) b.n))).act))

/-! ### Order at a home -/

/-- Elements of one request to one home go in ascending lane order (R110, R159): a lane that waits for its performance, or holds,
stops the later ones, unless it is on its way to another home. -/
def laneBlocked (s : State) (q : Req) (i : Nat) (e : Elt) : Bool :=
  match q.org with
  | .slot _ _ => (q.elts.take i).any (fun x => match x.st with
      | .done | .wait | .accepted => false
      | .home | .mesh | .paged => eltHome s q x == eltHome s q e
      | _ => true)
  | _ => false

/-- Watched words that this word of a write covers, as the slots named them when the write was translated: their new values go to the
Dispatcher (R382). -/
def notifyWatch (e : Elt) (w : Nat) (s : State) : State :=
  e.marks.foldl (fun s k =>
    if e.wordOf (k.2 - e.addr) == w then
      { s with watchq := s.watchq ++ [(k.1, BitVec.ofNat 64 (readNat s.mem (e.pa + k.2 - e.addr) 8))] }
    else s) s

/-- Whether a write is timed: everything but what a service core or the host writes itself (R356). -/
def Req.timed (q : Req) : Option Time := match q.org with
  | .snap _ _ => none
  | _ => some q.time

/-- The home's holder fields. -/
def homeHolder (s : State) (q : Req) (e : Elt) : Nat × Nat × Nat :=
  match e.space with
  | .buf _ _ => (0, 0, 0)
  | _ => match eltHome s q e with | some h => holderOf s q h | none => (0, 0, 0)

/-- An uncorrectable word is detected at its home, or in its tile's buffer (R435). -/
def ueAt (q : Req) (e : Elt) (bad : Bool) (s : State) : State :=
  if bad then noteUe (match e.space with | .buf k _ => keyDie k | _ => (homeHolder s q e).2.1) s else s

/-! ### HOME_ACCESS -/

/-- A time-committed load has its turn in its bank queue and waits for its frontier from then on; `bad`: word w is uncorrectable, which
shows when it is read (R106, R157). -/
def acceptLoad (e : Elt) (w : Nat) (bad : Bool) : Elt :=
  let e := { e with aux := if bad then e.aux ++ [e.wordOff w] else e.aux }
  let ws := e.words ++ [w]
  if ws.length ≥ e.nwords then { e with words := [], st := .accepted } else { e with words := ws }

/-- The unit that grants behind-compute lines at an element's home (R135): its PT or LT; none where that PT translated the line and counted
it so. -/
def homeUnit (s : State) (q : Req) (e : Elt) : Option Nat := match e.space, paHome s e.pa with
  | .virt, some home =>
    if !e.words.isEmpty then none
    else if home < 2304 then (if ingressPt (q.org.tile s) = home - 2048 then none else some (home - 2048))
    else some home
  | _, _ => none

/-- R135: whether the home of an element grants it. -/
def homeGrant (s : State) (q : Req) (e : Elt) : Bool := match homeUnit s q e with
  | some u => bcGrant s u q
  | none => true

/-- The home counts its grant. -/
def homeCount (q : Req) (e : Elt) (s : State) : State := match homeUnit s q e with
  | some u => bcCount u q s
  | none => s

/-- Whether an earlier write to the same page of memory, held for a snapshot and released, is still to be performed at its home (R407). -/
def behindReleased (s : State) (q : Req) (e : Elt) : Bool :=
  e.space == .virt && q.op.writes && s.reqs.any (fun p => p.2.h == q.h && p.2.elts.any (fun x =>
    x.rel && x.st == .home && decide (x.arr < e.arr) && x.addr / 65536 == e.addr / 65536 && paHome s x.pa == paHome s e.pa))

/-- Whether word w of an element may be performed now: it waits at its home for that and behind no hold, earlier lanes and released writes are
through, and bank, port and PT or LT serve it. -/
def wordTurn (s : State) (id : Nat) (q : Req) (i : Nat) (e : Elt) (w : Nat) : Bool :=
  e.st == .home && !e.words.contains w && decide (w < e.nwords) && !laneBlocked s q i e && !stuck s id q i e && !behindReleased s q e
    && bankTurn s q e w && portTurn s q e (e.wordLen w) && homeGrant s q e

/-- What performing word w uses of its home, whatever it does: the bank's cycle, the port's bytes, the PT's or LT's grant. An engine's request
makes progress (R370). -/
def serveWord (id : Nat) (q : Req) (e : Elt) (w : Nat) (s : State) : State :=
  let s := homeCount q e (passPort q e (e.wordLen w) (useBank q e w s))
  match q.org, get? id s.reqs with
  | .engine _ _ _ _ _, some q => s.setReq id { q with since := s.cycle, tries := 1 }
  | _, _ => s

/-- R109, R146, R156, R161, R345: word `w` of an element is read or written at its home, whole; a committed store is accepted
instead, a time-committed load leaves its bank queue to wait, and a WAITA registers. `bad`: the word read is uncorrectable (R397). -/
def execHomeAccess (req elem : Nat) (bad : Bool) (s : State) : Result :=
  let i := elem / 4
  let w := elem % 4
  match get? req s.reqs with
  | none => .next s
  | some q =>
    match q.elts[i]? with
    | none => .next s
    | some e =>
      let o := e.wordOff w
      let len := e.wordLen w
      if !wordTurn s req q i e w then .next s
      else match q.op with
        | .load =>
          if bad then .next ((serveWord req q e w (holdElt req i .uncorr 0 (homeHolder s q e) (some [o]) (ueAt q e bad s))).act)
          else
            let d := spliceBytes (fitBytes e.n e.data) o (eltRead s q e o len)
            .next ((serveWord req q e w (s.setReq req (q.setElt i ({ e with data := d }.didWord w)))).act)
        | .loadTc => .next ((serveWord req q e w ((ueAt q e bad s).setReq req (q.setElt i (acceptLoad e w bad)))).act)
        | .waita _ =>
          if bad then .next ((serveWord req q e w (holdElt req i .uncorr 0 (homeHolder s q e) (some [o]) (ueAt q e bad s))).act)
          else match eltHome s q e with
            | none => .next s
            | some mt =>
              let s1 := (s.setReq req (q.setElt i { e with st := .wait })).modMt mt (fun m => { m with waiters := m.waiters ++ [req] })
              .next ((serveWord req q e w (observe req s1)).act)
        | .store =>
          if e.space == .virt && snapHolds s q.h q.timed e.addr then
            .next ((s.setReq req (q.setElt i { e with st := .paged })).act)
          else match storeBytes s q e with
            | none => .next s
            | some d =>
              let s := eltWrite s q e o (sliceBytes d o len)
              let s := s.setReq req (q.setElt i (e.didWord w))
              let s := notifyWatch e w s
              .next ((serveWord req q e w (burstDone req i s)).act)
        | .storeTc =>
          match q.org, get? q.h s.res with
          | .slot k slot, some r =>
            let mt := (r.scrHome e.addr).1
            if commitRoom s mt q.h q.time then
              let c : CEnt :=
                { h := q.h
                  time := q.time
                  sport := sportOf r k q.pipe.port
                  slot := slot
                  seq := q.seq
                  lane := w
                  off := e.addr + o
                  data := sliceBytes e.data o len }
              .next ((serveWord req q e w
                ((s.setReq req (q.setElt i (e.didWord w))).modMt mt (fun m => { m with commit := m.commit ++ [c] }))).act)
            else .next s
          | _, _ => .next s
        | _ => .next s

/-! ### RESPONSE_DELIVERY (R148, R155, R158, R161, R366) -/

/-- Result bytes of a load: elements at i·w, zeros beyond and for dropped ones. -/
def Req.result (q : Req) : List Byte :=
  fitBytes q.size (q.elts.flatMap (fun e => if e.dropped then zeros e.n else fitBytes e.n e.data))

/-- What a finished request sends. -/
def Req.outs (q : Req) : List Out :=
  let pulse := pulseOut q.time q.t1
  let e := q.elts.headD { space := .scr, addr := 0, n := 8 }
  if q.dead then [markerOut 5 q.time q.t0, markerOut 5 q.time q.t1]
  else match q.op with
    | .load | .loadTc => [dataOut q.type q.time q.result q.t0, pulse]
    | .amor _ => [dataOut q.type q.time (if e.dropped then zeros 8 else fitBytes 8 e.data) q.t0, pulse]
    | .mark r => [markerOut r q.time q.t0, markerOut r q.time q.t1]
    | .prefetch => [pulseOut q.time q.t0]
    | .arrv _ => [pulseOut q.time q.t0, pulse]
    | .waita _ => [pulseOut q.time q.t0, dataOut .n8 q.time (fitBytes 8 e.data) q.t1]
    | .fence _ _ kind => [⟨q.t0, kind, q.type, q.time, q.cmp⟩, ⟨q.t1, kind, q.type, q.time, q.cmp⟩]
    | .binf => [pulseOut q.time q.t0, dataOut .n32 q.time (leBytes 8 q.cnt) q.t1]
    | _ => [pulse]

/-- Whether an answer keeps the order of its stream: a WAITA answers when its word is complete (R148, R161). -/
def Req.ordered (q : Req) : Bool := match q.op with
  | .waita _ => false
  | _ => true

/-- Whether a home of a request's words still keeps deterministic updates of its time: returns and pulses leave after the last (R374). -/
def detOwed (s : State) (q : Req) : Bool :=
  q.elts.any (fun e => match eltHome s q e with
    | some home => (if home < 2048 then (s.mt home).commit else (getD {} home s.homes).det).any (fun c =>
        c.h == q.h && c.upd.isSome && c.time == q.time)
    | none => false)

/-! ### Fences (R162, R163) -/

/-- Whether an element is performed. -/
def Elt.performed (e : Elt) : Bool :=
  match e.st with | .done | .wait => true | _ => false

/-- Classes 111 and 010 of a request of a slot (R112, R155): GATH and SCAT are 010, Q accesses are the vector pipe's. -/
def reqClass (a : AT) (q : Req) : Option Nat :=
  match q.org with
  | .slot _ slot => match a.active.instr slot with
    | some (.gath _ _) => some 2
    | some (.scat _ _) => some 2
    | _ => if q.elts.any (fun e => match e.space with | .buf _ 2 => true | _ => false) then none else some 7
  | _ => none

/-- Whether an access of the tile of one of these classes, issued before request number `id`, is outstanding; `tl`: typed-buffer accesses,
and what has not left the tile, only. -/
def outstanding (s : State) (k id : Nat) (classes : List Nat) (tl : Bool) : Bool :=
  s.reqs.any (fun e => decide (e.1 < id)
    && (match e.2.org with | .slot k' _ => k' == k | _ => false)
    && (match reqClass (s.at k) e.2 with | some c => classes.contains c | none => false)
    && e.2.elts.any (fun x => !x.performed && (!tl || (match x.space with
      | .buf _ _ => true
      | .scr => x.st == .mesh || x.st == .new
      | .virt => false))))

/-- Whether a FENCE or XFENCE still waits for an access that the tile issued before it. -/
def fenceWaits (s : State) (id : Nat) (q : Req) : Bool := match q.org, q.op with
  | .slot k _, .fence classes tl _ => outstanding s k id classes tl
  | _, _ => false

/-- Delivers the answer of a slot's request, in issue order within its stream; the pointstamp ends (R148, R324). -/
def deliverSlot (req : Nat) (s : State) : Result :=
  match get? req s.reqs with
  | none => .next s
  | some q =>
    match q.org, get? q.h s.res with
    | .slot k _, some r =>
      if !r.running || !(q.elts.all (fun e => e.st == .done && !e.lost)) || fenceWaits s req q
          || (q.op.isUpdate && detOwed s q) || (q.ordered && s.reqs.any (fun e => decide (e.1 < req) && e.2.stream == q.stream)) then .next s
      else
        let s1 := { s with reqs := del req s.reqs }
        match sendAll s1 k (sportOf r k q.pipe.port) q.seq q.outs with
        | none => .next s
        | some (s2, ps) =>
          let own : List Post := match q.loc with | some l => [⟨q.h, l, q.time, -1⟩] | none => []
          .next ((s2.post k (own ++ ps)).act)
    | _, _ => .next s

/-! ### TC_COMMIT (R346) -/

/-- Firing order of two SEQ values, compared modulo 2^16 (R346). -/
def seqBefore (a b : BitVec 16) : Bool := a != b && decide ((b - a).toNat < 2 ^ 15)

/-- Order of two entries of one time: SPORT, slot, firing order, lane. -/
def CEnt.before (a b : CEnt) : Bool :=
  if a.sport ≠ b.sport then decide (a.sport.toNat < b.sport.toNat)
  else if a.slot ≠ b.slot then decide (a.slot < b.slot)
  else if a.seq ≠ b.seq then seqBefore a.seq b.seq
  else decide (a.lane < b.lane)

/-- Times of a home's eligible operations: committed stores and time-committed loads that the frontier has passed. -/
def eligibleTimes (s : State) (mt h : Nat) (f : Option Nat) : List Nat :=
  let st := ((s.mt mt).commit.filter (fun c => c.h == h && c.upd.isNone)).map (fun c => c.time.toNat)
  let ld := (s.reqs.filter (fun e => e.2.h == h && e.2.op == .loadTc
    && e.2.elts.any (fun x => x.st == .accepted && eltHome s e.2 x == some mt))).map (fun e => e.2.time.toNat)
  (st ++ ld).filter (passes f)

/-- A byte as a time-committed load of time t sees it: without the committed stores of t and later ones that have been applied to it
(R355). -/
def pastByte (m : MT) (h t off : Nat) (b : Byte) : Byte :=
  match m.past.find? (fun p => p.h == h && p.off == off && decide (t ≤ p.time)) with
  | some p => p.old
  | none => b

/-- A load of time t reads its words; where one is uncorrectable it holds (R106). -/
def commitLoad (mt h t id i : Nat) (s : State) : State :=
  match get? id s.reqs with
  | none => s
  | some q => match q.elts[i]? with
    | none => s
    | some x =>
      if x.st ≠ .accepted || eltHome s q x ≠ some mt then s
      else
        let d := ((eltRead s q x 0 x.n).zipIdx).map (fun e => pastByte (s.mt mt) h t (x.addr + e.2) e.1)
        let s := s.setReq id (q.setElt i { x with st := .done, data := d })
        match x.aux with
        | [] => s
        | o :: _ => holdElt id i .uncorr 0 (homeHolder s q x) (some [o]) s

/-- Every load of time t at this home reads its word. -/
def commitLoads (mt h t : Nat) (s : State) : State :=
  (s.reqs.filter (fun e => e.2.h == h && e.2.op == .loadTc && e.2.time.toNat == t)).foldl (fun s e =>
    (upto e.2.elts.length).foldl (fun s i => commitLoad mt h t e.1 i s) s) s

/-- One committed store is applied; what it replaces stays known to loads of its time and of earlier ones that are still to come. -/
def commitStore (r : Res) (mt h t : Nat) (c : CEnt) (s : State) : State :=
  let old := scrRead r s c.off c.data.length
  (scrWrite r s c.off c.data).modMt mt (fun m =>
    { m with past := m.past ++ (old.zipIdx).map (fun e => (⟨h, c.off + e.2, t, e.1⟩ : Past)) })

/-- A committed store goes to its bank at its turn there (R146) and is applied, else it stays. -/
def tryStore (r : Res) (mt h t : Nat) (c : CEnt) (s : State) : State :=
  let at' := [(c.off, c.data.length)]
  if unitTurn s r (.commit mt) at' then
    commitStore r mt h t c ((unitTake r (.commit mt) at' s).modMt mt (fun m => { m with commit := m.commit.erase c }))
  else s

/-- Committed stores of a time at a home, in their order. -/
def storesAt (s : State) (mt h t : Nat) : List CEnt :=
  sortBy CEnt.before ((s.mt mt).commit.filter (fun c => c.h == h && c.upd.isNone && c.time.toNat == t))

/-- The committed stores of time t at this home, in order, each at its turn in its bank: one word of a bank in a cycle. What has to wait
takes its place in its banks. -/
def commitStores (mt h t : Nat) (s : State) : State :=
  match get? h s.res with
  | none => s
  | some r =>
    let s := (storesAt s mt h t).foldl (fun s c => tryStore r mt h t c s) s
    match storesAt s mt h t with
    | [] => s
    | cs => unitWait r (.commit mt) (cs.map (fun c => (c.off, c.data.length))) s

/-- The residency of a region's MT: that of the quad's first tile. -/
def mtRes (s : State) (mt : Nat) : Option Nat := (s.at (mt / 4 * 4)).res

/-- R346, R355: the home processes its eligible operations of the smallest such time, loads before stores; a load's turn in its bank queue was
its acceptance, a store's is now (R146). -/
def execTcCommit (mt : TileId) (s : State) : Result :=
  let k := mt.key
  match mtRes s k with
  | none => .next s
  | some h =>
    match minNat? (eligibleTimes s k h (tcFrontier s k h)) with
    | none => .next s
    | some t => .next ((commitStores k h t (commitLoads k h t s)).act)

end Sys2Proof.Machine
end

