-- ==== Sys2Proof/Machine/CopyOps.lean ====
section
/-! DEFINITION. Copy descriptors: their fields, the checks of R128, and the elements that a copy, a fill or a stream's
tile reads and writes (R119 to R123, R126, R132). -/

namespace Sys2Proof.Machine

/-- A two's-complement field of n bits. -/
def sext (n v : Nat) : Int := if v % 2 ^ n ≥ 2 ^ (n - 1) then (v % 2 ^ n : Nat) - (2 ^ n : Int) else (v % 2 ^ n : Nat)

/-- A dimension: strides, extent, halo offset and valid extent (R119). -/
structure Dim where
  sstr : Int
  dstr : Int
  ext  : Nat
  hoff : Int
  hval : Nat
  deriving DecidableEq, Repr, Inhabited

/-- Fields of a copy descriptor (R119). -/
structure CopyDesc where
  ndim : Nat
  esz  : Nat
  ssp  : Nat
  dsp  : Nat
  trn  : Bool
  halo : Bool
  dtl  : Nat
  dqx  : Nat
  dqy  : Nat
  stl  : Nat
  sqx  : Nat
  sqy  : Nat
  snum : Nat
  rsv  : Nat
  src  : Nat
  dst  : Nat
  w3   : Nat
  w4   : Nat
  w5   : Nat
  dims : List Dim
  deriving DecidableEq, Repr, Inhabited

def copyDesc (body : List W64) : CopyDesc :=
  let w (i : Nat) : Nat := (body.getD i 0).toNat
  let v := w 0
  let nd := bits v 60 4
  ⟨nd, bits v 58 2, bits v 55 3, bits v 52 3, bit v 51, bit v 50, bits v 48 2, bits v 44 4, bits v 40 4, bits v 38 2,
   bits v 34 4, bits v 30 4, bits v 26 4, bits v 0 26, w 1, w 2, w 3, w 4, w 5,
   (upto nd).map (fun k =>
     ⟨sext 32 (bits (w (6 + 2 * k)) 32 32), sext 32 (bits (w (6 + 2 * k)) 0 32), bits (w (7 + 2 * k)) 32 32,
      sext 16 (bits (w (7 + 2 * k)) 16 16), bits (w (7 + 2 * k)) 0 16⟩)⟩

/-- Bytes of an element; a 4-bit element counts by pairs. -/
def CopyDesc.size (d : CopyDesc) : Nat := match d.esz with
  | 0 => 1 | 1 => 1 | 2 => 2 | _ => 4

/-- Delivered bytes (R126). -/
def CopyDesc.declared (d : CopyDesc) : Nat :=
  ((d.dims.zipIdx).map (fun e => if e.2 = 0 && d.esz = 0 then e.1.ext / 2 else e.1.ext)).foldl (· * ·) d.size

/-! ### Index vectors -/

/-- Index vectors of extents, dimension 0 fastest. -/
def indices : List Nat → List (List Nat)
  | [] => [[]]
  | e :: es => (indices es).flatMap (fun is => (upto e).map (fun i => i :: is))

/-- Rank of an index vector in dimension-0-fastest order. -/
def rankOf : List Nat → List Nat → Nat
  | e :: es, i :: is => i + e * rankOf es is
  | _, _ => 0

/-- Exchange the first two entries. -/
def swap01 {α : Type} : List α → List α
  | a :: b :: r => b :: a :: r
  | l => l

def dot (xs : List Int) (ys : List Int) : Int := (List.zipWith (· * ·) xs ys).sum

/-- Source coordinates of an index vector; `none` outside the valid window (R120). -/
def CopyDesc.coords (d : CopyDesc) (i : List Nat) : Option (List Int) :=
  if !d.halo then some (i.map Int.ofNat)
  else
    let c := List.zipWith (fun (m : Dim) (x : Nat) => m.hoff + x) d.dims i
    if (List.zipWith (fun (m : Dim) (v : Int) => decide (v < 0) || decide (v ≥ m.hval)) d.dims c).any id then none else some c

/-- Source byte of coordinates; with 4-bit elements, dimension 0 counts nibbles. -/
def CopyDesc.srcAddr (d : CopyDesc) (c : List Int) : Int :=
  d.src + dot c (d.dims.map (·.sstr)) + (if d.esz = 0 then c.headD 0 / 2 else 0)

/-- Destination byte of an index vector (R120), of the pair with 4-bit elements. -/
def CopyDesc.dstAddr (d : CopyDesc) (i : List Nat) : Int :=
  let j := if d.trn then swap01 i else i
  d.dst + dot (j.map Int.ofNat) (d.dims.map (·.dstr)) + (if d.esz = 0 then ((i.headD 0 / 2 : Nat) : Int) else 0)

/-- An address of a space: virtual addresses wrap in 64 bits. -/
def spaceAddr (sp : Space) (a : Int) : Nat := match sp with
  | .virt => (a % 2 ^ 64).toNat
  | _ => a.toNat

/-! ### Reads -/

/-- Add a source run to the elements, merging it with the last where it goes on within one 256-byte line (R122). -/
def addRead (sp : Space) (p a n : Nat) (aux : List Nat) : List Elt → List Elt
  | [] => [{ space := sp, addr := a, n := n, posn := p, aux := aux }]
  | e :: es =>
    if aux.isEmpty && e.posn + e.n = p && e.addr + e.n = a && e.addr / 256 = (a + n - 1) / 256 && e.addr % n = 0 then
      { e with n := e.n + n } :: es
    else { space := sp, addr := a, n := n, posn := p, aux := aux } :: e :: es

/-- What a copy reads: for every index vector inside the window its element; a 4-bit element is the nibble of a byte. -/
def CopyDesc.reads (d : CopyDesc) (sp : Space) (is : List (List Nat)) : List Elt :=
  ((is.zipIdx).foldl (fun acc e =>
    match d.coords e.1 with
    | none => acc
    | some c =>
      let a := spaceAddr sp (d.srcAddr c)
      if d.esz = 0 then addRead sp e.2 a 1 [(c.headD 0 % 2).toNat] acc
      else addRead sp (e.2 * d.size) a d.size [] acc) []).reverse

/-! ### Writes -/

/-- One destination element: its address, and for each of its bytes the places of the payload that it takes. -/
structure WElem where
  addr : Nat
  src  : List (List Nat)
  deriving DecidableEq, Repr, Inhabited

/-- Destination elements in dimension-0-fastest order; a pair of nibbles is one (R120, R121). -/
def CopyDesc.welems (d : CopyDesc) (sp : Space) (exts : List Nat) (last : List Nat) : List WElem :=
  let order := indices exts
  let pair := if d.esz = 0 then order.filter (fun i => i.headD 0 % 2 == 0) else order
  pair.map (fun i =>
    let r := rankOf exts i
    { addr := spaceAddr sp (d.dstAddr (i ++ last))
      src := if d.esz = 0 then [[r, r + 1]] else (upto d.size).map (fun b => [r * d.size + b]) })

/-- What a copy writes into one 256-byte line: the places of each byte, by its offset in the line, and the bytes it delivers. -/
structure WLine where
  bytes : SMap (List Nat) := []
  cnt   : Nat := 0
  deriving DecidableEq, Repr, Inhabited

/-- An element joins its line; where an earlier one wrote the same byte, the later leaves its value (R120). -/
def WLine.add (x : WElem) (l : WLine) : WLine :=
  { bytes := (x.src.zipIdx).foldl (fun m e => put (x.addr % 256 + e.2) e.1 m) l.bytes
    cnt := l.cnt + x.src.length }

/-- The write of a line: one access from its first byte to its last, in which bytes that no element writes keep theirs (R122,
R137). `fill` is a fill's element. -/
def WLine.elt (l : WLine) (sp : Space) (line lane : Nat) (nib : Bool) (fill : List Byte) : Elt :=
  let lo := (l.bytes.head?.map (·.1)).getD 0
  let hi := (l.bytes.getLast?.map (·.1)).getD 0
  let at' := (upto (hi + 1 - lo)).map (fun i => get? (lo + i) l.bytes)
  let gap := if nib then [noPlace, noPlace] else [noPlace]
  { space := sp
    addr := 256 * line + lo
    n := hi + 1 - lo
    posn := ((l.bytes.head?.bind (fun e => e.2.head?))).getD 0
    aux := if fill.isEmpty then at'.flatMap (fun p => p.getD gap) else []
    keep := if at'.all Option.isSome then [] else at'.map Option.isSome
    data := if fill.isEmpty then [] else at'.map (fun p => fill.getD ((p.getD gap).headD 0 % fill.length) 0)
    lane := lane
    cnt := l.cnt }

/-- An element off its alignment goes alone: it holds (R122). -/
def WElem.alone (x : WElem) (sp : Space) (lane : Nat) (fill : List Byte) : Elt :=
  { space := sp, addr := x.addr, n := x.src.length, posn := (x.src.head?.bind List.head?).getD 0,
    aux := if fill.isEmpty then x.src.flatten else [], data := fill, lane := lane, cnt := x.src.length }

/-- What a copy writes, a line of 256 bytes at a time; each is a burst of R126, numbered by its lane. All elements of a line make one burst,
whether they touch or not, and its one subtraction counts every index vector that falls in the line, so where they overlap n may
exceed 256: R126 says that writes go in bursts and not how (DESIGN CHOICE, log 18). -/
def CopyDesc.writes (d : CopyDesc) (sp : Space) (exts last : List Nat) (fill : List Byte) : List Elt :=
  let ws := d.welems sp exts last
  let lines : SMap WLine := (ws.filter (fun x => x.addr % d.size == 0)).foldl (fun m x => upd {} (x.addr / 256) (WLine.add x) m) []
  let odd := ws.filter (fun x => x.addr % d.size != 0)
  (lines.zipIdx).map (fun e => e.1.2.elt sp e.1.1 e.2 (d.esz = 0) fill)
    ++ (odd.zipIdx).map (fun e => e.1.alone sp (lines.length + e.2) fill)

/-- A fill's element from its pattern (R123). -/
def CopyDesc.pattern (d : CopyDesc) : List Byte :=
  if d.esz = 0 then [BitVec.ofNat 8 (d.src % 16 * 17)] else leBytes d.size d.src

/-! ### Spaces -/

/-- Typed buffers that SSP and DSP name, with their tile (R119). -/
def CopyDesc.srcSpace (d : CopyDesc) (r : Res) : Space :=
  if d.ssp = 1 then .scr else if d.ssp = 4 then .buf (resTile r d.sqx d.sqy d.stl) 2 else .virt

def CopyDesc.dstSpace (d : CopyDesc) (r : Res) : Space :=
  if d.dsp = 1 then .scr
  else if d.dsp = 2 then .buf (resTile r d.dqx d.dqy d.dtl) 0
  else if d.dsp = 3 then .buf (resTile r d.dqx d.dqy d.dtl) 1
  else .virt

/-! ### Checks (R128) -/

/-- Bytes of a space, for the extremes. -/
def spaceSize (r : Res) : Space → Nat
  | .virt => 2 ^ 64
  | .scr => r.scrSize
  | .buf _ b => bufSize b

/-- Lowest and highest byte offsets a side reaches, per dimension from the sign of its stride; `none` when it reaches
none. Coordinates outside a halo's window are not read and do not count (R128 leaves it open; DESIGN CHOICE, log 18). -/
def CopyDesc.span (d : CopyDesc) (src : Bool) (dims : List Dim) : Option (Int × Int) :=
  let part (e : Dim × Nat) : Option (Int × Int) :=
    let (m, k) := e
    let lo : Int := if src && d.halo then (if m.hoff < 0 then 0 else m.hoff) else 0
    let hi : Int := if src && d.halo then (if m.hoff + m.ext < m.hval then m.hoff + m.ext else m.hval) else m.ext
    if hi ≤ lo then none
    else if d.esz = 0 && k = 0 then some (lo / 2, (hi - 1) / 2)
    else
      let st := if src then m.sstr else m.dstr
      let a := lo * st
      let b := (hi - 1) * st
      some (if a ≤ b then (a, b) else (b, a))
  let dims := if !src && d.trn then (match dims with
    | a :: b :: r => { a with ext := b.ext } :: { b with ext := a.ext } :: r
    | l => l) else dims
  (dims.zipIdx).foldl (fun acc e => match acc, part e with
    | some (l, h), some (a, b) => some (l + a, h + b)
    | _, _ => none) (some (0, 0))

/-- Whether a side leaves its space, or lies off its alignment in a typed buffer. -/
def CopyDesc.sideBad (d : CopyDesc) (r : Res) (src : Bool) (extra : Nat) (dims : List Dim) : Bool :=
  let sp := if src then d.srcSpace r else d.dstSpace r
  let base := if src then d.src else d.dst
  match sp with
  | .virt => false
  | _ => match d.span src dims with
    | none => false
    | some (l, h) =>
      decide ((base : Int) + l < 0) || decide ((base : Int) + h + d.size + extra > spaceSize r sp)
        || (match sp with
          | .buf _ _ => decide (d.esz ≥ 1) && (base % d.size != 0
              || dims.any (fun m => (if src then m.sstr else m.dstr) % (d.size : Int) != 0))
          | _ => false)

/-- Arrival and flag words (R119, R127, R128): a flag VA off its alignment holds only when it is written (R127). -/
def arrivalBad (r : Res) (w3 : Nat) : Bool :=
  decide (w3 ≥ 2 ^ 32) || w3 % 8 != 0 || decide (w3 + 8 > r.scrSize)

def flagBad (r : Res) (w4 : Nat) : Bool :=
  if bit w4 63 then bits w4 56 7 != 0
  else decide (w4 ≥ 2 ^ 32) || w4 % 8 != 0 || decide (w4 + 8 > r.scrSize)

/-- The failing word of a message's descriptor, or none (R128). `kind`: 0 copy, 1 fill, 2 stream, to whose tiles together R126's limit
applies (DESIGN CHOICE, log 18). -/
def descBad (r : Res) (mt : Nat) (m : Msg) (kind : Nat) : Option Nat :=
  let d := copyDesc m.body
  let qx := relX r mt
  let qy := relY r mt
  let rows := d.dims
  if m.past then some (m.body.length)
  else if d.ndim = 0 || decide (d.ndim > 9) || m.body.length ≠ 6 + 2 * d.ndim || (kind = 2 && d.ndim < 2) then some 0
  else if d.rsv ≠ 0 || (kind ≠ 2 && d.snum ≠ 0) || !(d.ssp == 0 || d.ssp == 1 || d.ssp == 4) || decide (d.dsp > 3)
      || (kind = 1 && (d.ssp ≠ 0 || d.halo || d.trn)) || d.dtl = 3 || d.stl = 3
      || decide (d.dqx ≥ r.desc.w) || decide (d.sqx ≥ r.desc.w) || decide (d.dqy ≥ r.desc.h) || decide (d.sqy ≥ r.desc.h)
      || (decide (d.dsp ≥ 2) && (d.dqx ≠ qx || d.dqy ≠ qy)) || (d.ssp = 4 && (d.sqx ≠ qx || d.sqy ≠ qy))
      || (d.trn && (decide (d.ndim < 2) || decide (d.dsp < 2) || d.esz = 0)) then some 0
  else if kind = 1 && rows.any (fun x => x.sstr != 0) then ((rows.findIdx? (fun x => x.sstr != 0)).map (fun k => 6 + 2 * k))
  else if d.esz = 0 && ((rows.head?).map (fun x => x.sstr != 0 || x.dstr != 0)).getD false then some 6
  else if d.esz = 0 && ((rows.head?).map (fun x => x.ext % 2 != 0)).getD false then some 7
  else if m.arv && (arrivalBad r d.w3 || decide (d.declared > 2 ^ 30 - 1)) then some 3
  else if m.flg && flagBad r d.w4 then some 4
  else if kind = 2 && (bits d.w5 48 16 = 0 || bits d.w5 32 16 ≠ 0 || bits d.w5 0 32 % 16 ≠ 0) then some 5
  else if kind ≠ 1 && d.sideBad r true 0 rows then some 1
  else
    let ring := if kind = 2 then (bits d.w5 48 16 - 1) * bits d.w5 0 32 else 0
    let drows := if kind = 2 then (rows.zipIdx).map (fun e => if e.2 + 1 = d.ndim then { e.1 with dstr := 0 } else e.1) else rows
    if d.sideBad r false ring drows then some 2 else none

end Sys2Proof.Machine
end

