-- ==== Sys2Proof/Machine/Engine.lean ====
section
/-! DEFINITION. The instructions that send active messages, and SBW (R114 to R118, R138 to R141, R295 to R298, R309 to
R311, R316 to R319, R322, R405, R406). The messages are taken by the steps of CopyEngine, Combine, Syntax and Snapshot. -/

namespace Sys2Proof.Machine

/-! ### Descriptors in the A buffer (R118) -/

/-- Words from byte `o` of A, as far as they lie in the buffer. -/
def descWords (a : Memory) (o n : Nat) : List W64 := readWords a o (min n ((0x18000 - o) / 8))

/-- Words 1 and 2 adjusted from the L payload. -/
def adjustDesc (lpay : List Byte) (ws : List W64) : List W64 :=
  let ws := ws.set 1 (ws.getD 1 0 + BitVec.ofNat 64 (natAt lpay 0 8))
  if lpay.length ≥ 16 then ws.set 2 (ws.getD 2 0 + BitVec.ofNat 64 (natAt lpay 8 8)) else ws

/-- A message whose body is `n` words from byte `o`. -/
def Msg.withBody (m : Msg) (amop : Nat) (a : Memory) (o n : Nat) (adj : Bool) : Msg :=
  let ws := descWords a o n
  { m with
    amop := amop
    body := if adj then adjustDesc m.lpay ws else ws
    past := decide (ws.length < n) }

/-- The first word at byte `o`, or 0 beyond the buffer. -/
def firstWord (a : Memory) (o : Nat) : Nat := ((descWords a o 1).getD 0 0).toNat

/-- Read an engine instruction's descriptor, whose length its first word gives (R119, R123, R132, R139, R296, R317, R406).
A SEND header with another AMOP than COPY or FILL, or with another bit set, gives AMOP 0, which the engine refuses. -/
def loadDesc (i : Instr) (a : Memory) (m : Msg) : Msg :=
  let o := m.dsc
  let w := firstWord a o
  match i with
  | .send _ _ =>
    let op := bits w 56 8
    let ok := (op == 1 || op == 5) && w == op * 2 ^ 56 + bits w 38 6 * 2 ^ 38
    m.withBody (if ok then op else 0) a (o + 8) (bits w 38 6) true
  | .cpy _ _ => m.withBody 1 a o (6 + 2 * bits w 60 4) true
  | .cpys _ _ => m.withBody 2 a o (6 + 2 * bits w 60 4) true
  | .cmbc _ _ => m.withBody 0x10 a o 2 false
  | .syno _ _ => m.withBody 0x20 a o 8 true
  | .snap _ _ => m.withBody 0x30 a o (4 + 2 * (bits w 59 5 + 1)) true
  | _ => m

/-- Words of an instruction's descriptor in A, the first included (R118). -/
def descLen (i : Instr) (a : Memory) (o : Nat) : Nat :=
  let w := firstWord a o
  match i with
  | .send _ _ => 1 + bits w 38 6
  | .cpy _ _ | .cpys _ _ => 6 + 2 * bits w 60 4
  | .cmbc _ _ => 2
  | .syno _ _ => 8
  | .snap _ _ => 4 + 2 * (bits w 59 5 + 1)
  | _ => 0

/-! ### Sending (R116) -/

/-- A message of a slot of tile k. -/
def Msg.fromTile (k : Nat) (m : Msg) : Bool := match m.src with | .slot k' _ => k' == k | .core _ _ => false

/-- Messages that occupy outgoing buffers of tile k: those beyond the 16 entries of an inbox, the 8 of the snapshot queue,
the 64 of the Dispatcher's request queue or of a core's take queue. -/
def outgoing (s : State) (k : Nat) : Nat :=
  let inMts := (s.mts.map (fun e => ((e.2.inbox.drop 16).filter (Msg.fromTile k)).length
    + ((e.2.cin.drop 16).filter (Msg.fromTile k)).length)).sum
  let inSnap := ((s.snapq.drop 8).filter (Msg.fromTile k)).length
  let inDsp := ((s.dsp.launchq.drop 64).filter (fun l => match l.src with | .msg m => Msg.fromTile k m | _ => false)).length
  let inCores := (s.cores.map (fun e => ((e.2.takeq.drop 64).filter (fun t => match get? t.handle s.svcs with
    | some v => Msg.fromTile k v.msg
    | none => false)).length)).sum
  inMts + inSnap + inDsp + inCores

/-- Where a message goes. -/
inductive Dest where
  | engine (mt : Nat)
  | combine (mt : Nat)
  | syn (key : Nat)
  | snapshot
  deriving DecidableEq, Repr, Inhabited

/-- A message joins its unit's queue. -/
def State.deliver (s : State) (d : Dest) (m : Msg) : State := match d with
  | .engine mt => s.modMt mt (fun t => { t with inbox := t.inbox ++ [m] })
  | .combine mt => s.modMt mt (fun t => { t with cin := t.cin ++ [m] })
  | .syn key => { s with syns := upd {} key (fun y => { y with queue := y.queue ++ [m] }) s.syns }
  | .snapshot => { s with snapq := s.snapq ++ [m] }

/-- Where a sender's message sequence stands (R114): a tile's by its key, a core's beyond them. -/
def From.sender : From → Nat
  | .slot k _ => k
  | .core c _ => 2048 + c

/-- The message takes its sender's next sequence number, of 32 bits. -/
def State.numbered (s : State) (m : Msg) : Msg × State :=
  let n := getD 0 m.src.sender s.mseqs
  ({ m with mseq := n }, { s with mseqs := put m.src.sender ((n + 1) % 2 ^ 32) s.mseqs })

/-- The message a firing composes; the pointstamp stays at L until its completion (R324). -/
def Ctx.msg (c : Ctx) (i : Instr) (h : Hd) (id : Nat) : Msg :=
  { id := id, amop := 0, h := c.h, asid := c.r.asid, src := .slot c.key c.slot, time := c.time, pipe := pipeOf i,
    seq := c.a.seqOf (pipeOf i), t0 := h.t0, t1 := h.t1, lpay := c.l.data,
    loc := c.a.loc (posEdge c.slot .l) }

/-- Consume what matched and send a message, when an outgoing buffer is free (R116). -/
def Ctx.post (c : Ctx) (i : Instr) (h : Hd) (d : Dest) (f : Msg → Msg) (s : State) : FireRes :=
  if outgoing s c.key ≥ 4 then .idle
  else
    let (m, s) := s.numbered (f (c.msg i h s.nextId))
    let s := { s with nextId := s.nextId + 1 }
    .fired (c.toks.map (·.1)) [] (postAt c.a (posEdge c.slot .l) c.time 1)
      ((s.modAt c.key (fun a => a.perf 12 1)).deliver d m)

/-- Consume what matched and send the message of the descriptor at byte 8·DSC of A, read through A's read port after the nodes (R118,
R143); a bad word of it holds (R397). -/
def Ctx.postDesc (c : Ctx) (i : Instr) (h : Hd) (x : EngX) (d : Memory → Dest) (f : Msg → Msg) (s : State) : FireRes :=
  let o := 8 * x.dsc.toNat
  let m := c.descRead o s
  if outgoing s c.key ≥ 4 || !pipeTurn s c.key then .idle
  else match c.badWord (8 * descLen i m o) s with
    | some e => c.holdWord i 1 o e s
    | none => c.post i h (d m) (fun g => loadDesc i m (f g)) ((clearSubst c s).modAt c.key (fun a => a.usePort s.cycle 2 256))

/-- The MT that EQX and EQY name. -/
def engineOf (c : Ctx) (x : EngX) : Nat := resTile c.r x.eqx.toNat x.eqy.toNat 3

/-- Fields of the message that the word gives (R114). -/
def engFields (x : EngX) (m : Msg) : Msg :=
  { m with sb := x.sb.toNat, arv := x.arv, flg := x.flg, bc := x.bc, dsc := 8 * x.dsc.toNat }

/-! ### The copy instructions (R139 to R141) -/

/-- R139: composes the message of a SEND descriptor. -/
def execSend (h : Hd) (x : EngX) (s : State) : Result :=
  fire (.send h x) (fun c s =>
    c.postDesc (.send h x) h x (fun _ => .engine (engineOf c x)) (engFields x) s) s

/-- R139: composes a COPY. -/
def execCpy (h : Hd) (x : EngX) (s : State) : Result :=
  fire (.cpy h x) (fun c s =>
    c.postDesc (.cpy h x) h x (fun _ => .engine (engineOf c x)) (engFields x) s) s

/-- R139: composes an SOPEN. -/
def execCpys (h : Hd) (x : EngX) (s : State) : Result :=
  fire (.cpys h x) (fun c s =>
    c.postDesc (.cpys h x) h x (fun _ => .engine (engineOf c x)) (engFields x) s) s

/-- R140: COUNT freed slots of stream SNUM. -/
def execCpyf (h : Hd) (x : EngX) (s : State) : Result :=
  fire (.cpyf h x) (fun c s =>
    c.post (.cpyf h x) h (.engine (engineOf c x)) (fun m =>
      { m with amop := 3, snum := natAt c.l.data 0 8 % 16, count := bits (natAt c.l.data 0 8) 16 16 }) s) s

/-- R140: closes stream SNUM. -/
def execCpyc (h : Hd) (x : EngX) (s : State) : Result :=
  fire (.cpyc h x) (fun c s =>
    c.post (.cpyc h x) h (.engine (engineOf c x)) (fun m => { m with amop := 4, snum := natAt c.l.data 0 8 % 16 }) s) s

/-- R141: passes L once every scoreboard of the mask reads 0. -/
def execSbw (h : Hd) (x : EngX) (s : State) : Result :=
  fire (.sbw h x) (fun c s =>
    if (upto 8).any (fun k => bit x.dsc.toNat k && getD 0 k c.a.sb != 0) then .idle else c.send (both h c.l.to) s) s

/-! ### Snapshot (R405, R406) -/

/-- R406: sends a snapshot descriptor to the package snapshot controller. -/
def execSnap (h : Hd) (x : EngX) (s : State) : Result :=
  fire (.snap h x) (fun c s =>
    c.postDesc (.snap h x) h x (fun _ => .snapshot) (engFields x) s) s

/-! ### The combine buffer (R316 to R319, R322) -/

/-- R317: sends a configuration. -/
def execCmbc (h : Hd) (x : EngX) (s : State) : Result :=
  fire (.cmbc h x) (fun c s =>
    c.postDesc (.cmbc h x) h x (fun _ => .combine (engineOf c x)) (engFields x) s) s

/-- R318: sends an allocation request; `count` carries MD, `snum` the SH code. -/
def execCmba (h : Hd) (x : EngX) (s : State) : Result :=
  fire (.cmba h x) (fun c s =>
    c.post (.cmba h x) h (.combine (engineOf c x)) (fun m =>
      { m with amop := 0x11, count := h.md.toNat, snum := h.sh.code.toNat }) s) s

/-- R319: sends one chunk; `count` carries MD. -/
def execCmbi (h : Hd) (x : EngX) (s : State) : Result :=
  fire (.cmbi h x) (fun c s =>
    c.post (.cmbi h x) h (.combine (engineOf c x)) (fun m =>
      { m with amop := 0x12, count := h.md.toNat, rpay := c.rt.data }) s) s

/-- R322: sends credit, or a marker with its rank in `snum`; the slot sends nothing itself. -/
def execCmbr (h : Hd) (x : EngX) (s : State) : Result :=
  fireOwn (.cmbr h x) (fun c s =>
    c.post (.cmbr h x) h (.combine (engineOf c x)) (fun m => { m with amop := 0x13, snum := c.l.rank }) s) s

/-! ### Coded video (R297, R298, R309 to R311) -/

/-- R297: opens a stream; the binding is the descriptor's. -/
def execSyno (h : Hd) (x : EngX) (s : State) : Result :=
  fire (.syno h x) (fun c s =>
    c.postDesc (.syno h x) h x (fun m => .syn (synKey c.h (bits (firstWord m (8 * x.dsc.toNat)) 59 5))) (engFields x) s) s

/-- R298: queries, frees or closes stream σ of binding BIND. -/
def execSynq (h : Hd) (x : EngX) (s : State) : Result :=
  fire (.synq h x) (fun c s =>
    let v := natAt c.l.data 0 8
    c.post (.synq h x) h (.syn (synKey c.h (bits v 32 5)))
      (fun m => { m with amop := 0x21 + h.md.toNat, snum := v % 2 ^ 32, count := bits v 48 16 }) s) s

/-- Whether a CDMC or CDIP of the tile is generating (R311). -/
def generating (s : State) (k : Nat) : Bool :=
  let mine (m : Msg) : Bool := m.amop == 6 && m.fromTile k
  s.mts.any (fun e => e.2.inbox.any mine || e.2.asideC.any mine || e.2.cctx.any (fun c => mine c.2.msg))
    || s.held.any (fun e => mine e.2.msg)

/-- R311: sends MGEN to the engine of the tile's own quad. -/
def sendGen (i : Instr) (h : Hd) (s : State) : Result :=
  fire i (fun c s =>
    if generating s c.key then .idle
    else c.post i h (.engine (c.key / 4 * 4 + 3)) (fun m =>
      { m with
        amop := 6
        body := [(encodeWord i).getD 0, BitVec.ofNat 64 (natAt c.l.data 0 8), BitVec.ofNat 64 (keyT c.key), 0] }) s) s

/-- R309: generates a motion-compensation matrix. -/
def execCdmc (h : Hd) (x : VidX) (s : State) : Result := sendGen (.cdmc h x) h s

/-- R310: generates part of an intra-prediction matrix. -/
def execCdip (h : Hd) (x : VidX) (s : State) : Result := sendGen (.cdip h x) h s

end Sys2Proof.Machine
end

