-- ==== Sys2Proof/Machine/Trans.lean ====
section
/-! DEFINITION. The transcendental float functions by enclosures (R230; log 9): the exact value is bounded from both
sides in fixed point with 800 fractional bits and both bounds are rounded; where the two roundings differ, which the
width of the enclosure does not let happen for arguments of these formats, the result is a free value of Config. -/

namespace Sys2Proof.Machine

/-- Fixed point: a number v stands for v · 2^-800. -/
def fxP : Nat := 800
def fxOne : Nat := 2 ^ 800

/-- π, ln 2 and 2/√π, cut at 800 fractional bits: each constant lies in [c, c + 1]. -/
def fxPi : Nat := 0x3243F6A8885A308D313198A2E03707344A4093822299F31D0082EFA98EC4E6C89452821E638D01377BE5466CF34E90C6CC0AC29B7C97C50DD3F84D5B5B54709179216D5D98979FB1BD1310BA698DFB5AC2FFD72DBD01ADFB7B8E1AFED6A267E96BA7C9045
def fxLn2 : Nat := 0xB17217F7D1CF79ABC9E3B39803F2F6AF40F343267298B62D8A0D175B8BAAFA2BE7B876206DEBAC98559552FB4AFA1B10ED2EAE35C138214427573B291169B8253E96CA16224AE8C51ACBDA11317C387EB9EA9BC3B136603B256FA0EC7657F74B72CE87B1
def fxErfC : Nat := 0x120DD750429B6D11AE3A914FED7FD8688281341D7587CEA2E7342B06199CC416180EB39F0B24E1E2281806C12D98F35D77A3E9DDC91C394F0E9EEDF0EFFFD84A2A4AC3B98489B8CBD3845E8FEF6FF6AF92A45E5F27C2D6547A4F46505B5B4E62DD73FD648

/-- An enclosure: the exact value lies in [lo, hi]. -/
structure Encl where
  lo : Int
  hi : Int
  deriving DecidableEq, Repr, Inhabited

/-- Floor and ceiling of x · y · 2^-800. -/
def fxMulLo (x y : Int) : Int := x * y / (fxOne : Int)
def fxMulHi (x y : Int) : Int := -((-(x * y)) / (fxOne : Int))

/-- Terms of the series of exp at x in [0, 1], with i counting up: sum of the terms cut down. Each term loses less than 2
units, so the true sum of `n` terms lies within 2n units above. -/
def expTerms (x : Nat) : Nat → Nat → Nat → Nat → Nat
  | 0, _, _, acc => acc
  | n + 1, i, t, acc => let t' := t * x / fxOne / i; expTerms x n (i + 1) t' (acc + t')

/-- exp on [0, 1] from the argument's enclosure: 180 terms leave a remainder below one unit. -/
def expEncl (x : Encl) : Encl :=
  ⟨expTerms x.lo.toNat 180 1 fxOne fxOne, (expTerms x.hi.toNat 180 1 fxOne fxOne : Int) + 1000⟩

/-- Alternating series of sin (first = 1) or cos (first = 0): sum over terms x^k/k! with signs; each cut term is off by
less than 2 units. -/
def altTerms (x2 : Nat) : Nat → Nat → Nat → Bool → Int → Int
  | 0, _, _, _, acc => acc
  | n + 1, k, t, sg, acc =>
    let t' := t * x2 / fxOne / (k * (k + 1))
    altTerms x2 n (k + 2) t' (!sg) (if sg then acc - t' else acc + t')

/-- sin and cos of x in [0, 2]: 120 terms; error of the sums below 2^20 units, the argument's width added. -/
def sinEncl (x : Encl) : Encl :=
  let v := altTerms (x.lo.toNat * x.lo.toNat / fxOne) 120 2 x.lo.toNat true x.lo
  let w := x.hi - x.lo
  ⟨v - 2 ^ 20 - w, v + 2 ^ 20 + w⟩

def cosEncl (x : Encl) : Encl :=
  let v := altTerms (x.lo.toNat * x.lo.toNat / fxOne) 120 1 fxOne true fxOne
  let w := x.hi - x.lo
  ⟨v - 2 ^ 20 - w, v + 2 ^ 20 + w⟩

/-- m · 2^e in fixed point, cut down; exact for e ≥ -800. -/
def fxOf (m : Nat) (e : Int) : Nat := if e ≥ -800 then m * 2 ^ (e + 800).toNat else m / 2 ^ (-(e + 800)).toNat

/-- Whether m · 2^e is a power of two, and its exponent. -/
def pow2? (m : Nat) (e : Int) : Option Int :=
  if m = 2 ^ (bigLen m - 1) then some (e + (bigLen m : Int) - 1) else none

/-- An enclosure with its scale: the value is x · 2^(exp - 800), neg its sign; `none`: undecidable here. -/
structure Approx where
  neg : Bool
  enc : Encl
  exp : Int
  deriving DecidableEq, Repr, Inhabited

/-- Round both ends; a value strictly inside. `none` when they differ. -/
def Approx.round (f : Fmt) (mode : Nat) (sat : Bool) (a : Approx) : Option (Nat × StEvent) :=
  if a.enc.lo ≤ 0 || a.enc.hi ≤ a.enc.lo then none
  else
    let x := roundMag f mode sat a.neg a.enc.lo.toNat (a.exp - 800) true
    let y := roundMag f mode sat a.neg (a.enc.hi.toNat - 1) (a.exp - 800) true
    if x = y then some x else none

/-- A value just below 1: for tanh and erf far out. -/
def nearOne (neg : Bool) : Approx := ⟨neg, ⟨fxOne - 2 ^ 760, fxOne - 1⟩, 0⟩

/-- 2^x of (-1)^neg · m · 2^e that is not an integer and below 2000 in magnitude. -/
def exp2Approx (neg : Bool) (m : Nat) (e : Int) : Approx :=
  let x : Int := if neg then -(fxOf m e : Int) else fxOf m e
  let n := x / (fxOne : Int)
  let fr := x - n * fxOne
  ⟨false, expEncl ⟨fxMulLo fr fxLn2, fxMulHi (fr + 1) (fxLn2 + 1)⟩, n⟩

/-- ln of y in [1, 2) by 2·atanh((y-1)/(y+1)): terms z^(2k+1)/(2k+1), each cut down. -/
def atanhTerms (z2 : Nat) : Nat → Nat → Nat → Nat → Nat
  | 0, _, _, acc => acc
  | n + 1, k, t, acc => let t' := t * z2 / fxOne; atanhTerms z2 n (k + 2) t' (acc + t' / k)

/-- log2 of m · 2^e, not a power of two. -/
def log2Approx (m : Nat) (e : Int) : Approx :=
  let l := bigLen m - 1
  let y := fxOf m (-(l : Int))
  let z := (y - fxOne) * fxOne / (y + fxOne)
  let lnLo : Int := 2 * atanhTerms (z * z / fxOne) 270 3 z z
  let lnHi : Int := lnLo + 4000
  let fLo := lnLo * fxOne / ((fxLn2 : Int) + 1)
  let fHi := lnHi * fxOne / (fxLn2 : Int) + 1
  let k := e + (l : Int)
  let lo := k * fxOne + fLo
  let hi := k * fxOne + fHi
  if hi ≤ 0 then ⟨true, ⟨-hi, -lo⟩, 0⟩ else ⟨false, ⟨lo, hi⟩, 0⟩

/-- sin (odd quadrant offset 0) or cos (1) of (-1)^neg · m · 2^e, m not 0. -/
def trigApprox (off : Nat) (neg : Bool) (m : Nat) (e : Int) : Approx :=
  let x := fxOf m e
  let half := fxPi / 2
  let k := x / half
  -- k halves of π lie in [k·(fxPi/2), k·(fxPi+1)/2 + k]
  let r : Encl := ⟨x - k * (half + 1), x - k * half + 1⟩
  let q := (k + off) % 4
  let body := if q % 2 = 0 then sinEncl ⟨if r.lo < 0 then 0 else r.lo, r.hi⟩ else cosEncl ⟨if r.lo < 0 then 0 else r.lo, r.hi⟩
  let v : Encl := if r.lo < 0 && q % 2 = 0 then ⟨-1, body.hi⟩ else body
  ⟨(decide (q ≥ 2)) != (off == 0 && neg), v, 0⟩

/-- exp(-y) for y ≥ 0 in fixed point, y below 2^7. -/
def expNeg (y : Encl) : Encl :=
  let n := y.hi / (fxLn2 : Int) + 1
  let r : Encl := ⟨n * fxLn2 - y.hi, n * ((fxLn2 : Int) + 1) - y.lo⟩
  let x := expEncl r
  ⟨x.lo / 2 ^ n.toNat, x.hi / 2 ^ n.toNat + 1⟩

/-- tanh of m · 2^e, m not 0, below 20. -/
def tanhApprox (neg : Bool) (m : Nat) (e : Int) : Approx :=
  let x := fxOf m e
  let g := expNeg ⟨2 * x, 2 * x + 1⟩
  let lo := (fxOne - g.hi) * fxOne / (fxOne + g.hi)
  let hi := (fxOne - g.lo) * fxOne / (fxOne + g.lo) + 1
  ⟨neg, ⟨lo, hi⟩, 0⟩

/-- Terms of the series of erf: x^(2n+1)/(n!(2n+1)) with signs. -/
def erfTerms (x2 : Nat) : Nat → Nat → Nat → Bool → Int → Int
  | 0, _, _, _, acc => acc
  | n + 1, k, t, sg, acc =>
    let t' := t * x2 / fxOne / k
    let u := t' / (2 * k + 1)
    erfTerms x2 n (k + 1) t' (!sg) (if sg then acc - u else acc + u)

/-- erf of m · 2^e, m not 0, below 5: 320 terms; the cut terms amount to less than 2^50 units. -/
def erfApprox (neg : Bool) (m : Nat) (e : Int) : Approx :=
  let x := fxOf m e
  let v := erfTerms (x * x / fxOne) 320 1 x true x
  let lo := fxMulLo (v - 2 ^ 50) fxErfC
  let hi := fxMulHi (v + 2 ^ 50) (fxErfC + 1)
  ⟨neg, ⟨lo, hi⟩, 0⟩

/-- |m · 2^e| ≥ n. -/
def atLeast (m : Nat) (e : Int) (n : Nat) : Bool := decide (e + (bigLen m : Int) - 1 > 40) || decide (fxOf m e ≥ n * fxOne)

end Sys2Proof.Machine
end

