-- ==== Sys2Proof/Machine/FloatOps.lean ====
section
/-! DEFINITION. The float instructions (R229 to R232). -/

namespace Sys2Proof.Machine

def Hd.mode (h : Hd) : Nat := h.md.toNat % 4
def Hd.sat (h : Hd) : Bool := bit h.md.toNat 2

/-- Round a value to SH by the word's mode and saturate bit. An exactly infinite result of an operation saturates as an overflow does: R206's
table gives the overflow and the conversion of an infinity alone (DESIGN CHOICE, log 14). -/
def enc (h : Hd) (v : FVal) : Nat := (encodeF (fmtOf h.sh) (Hd.mode h) (Hd.sat h) v).1

/-- The value of an element of SH. -/
def val (h : Hd) (a : Nat) : FVal := decodeF (fmtOf h.sh) a

def fadd (h : Hd) (a b : Nat) : Nat := enc h (addV (Hd.mode h) (val h a) (val h b))
def fsub (h : Hd) (a b : Nat) : Nat := enc h (addV (Hd.mode h) (val h a) (val h b).neg)
def fmul (h : Hd) (a b : Nat) : Nat := enc h (mulV (val h a) (val h b))
def ffma (h : Hd) (a b c : Nat) : Nat := enc h (addV (Hd.mode h) (mulV (val h a) (val h b)) (val h c))
def fmin (h : Hd) (a b : Nat) : Nat := enc h (minV (val h a) (val h b))
def fmax (h : Hd) (a b : Nat) : Nat := enc h (maxV (val h a) (val h b))

/-- FABS and FNEG change only the sign bit of a value that is not NaN (R230). -/
def fabs (h : Hd) (a : Nat) : Nat :=
  if (val h a).isNan then enc h .nan else a % 2 ^ (h.sh.nbits - 1)

def fneg (h : Hd) (a : Nat) : Nat :=
  if (val h a).isNan then enc h .nan
  else if bit a (h.sh.nbits - 1) then a % 2 ^ (h.sh.nbits - 1) else a + 2 ^ (h.sh.nbits - 1)

/-- A condition of FCMP (R26, R232): `eq` `ne` `lt` `le` `gt` `ge` `un`. -/
def fcond (cc : Nat) (a b : FVal) : Bool :=
  if a.isNan || b.isNan then cc == 1 || cc == 6
  else match cc with
    | 0 => !ltV a b && !ltV b a
    | 1 => ltV a b || ltV b a
    | 2 => ltV a b
    | 3 => !ltV b a
    | 4 => ltV b a
    | 5 => !ltV a b
    | _ => false

def fcmp (h : Hd) (a b : Nat) : Nat := if fcond (h.md.toNat % 8) (val h a) (val h b) then 1 else 0

/-- Whole part of the square root of a number below 4^n. -/
def isqrt : Nat → Nat → Nat
  | 0, _ => 0
  | n + 1, v =>
    let r := 2 * isqrt n (v / 4)
    if (r + 1) * (r + 1) ≤ v then r + 1 else r

/-- 1/a, rounded once. -/
def frcp (h : Hd) (a : Nat) : Nat :=
  match val h a with
  | .nan => enc h .nan
  | .inf s => enc h (.fin s 0 0)
  | .fin s m e =>
    if m = 0 then enc h (.inf s)
    else
      let k := bigLen m + 40
      (roundMag (fmtOf h.sh) (Hd.mode h) (Hd.sat h) s (2 ^ k / m) (-(k : Int) - e) (2 ^ k % m != 0)).1

/-- m · 2^e with an even exponent. -/
def evenExp (m : Nat) (e : Int) : Nat × Int := if e % 2 = 0 then (m, e) else (2 * m, e - 1)

/-- 1/√a, rounded once. -/
def frsq (h : Hd) (a : Nat) : Nat :=
  match val h a with
  | .nan => enc h .nan
  | .inf s => if s then enc h .nan else enc h (.fin false 0 0)
  | .fin s m e =>
    if m = 0 then enc h (.inf s)
    else if s then enc h .nan
    else
      let (m, e) := evenExp m e
      let k := bigLen m + 40
      let x := 2 ^ (2 * k) / m
      let r := isqrt (k + 1) x
      (roundMag (fmtOf h.sh) (Hd.mode h) (Hd.sat h) false r (-(k : Int) - e / 2) (m * (r * r) != 2 ^ (2 * k))).1

/-- √a, rounded once. -/
def fsqrt (h : Hd) (a : Nat) : Nat :=
  match val h a with
  | .nan => enc h .nan
  | .inf s => if s then enc h .nan else enc h (.inf false)
  | .fin s m e =>
    if m = 0 then enc h (.fin s 0 0)
    else if s then enc h .nan
    else
      let (m, e) := evenExp m e
      let x := m * 2 ^ 80
      let r := isqrt (bigLen x) x
      (roundMag (fmtOf h.sh) (Hd.mode h) (Hd.sat h) false r (-40 + e / 2) (r * r != x)).1

/-- The rounded enclosure, or the free value of this instruction and argument (log 9). -/
def decided (h : Hd) (op a : Nat) (x : Approx) : Nat :=
  match x.round (fmtOf h.sh) (Hd.mode h) (Hd.sat h) with
  | some r => r.1
  | none => (Sys2Proof.Config.undecided op h.sh.code h.md a).toNat % 2 ^ h.sh.nbits

/-- 2^x of an exact argument as a value that rounds as it does: integers exactly, others by enclosure. -/
def exp2Bits (f : Fmt) (mode : Nat) (sat : Bool) (free : Nat) (x : FVal) : Nat :=
  match x with
  | .nan => (encodeF f mode sat .nan).1
  | .inf s => (encodeF f mode sat (if s then .fin false 0 0 else .inf false)).1
  | .fin s m e =>
    if m = 0 then (encodeF f mode sat (.fin false 1 0)).1
    else if atLeast m e 2000 then (roundMag f mode sat false 1 (if s then -2000 else 2000) false).1
    else if fxOf m e % fxOne = 0 then
      let n : Int := (fxOf m e / fxOne : Nat)
      (roundMag f mode sat false 1 (if s then -n else n) false).1
    else match (exp2Approx s m e).round f mode sat with
      | some r => r.1
      | none => free

def fexp2 (h : Hd) (a : Nat) : Nat :=
  exp2Bits (fmtOf h.sh) (Hd.mode h) (Hd.sat h)
    ((Sys2Proof.Config.undecided 0x4C h.sh.code h.md a).toNat % 2 ^ h.sh.nbits) (val h a)

def flog2 (h : Hd) (a : Nat) : Nat :=
  match val h a with
  | .nan => enc h .nan
  | .inf s => enc h (if s then .nan else .inf false)
  | .fin s m e =>
    if m = 0 then enc h (.inf true)
    else if s then enc h .nan
    else match pow2? m e with
      | some k => enc h (.fin (decide (k < 0)) k.natAbs 0)
      | none => decided h 0x4D a (log2Approx m e)

def fsin (h : Hd) (a : Nat) : Nat :=
  match val h a with
  | .fin s m e => if m = 0 then enc h (.fin s 0 0) else decided h 0x4E a (trigApprox 0 s m e)
  | _ => enc h .nan

def fcos (h : Hd) (a : Nat) : Nat :=
  match val h a with
  | .fin s m e => if m = 0 then enc h (.fin false 1 0) else decided h 0x4F a (trigApprox 1 s m e)
  | _ => enc h .nan

def ftanh (h : Hd) (a : Nat) : Nat :=
  match val h a with
  | .nan => enc h .nan
  | .inf s => enc h (.fin s 1 0)
  | .fin s m e => if m = 0 then enc h (.fin s 0 0)
      else decided h 0x50 a (if atLeast m e 20 then nearOne s else tanhApprox s m e)

def ferf (h : Hd) (a : Nat) : Nat :=
  match val h a with
  | .nan => enc h .nan
  | .inf s => enc h (.fin s 1 0)
  | .fin s m e => if m = 0 then enc h (.fin s 0 0)
      else decided h 0x51 a (if atLeast m e 5 then nearOne s else erfApprox s m e)

/-- a · 2^k; beyond ±1000 the result overflows or underflows as at ±1000 (R231). -/
def fscale (h : Hd) (a k : Nat) : Nat :=
  let k := intOf (if h.sh = .f32 then .s32 else .s16) k
  let k := if k > 1000 then 1000 else if k < -1000 then -1000 else k
  match val h a with
  | .fin s m e => enc h (.fin s m (e + k))
  | v => enc h v

/-- a rounded to an integral value by the mode (R231). -/
def frnd (h : Hd) (a : Nat) : Nat :=
  match val h a with
  | .fin s m e =>
    if e ≥ 0 then enc h (.fin s m e)
    else
      let (n, half) := cutAt m e 0 false
      enc h (.fin s (if roundsUp (Hd.mode h) s n half then n + 1 else n) 0)
  | v => enc h v

/-- Class mask (R232). -/
def fclass (h : Hd) (a : Nat) : Nat :=
  let f := fmtOf h.sh
  match decodeF f a with
  | .nan => 2 ^ 8
  | .inf s => if s then 2 ^ 0 else 2 ^ 7
  | .fin s m _ =>
    if m = 0 then (if s then 2 ^ 3 else 2 ^ 4)
    else if m < 2 ^ f.mb then (if s then 2 ^ 2 else 2 ^ 5)
    else if s then 2 ^ 1 else 2 ^ 6

/-- R229, R230: a + b, rounded once. -/
def execFadd (h : Hd) (imm : BitVec 30) (s : State) : Result := lanes2 (.fadd h imm) h imm h.sh (fadd h) s

/-- R229, R230: a - b, rounded once. -/
def execFsub (h : Hd) (imm : BitVec 30) (s : State) : Result := lanes2 (.fsub h imm) h imm h.sh (fsub h) s

/-- R229, R230: a · b, rounded once. -/
def execFmul (h : Hd) (imm : BitVec 30) (s : State) : Result := lanes2 (.fmul h imm) h imm h.sh (fmul h) s

/-- R229, R230: the smaller, rounded once. -/
def execFmin (h : Hd) (imm : BitVec 30) (s : State) : Result := lanes2 (.fmin h imm) h imm h.sh (fmin h) s

/-- R229, R230: the larger, rounded once. -/
def execFmax (h : Hd) (imm : BitVec 30) (s : State) : Result := lanes2 (.fmax h imm) h imm h.sh (fmax h) s

/-- R229, R230: a · b + c, rounded once. -/
def execFfma (h : Hd) (imm : BitVec 30) (s : State) : Result := lanes3 (.ffma h imm) h (ffma h) s

/-- R232: 1 or 0 per element, of the unsigned type of SH's width. -/
def execFcmp (h : Hd) (imm : BitVec 30) (s : State) : Result :=
  lanes2 (.fcmp h imm) h imm (unsignedOf h.sh) (fcmp h) s

/-- R229, R231: a · 2^k; an immediate k is IMM sign-extended by the s row of R27. -/
def execFscale (h : Hd) (imm : BitVec 30) (s : State) : Result :=
  fire (.fscale h imm) (fun c s =>
    let (a, k) := operands2 h (immElem (if h.sh = .f32 then .s32 else .s16) imm) c
    c.send (both h (dataOut h.sh c.time (packLanes h.sh.width (zip2 (fscale h) a k)))) s) s

/-- R232: the class mask, of the unsigned type of SH's width. -/
def execFclass (h : Hd) (imm : BitVec 30) (s : State) : Result :=
  lanes1 (.fclass h imm) h (unsignedOf h.sh) (fun _ => fclass h) s

/-- R229, R230: |a|, rounded once. -/
def execFabs (h : Hd) (imm : BitVec 30) (s : State) : Result := lanes1 (.fabs h imm) h h.sh (fun _ => fabs h) s

/-- R229, R230: -a, rounded once. -/
def execFneg (h : Hd) (imm : BitVec 30) (s : State) : Result := lanes1 (.fneg h imm) h h.sh (fun _ => fneg h) s

/-- R229, R230: 1/a, rounded once. -/
def execFrcp (h : Hd) (imm : BitVec 30) (s : State) : Result := lanes1 (.frcp h imm) h h.sh (fun _ => frcp h) s

/-- R229, R230: 1/√a, rounded once. -/
def execFrsq (h : Hd) (imm : BitVec 30) (s : State) : Result := lanes1 (.frsq h imm) h h.sh (fun _ => frsq h) s

/-- R229, R230: √a, rounded once. -/
def execFsqrt (h : Hd) (imm : BitVec 30) (s : State) : Result := lanes1 (.fsqrt h imm) h h.sh (fun _ => fsqrt h) s

/-- R229, R230: 2^a, rounded once. -/
def execFexp2 (h : Hd) (imm : BitVec 30) (s : State) : Result := lanes1 (.fexp2 h imm) h h.sh (fun _ => fexp2 h) s

/-- R229, R230: log2 a, rounded once. -/
def execFlog2 (h : Hd) (imm : BitVec 30) (s : State) : Result := lanes1 (.flog2 h imm) h h.sh (fun _ => flog2 h) s

/-- R229, R230: sin a, rounded once. -/
def execFsin (h : Hd) (imm : BitVec 30) (s : State) : Result := lanes1 (.fsin h imm) h h.sh (fun _ => fsin h) s

/-- R229, R230: cos a, rounded once. -/
def execFcos (h : Hd) (imm : BitVec 30) (s : State) : Result := lanes1 (.fcos h imm) h h.sh (fun _ => fcos h) s

/-- R229, R230: tanh a, rounded once. -/
def execFtanh (h : Hd) (imm : BitVec 30) (s : State) : Result := lanes1 (.ftanh h imm) h h.sh (fun _ => ftanh h) s

/-- R229, R230: erf a, rounded once. -/
def execFerf (h : Hd) (imm : BitVec 30) (s : State) : Result := lanes1 (.ferf h imm) h h.sh (fun _ => ferf h) s

/-- R229, R230: a rounded to an integral value, rounded once. -/
def execFrnd (h : Hd) (imm : BitVec 30) (s : State) : Result := lanes1 (.frnd h imm) h h.sh (fun _ => frnd h) s

end Sys2Proof.Machine
end

