-- ==== Sys2Proof/Machine/Matgen.lean ====
section
/-! DEFINITION. The numbers of generated matrices: elements of motion compensation and of intra prediction in exact arithmetic (R309,
R310). Filter taps, and the prediction of the standards that these rules name, are the standards' (PRESUMED, log 8). -/

namespace Sys2Proof.Machine

/-! ### Motion compensation (R309) -/

/-- An exact number in the field of the DCT's cosines: rational coefficients of cos(kπ/16), k from 0 to 7, over one
positive denominator. The eight cosines are independent over the rationals, so a number is 0 exactly when all
coefficients are. -/
structure Cos where
  num : List Int
  den : Nat
  deriving DecidableEq, Repr, Inhabited

/-- ± cos(kπ/16) as a coefficient vector. -/
def cosVec (k : Int) : List Int :=
  let j := (k % 32).toNat
  let j := if j > 16 then 32 - j else j
  let (i, sg) := if j > 8 then (16 - j, (-1 : Int)) else (j, 1)
  (upto 8).map (fun n => if n = i then sg else 0)

def vecAdd (a b : List Int) : List Int := List.zipWith (· + ·) a b
def vecScale (c : Int) (a : List Int) : List Int := a.map (c * ·)
def vecZero : List Int := List.replicate 8 0

/-- Twice the product of two coefficient vectors: 2·cos a·cos b = cos(a + b) + cos(a − b). -/
def vecMul2 (a b : List Int) : List Int :=
  (a.zipIdx).foldl (fun acc x => (b.zipIdx).foldl (fun acc y =>
    if x.1 = 0 || y.1 = 0 then acc
    else vecAdd acc (vecScale (x.1 * y.1)
      (vecAdd (cosVec ((x.2 : Int) + y.2)) (cosVec ((x.2 : Int) - y.2))))) acc) vecZero

/-- Twice the orthonormal DCT-II basis: 2·C(u, x) = cos(π/4) for u = 0, else cos((2x + 1)uπ/16). -/
def dct2 (u x : Nat) : List Int := if u = 0 then cosVec 4 else cosVec (((2 * x + 1) * u : Nat) : Int)

/-- Taps of the HEVC filters by phase in 1/16 sample (PRESUMED: ITU-T H.265, log 8): luma at quarter samples, chroma at eighths. -/
def hevcLumaTaps : SMap (List Int) :=
  [(4, [-1, 4, -10, 58, 17, -5, 1, 0]), (8, [-1, 4, -11, 40, 40, -11, 4, -1]), (12, [0, 1, -5, 17, 58, -10, 4, -1])]

def hevcChromaTaps : SMap (List Int) :=
  [(2, [-2, 58, 10, -2]), (4, [-4, 54, 16, -2]), (6, [-6, 46, 28, -4]), (8, [-4, 36, 36, -4]), (10, [-4, 28, 46, -6]),
   (12, [-2, 16, 54, -4]), (14, [-2, 10, 58, -2])]

/-- Taps of the AV1 filters at phases 1 to 8 (PRESUMED: the AV1 specification, log 8); those at 16 - p are those at p, mirrored. -/
def av1Regular : List (List Int) :=
  [[0, 2, -6, 126, 8, -2, 0, 0], [0, 2, -10, 122, 18, -4, 0, 0], [0, 2, -12, 116, 28, -8, 2, 0], [0, 2, -14, 110, 38, -10, 2, 0],
   [0, 2, -14, 102, 48, -12, 2, 0], [0, 2, -16, 94, 58, -12, 2, 0], [0, 2, -14, 84, 66, -12, 2, 0], [0, 2, -14, 76, 76, -14, 2, 0]]

def av1Smooth : List (List Int) :=
  [[0, 2, 28, 62, 34, 2, 0, 0], [0, 0, 26, 62, 36, 4, 0, 0], [0, 0, 22, 62, 40, 4, 0, 0], [0, 0, 20, 60, 42, 6, 0, 0],
   [0, 0, 18, 58, 44, 8, 0, 0], [0, 0, 16, 56, 46, 10, 0, 0], [0, -2, 16, 54, 48, 12, 0, 0], [0, -2, 14, 52, 52, 14, -2, 0]]

def av1Sharp : List (List Int) :=
  [[-2, 2, -6, 126, 8, -2, 2, 0], [-2, 6, -12, 124, 16, -6, 4, -2], [-2, 8, -18, 120, 26, -10, 6, -2],
   [-4, 10, -22, 116, 38, -14, 6, -2], [-4, 10, -22, 108, 48, -18, 8, -2], [-4, 10, -24, 100, 60, -20, 8, -2],
   [-4, 10, -24, 90, 70, -22, 10, -2], [-4, 12, -24, 80, 80, -24, 12, -4]]

def av1Bilinear : List (List Int) := (upto 8).map (fun (i : Nat) => [(120 : Int) - 8 * i, 8 + 8 * i])

def av1Regular4 : List (List Int) :=
  [[-4, 126, 8, -2], [-8, 122, 18, -4], [-10, 116, 28, -6], [-12, 110, 38, -8], [-12, 102, 48, -10], [-14, 94, 58, -10],
   [-12, 84, 66, -10], [-12, 76, 76, -12]]

def av1Smooth4 : List (List Int) :=
  [[30, 62, 34, 2], [26, 62, 36, 4], [22, 62, 40, 4], [20, 60, 42, 6], [18, 58, 44, 8], [16, 56, 46, 10], [14, 54, 48, 12],
   [12, 52, 52, 12]]

/-- Taps of an AV1 filter at a phase other than 0. -/
def av1Taps (t : List (List Int)) (phase : Nat) : List Int :=
  if phase ≤ 8 then t.getD (phase - 1) [] else (t.getD (15 - phase) []).reverse

/-- Taps of a filter at a phase other than 0; empty where the filter does not define it (R309). -/
def filterTaps (filter phase : Nat) : List Int := match filter with
  | 0 => getD [] phase hevcLumaTaps
  | 1 => getD [] phase hevcChromaTaps
  | 2 => av1Taps av1Regular phase
  | 3 => av1Taps av1Smooth phase
  | 4 => av1Taps av1Sharp phase
  | 5 => av1Taps av1Bilinear phase
  | 6 => av1Taps av1Regular4 phase
  | 7 => av1Taps av1Smooth4 phase
  | _ => []

/-- Taps at a phase: phase 0 takes the sample itself; n taps stand from offset 1 − n/2. -/
def tapsAt (filter phase : Nat) : List (Int × Int) :=
  if phase = 0 then [(0, 1)]
  else
    let ts := filterTaps filter phase
    (ts.zipIdx).map (fun e => ((e.2 : Int) + 1 - (ts.length / 2 : Nat), e.1))

/-- One axis, times eight: Σ over samples x and taps of 2C(n, x) · tap · 2C(k, position), doubled by the product; `pos` is
within unit `j` of the neighbourhood. -/
def axisElem (filter phase off j k n : Nat) : List Int :=
  (upto 8).foldl (fun acc (x : Nat) => (tapsAt filter phase).foldl (fun acc t =>
    let p := (off : Int) + x + t.1 - 8 * j
    if p < 0 || p ≥ 8 then acc else vecAdd acc (vecScale t.2 (vecMul2 (dct2 n x) (dct2 k p.toNat)))) acc) vecZero

def tapSum (filter phase : Nat) : Int := ((tapsAt filter phase).map (·.2)).sum

/-- Element (k, n) of slab j of a motion-compensation matrix (R309): row-major 8×8 index of basis k and coefficient n,
vertical in the high digit. The axes carry a factor 8 each and their product a factor 2. -/
def mcElem (v k n j : Nat) : Cos :=
  let fx := bits v 16 4
  let fy := bits v 20 4
  let px := bits v 8 4
  let py := bits v 12 4
  let ax := axisElem fx px (bits v 0 4) (j % 3) (k % 8) (n % 8)
  let ay := axisElem fy py (bits v 4 4) (j / 3) (k / 8) (n / 8)
  let d := tapSum fx px * tapSum fy py
  ⟨vecScale (if d < 0 then -1 else 1) (vecMul2 ax ay), 128 * d.natAbs⟩

/-- cos(kπ/16) with 128 fractional bits, cut. -/
def cosConst : List Nat :=
  [0x100000000000000000000000000000000, 0xFB14BE7FBAE581562172A361FD2A722E, 0xEC835E79946A31457E610231AC1D6180,
   0xD4DB3148750D1819F630E8B6DAC83E68, 0xB504F333F9DE6484597D89B3754ABE9F, 0x8E39D9CD73464364BBA4CFECBFF54867,
   0x61F78A9ABAA58B4698916152CF7EEE1B, 0x31F17078D34C156C9732300393F33613]

/-- The bf16 nearest to a number, ties to even; where the 128-bit cosines do not decide it, the free value. -/
def Cos.bf16 (c : Cos) (free : Nat) : Nat :=
  if c.num.all (· == 0) || c.den = 0 then 0
  else if (c.num.drop 1).all (· == 0) then
    let a := c.num.headD 0
    ratBf16 (decide (a < 0)) (a.natAbs * 2 ^ 128) c.den
  else
    let mid := (List.zipWith (fun (a : Int) (b : Nat) => a * (b : Int)) c.num cosConst).sum
    let err := (c.num.map Int.natAbs).sum
    let lo := mid - err
    let hi := mid + err
    if lo > 0 then two false lo.toNat hi.toNat
    else if hi < 0 then two true (-hi).toNat (-lo).toNat
    else free
where
  /-- a / den · 2^-128, rounded. -/
  ratBf16 (neg : Bool) (a den : Nat) : Nat :=
    let q := a * 2 ^ 64 / den
    (roundMag (fmtOf .bf16) 0 false neg q (-192) (decide (a * 2 ^ 64 % den ≠ 0))).1
  two (neg : Bool) (a b : Nat) : Nat :=
    let x := ratBf16 neg a c.den
    if x = ratBf16 neg b c.den then x else free

/-! ### Linear forms of reference samples (R310) -/

/-- Σ terms · sample over 2^den; reference samples of an N×N block are numbered 0 the corner, then 2N of the top, 2N of the left,
outward. -/
structure Lin where
  den   : Nat := 0
  terms : SMap Int := []
  deriving DecidableEq, Repr, Inhabited

def Lin.ref (i : Nat) : Lin := { terms := [(i, 1)] }

/-- Σ weight · form, over 2^sh. -/
def Lin.comb (l : List (Int × Lin)) (sh : Nat := 0) : Lin :=
  let den := (l.map (fun x => x.2.den)).foldl max 0
  { den := den + sh
    terms := l.foldl (fun m x => x.2.terms.foldl (fun m t => upd 0 t.1 (· + x.1 * t.2 * 2 ^ (den - x.2.den)) m) m) [] }

/-- An edge of reference samples, from outside the corner inward: index 0 the corner, 1 + i the i-th of the top or left. -/
abbrev Edge1 := List Lin

def edgeAt (e : Edge1) (i : Int) : Lin := e.getD (i + 1).toNat {}

/-- Numbers of the reference samples. -/
def topRef (i : Nat) : Nat := 1 + i
def leftRef (n i : Nat) : Nat := 1 + 2 * n + i

/-- Whether AVAIL marks the i-th sample of a side: side 0 the top, 1 the left. -/
def availAt (n avail side i : Nat) : Bool :=
  let seg := if n = 64 then 8 else 4
  let count := if n = 64 then 16 else n / 2
  bit avail (1 + side * count + i / seg)

/-- The nearest available sample at or before each place of a list of (available, sample). -/
def lastGood : Option Lin → List (Bool × Lin) → List (Option Lin)
  | _, [] => []
  | g, (ok, x) :: xs => let g := if ok then some x else g; g :: lastGood g xs

/-- HEVC's substitution: from the last sample of the left up to the corner and along the top, each sample that is not available takes
the one before it, the first ones the first available; where none is, the prediction is a constant, which no matrix holds. -/
def hevcRefs (n avail : Nat) : Edge1 × Edge1 :=
  let scan := ((upto (2 * n)).reverse.map (fun i => (availAt n avail 1 i, Lin.ref (leftRef n i)))) ++ [(bit avail 0, Lin.ref 0)]
    ++ (upto (2 * n)).map (fun i => (availAt n avail 0 i, Lin.ref (topRef i)))
  let first := ((scan.find? (·.1)).map (·.2)).getD {}
  let l := (lastGood none scan).map (·.getD first)
  (l.drop (2 * n), (l.take (2 * n + 1)).reverse)

/-- AV1's: an absent top is the first sample of the left and the reverse; beyond the available samples the last one repeats; the corner
is the first sample of the top, else of the left. -/
def av1Refs (n avail : Nat) : Edge1 × Edge1 :=
  let side (k : Nat) (f : Nat → Nat) : List Lin :=
    (lastGood none ((upto (2 * n)).map (fun i => (availAt n avail k i, Lin.ref (f i))))).map (·.getD {})
  let haveT := availAt n avail 0 0
  let haveL := availAt n avail 1 0
  let top := if haveT then side 0 topRef else if haveL then List.replicate (2 * n) (Lin.ref (leftRef n 0)) else List.replicate (2 * n) {}
  let left := if haveL then side 1 (leftRef n) else if haveT then List.replicate (2 * n) (Lin.ref (topRef 0)) else List.replicate (2 * n) {}
  let corner := if haveT && haveL then Lin.ref 0 else if haveT then Lin.ref (topRef 0) else if haveL then Lin.ref (leftRef n 0) else {}
  (corner :: top, corner :: left)

/-! ### HEVC prediction -/

/-- Angles of modes 2 to 34. -/
def hevcAngles : List Int :=
  [32, 26, 21, 17, 13, 9, 5, 2, 0, -2, -5, -9, -13, -17, -21, -26, -32, -26, -21, -17, -13, -9, -5, -2, 0, 2, 5, 9, 13, 17, 21, 26, 32]

/-- Inverse angles of modes 11 to 25. -/
def hevcInverse : List Int :=
  [-4096, -1638, -910, -630, -482, -390, -315, -256, -315, -390, -482, -630, -910, -1638, -4096]

/-- Filtering of the reference samples: (1, 2, 1) / 4, or the strong one between corner and ends; luma blocks above 4×4 only, by the
distance of the mode from the axes. -/
def hevcFilter (n mode : Nat) (chr strong : Bool) (e : Edge1 × Edge1) : Edge1 × Edge1 :=
  let dist (a : Nat) : Nat := ((mode : Int) - a).natAbs
  let thres := if n = 8 then 7 else if n = 16 then 1 else 0
  if chr || mode = 1 || n = 4 || min (dist 26) (dist 10) ≤ thres then e
  else
    let corner := edgeAt e.1 (-1)
    let last (x : Edge1) : Lin := edgeAt x (2 * n - 1 : Nat)
    if strong && n = 32 then
      let line (x : Edge1) : Edge1 := corner :: (upto 64).map (fun i =>
        if i = 63 then last x else Lin.comb [((63 - i : Nat), corner), ((i + 1 : Nat), last x)] 6)
      (line e.1, line e.2)
    else
      let mid := Lin.comb [(1, edgeAt e.1 0), (2, corner), (1, edgeAt e.2 0)] 2
      let line (x : Edge1) : Edge1 := mid :: (upto (2 * n)).map (fun i =>
        if i = 2 * n - 1 then last x
        else Lin.comb [(1, edgeAt x ((i : Int) - 1)), (2, edgeAt x i), (1, edgeAt x ((i : Int) + 1))] 2)
      (line e.1, line e.2)

/-- Angular prediction along the first edge; (x, y) with y away from it. -/
def hevcAngular (mode : Nat) (main side : Edge1) (x y : Nat) : Lin :=
  let angle := hevcAngles.getD (mode - 2) 0
  let inv := hevcInverse.getD (mode - 11) 0
  let ref (i : Int) : Lin := if i ≥ 0 then edgeAt main (i - 1) else edgeAt side (-1 + (i * inv + 128) / 256)
  let idx := ((y : Int) + 1) * angle / 32
  let fact := ((y : Int) + 1) * angle % 32
  if fact = 0 then ref (x + idx + 1) else Lin.comb [(32 - fact, ref (x + idx + 1)), (fact, ref (x + idx + 2))] 5

/-- The predicted sample (x, y) of an HEVC block of size 2^lg. -/
def hevcSample (lg mode : Nat) (chr strong : Bool) (avail x y : Nat) : Lin :=
  let n := 2 ^ lg
  let raw := hevcRefs n avail
  let e := hevcFilter n mode chr strong raw
  let top (i : Int) : Lin := edgeAt e.1 i
  let left (i : Int) : Lin := edgeAt e.2 i
  let edges := !chr && decide (n < 32)
  if mode = 0 then
    Lin.comb [((n - 1 - x : Nat), left y), ((x + 1 : Nat), top n), ((n - 1 - y : Nat), top x), ((y + 1 : Nat), left n)] (lg + 1)
  else if mode = 1 then
    let dc := Lin.comb ((upto n).flatMap (fun (i : Nat) => [(1, top i), (1, left i)])) (lg + 1)
    if !edges || (x ≠ 0 && y ≠ 0) then dc
    else if x = 0 && y = 0 then Lin.comb [(1, left 0), (2, dc), (1, top 0)] 2
    else if y = 0 then Lin.comb [(1, top x), (3, dc)] 2
    else Lin.comb [(1, left y), (3, dc)] 2
  else if mode ≥ 18 then
    if mode = 26 && edges && x = 0 then Lin.comb [(2, top 0), (1, left y), (-1, top (-1))] 1
    else hevcAngular mode e.1 e.2 x y
  else
    if mode = 10 && edges && y = 0 then Lin.comb [(2, left 0), (1, top x), (-1, top (-1))] 1
    else hevcAngular mode e.2 e.1 y x

/-! ### AV1 prediction -/

/-- Angle of a directional mode code (R300). -/
def av1Angle (mode : Nat) : Nat :=
  let d := (mode - 6) / 7
  [90, 180, 45, 135, 113, 157, 203, 67].getD d 90 + 3 * ((mode - 6) % 7) - 9

/-- The slope of an angle below 90. -/
def av1Slope (a : Nat) : Nat :=
  getD 0 a [(3, 1023), (6, 547), (9, 372), (14, 273), (17, 215), (20, 178), (23, 151), (26, 132), (29, 116), (32, 102), (36, 90),
    (39, 80), (42, 71), (45, 64), (48, 57), (51, 51), (54, 45), (58, 40), (61, 35), (64, 31), (67, 27), (70, 23), (73, 19), (76, 15),
    (81, 11), (84, 7), (87, 3)]

/-- Weights of the smooth modes. -/
def smoothWeights (n : Nat) : List Nat := match n with
  | 4 => [255, 149, 85, 64]
  | 8 => [255, 197, 146, 105, 73, 50, 37, 32]
  | 16 => [255, 225, 196, 170, 145, 123, 102, 84, 68, 54, 43, 33, 26, 20, 17, 16]
  | 32 => [255, 240, 225, 210, 196, 182, 169, 157, 145, 133, 122, 111, 101, 92, 83, 74, 66, 59, 52, 45, 39, 34, 29, 25, 21, 17, 14, 12,
      10, 9, 8, 8]
  | _ => [255, 248, 240, 233, 225, 218, 210, 203, 196, 189, 182, 176, 169, 163, 156, 150, 144, 138, 133, 127, 121, 116, 111, 106, 101,
      96, 91, 86, 82, 77, 73, 69, 65, 61, 57, 54, 50, 47, 44, 41, 38, 35, 32, 29, 27, 25, 22, 20, 18, 16, 15, 13, 12, 10, 9, 8, 7, 6, 6,
      5, 5, 4, 4, 4]

/-- Strength of the edge filter for an angle difference d of a square block of 2N = `wh`; `smooth`: a neighbour uses a smooth mode. -/
def edgeStrength (wh : Nat) (smooth : Bool) (d : Nat) : Nat :=
  if smooth then
    (if wh ≤ 8 then (if d ≥ 64 then 2 else if d ≥ 40 then 1 else 0)
    else if wh ≤ 16 then (if d ≥ 48 then 2 else if d ≥ 20 then 1 else 0)
    else if wh ≤ 24 then (if d ≥ 4 then 3 else 0)
    else if d ≥ 1 then 3 else 0)
  else if wh ≤ 8 then (if d ≥ 56 then 1 else 0)
  else if wh ≤ 16 then (if d ≥ 40 then 1 else 0)
  else if wh ≤ 24 then (if d ≥ 32 then 3 else if d ≥ 16 then 2 else if d ≥ 8 then 1 else 0)
  else if wh ≤ 32 then (if d ≥ 32 then 3 else if d ≥ 4 then 2 else if d ≥ 1 then 1 else 0)
  else if d ≥ 1 then 3 else 0

/-- The edge filter over the first `size` samples, the corner kept. -/
def edgeFilter (size strength : Nat) (e : Edge1) : Edge1 :=
  let kernel : List Int := match strength with
    | 1 => [0, 4, 8, 4, 0]
    | 2 => [0, 5, 6, 5, 0]
    | _ => [2, 4, 4, 4, 2]
  if strength = 0 then e
  else (e.zipIdx).map (fun x =>
    if x.2 = 0 || x.2 ≥ size then x.1
    else Lin.comb ((kernel.zipIdx).map (fun k => (k.1, e.getD (min (size - 1) (x.2 + k.2 - 2)) {}))) 4)

/-- Whether an edge is upsampled. -/
def upsampled (wh : Nat) (smooth : Bool) (d : Nat) : Bool :=
  decide (0 < d) && decide (d < 40) && decide (wh ≤ if smooth then 8 else 16)

/-- An upsampled edge of `px` samples: entries from index −2 on. -/
def upsample (px : Nat) (e : Edge1) : List Lin :=
  let dup (i : Nat) : Lin := if i = 0 then e.getD 0 {} else if i ≥ px + 2 then e.getD px {} else e.getD (i - 1) {}
  dup 0 :: (upto px).flatMap (fun i => [Lin.comb [(-1, dup i), (9, dup (i + 1)), (9, dup (i + 2)), (-1, dup (i + 3))] 4, dup (i + 2)])

/-- Directional prediction at an angle other than 90 and 180. -/
def av1Directional (n angle : Nat) (smooth haveT haveL : Bool) (e : Edge1 × Edge1) (x y : Nat) : Lin :=
  let wh := 2 * n
  let da := ((angle : Int) - 90).natAbs
  let dl := ((angle : Int) - 180).natAbs
  let corner := if decide (90 < angle) && decide (angle < 180) && decide (wh ≥ 24)
    then Lin.comb [(5, edgeAt e.2 0), (6, edgeAt e.1 (-1)), (5, edgeAt e.1 0)] 4 else edgeAt e.1 (-1)
  let top := corner :: e.1.drop 1
  let left := corner :: e.2.drop 1
  let top := if haveT then edgeFilter (n + (if angle < 90 then n else 0) + 1) (edgeStrength wh smooth da) top else top
  let left := if haveL then edgeFilter (n + (if angle > 180 then n else 0) + 1) (edgeStrength wh smooth dl) left else left
  let upT := upsampled wh smooth da
  let upL := upsampled wh smooth dl
  let top' := if upT then upsample (n + if angle < 90 then n else 0) top else top
  let left' := if upL then upsample (n + if angle > 180 then n else 0) left else left
  let at' (up : Bool) (l : List Lin) (i : Int) : Lin := l.getD (i + if up then 2 else 1).toNat {}
  let mix (up : Bool) (l : List Lin) (base idx : Int) : Lin :=
    let shift := (if up then idx * 2 else idx) / 2 % 32
    Lin.comb [(32 - shift, at' up l base), (shift, at' up l (base + 1))] 5
  let u (b : Bool) : Nat := if b then 1 else 0
  if angle < 90 then
    let idx := ((y : Int) + 1) * av1Slope angle
    let base := idx / 2 ^ (6 - u upT) + (x : Int) * 2 ^ u upT
    let most : Int := ((2 * n - 1 : Nat) : Int) * 2 ^ u upT
    if base < most then mix upT top' base idx else at' upT top' most
  else if angle < 180 then
    let idx := (x : Int) * 64 - ((y : Int) + 1) * av1Slope (180 - angle)
    let base := idx / 2 ^ (6 - u upT)
    if base ≥ -(2 ^ u upT) then mix upT top' base idx
    else
      let idx := (y : Int) * 64 - ((x : Int) + 1) * av1Slope (angle - 90)
      mix upL left' (idx / 2 ^ (6 - u upL)) idx
  else
    let idx := ((x : Int) + 1) * av1Slope (270 - angle)
    mix upL left' (idx / 2 ^ (6 - u upL) + (y : Int) * 2 ^ u upL) idx

/-- Taps of the filter-intra modes: for each sample of a 4×2 block, of the corner, four of the top, two of the left. -/
def filterIntraTaps : List (List (List Int)) :=
  [[[-6, 10, 0, 0, 0, 12, 0], [-5, 2, 10, 0, 0, 9, 0], [-3, 1, 1, 10, 0, 7, 0], [-3, 1, 1, 2, 10, 5, 0],
    [-4, 6, 0, 0, 0, 2, 12], [-3, 2, 6, 0, 0, 2, 9], [-3, 2, 2, 6, 0, 2, 7], [-3, 1, 2, 2, 6, 3, 5]],
   [[-10, 16, 0, 0, 0, 10, 0], [-6, 0, 16, 0, 0, 6, 0], [-4, 0, 0, 16, 0, 4, 0], [-2, 0, 0, 0, 16, 2, 0],
    [-10, 16, 0, 0, 0, 0, 10], [-6, 0, 16, 0, 0, 0, 6], [-4, 0, 0, 16, 0, 0, 4], [-2, 0, 0, 0, 16, 0, 2]],
   [[-8, 8, 0, 0, 0, 16, 0], [-8, 0, 8, 0, 0, 16, 0], [-8, 0, 0, 8, 0, 16, 0], [-8, 0, 0, 0, 8, 16, 0],
    [-4, 4, 0, 0, 0, 0, 16], [-4, 0, 4, 0, 0, 0, 16], [-4, 0, 0, 4, 0, 0, 16], [-4, 0, 0, 0, 4, 0, 16]],
   [[-2, 8, 0, 0, 0, 10, 0], [-1, 3, 8, 0, 0, 6, 0], [-1, 2, 3, 8, 0, 4, 0], [0, 1, 2, 3, 8, 2, 0],
    [-1, 4, 0, 0, 0, 3, 10], [-1, 3, 4, 0, 0, 4, 6], [-1, 2, 3, 4, 0, 4, 4], [-1, 2, 2, 3, 4, 3, 3]],
   [[-12, 14, 0, 0, 0, 14, 0], [-10, 0, 14, 0, 0, 12, 0], [-9, 0, 0, 14, 0, 11, 0], [-8, 0, 0, 0, 14, 10, 0],
    [-10, 12, 0, 0, 0, 0, 14], [-9, 1, 12, 0, 0, 0, 12], [-8, 0, 0, 12, 0, 1, 11], [-7, 0, 0, 1, 12, 1, 9]]]

/-- Filter-intra prediction: blocks of 4×2 in raster order, each from the samples around it; the block's samples row by row. -/
def filterIntra (n fim : Nat) (e : Edge1 × Edge1) : List Lin :=
  let taps := filterIntraTaps.getD fim []
  (upto (n / 2)).foldl (fun rows by2 =>
    let above (i : Int) : Lin := if by2 = 0 then edgeAt e.1 i
      else if i < 0 then edgeAt e.2 ((2 * by2 - 1 : Nat) : Int) else rows.getD ((2 * by2 - 1) * n + i.toNat) {}
    let two := (upto (n / 4)).foldl (fun (acc : List Lin × List Lin) b =>
      let lft (r : Nat) : Lin := if b = 0 then edgeAt e.2 ((2 * by2 + r : Nat) : Int)
        else (if r = 0 then acc.1 else acc.2).getD (4 * b - 1) {}
      let p : List Lin := (upto 5).map (fun (i : Nat) => above (4 * (b : Int) + i - 1)) ++ [lft 0, lft 1]
      let pr (k : Nat) : Lin := Lin.comb ((taps.getD k []).zip p) 4
      (acc.1 ++ (upto 4).map pr, acc.2 ++ (upto 4).map (fun k => pr (4 + k)))) ([], [])
    rows ++ two.1 ++ two.2) []

/-- The predicted sample (x, y) of an AV1 block of size 2^lg. -/
def av1Sample (lg mode fim : Nat) (smooth : Bool) (avail x y : Nat) : Lin :=
  let n := 2 ^ lg
  let e := av1Refs n avail
  let top (i : Nat) : Lin := edgeAt e.1 i
  let left (i : Nat) : Lin := edgeAt e.2 i
  let haveT := availAt n avail 0 0
  let haveL := availAt n avail 1 0
  let w (i : Nat) : Nat := (smoothWeights n).getD i 0
  if mode = 0 then
    let ts := (upto n).map (fun i => ((1 : Int), top i))
    let ls := (upto n).map (fun i => ((1 : Int), left i))
    if haveT && haveL then Lin.comb (ts ++ ls) (lg + 1)
    else if haveT then Lin.comb ts lg else if haveL then Lin.comb ls lg else {}
  else if mode = 1 then
    Lin.comb [(w y, top x), ((256 - w y : Nat), left (n - 1)), (w x, left y), ((256 - w x : Nat), top (n - 1))] 9
  else if mode = 2 then Lin.comb [(w y, top x), ((256 - w y : Nat), left (n - 1))] 8
  else if mode = 3 then Lin.comb [(w x, left y), ((256 - w x : Nat), top (n - 1))] 8
  else if mode = 62 then (filterIntra n fim e).getD (y * n + x) {}
  else
    let angle := av1Angle mode
    if angle = 90 then top x else if angle = 180 then left y
    else av1Directional n angle smooth haveT haveL e x y

/-! ### Elements of an intra matrix (R310) -/

/-- A source position relative to an N×N block in delivered coordinates: transposed first, then mirrored (R287). -/
def delivered (n : Nat) (tr fh fv : Bool) (p : Int × Int) : Int × Int :=
  let (x, y) := if tr then (p.2, p.1) else p
  (if fh then (n : Int) - 1 - x else x, if fv then (n : Int) - 1 - y else y)

/-- The source position of a delivered one. -/
def sourceOf (n : Nat) (tr fh fv : Bool) (p : Int × Int) : Int × Int :=
  let x := if fh then (n : Int) - 1 - p.1 else p.1
  let y := if fv then (n : Int) - 1 - p.2 else p.2
  if tr then (y, x) else (x, y)

/-- Source position of a reference sample. -/
def refPos (n i : Nat) : Int × Int :=
  if i = 0 then (-1, -1) else if i ≤ 2 * n then ((i : Int) - 1, -1) else (-1, (i : Int) - 1 - 2 * n)

/-- Fields of a CDIP's payload and word that its matrix depends on. -/
structure IntraReq where
  lg     : Nat
  mode   : Nat
  av1    : Bool
  tr     : Bool
  fh     : Bool
  fv     : Bool
  avail  : Nat
  ux     : Nat
  uy     : Nat
  sx     : Nat
  sy     : Nat
  strong : Bool
  fim    : Nat
  smooth : Bool
  chr    : Bool
  deriving DecidableEq, Repr, Inhabited

/-- Offset of the block in its unit: a 4×4 block's own. -/
def IntraReq.offset (q : IntraReq) : Int × Int := if q.lg = 2 then (4 * (q.sx : Int), 4 * (q.sy : Int)) else (0, 0)

/-- Delivered position of a reference sample, from the corner of the block's first unit. -/
def IntraReq.refAt (q : IntraReq) (i : Nat) : Int × Int :=
  let p := delivered (2 ^ q.lg) q.tr q.fh q.fv (refPos (2 ^ q.lg) i)
  (p.1 + q.offset.1, p.2 + q.offset.2)

/-- The distinct units holding the reference samples, in raster order. -/
def IntraReq.units (q : IntraReq) : List (Int × Int) :=
  let us := (upto (4 * 2 ^ q.lg + 1)).map (fun i => let p := q.refAt i; (p.1 / 8, p.2 / 8))
  let ds := us.foldl (fun l u => if l.contains u then l else l ++ [u]) []
  sortBy (fun a b => decide (a.2 < b.2) || (a.2 == b.2 && decide (a.1 < b.1))) ds

/-- The prediction of a sample at a source position. -/
def IntraReq.sample (q : IntraReq) (x y : Nat) : Lin :=
  if q.av1 then av1Sample q.lg q.mode q.fim q.smooth q.avail x y else hevcSample q.lg q.mode q.chr q.strong q.avail x y

/-- Twice the 2-D basis, doubled by the product: index k at a position of a unit. -/
def basis2 (k x y : Nat) : List Int := vecMul2 (dct2 (k % 8) x) (dct2 (k / 8) y)

/-- Element (k, n) of the slab of an entry of the neighbourhood list: of the samples of the predicted unit, those outside a 4×4 block
are zero. The basis products carry a factor 8 each and their product a factor 2. -/
def IntraReq.elem (q : IntraReq) (entry k n : Nat) : Cos :=
  match q.units[entry]? with
  | none => ⟨vecZero, 1⟩
  | some u =>
    let size : Nat := 2 ^ q.lg
    let forms := (upto 64).filterMap (fun i =>
      let px : Int := (i % 8 : Nat) + 8 * (q.ux : Int) - q.offset.1
      let py : Int := (i / 8 : Nat) + 8 * (q.uy : Int) - q.offset.2
      if px < 0 || py < 0 || px ≥ (size : Int) || py ≥ (size : Int) then none
      else
        let (x, y) := sourceOf size q.tr q.fh q.fv (px, py)
        some (i, q.sample x.toNat y.toNat))
    let den := (forms.map (fun f => f.2.den)).foldl max 0
    let num := forms.foldl (fun acc f => f.2.terms.foldl (fun acc t =>
      let p := q.refAt t.1
      if p.1 / 8 = u.1 && p.2 / 8 = u.2 then
        vecAdd acc (vecScale (t.2 * 2 ^ (den - f.2.den))
          (vecMul2 (basis2 n (f.1 % 8) (f.1 / 8)) (basis2 k (p.1 % 8).toNat (p.2 % 8).toNat)))
      else acc) acc) vecZero
    ⟨num, 128 * 2 ^ den⟩

end Sys2Proof.Machine
end

