-- ==== Sys2Proof/Machine/CopyEngine.lean ====
section
/-! DEFINITION. The copy engines: taking messages (R115, R116, R128, R129), copies and fills (R120 to R127, R130), streams
(R132 to R134) and matrix generation (R309 to R311). -/

namespace Sys2Proof.Machine

/-! ### Answers -/

/-- Tokens of an answer to the issuing slot's targets, in its SPORT and SEQ; a core receives none (R117). -/
def reply (m : Msg) (outs : List Out) (s : State) : Option (State × List Post) :=
  match m.src, get? m.h s.res with
  | .slot k _, some r => sendAll s k (sportOf r k m.pipe.port) m.seq outs
  | _, _ => some (s, [])

/-- A core's command completes at its port, aborted or not (R117, R422). -/
def coreDone (m : Msg) (aborted : Bool) (s : State) : State := match m.src with
  | .core c id => { s with cmdDone := s.cmdDone ++ [(c, id, aborted)] }
  | .slot _ _ => s

/-- A change at the message's L location; a core's message holds no pointstamp. -/
def ownPost (m : Msg) (n : Int) : List Post := match m.loc with
  | some l => [⟨m.h, l, m.time, n⟩]
  | none => []

/-- Location of an engine place: declared, or covered (R325). -/
def engineLoc (r : Res) (l : Loc) : Option Nat :=
  match r.desc.locIdx l with
  | some i => some i
  | none => (r.ecover.find? (fun e => e.1 == l)).map (·.2)

/-- A change at an engine's location for a slot's message (R130). -/
def enginePost (r : Res) (l : Loc) (m : Msg) (n : Int) : List Post := match m.src with
  | .slot k slot => (match r.hubAt k slot, engineLoc r l with
    | some i, _ => [⟨m.h, i, m.time, n⟩]
    | none, some i => [⟨m.h, i, m.time, n⟩]
    | none, none => [])
  | .core _ _ => []

def copyLoc (r : Res) (mt : Nat) : Loc := .copy (relX r mt) (relY r mt)

/-- Answer a message whose pointstamp still stands at L: it ends. -/
def answer (mt : Nat) (m : Msg) (outs : List Out) (s : State) : Option State :=
  (reply m outs s).map (fun e => coreDone m false (e.1.post mt (ownPost m (-1) ++ e.2)))

/-! ### Messages that fail their check (R128, R129) -/

/-- Record of a message's hold: the issuing slot, or the engine for a core's command (R422). -/
def msgRec (s : State) (r : Res) (mt : Nat) (m : Msg) (cls : FClass) (gen : List Nat) : FRec :=
  let rid := ridOf s m.h
  let base : FRec := match m.src with
    | .slot k slot => slotRec r rid k slot cls m.time 0 gen
    | .core _ _ =>
      { cls := cls, asid := m.asid, rid := rid, place := .mt, die := keyDie mt, qx := relX r mt, qy := relY r mt, tile := 3,
        time := m.time, gen := gen }
  { base with
    fflg := descFlag
    addr := BitVec.ofNat 64 m.dsc
    hkind := 1
    hdie := keyDie mt
    hunit := relX r mt + 16 * relY r mt
    link := .msg m.id }

/-- The slot of a message stands held beside the message, or is released (R128). -/
def markSlot (m : Msg) (f : List Nat → List Nat) (s : State) : State := match m.src with
  | .slot k slot => s.modAt k (fun a => a.modSlot slot (fun x => { x with msgs := f x.msgs }))
  | .core _ _ => s

/-- Hold a message and its instruction with RANGE and the descriptor-error bit. -/
def holdMsg (r : Res) (mt : Nat) (m : Msg) (word : Nat) (s : State) : State :=
  (markSlot m (· ++ [m.id]) { s with held := put m.id ⟨m, mt⟩ s.held }).raise (msgRec s r mt m .range (descGen word))

/-- R397: a message at a unit that would read a bad word at a scratchpad address holds with UNCORR. -/
def holdMsgWord (r : Res) (mt : Nat) (m : Msg) (addr byte : Nat) (s : State) : State :=
  (markSlot m (· ++ [m.id]) { s with held := put m.id ⟨m, mt⟩ s.held }).raise
    { msgRec s r mt m .uncorr [byte] with fflg := 0, addr := BitVec.ofNat 64 (addr + byte) }

/-! ### Contexts -/

/-- The residency of an MT whose work may go on. -/
def mtRunning (s : State) (mt : Nat) : Option (Nat × Res) :=
  match mtRes s mt with
  | none => none
  | some h => match get? h s.res with
    | some r => if r.running then some (h, r) else none
    | none => none

/-- A free number below 16. -/
def freeCtx {α : Type} (m : SMap α) : Option Nat := (upto 16).find? (fun i => (get? i m).isNone)

def State.putCopy (s : State) (mt ctx : Nat) (c : Copy) : State := s.modMt mt (fun t => { t with cctx := put ctx c t.cctx })
def State.putStrm (s : State) (mt ctx : Nat) (c : Strm) : State := s.modMt mt (fun t => { t with sctx := put ctx c t.sctx })

/-- A request of a context. -/
def engineReq (m : Msg) (mt ctx : Nat) (strm : Bool) (part role : Nat) (op : ROp) (size : Nat) (elts : List Elt) : Req :=
  { h := m.h, org := .engine mt ctx strm part role, op := op, time := m.time, pipe := m.pipe, seq := m.seq, size := size,
    elts := elts, bc := m.bc }

/-- AT whose scoreboard a copy counts on (R124): the destination of W or A, else the issuing tile. -/
def sbTile (r : Res) (mt : Nat) (m : Msg) : Option Nat :=
  let d := copyDesc m.body
  if d.dsp ≥ 2 && decide (d.dtl < 3) && decide (resTile r d.dqx d.dqy 3 = mt) then some (mt / 4 * 4 + d.dtl)
  else match m.src with
    | .slot k _ => some k
    | .core _ _ => none

/-- Add to a scoreboard. -/
def sbAdd (k : Option Nat) (sb : Nat) (up : Bool) (s : State) : State := match k with
  | none => s
  | some k => s.modAt k (fun a => { a with sb := upd 0 sb (fun n => if up then n + 1 else n - 1) a.sb })

def sbFull (k : Option Nat) (sb : Nat) (s : State) : Bool := match k with
  | none => false
  | some k => decide (getD 0 sb (s.at k).sb ≥ 255)

/-- The subtraction of a message whose descriptor error SKIP passed: its declared bytes, when ARV is 1 (R129). -/
def skipSub (r : Res) (mt ctx : Nat) (strm : Bool) (m : Msg) (s : State) : State :=
  let d := copyDesc m.body
  if m.skip && m.arv && !arrivalBad r d.w3
    then { s with nextId := s.nextId + 1, subs := put s.nextId ⟨m.h, d.w3 % 2 ^ 32, d.declared, mt, ctx, strm, 0⟩ s.subs }
    else s

/-- Start a copy or fill in context ctx (R124 to R126): its scoreboard, the accepted pulse, its reads and writes. A message
whose descriptor error SKIP passed moves nothing and subtracts its declared bytes (R129). -/
def startCopy (r : Res) (mt ctx : Nat) (m : Msg) (s : State) : Option State :=
  let d := copyDesc m.body
  let k := sbTile r mt m
  if sbFull k m.sb s then none
  else match reply m [pulseOut m.time m.t0] (sbAdd k m.sb true s) with
    | none => none
    | some (s, ps) =>
      let exts := d.dims.map (·.ext)
      let isFill := m.amop == 5
      let rs := if isFill || m.skip then [] else d.reads (d.srcSpace r) (indices exts)
      let ws := if m.skip then [] else d.writes (d.dstSpace r) exts [] (if isFill then d.pattern else [])
      let (a, s) := s.newReq (engineReq m mt ctx false 0 0 .load d.size rs)
      let (b, s) := s.newReq (engineReq m mt ctx false 0 1 .store d.size ws)
      let s := s.putCopy mt ctx { msg := m, sbt := k, rd := some a, wr := some b }
      let s := skipSub r mt ctx false m s
      some (s.post mt (ownPost m (-1) ++ enginePost r (copyLoc r mt) m 1 ++ ps)).act

/-! ### Streams (R132, R133) -/

/-- Tiles of a stream. -/
def streamTiles (m : Msg) : Nat := if m.skip then 0 else (((copyDesc m.body).dims.getLast?).map (·.ext)).getD 0

/-- Ring slots and slot size. -/
def ringSlots (m : Msg) : Nat := bits ((copyDesc m.body).w5) 48 16
def ringSize (m : Msg) : Nat := bits ((copyDesc m.body).w5) 0 32

/-- Start the next tile of a stream: its copy lands in ring slot m mod S. With TRN and NDIM = 2 the dimension exchanged with dimension 0
is the tile's (the spec does not say; DESIGN CHOICE, log 18). -/
def startTile (r : Res) (mt ctx : Nat) (c : Strm) (s : State) : Strm × State :=
  let d := copyDesc c.msg.body
  let m := c.next
  let exts := (d.dims.map (·.ext)).dropLast
  let d' := { d with
    dst := d.dst + m % ringSlots c.msg * ringSize c.msg
    dims := (d.dims.zipIdx).map (fun (e : Dim × Nat) => if e.2 + 1 = d.ndim then { e.1 with dstr := 0 } else e.1) }
  let rs := d.reads (d.srcSpace r) ((indices exts).map (fun i => i ++ [m]))
  let ws := d'.writes (d.dstSpace r) exts [m] []
  let (a, s) := s.newReq (engineReq c.msg mt ctx true m 0 .load d.size rs)
  let (b, s) := s.newReq (engineReq c.msg mt ctx true m 1 .store d.size ws)
  ({ c with credits := c.credits - 1, next := m + 1, tiles := c.tiles ++ [(m, a, b)] }, s)

/-- Start a tile for every credit held, in ascending order. -/
def startTiles (r : Res) (mt ctx : Nat) : Nat → Strm → State → State
  | 0, c, s => s.putStrm mt ctx c
  | n + 1, c, s =>
    if c.closing || c.failed || c.held || decide (c.credits = 0) || decide (c.next ≥ streamTiles c.msg) then s.putStrm mt ctx c
    else
      let (c, s) := startTile r mt ctx c s
      startTiles r mt ctx n c s

/-- Open a stream in context ctx. -/
def startStream (r : Res) (mt ctx : Nat) (m : Msg) (s : State) : Option State :=
  let s := s.post mt (ownPost m (-1) ++ enginePost r (copyLoc r mt) m 1)
  let c : Strm := { msg := m, credits := ringSlots m }
  some (skipSub r mt ctx true m (startTiles r mt ctx (ringSlots m) c s)).act

/-- The open stream of a number. -/
def findStrm (s : State) (mt snum : Nat) : Option (Nat × Strm) :=
  (s.mt mt).sctx.find? (fun e => (copyDesc e.2.msg.body).snum == snum)

/-! ### Taking messages (R116) -/

/-- Start a message in a context of its kind; `none` while it cannot. -/
def startMsg (r : Res) (mt : Nat) (m : Msg) (start : Res → Nat → Nat → Msg → State → Option State) (s : State) : Option State :=
  if m.amop = 2 then
    if (findStrm s mt (copyDesc m.body).snum).isSome then none
    else match freeCtx (s.mt mt).sctx with
      | some i => start r mt i m s
      | none => none
  else match freeCtx (s.mt mt).cctx with
    | some i => start r mt i m s
    | none => none

/-- Whether a context of the message's kind is free for it. -/
def ctxFree (s : State) (mt : Nat) (m : Msg) : Bool :=
  if m.amop = 2 then (freeCtx (s.mt mt).sctx).isSome && (findStrm s mt (copyDesc m.body).snum).isNone
  else (freeCtx (s.mt mt).cctx).isSome

/-- Take the head of the inbox: refused, set aside, started, or left where it is. -/
def takeHead (mt : Nat) (ops : List Nat) (bad : Res → Msg → Option Nat)
    (start : Res → Nat → Nat → Msg → State → Option State) (s : State) : Result :=
  match mtRunning s mt, (s.mt mt).inbox with
  | some (_, r), m :: rest =>
    if !ops.contains m.amop then .next s
    else
      let popped := s.modMt mt (fun t => { t with inbox := rest })
      match if m.skip then none else bad r m with
      | some w => .next ((holdMsg r mt m w popped).act)
      | none =>
        let aside := if m.amop = 2 then (s.mt mt).asideS else (s.mt mt).asideC
        if aside.isEmpty && ctxFree s mt m then
          match startMsg r mt m start popped with
          | some s' => .next s'
          | none => .next s
        else if aside.length < 16 then
          .next ((popped.modMt mt (fun t =>
            if m.amop = 2 then { t with asideS := t.asideS ++ [m] } else { t with asideC := t.asideC ++ [m] })).act)
        else .next s
  | _, _ => .next s

/-- R120: a COPY; a SEND whose header is bad is refused here. -/
def execCopy (mt : TileId) (s : State) : Result :=
  takeHead mt.key [0, 1] (fun r m => if m.amop = 0 then some 0 else descBad r mt.key m 0) startCopy s

/-- R123: a FILL. -/
def execFill (mt : TileId) (s : State) : Result := takeHead mt.key [5] (fun r m => descBad r mt.key m 1) startCopy s

/-- R132: an SOPEN. -/
def execSopen (mt : TileId) (s : State) : Result := takeHead mt.key [2] (fun r m => descBad r mt.key m 2) startStream s

/-- Add to XSC, saturating (R134, R412). -/
def addXsc (h n : Nat) (s : State) : State := s.modRes h (fun r => { r with xsc := satAdd (2 ^ 16 - 1) r.xsc n })

/-- R134: credits return to a stream; those beyond S, and a notice for no open stream, are discarded and counted. -/
def execSfree (mt : TileId) (s : State) : Result :=
  let k := mt.key
  match mtRunning s k, (s.mt k).inbox with
  | some (h, r), m :: rest =>
    if m.amop ≠ 3 then .next s
    else
      let s1 := s.modMt k (fun t => { t with inbox := rest })
      let s2 := match findStrm s k m.snum with
        | none => addXsc h 1 s1
        | some (ctx, c) =>
          let n := ringSlots c.msg
          let sum := c.credits + m.count
          let s1 := if sum > n then addXsc h (sum - n) s1 else s1
          let c := { c with credits := if sum > n then n else sum }
          startTiles r k ctx c.credits c s1
      match answer k m [pulseOut m.time m.t0] s2 with
      | some s3 => .next s3.act
      | none => .next s
  | _, _ => .next s

/-- R134, R140: the pulse of a close whose stream is closed goes out: the first that its target takes. -/
def answerClosed (k : Nat) (s : State) : Option State :=
  firstSome (fun m => (answer k m [pulseOut m.time m.t0] s).map (fun s =>
    s.modMt k (fun t => { t with closed := removeFirst (fun x => x == m) t.closed }))) (s.mt k).closed

/-- R134: no further tile starts; the pulse waits for the close. -/
def execSclose (mt : TileId) (s : State) : Result :=
  let k := mt.key
  match mtRunning s k with
  | none => .next s
  | some _ => match answerClosed k s with
    | some s1 => .next s1.act
    | none => match (s.mt k).inbox with
      | [] => .next s
      | m :: rest =>
        if m.amop ≠ 4 then .next s
        else
          let s1 := s.modMt k (fun t => { t with inbox := rest })
          match findStrm s k m.snum with
          | some (ctx, c) => .next ((s1.putStrm k ctx { c with closing := true, closers := c.closers ++ [m] }).act)
          | none => match answer k m [pulseOut m.time m.t0] s1 with
            | some s2 => .next s2.act
            | none => .next s

/-! ### Completion of copies (R125) -/

def reqDone (s : State) (id : Option Nat) : Bool := match id with
  | none => true
  | some i => match get? i s.reqs with
    | none => true
    | some q => q.elts.all (fun e => e.st == .done)

def dropReq (id : Option Nat) (s : State) : State := match id with
  | none => s
  | some i => { s with reqs := del i s.reqs }

/-- No subtraction of a context's part is on its way. -/
def subsDone (s : State) (mt ctx : Nat) (strm : Bool) (part : Nat) : Bool :=
  !(s.subs.any (fun e => e.2.mt == mt && e.2.ctx == ctx && e.2.strm == strm && e.2.part == part))

/-- No subtraction of a stream is on its way. -/
def strmSubsDone (s : State) (mt ctx : Nat) : Bool := !(s.subs.any (fun e => e.2.mt == mt && e.2.ctx == ctx && e.2.strm))

/-- The flag write: a whole 8-byte store in the scratchpad or at a VA (R127). -/
def flagElt (m : Msg) : Elt :=
  let d := copyDesc m.body
  if bit d.w4 63 then { space := .virt, addr := d.w4 % 2 ^ 56, n := 8, data := leBytes 8 d.w5 }
  else { space := .scr, addr := d.w4 % 2 ^ 32, n := 8, data := leBytes 8 d.w5 }

/-- Step 5 of R125: T1, the pointstamp and the context. -/
def endCopy (r : Res) (mt ctx : Nat) (c : Copy) (outs : List Out) (s : State) : Option State :=
  let s := dropReq c.fl (dropReq c.wr (dropReq c.rd s))
  let s := s.modMt mt (fun t => { t with cctx := del ctx t.cctx })
  (reply c.msg outs s).map (fun e =>
    (coreDone c.msg c.failed (e.1.post mt (enginePost r (copyLoc r mt) c.msg (-1) ++ e.2))).act)

/-- R125: after the last byte the flag is written; then the scoreboard falls; then T1 has its pulse, or end-of-stream after
ABORT (R129). -/
def execCopyCompletion (mt : TileId) (ctx : Nat) (s : State) : Result :=
  let k := mt.key
  match mtRunning s k, get? ctx (s.mt k).cctx with
  | some (_, r), some c =>
    if c.mgen || !(reqDone s c.rd && reqDone s c.wr && reqDone s c.fl && subsDone s k ctx false 0) then .next s
    else if !c.failed && c.msg.flg && !c.flagged && !(c.msg.skip && flagBad r (copyDesc c.msg.body).w4) then
      let (id, s) := s.newReq (engineReq c.msg k ctx false 0 2 .store 8 [flagElt c.msg])
      .next ((s.putCopy k ctx { c with fl := some id, flagged := true }).act)
    else if !c.dec then .next ((sbAdd c.sbt c.msg.sb false (s.putCopy k ctx { c with dec := true })).act)
    else match endCopy r k ctx c [if c.failed then markerOut 5 c.msg.time c.msg.t1 else pulseOut c.msg.time c.msg.t1] s with
      | some s' => .next s'
      | none => .next s
  | _, _ => .next s

/-! ### Progress of streams (R133) -/

/-- Static depth of the issuing slot, and its time shape. -/
def msgShape (s : State) (r : Res) (m : Msg) : Nat × List Nat := match m.src with
  | .slot k slot => (getD 0 slot (s.at k).sdepth, shapeOf r (s.at k).active)
  | .core _ _ => (0, [])

/-- The opening time with m added to the innermost counter, or to the epoch at depth 0; `none` where it overflows. -/
def tileTime (s : State) (r : Res) (m : Msg) (n : Nat) : Option Time :=
  let (d, shape) := msgShape s r m
  if d = 0 then
    if epochOf m.time + n < 2 ^ 20 then some (m.time + BitVec.ofNat 64 (n * 2 ^ 44)) else none
  else
    let c := ctr shape m.time d + n
    if c < 2 ^ levelWidth shape d then some (setCtr shape m.time d c) else none

/-- The record of a stream's TIMEWRAP. -/
def strmRec (s : State) (r : Res) (mt ctx : Nat) (m : Msg) (n : Nat) : FRec :=
  { cls := .timewrap, asid := r.asid, rid := ridOf s m.h, place := .mt, die := keyDie mt, qx := relX r mt, qy := relY r mt,
    tile := 3, time := m.time, gen := [(msgShape s r m).1, n], link := .strm mt ctx }

/-- A token of an engine's own: SPORT of the MT with pipe 11, its own SEQ (R166). -/
def engineSend (r : Res) (mt : Nat) (m : Msg) (outs : List Out) (s : State) : Option (State × List Post) :=
  match m.src with
  | .slot k _ =>
    let seq := (s.mt mt).seq
    sendAll (s.modMt mt (fun t => { t with seq := (seq + 1) % 2 ^ 16 })) k (sportOf r mt 3) (BitVec.ofNat 16 seq) outs
  | .core _ _ => some (s, [])

/-- R133: the lowest tile not yet reported, once performed with its subtractions, sends its token. -/
def execStreamTileDone (mt : TileId) (ctx : Nat) (s : State) : Result :=
  let k := mt.key
  match mtRunning s k, get? ctx (s.mt k).sctx with
  | some (_, r), some c =>
    match c.tiles.find? (fun e => e.1 == c.sent) with
    | none => .next s
    | some (m, a, b) =>
      if c.held || c.failed || !(reqDone s (some a) && reqDone s (some b) && subsDone s k ctx true m) then .next s
      else match tileTime s r c.msg m with
        | none => .next (((s.putStrm k ctx { c with held := true }).raise (strmRec s r k ctx c.msg m)).act)
        | some t =>
          let s1 := dropReq (some b) (dropReq (some a) s)
          let s1 := s1.putStrm k ctx { c with sent := m + 1, tiles := c.tiles.filter (fun e => e.1 != m) }
          match engineSend r k c.msg [dataOut .n64 t (leBytes 8 (m + m % ringSlots c.msg * 2 ^ 32)) c.msg.t0] s1 with
          | some (s2, ps) => .next ((s2.post k ps).act)
          | none => .next s
  | _, _ => .next s

/-- R133, R134: after the last tile, or on a close, the end-of-fibre and the pulse go out and the context is freed; closes
that waited are to be answered. After ABORT both targets have end-of-stream. -/
def execStreamClose (mt : TileId) (ctx : Nat) (s : State) : Result :=
  let k := mt.key
  match mtRunning s k, get? ctx (s.mt k).sctx with
  | some (_, r), some c =>
    let last := c.failed || (c.tiles.isEmpty && (c.closing || decide (c.next ≥ streamTiles c.msg)))
    if c.held || !last || !(strmSubsDone s k ctx && c.tiles.all (fun e => reqDone s (some e.2.1) && reqDone s (some e.2.2)))
    then .next s
    else
      let outs : Option (List Out) :=
        if c.failed then some [markerOut 5 c.msg.time c.msg.t0, markerOut 5 c.msg.time c.msg.t1]
        else (tileTime s r c.msg c.sent).map (fun t => [markerOut 1 t c.msg.t0, pulseOut c.msg.time c.msg.t1])
      match outs with
      | none => .next (((s.putStrm k ctx { c with held := true }).raise (strmRec s r k ctx c.msg c.sent)).act)
      | some outs =>
        let s1 := c.tiles.foldl (fun s e => dropReq (some e.2.2) (dropReq (some e.2.1) s)) s
        let s1 := s1.modMt k (fun t => { t with sctx := del ctx t.sctx, closed := t.closed ++ c.closers })
        match engineSend r k c.msg outs s1 with
        | some (s2, ps) =>
          .next ((coreDone c.msg c.failed (s2.post k (enginePost r (copyLoc r k) c.msg (-1) ++ ps))).act)
        | none => .next s
  | _, _ => .next s

/-! ### Matrix generation (R309 to R311) -/

/-- The failing check of CDMC's payload (R309): word 1 of the body. -/
def cdmcBad (v : Nat) : Bool :=
  let off (o : Nat) : Bool := decide (o < 3) || decide (o > 10)
  off (bits v 0 4) || off (bits v 4 4) || decide (bits v 16 4 ≥ 8) || decide (bits v 20 4 ≥ 8) || bits v 24 40 != 0
    || (tapsAt (bits v 16 4) (bits v 8 4)).isEmpty || (tapsAt (bits v 20 4) (bits v 12 4)).isEmpty

/-- Units holding the reference samples of a block (R310): a 4×4 block has three wherever it stands in its unit. -/
def refUnits (log2 : Nat) : Nat := if log2 = 2 then 3 else 1 + 4 * (2 ^ log2 / 8)

/-- The failing check of CDIP. -/
def cdipBad (h : Hd) (x : VidX) (v : Nat) : Bool :=
  let n := 2 ^ x.log2.toNat
  let units := if n < 8 then 1 else n / 8
  (if bit h.md.toNat 0 then decide (x.mode.toNat > 62) else decide (x.mode.toNat > 34))
    || decide (bits v 33 3 ≥ units) || decide (bits v 36 3 ≥ units)
    || decide (bits v 41 2 > (refUnits x.log2.toNat + 8) / 9 - 1) || bits v 49 15 != 0

/-- AV1 PAETH and CFL have no matrix (R310). -/
def cdipNone (h : Hd) (x : VidX) : Bool := bit h.md.toNat 0 && (x.mode == 4 || x.mode == 5)

/-- The instruction of an MGEN. -/
def genInstr (m : Msg) : Option Instr := (decodeWord (m.body.getD 0 0)).toOption

def genBad (m : Msg) : Option Nat :=
  let v := (m.body.getD 1 0).toNat
  match genInstr m with
  | some (.cdmc _ _) => if cdmcBad v then some 1 else none
  | some (.cdip h x) => if cdipBad h x v then some 1 else none
  | _ => some 0

/-- Bytes of slab j, bf16 element (k, n) at 2·(64k + n). -/
def slab (f : Nat → Nat → Nat) : List Byte :=
  (upto 64).flatMap (fun k => (upto 64).flatMap (fun n => leBytes 2 (f k n)))

/-- What a CDIP asks for (R310). -/
def intraReq (h : Hd) (x : VidX) (v : Nat) : IntraReq :=
  { lg := x.log2.toNat, mode := x.mode.toNat, av1 := bit h.md.toNat 0, fh := bit h.md.toNat 1, fv := bit h.md.toNat 2,
    tr := bit h.md.toNat 3, avail := bits v 0 33, ux := bits v 33 3, uy := bits v 36 3, sx := bits v 39 1, sy := bits v 40 1,
    strong := bit v 43, fim := bits v 44 3, smooth := bit v 47, chr := bit v 48 }

/-- The nine slabs (R309, R310). An element that the exact cosines do not decide, and a filter-intra mode above 4, which AV1 does not
have, are the free value (log 8). -/
def genBytes (m : Msg) : List Byte :=
  let w := m.body.getD 0 0
  let p := m.body.getD 1 0
  let v := p.toNat
  match genInstr m with
  | some (.cdip h x) =>
    (upto 9).flatMap (fun j =>
      let entry := 9 * bits v 41 2 + j
      if cdipNone h x || decide (entry ≥ refUnits x.log2.toNat) then zeros 8192
      else slab (fun k n =>
        let free := (Config.intraElem w p entry k n).toNat
        if bit h.md.toNat 0 && x.mode = 62 && decide (bits v 44 3 > 4) then free
        else ((intraReq h x v).elem entry k n).bf16 free))
  | _ => (upto 9).flatMap (fun j =>
      slab (fun k n => (mcElem v k n j).bf16 (Config.undecided 0xC6 0 0 ((v * 64 + k) * 64 * 9 + n * 9 + j)).toNat % 2 ^ 16))

/-- W byte of the matrix: 64·WOFF. -/
def genBase (m : Msg) : Nat := match genInstr m with
  | some (.cdmc _ x) => 64 * x.woff.toNat
  | some (.cdip _ x) => 64 * x.woff.toNat
  | _ => 0

/-- Lines of 256 bytes. -/
def lineElts (sp : Space) (a : Nat) (bs : List Byte) : List Elt :=
  (upto ((bs.length + 255) / 256)).map (fun i =>
    { space := sp, addr := a + 256 * i, n := min 256 (bs.length - 256 * i), data := sliceBytes bs (256 * i) 256 })

/-- Start generating in a copy context. -/
def startGen (r : Res) (mt ctx : Nat) (m : Msg) (s : State) : Option State :=
  let k := mt / 4 * 4 + (m.body.getD 2 0).toNat % 4
  let (b, s) := s.newReq (engineReq m mt ctx false 0 1 .store 64 (lineElts (.buf k 0) (genBase m) (genBytes m)))
  some ((s.putCopy mt ctx { msg := m, mgen := true, wr := some b }).post mt
    (ownPost m (-1) ++ enginePost r (copyLoc r mt) m 1)).act

/-- R311: an MGEN is checked and takes a copy context. -/
def execMgen (mt : TileId) (s : State) : Result := takeHead mt.key [6] (fun _ m => genBad m) startGen s

/-- What CDMC and CDIP send at the end. -/
def genOuts (m : Msg) : List Out :=
  match genInstr m with
  | some (.cdip h x) =>
    [pulseOut m.time m.t0, dataOut .n8 m.time (leBytes 8 (if cdipNone h x then 1 else 0)) m.t1]
  | _ => [pulseOut m.time m.t0, pulseOut m.time m.t1]

/-- R311: the last byte is performed; T0 and T1 are sent; after ABORT both have end-of-stream. -/
def execMatrixGenDone (mt : TileId) (ctx : Nat) (s : State) : Result :=
  let k := mt.key
  match mtRunning s k, get? ctx (s.mt k).cctx with
  | some (_, r), some c =>
    if !c.mgen || !reqDone s c.wr then .next s
    else match endCopy r k ctx c
        (if c.failed then [markerOut 5 c.msg.time c.msg.t0, markerOut 5 c.msg.time c.msg.t1] else genOuts c.msg) s with
      | some s' => .next s'
      | none => .next s
  | _, _ => .next s

/-- R116: the oldest message set aside takes a freed context of its kind. -/
def execSetAsideStart (mt : TileId) (strm : Bool) (s : State) : Result :=
  let k := mt.key
  match mtRunning s k, (if strm then (s.mt k).asideS else (s.mt k).asideC) with
  | some (_, r), m :: rest =>
    let popped := s.modMt k (fun t => if strm then { t with asideS := rest } else { t with asideC := rest })
    match startMsg r k m (if m.amop = 2 then startStream else if m.amop = 6 then startGen else startCopy) popped with
    | some s' => .next s'
    | none => .next s
  | _, _ => .next s

end Sys2Proof.Machine
end

