-- ==== Sys2Proof/Machine/Row.lean ====
section
/-! DEFINITION. The row instructions (R233 to R239). -/

namespace Sys2Proof.Machine

/-- An element of SH as an exact value, integers included. -/
def rowVal (e : Elem) (v : Nat) : FVal := valueOf e v

/-- An element as f32 bits, exact for bf16, f16 and f32 (R209, R234). -/
def asF32 (e : Elem) (v : Nat) : Nat := rnF32 (valueOf e v)

/-- The result of a reduction: 8 bytes of the repeated value (R234). -/
def reduced (h : Hd) (ty : Elem) (v : Nat) (c : Ctx) (s : State) : FireRes :=
  c.send (both h (dataOut ty c.time (fillWith ty.width v 8))) s

/-- Number of levels of the pairwise tree over n leaves. -/
def levelsFor (n : Nat) : Nat := bigLen (n - 1)

/-- RSUM of floats: terms in f32, then the tree of R213 (R234). -/
def sumFloat (e : Elem) (sub : Nat) (l : List Nat) : Nat :=
  let term (v : Nat) : Nat :=
    match sub with
    | 1 => rnF32 (mulV (valueOf e v) (valueOf e v))
    | 2 => rnF32 (valueOf e v).abs
    | _ => asF32 e v
  (treeSum (levelsFor l.length) (l.map (fun v => some (term v)))).getD 0

/-- RSUM of integers, exact, modulo 2^64 (R234). -/
def sumInt (e : Elem) (sub : Nat) (l : List Nat) : Nat :=
  let term (v : Nat) : Int :=
    let i := intOf e v
    match sub with
    | 1 => i * i
    | 2 => (i.natAbs : Int)
    | _ => i
  rawOf .s64 ((l.map term).foldl (· + ·) 0)

/-- R234: the sum of the row. -/
def execRsum (h : Hd) (imm : BitVec 30) (s : State) : Result :=
  fire (.rsum h imm) (fun c s =>
    let l := lanes h.sh.width c.l.data
    if Elem.isFlt h.sh then reduced h .f32 (sumFloat h.sh h.md.toNat l) c s
    else reduced h (if h.sh.signed then .s64 else .n64) (sumInt h.sh h.md.toNat l) c s) s

/-- Largest or smallest of a row of values by `pick` (FMAX or FMIN); NaN if any is NaN. -/
def foldV (pick : FVal → FVal → FVal) : List FVal → FVal
  | [] => .fin false 0 0
  | v :: vs => vs.foldl pick v

/-- An integer magnitude in SH; the magnitude of the most negative value does not fit SH and is a free value (log 2). -/
def magElem (e : Elem) (m : Nat) : Nat :=
  if e.signed && m ≥ 2 ^ (e.nbits - 1) then (Sys2Proof.Config.minMagnitude e.code).toNat % 2 ^ e.nbits else m

/-- RMAX or RMIN over a row (R234). -/
def extreme (e : Elem) (mx abs : Bool) (l : List Nat) : Nat :=
  if Elem.isFlt e then
    let vs := l.map (fun v => if abs then (valueOf e v).abs else valueOf e v)
    (encodeF (fmtOf e) 0 false (foldV (if mx then maxV else minV) vs)).1
  else if abs then
    let ms := l.map (fun v => (intOf e v).natAbs)
    magElem e (match ms with
      | [] => 0
      | m :: ms => ms.foldl (fun a b => if (mx && decide (a < b)) || (!mx && decide (b < a)) then b else a) m)
  else match l with
    | [] => 0
    | v :: vs => vs.foldl (if mx then imax e else imin e) v

/-- R234: the largest element, or under `abs` the largest magnitude. -/
def execRmax (h : Hd) (imm : BitVec 30) (s : State) : Result :=
  fire (.rmax h imm) (fun c s => reduced h h.sh (extreme h.sh true (h.md == 1) (lanes h.sh.width c.l.data)) c s) s

/-- R234: the smallest element, or under `abs` the smallest magnitude. -/
def execRmin (h : Hd) (imm : BitVec 30) (s : State) : Result :=
  fire (.rmin h imm) (fun c s => reduced h h.sh (extreme h.sh false (h.md == 1) (lanes h.sh.width c.l.data)) c s) s

/-- Running combination: `f` joins the running value and the next; element i gets the value up to i. -/
def runFrom (f : Nat → Nat → Nat) : Nat → List Nat → List Nat
  | _, [] => []
  | a, x :: xs => let a' := f a x; a' :: runFrom f a' xs

def running (f : Nat → Nat → Nat) : List Nat → List Nat
  | [] => []
  | x :: xs => x :: runFrom f x xs

/-- SCAN (R235): floats keep the running value in f32. -/
def scanRow (e : Elem) (sub : Nat) (l : List Nat) : List Nat :=
  let out (r : List Nat) : List Nat :=
    match sub with
    | 1 => (0 :: r).take l.length
    | _ => r
  if Elem.isFlt e then
    let fs := l.map (asF32 e)
    let join (a b : Nat) : Nat := if sub = 2 then rnF32 (maxV (decodeF f32 a) (decodeF f32 b)) else addF32 a b
    (out (running join fs)).map (fun v => (encodeF (fmtOf e) 0 false (decodeF f32 v)).1)
  else out (running (if sub = 2 then imax e else iadd e) l)

/-- R235. -/
def execScan (h : Hd) (imm : BitVec 30) (s : State) : Result :=
  fire (.scan h imm) (fun c s =>
    c.send (both h (dataOut h.sh c.time (packLanes h.sh.width
      (scanRow h.sh h.md.toNat (lanes h.sh.width c.l.data))))) s) s

/-! ### Moving (R236, R237) -/

/-- Element j of a row; 0 beyond it. -/
def elemAt (l : List Nat) (j : Nat) : Nat := l.getD j 0

/-- The index PERM reads for element i. -/
def permIdx (h : Hd) (imm : BitVec 30) (r : List Byte) (n i : Nat) : Nat :=
  let p := imm.toNat % 256
  match h.md.toNat with
  | 0 => if i < r.length then natAt r i 1 else n
  | 9 => i ^^^ p
  | 10 => (i + p) % n
  | _ => n - 1 - i

/-- R236. -/
def execPerm (h : Hd) (imm : BitVec 30) (s : State) : Result :=
  fire (.perm h imm) (fun c s =>
    let l := lanes h.sh.width c.l.data
    c.send (both h (dataOut h.sh c.time (packLanes h.sh.width
      ((upto l.length).map (fun i => elemAt l (permIdx h imm c.rt.data l.length i)))))) s) s

/-- R236: one element in every lane of the coded size. -/
def execBcast (h : Hd) (imm : BitVec 30) (s : State) : Result :=
  fire (.bcast h imm) (fun c s =>
    let v := elemAt (lanes h.sh.width c.l.data) (immBits imm 0 8)
    c.send (both h (dataOut h.sh c.time (fillWith h.sh.width v (sizeBytes (immBits imm 8 3))))) s) s

/-- Bytes in the smallest token size that holds them, at most 256 (R236). What lies beyond the last element is 0: for SLICE R236 says so; for
TOPK and the conversions no rule says what stands there (DESIGN CHOICE, log 14). -/
def fitToken (bs : List Byte) : List Byte := fitBytes (sizeBytes (sizeCode bs.length)) bs

/-- R236: a run of elements. -/
def execSlice (h : Hd) (imm : BitVec 30) (s : State) : Result :=
  fire (.slice h imm) (fun c s =>
    let l := lanes h.sh.width c.l.data
    let run := (upto (immBits imm 9 9)).map (fun k => elemAt l (immBits imm 0 9 + k))
    c.send (both h (dataOut h.sh c.time (fitToken (packLanes h.sh.width run)))) s) s

/-- R236: L then R, at most 256 bytes. -/
def execCat (h : Hd) (imm : BitVec 30) (s : State) : Result :=
  fire (.cat h imm) (fun c s => c.send (both h (dataOut h.sh c.time (fitToken (c.l.data ++ c.rt.data)))) s) s

/-- R236: the halves; an 8-byte L goes whole to T0 and zero bytes to T1. -/
def execSplit (h : Hd) (imm : BitVec 30) (s : State) : Result :=
  fire (.split h imm) (fun c s =>
    let n := c.l.data.length
    let (lo, hi) := if n ≥ 16 then (c.l.data.take (n / 2), c.l.data.drop (n / 2)) else (c.l.data, zeros 8)
    c.send [dataOut h.sh c.time lo h.t0, dataOut h.sh c.time hi h.t1] s) s

/-- Mask of an n-element row (R237). -/
def maskOf (p : List Byte) (n : Nat) : List Bool := (upto n).map (fun i => natAt p i 1 != 0)

/-- The elements whose mask is true. -/
def kept : List Nat → List Bool → List Nat
  | x :: xs, b :: bs => if b then x :: kept xs bs else kept xs bs
  | _, _ => []

/-- Elements in order at the true places, 0 elsewhere. -/
def spread : List Nat → List Bool → List Nat
  | _, [] => []
  | xs, b :: bs => if b then xs.headD 0 :: spread xs.tail bs else 0 :: spread xs bs

/-- COMPR and EXPD: the row and the count of true mask bytes (R237). -/
def maskOp (i : Instr) (h : Hd) (f : List Nat → List Bool → List Nat) (s : State) : Result :=
  fire i (fun c s =>
    let l := lanes h.sh.width c.l.data
    let m := maskOf c.p.data l.length
    let n := (m.filter id).length
    c.send [dataOut h.sh c.time (fitBytes c.l.data.length (packLanes h.sh.width (f l m))) h.t0,
      dataOut .n32 c.time (leBytes 8 n) h.t1] s) s

/-- R237: packs the elements whose mask is true. -/
def execCompr (h : Hd) (imm : BitVec 30) (s : State) : Result := maskOp (.compr h imm) h kept s

/-- R237: places elements where the mask is true. -/
def execExpd (h : Hd) (imm : BitVec 30) (s : State) : Result := maskOp (.expd h imm) h spread s

/-! ### Ranking (R226, R238) -/

/-- Whether a ranks above b: NaN below every number. -/
def ranksAbove (mn : Bool) (a b : FVal) : Bool :=
  if a.isNan then false else if b.isNan then true else if mn then ltV a b else ltV b a

/-- Indices of a row in descending rank, equals by ascending HASH of the index (R226, R238). -/
def ranked (e : Elem) (mn : Bool) (seed : W64) (l : List Nat) : List Nat :=
  let vs := l.map (valueOf e)
  let v (i : Nat) : FVal := vs.getD i .nan
  sortBy (fun i j => ranksAbove mn (v i) (v j) ||
    (!ranksAbove mn (v j) (v i) && decide (hash32 seed i < hash32 seed j))) (upto l.length)

/-- A NaN as the canonical NaN (R211). -/
def canonElem (e : Elem) (v : Nat) : Nat := if Elem.isFlt e && (valueOf e v).isNan then (fmtOf e).nanBits else v

/-- Seed of the tie rule: the residency's DETSEED register (R225, R226). -/
def Ctx.seed (c : Ctx) : W64 := c.a.detseed

/-- R238: index and bits of the highest-ranked element. -/
def execArgmax (h : Hd) (imm : BitVec 30) (s : State) : Result :=
  fire (.argmax h imm) (fun c s =>
    let l := lanes h.sh.width c.l.data
    let i := (ranked h.sh (h.md == 1) c.seed l).headD 0
    c.send (both h (dataOut h.sh c.time (leBytes 4 i ++ leBytes 4 (canonElem h.sh (elemAt l i))))) s) s

/-- R238: the k highest-ranked values and their indices. -/
def execTopk (h : Hd) (imm : BitVec 30) (s : State) : Result :=
  fire (.topk h imm) (fun c s =>
    let l := lanes h.sh.width c.l.data
    let k := immBits imm 0 7
    let r := ranked h.sh (h.md == 1) c.seed l
    let ix := (upto k).map (fun j => r.getD j 0xFFFFFFFF)
    let vs := (upto k).map (fun j => match r[j]? with | some i => canonElem h.sh (elemAt l i) | none => 0)
    c.send [dataOut h.sh c.time (fitToken (packLanes h.sh.width vs)) h.t0,
      dataOut .n32 c.time (fitToken (packLanes 4 ix)) h.t1] s) s

/-! ### Running softmax (R239) -/

/-- 2^(a - b) in a format, the argument exact (R239). -/
def exp2Diff (e : Elem) (a b : FVal) : Nat :=
  exp2Bits (fmtOf e) 0 false ((Sys2Proof.Config.undecided 0x6D e.code 0 (rnF32 (addV 0 a b.neg))).toNat % 2 ^ e.nbits)
    (addV 0 a b.neg)

/-- The row, the new maximum and the rescaling factor. -/
def maxrsStep (e : Elem) (l : List Nat) (mb : Nat) : List Nat × Nat × Nat :=
  let m := decodeF f32 mb
  let m' := l.foldl (fun acc v => maxV acc (valueOf e v)) m
  match m' with
  | .nan => (l.map (fun _ => (fmtOf e).nanBits), f32.nanBits, f32.nanBits)
  | .inf true => (l.map (fun _ => 0), rnF32 m', 0x3F800000)
  | _ => (l.map (fun v => exp2Diff e (valueOf e v) m'), rnF32 m', exp2Diff .f32 m m')

/-- R239. -/
def execMaxrs (h : Hd) (imm : BitVec 30) (s : State) : Result :=
  fire (.maxrs h imm) (fun c s =>
    let (p, m, f) := maxrsStep h.sh (lanes h.sh.width c.l.data) (natAt c.rt.data 0 4)
    c.send [dataOut h.sh c.time (packLanes h.sh.width p) h.t0,
      dataOut .f32 c.time (leBytes 4 m ++ leBytes 4 f) h.t1] s) s

end Sys2Proof.Machine
end

