-- ==== Sys2Proof/Machine/Combine.lean ====
section
/-! DEFINITION. The combine units (R312 to R323). The head and the slots stand in the region scratchpad, where the unit
alone writes them; its queues stand in the MT. -/

namespace Sys2Proof.Machine

/-! ### Configuration and footprint (R312, R313, R317) -/

/-- A configuration, from the two words of R317. -/
structure CmbCfg where
  k   : Nat
  ty  : Nat
  pol : Nat
  rel : Bool
  shr : Bool
  len : Nat
  n   : Nat
  tmo : Nat
  deriving DecidableEq, Repr, Inhabited

def cmbCfg (w0 w1 : Nat) : CmbCfg :=
  ⟨bits w0 60 4 + 1, bits w0 56 4, bits w0 54 2, bit w0 53, bit w0 52, bits w0 40 12 + 1, bits w0 28 12 + 1, bits w1 0 32⟩

/-- The row type: 0xE is f32, 0xC bf16. -/
def CmbCfg.elem (c : CmbCfg) : Elem := if c.ty = 0xE then .f32 else .bf16
def CmbCfg.es (c : CmbCfg) : Nat := if c.ty = 0xE then 4 else 2
def CmbCfg.rb (c : CmbCfg) : Nat := 256 * ((c.len * c.es + 255) / 256)
def CmbCfg.ab (c : CmbCfg) : Nat := 256 * ((4 * c.len + 255) / 256)
def CmbCfg.nshr (c : CmbCfg) : Nat := if c.shr then 1 else 0
def CmbCfg.slotSize (c : CmbCfg) : Nat := 256 + (c.k + c.nshr) * c.rb + c.ab
def CmbCfg.foot (c : CmbCfg) : Nat := 256 + c.n * c.slotSize
/-- Chunks of a row (R319). -/
def CmbCfg.chunks (c : CmbCfg) : Nat := c.rb / 256

/-- Words of a declaration's configuration (R81, R312). -/
def declWords (d : CmbDecl) : Nat × Nat :=
  ((d.k - 1) * 2 ^ 60 + (if d.type = .f32 then 0xE else 0xC) * 2 ^ 56 + d.policy % 4 * 2 ^ 54
      + (if d.release = 1 then 2 ^ 53 else 0) + (if d.shared then 2 ^ 52 else 0) + (d.rowlen - 1) % 4096 * 2 ^ 40
      + (d.slots - 1) % 4096 * 2 ^ 28, d.tmo)

/-! ### Fields in the scratchpad -/

/-- A combine unit at work: its MT, residency, state, configuration. -/
structure CU where
  mt : Nat
  h  : Nat
  r  : Res
  u  : Cmb
  c  : CmbCfg
  deriving DecidableEq, Repr, Inhabited

def rdn (s : State) (x : CU) (off n : Nat) : Nat := leNat (scrRead x.r s (x.u.base + off) n)
def wrn (x : CU) (off n v : Nat) (s : State) : State := scrPut x.r s (x.u.base + off) (leBytes n v)

/-- The unit of an MT of a residency in its region. -/
def unitAt (s : State) (mt : Nat) : Option CU :=
  match mtRes s mt, (s.mt mt).cmb with
  | some h, some u =>
    (get? h s.res).map (fun r =>
      let w (o : Nat) : Nat := leNat (scrRead r s (u.base + o) 8)
      ⟨mt, h, r, u, cmbCfg (w 0x20) (w 0x28)⟩)
  | _, _ => none

/-- The unit of an MT whose residency runs. -/
def unitOf (s : State) (mt : Nat) : Option CU := if (mtRunning s mt).isSome then unitAt s mt else none

/-- Release in slot order: also in deterministic mode (R317). -/
def CU.inOrder (x : CU) : Bool := x.u.det || !x.c.rel

def slotOff (x : CU) (i : Nat) : Nat := 256 + i * x.c.slotSize
def subOff (x : CU) (i j : Nat) : Nat := slotOff x i + 256 + j * x.c.rb
def accOff (x : CU) (i : Nat) : Nat := slotOff x i + 256 + (x.c.k + x.c.nshr) * x.c.rb

def slotState (s : State) (x : CU) (i : Nat) : Nat := rdn s x (slotOff x i + 8) 1
def slotTime (s : State) (x : CU) (i : Nat) : Nat := rdn s x (slotOff x i) 8
def slotFlags (s : State) (x : CU) (i : Nat) : Nat := rdn s x (slotOff x i + 9) 1
def slotAmap (s : State) (x : CU) (i : Nat) : Nat := rdn s x (slotOff x i + 0x0A) 2
def slotNexp (s : State) (x : CU) (i : Nat) : Nat := rdn s x (slotOff x i + 0x0C) 1
def slotPfx (s : State) (x : CU) (i : Nat) : Nat := rdn s x (slotOff x i + 0x0D) 1
def slotGate (s : State) (x : CU) (i j : Nat) : Nat := rdn s x (slotOff x i + 0x40 + 4 * j) 4
def slotExps (s : State) (x : CU) (i : Nat) : List Nat :=
  (upto (slotNexp s x i)).map (fun j => rdn s x (slotOff x i + 0x20 + 2 * j) 2)

/-- Add to a saturating n32 counter of the unit head. -/
def headAdd (x : CU) (off n : Nat) (s : State) : State := wrn x off 4 (satAdd (2 ^ 32 - 1) (rdn s x off 4) n) s

/-- Change the unit's own state. -/
def modCmb (mt : Nat) (f : Cmb → Cmb) (s : State) : State := s.modMt mt (fun t => { t with cmb := t.cmb.map f })

/-- A write to a slot's head writes its live REMC too (R321). -/
def noteRemc (x : CU) (i : Nat) (s : State) : State :=
  match ((s.mt x.mt).cmb).bind (fun u => get? i u.live) with
  | some v => wrn x (slotOff x i + 0x10) 4 v s
  | none => s

/-- Write a slot-head field. -/
def wrHead (x : CU) (i off n v : Nat) (s : State) : State := noteRemc x i (wrn x (slotOff x i + off) n v s)

/-! ### Turns in the banks (R146)

A step of the unit uses the words of its head, of a slot's head and of the rows that it reads or writes. -/

/-- The words of the unit's head and of a slot's, as offsets in the footprint. -/
def headArea : Nat × Nat := (0, 64)
def slotArea (x : CU) (i : Nat) : Nat × Nat := (slotOff x i, 192)
def accArea (x : CU) (i : Nat) : Nat × Nat := (accOff x i, 4 * x.c.len)

/-- A step of the unit over some bytes of its footprint: at its turn in their banks it takes place, else it waits there. Steps of one kind keep
one place. A step that meets a bad word there (R433) does not take place and reads again, and the message that it would take holds (R397, log 6). -/
def cmbStep (x : CU) (op : Nat) (areas : List (Nat × Nat)) (s : State) (next : State → Option State) (taken : Option (Msg × State) := none) :
    Result :=
  let at' := areas.map (fun a => (x.u.base + a.1, a.2))
  match next s with
  | none => .next s
  | some _ =>
    if !unitTurn s x.r (.cmb x.mt op) at' then .next (unitWait x.r (.cmb x.mt op) at' s)
    else match s.focus.bad, taken with
      | none, _ => .next ((next (unitTake x.r (.cmb x.mt op) at' s)).getD s)
      | some _, none => .next (noteUe (keyDie x.mt) (unitTake x.r (.cmb x.mt op) at' s))
      | some b, some (m, s1) => .next ((holdMsgWord x.r x.mt m ((at'.head?.map (·.1)).getD 0) (b / 8 * 8)
          (noteUe (keyDie x.mt) (unitTake x.r (.cmb x.mt op) at' s1))).act)

/-- Whether every slot is free. -/
def allFree (s : State) (x : CU) : Bool := (upto x.c.n).all (fun i => slotState s x i == 0)

/-! ### Arithmetic (R320, R321) -/

/-- A row's elements as f32 bit patterns' exact values. -/
def rowVals (s : State) (x : CU) (i j : Nat) : List FVal :=
  (lanes x.c.es (scrRead x.r s (x.u.base + subOff x i j) (x.c.len * x.c.es))).map (fun v => decodeF (fmtOf x.c.elem) v)

/-- acc := rn_f32(acc + rn_f32(g · x)) per element. -/
def accTerm (g : FVal) (acc : List Nat) (xs : List FVal) : List Nat :=
  List.zipWith (fun a v => addF32 a (mulF32 g v)) acc xs

/-- The first term: the shared row itself. -/
def accShared (xs : List FVal) : List Nat := xs.map rnF32

/-- Quotient of two f32 values, rounded `rn`. -/
def divF32 : FVal → FVal → Nat
  | .nan, _ => f32.nanBits
  | _, .nan => f32.nanBits
  | .inf a, .inf _ => let _ := a; f32.nanBits
  | .inf a, .fin b _ _ => rnF32 (.inf (a != b))
  | .fin a _ _, .inf b => rnF32 (.fin (a != b) 0 0)
  | .fin a m e, .fin b n f =>
    if n = 0 then (if m = 0 then f32.nanBits else rnF32 (.inf (a != b)))
    else if m = 0 then rnF32 (.fin (a != b) 0 0)
    else
      let q := m * 2 ^ 96 / n
      (roundMag f32 0 false (a != b) q (e - f - 96) (decide (m * 2 ^ 96 % n ≠ 0))).1

def readAcc (s : State) (x : CU) (i : Nat) : List Nat := lanes 4 (scrRead x.r s (x.u.base + accOff x i) (4 * x.c.len))
def writeAcc (x : CU) (i : Nat) (acc : List Nat) (s : State) : State :=
  scrPut x.r s (x.u.base + accOff x i) (packLanes 4 acc)
def accZero (x : CU) : List Nat := List.replicate x.c.len 0

/-- Extend the prefix as far as the present terms allow; n bounds the terms. -/
def extend (x : CU) (i : Nat) : Nat → State → State
  | 0, s => s
  | n + 1, s =>
    let p := slotPfx s x i
    let nexp := slotNexp s x i
    if p ≥ x.c.nshr + nexp then s
    else
      let acc := if p = 0 then accZero x else readAcc s x i
      if x.c.shr && p = 0 then
        if bit (slotFlags s x i) 2 then
          extend x i n (wrHead x i 0x0D 1 (p + 1) (writeAcc x i (accShared (rowVals s x i x.c.k)) s))
        else s
      else
        let j := p - x.c.nshr
        if bit (slotAmap s x i) j then
          extend x i n (wrHead x i 0x0D 1 (p + 1)
            (writeAcc x i (accTerm (decodeF f32 (slotGate s x i j)) acc (rowVals s x i j)) s))
        else s

/-- The slot leaves its open state: it joins the order of completion. -/
def closeSlot (x : CU) (i st : Nat) (s : State) : State :=
  let s := wrHead x i 8 1 st s
  modCmb x.mt (fun u => { u with ready := u.ready ++ [i], live := del i u.live }) s

/-- Complete a slot whose terms are all in (R320); a slot without terms holds a row of +0. -/
def tryComplete (x : CU) (i : Nat) (s : State) : State :=
  let s := extend x i 17 s
  let terms := x.c.nshr + slotNexp s x i
  if slotState s x i = 1 && slotPfx s x i = terms then
    closeSlot x i 2 (if terms = 0 then writeAcc x i (accZero x) s else s)
  else s

/-- The row under the policy, from the present terms (R321). -/
def substRow (s : State) (x : CU) (i : Nat) : List Nat :=
  let shared := x.c.shr && bit (slotFlags s x i) 2
  let acc0 := if shared then accShared (rowVals s x i x.c.k) else accZero x
  let present := (upto (slotNexp s x i)).filter (fun j => bit (slotAmap s x i) j)
  let gate (j : Nat) : FVal := decodeF f32 (slotGate s x i j)
  match x.c.pol with
  | 0 => present.foldl (fun acc j => accTerm (gate j) acc (rowVals s x i j)) acc0
  | 1 =>
    let sum := present.foldl (fun a j => addF32 a (slotGate s x i j)) 0
    let v := decodeF f32 sum
    let zero := match v with | .fin _ m _ => m == 0 | _ => false
    if v.isNan || zero then acc0
    else present.foldl (fun acc j => accTerm (decodeF f32 (divF32 (gate j) v)) acc (rowVals s x i j)) acc0
  | _ => acc0

/-- Substitute a slot: FLAGS bit 0 by frontier, bit 1 by time-out; the head counter at `ctr`. -/
def substitute (x : CU) (i flag ctr : Nat) (s : State) : State :=
  let row := substRow s x i
  let s := writeAcc x i row s
  let s := wrHead x i 9 1 (slotFlags s x i ||| 2 ^ flag) s
  closeSlot x i 3 (headAdd x ctr 1 s)

/-! ### Progress locations -/

def cmbLoc (x : CU) : Loc := .cmb (relX x.r x.mt) (relY x.r x.mt)

/-- A change at the combine location. -/
def cmbPost (x : CU) (t : Time) (n : Int) : List Post := match engineLoc x.r (cmbLoc x) with
  | some i => [⟨x.h, i, t, n⟩]
  | none => []

/-! ### Messages -/

/-- The oldest message of some kinds, and the queue without it. -/
def takeCin (s : State) (mt : Nat) (ops : List Nat) : Option (Msg × State) :=
  let q := (s.mt mt).cin
  match q.find? (fun m => ops.contains m.amop) with
  | none => none
  | some m => some (m, s.modMt mt (fun t => { t with cin := removeFirst (fun y => y.id == m.id) q }))

/-- R317: why a configuration is refused. -/
def ccfgBad (x : CU) (m : Msg) : Option Nat :=
  let w (i : Nat) : Nat := (m.body.getD i 0).toNat
  let c := cmbCfg (w 0) (w 1)
  if m.past then some m.body.length
  else if !(c.ty == 0xC || c.ty == 0xE) || c.pol = 3 || (c.pol = 2 && !c.shr) || bits (w 0) 0 28 ≠ 0 then some 0
  else if bits (w 1) 32 32 ≠ 0 then some 1
  else if c.foot > x.u.foot then some 0
  else none

/-- R317: a configuration is checked and waits at the unit. Configurations and allocations are taken in arrival order. -/
def execCcfg (mt : TileId) (s : State) : Result :=
  match unitOf s mt.key, takeCin s mt.key [0x10, 0x11] with
  | some x, some (m, s1) =>
    if m.amop ≠ 0x10 || x.u.waiting.isSome then .next s
    else match ccfgBad x m with
      | some w => .next ((holdMsg x.r x.mt m w s1).act)
      | none => .next ((modCmb x.mt (fun u => { u with waiting := some m }) s1).act)
  | _, _ => .next s

/-- Heads of n slots set free. -/
def freeHeads (x : CU) : Nat → State → State
  | 0, s => s
  | n + 1, s => freeHeads x n (scrPut x.r s (x.u.base + slotOff x n) (zeros 256))

/-- R317: once every slot is free the new configuration is in force, NEXT is 0 and T0 has its pulse. Allocations that
arrived before it go first. -/
def execCcfgApply (mt : TileId) (s : State) : Result :=
  match unitOf s mt.key with
  | none => .next s
  | some x =>
    match x.u.waiting with
    | none => .next s
    | some m =>
      if !allFree s x || !x.u.allocq.isEmpty then .next s
      else
        let w (i : Nat) : Nat := (m.body.getD i 0).toNat
        let c := cmbCfg (w 0) (w 1)
        cmbStep x 0 [headArea] s (fun s =>
          let s1 := freeHeads { x with c := c } c.n (wrn x 0x1C 4 0 (wrn x 0x28 8 (w 1) (wrn x 0x20 8 (w 0) s)))
          let s1 := modCmb x.mt (fun u => { u with waiting := none, order := [], ready := [], live := [], got := [] }) s1
          (answer x.mt m [pulseOut m.time m.t0, pulseOut m.time m.t1] s1).map State.act)

/-! ### Allocation (R318) -/

/-- The type of a SH code (R25): the scores' type of `top`. -/
def scoreElem (code : Nat) : Elem := if code = 0xC then .bf16 else .f32

/-- Experts of an allocation, ascending, each with its score as f32 bits. -/
def expertList (s : State) (x : CU) (m : Msg) : List (Nat × Nat) :=
  let raw : List (Nat × Nat) :=
    if m.count = 1 then
      let e := scoreElem m.snum
      let l := lanes e.width m.lpay
      let seed := match m.src with | .slot k _ => (s.at k).detseed | .core _ _ => x.r.desc.seed
      ((ranked e false seed l).take (min x.c.k l.length)).map (fun i => (i, (convert e .f32 0 false (l.getD i 0)).1))
    else
      let p := m.lpay ++ List.replicate (32 - m.lpay.length) 0xFF
      (((upto 16).map (fun i => natAt p (2 * i) 2)).filter (fun e => e != 0xFFFF)).map (fun e => (e, 0))
  sortBy (fun a b => decide (a.1 < b.1)) raw

/-- More experts than K, or one named twice. -/
def expertsBad (x : CU) (es : List (Nat × Nat)) : Bool :=
  decide (es.length > x.c.k) || (List.zipWith (fun a b => a.1 == b.1) es (es.drop 1)).any id

/-- The slot an allocation takes, if it may take one now. -/
def slotFor (s : State) (x : CU) : Option Nat :=
  if x.inOrder then
    let n := rdn s x 0x1C 4
    if slotState s x n = 0 then some n else none
  else (upto x.c.n).find? (fun i => slotState s x i == 0)

/-- n16 values, padded with 0xFFFF to 16. -/
def expBytes (es : List (Nat × Nat)) : List Byte := packLanes 2 ((upto 16).map (fun j => (es.getD j (0xFFFF, 0)).1))

/-- Write a slot's head and answer the CMBA. -/
def allocate (x : CU) (m : Msg) (i : Nat) (s : State) : Option State :=
  let es := expertList s x m
  let hd := leBytes 8 m.time.toNat ++ [1, 0, 0, 0] ++ leBytes 2 es.length ++ zeros 2 ++ leBytes 4 x.c.tmo ++ zeros 12
    ++ expBytes es ++ zeros 64 ++ zeros 128
  let s := scrPut x.r s (x.u.base + slotOff x i) hd
  let s := headAdd x 0 1 (wrn x 0x1C 4 ((i + 1) % x.c.n) s)
  let s := modCmb x.mt (fun u => { u with
    order := u.order ++ [i], got := del i u.got, live := if x.c.tmo = 0 then u.live else put i x.c.tmo u.live }) s
  let s := tryComplete x i s
  let tok := leBytes 2 i ++ leBytes 2 es.length ++ zeros 4 ++ expBytes es ++ zeros 24
  let t1 := if m.count = 1 then dataOut .f32 m.time (packLanes 4 ((upto 16).map (fun j => (es.getD j (0, 0)).2))) m.t1
    else dataOut .n16 m.time tok m.t1
  (reply m [dataOut .n16 m.time tok m.t0, t1] s).map (fun e =>
    ((coreDone m false e.1).post x.mt (ownPost m (-1) ++ cmbPost x m.time 1 ++ e.2)).act)

/-- R318: an allocation forms its list and takes a slot, or waits in the 16-entry queue. While a configuration waits, later
allocations wait too. -/
def execCalloc (mt : TileId) (s : State) : Result :=
  match unitOf s mt.key, takeCin s mt.key [0x10, 0x11] with
  | some x, some (m, s1) =>
    if m.amop ≠ 0x11 || x.u.waiting.isSome then .next s
    else if !m.skip && expertsBad x (expertList s x m) then .next ((holdMsg x.r x.mt m 0 s1).act)
    else match if x.u.allocq.isEmpty then slotFor s x else none with
      | some i => cmbStep x 1 [headArea, slotArea x i] s (fun s => match takeCin s x.mt [0x10, 0x11] with
        | some (_, s1) => allocate x m i s1
        | none => none) (some (m, s1))
      | none =>
        if x.u.allocq.length < 16 then .next ((modCmb x.mt (fun u => { u with allocq := u.allocq ++ [m] }) s1).act)
        else .next s
  | _, _ => .next s

/-- R318: the oldest queued allocation takes a slot that has become free. -/
def execCallocResume (mt : TileId) (s : State) : Result :=
  match unitOf s mt.key with
  | none => .next s
  | some x =>
    match x.u.allocq, slotFor s x with
    | m :: rest, some i => cmbStep x 1 [headArea, slotArea x i] s (fun s =>
        allocate x m i (modCmb x.mt (fun u => { u with allocq := rest }) s))
    | _, _ => .next s

/-! ### Delivery (R319) -/

/-- How a delivery is judged: held, or its status. -/
inductive Delivery where
  | bad
  | late
  | dup
  | write (entry : Nat)
  deriving DecidableEq, Repr, Inhabited

/-- The conditions of R319 in their order; the shared row is entry 16. -/
def judge (s : State) (x : CU) (m : Msg) : Delivery :=
  let v := natAt m.lpay 0 8
  let i := bits v 0 16
  let ch := bits v 32 16
  let sh := m.count == 1
  if i ≥ x.c.n || ch ≥ x.c.chunks || (sh && !x.c.shr) then .bad
  else
    let st := slotState s x i
    if !(st == 1 || st == 2) || slotTime s x i ≠ m.time.toNat then .late
    else match if sh then some 16 else (slotExps s x i).findIdx? (fun e => e == bits v 16 16) with
      | none => .bad
      | some j => if (getD [] i x.u.got).contains (j, ch) then .dup else .write j

/-- Bytes of a row's elements that a chunk carries (R319). -/
def chunkLen (x : CU) (ch : Nat) : Nat := min 256 (x.c.len * x.c.es - 256 * ch)

/-- Words that writing a chunk uses: with an entry's last chunk also those of the sum. -/
def chunkAreas (s : State) (x : CU) (m : Msg) (j : Nat) : List (Nat × Nat) :=
  let v := natAt m.lpay 0 8
  let i := bits v 0 16
  let ch := bits v 32 16
  let last := decide (rdn s x (slotOff x i + (if j = 16 then 0x90 else 0x80 + j)) 1 + 1 ≥ x.c.chunks)
  [slotArea x i, (subOff x i (if j = 16 then x.c.k else j) + 256 * ch, chunkLen x ch)] ++ (if last then [accArea x i] else [])

/-- Write a chunk, its elements alone; the entry's first chunk sets its gate, its last marks it present. -/
def writeChunk (x : CU) (m : Msg) (j : Nat) (s : State) : State :=
  let v := natAt m.lpay 0 8
  let i := bits v 0 16
  let ch := bits v 32 16
  let s := scrPut x.r s (x.u.base + subOff x i (if j = 16 then x.c.k else j) + 256 * ch)
    (fitBytes (chunkLen x ch) m.rpay)
  let cnt := if j = 16 then 0x90 else 0x80 + j
  let n := rdn s x (slotOff x i + cnt) 1 + 1
  let s := if j ≠ 16 && n = 1 then wrHead x i (0x40 + 4 * j) 4 (natAt m.lpay 8 4) s else s
  let s := wrHead x i cnt 1 n s
  let s := modCmb x.mt (fun u => { u with got := upd [] i (· ++ [(j, ch)]) u.got }) s
  if n < x.c.chunks then s
  else
    let s := if j = 16 then wrHead x i 9 1 (slotFlags s x i ||| 4) s else wrHead x i 0x0A 2 (slotAmap s x i ||| 2 ^ j) s
    tryComplete x i s

/-- R319: one delivery is applied or discarded; T0 has a pulse and T1 the status. -/
def execCins (mt : TileId) (s : State) : Result :=
  match unitOf s mt.key, takeCin s mt.key [0x12] with
  | some x, some (m, s1) =>
    let fin (st : Nat) (areas : List (Nat × Nat)) (f : State → State) : Result :=
      cmbStep x 2 areas s (fun s => (takeCin s x.mt [0x12]).bind (fun e =>
        (answer x.mt m [pulseOut m.time m.t0, dataOut .n8 m.time (leBytes 8 st) m.t1] (f e.2)).map State.act)) (some (m, s1))
    match judge s x m with
    | .bad => .next ((holdMsg x.r x.mt m 0 s1).act)
    | .late => fin 1 [headArea] (headAdd x 0x10 1)
    | .dup => fin 2 [headArea] (headAdd x 0x14 1)
    | .write j => fin 0 (chunkAreas s x m j) (writeChunk x m j)
  | _, _ => .next s

/-! ### Missing experts (R321) -/

/-- A delivery of this cycle that would come first: the oldest waiting one is of this slot. -/
def deliveryFirst (s : State) (x : CU) (i : Nat) : Bool :=
  match (s.mt x.mt).cin.find? (fun m => m.amop == 0x12) with
  | some m => bits (natAt m.lpay 0 8) 0 16 == i && slotTime s x i == m.time.toNat
  | none => false

/-- Whether the return probe's frontier has passed an open slot's time. -/
def frontierPassed (s : State) (x : CU) (i : Nat) : Bool := passes (frontierOf s x.mt x.h x.u.ret) (slotTime s x i)

/-- R321: the frontier has passed an open slot's time. -/
def execCombineFrontierSubst (mt : TileId) (slot : Nat) (s : State) : Result :=
  match unitOf s mt.key with
  | none => .next s
  | some x =>
    if decide (slot < x.c.n) && slotState s x slot = 1 && !deliveryFirst s x slot && frontierPassed s x slot then
      cmbStep x 3 [headArea, slotArea x slot, accArea x slot] s (fun s => some (substitute x slot 0 0x08 s).act)
    else .next s

/-- R321: an open slot's REMC is 0; the frontier goes first. -/
def execCombineTimeout (mt : TileId) (slot : Nat) (s : State) : Result :=
  match unitOf s mt.key with
  | none => .next s
  | some x =>
    if decide (slot < x.c.n) && slotState s x slot = 1 && x.c.tmo ≠ 0 && get? slot x.u.live = some 0
        && !deliveryFirst s x slot && !frontierPassed s x slot then
      cmbStep x 3 [headArea, slotArea x slot, accArea x slot] s (fun s => some (substitute x slot 1 0x0C s).act)
    else .next s

/-! ### Release (R322) -/

/-- The first message registers its slot as the receiver. -/
def register (x : CU) (m : Msg) (s : State) : State := match m.src, x.u.recv with
  | .slot k slot, none => modCmb x.mt (fun u => { u with recv := some (k, slot, m.t0, m.t1) }) s
  | _, _ => s

/-- R322: the first message registers the receiver; credit is added, a marker is queued. -/
def execCrecv (mt : TileId) (s : State) : Result :=
  match unitOf s mt.key, takeCin s mt.key [0x13] with
  | some x, some (m, s1) =>
    if m.snum ≠ 0 then .next ((modCmb x.mt (fun u => { u with markers := u.markers ++ [m] }) (register x m s1)).act)
    else cmbStep x 4 [headArea] s (fun s => (takeCin s x.mt [0x13]).map (fun e =>
      ((coreDone m false (headAdd x 0x18 (natAt m.lpay 0 4) (register x m e.2))).post x.mt (ownPost m (-1))).act))
  | _, _ => .next s

/-- The slot that may go next. -/
def releasable (s : State) (x : CU) : Option Nat :=
  if rdn s x 0x18 4 = 0 then none
  else
    let ok (i : Nat) : Bool := slotState s x i == 2 || slotState s x i == 3
    match if x.inOrder then x.u.order.head? else x.u.ready.head? with
    | some i => if ok i then some i else none
    | none => none

/-- Bytes of a slot's row, rounded to T. -/
def rowBytes (s : State) (x : CU) (i : Nat) : List Byte :=
  packLanes x.c.es ((readAcc s x i).map (fun v =>
    if x.c.ty = 0xE then v else (encodeF (fmtOf .bf16) 0 false (decodeF f32 v)).1))

/-- Send tokens of the unit to its receiver. -/
def cmbSend (x : CU) (outs : List Out) (s : State) : Option (State × List Post) :=
  match x.u.recv with
  | none => none
  | some (k, _, _, _) =>
    let seq := (s.mt x.mt).seq
    sendAll (s.modMt x.mt (fun t => { t with seq := (seq + 1) % 2 ^ 16 })) k (sportOf x.r x.mt 3) (BitVec.ofNat 16 seq) outs

/-- The next token of the release in progress: a chunk, or after the last the status, which ends it. -/
def releaseStep (x : CU) (i ch : Nat) (s : State) : Option State :=
  match x.u.recv with
  | none => none
  | some (_, _, t0, t1) =>
    let t : Time := BitVec.ofNat 64 (slotTime s x i)
    if ch < x.c.chunks then
      let bs := rowBytes s x i
      let part := (bs.drop (256 * ch)).take 256
      let d := fitBytes (sizeBytes (sizeCode part.length)) part
      (cmbSend x [dataOut x.c.elem t d t0] (modCmb x.mt (fun u => { u with rel := some (i, ch + 1) }) s)).map (fun e =>
        (e.1.post x.mt e.2).act)
    else
      let st := i + slotFlags s x i * 2 ^ 16 + slotAmap s x i * 2 ^ 32
      let s1 := wrHead x i 8 1 0 s
      let s1 := headAdd x 0x04 1 (wrn x 0x18 4 (rdn s1 x 0x18 4 - 1) s1)
      let s1 := modCmb x.mt (fun u => { u with
        rel := none
        order := u.order.filter (fun j => j != i)
        ready := u.ready.filter (fun j => j != i)
        got := del i u.got }) s1
      (cmbSend x [dataOut .n64 t (leBytes 8 st) t1] s1).map (fun e => (e.1.post x.mt (cmbPost x t (-1) ++ e.2)).act)

/-- The step of the release in progress, which a freeze lets finish (R323). -/
def releaseGoing (s : State) (mt : Nat) : Option State :=
  (unitAt s mt).bind (fun x => x.u.rel.bind (fun e => releaseStep x e.1 e.2 s))

/-- R322: slots are released one at a time, one token a step. -/
def execCombineRelease (mt : TileId) (s : State) : Result :=
  match unitAt s mt.key with
  | none => .next s
  | some x => match x.u.rel with
    | some (i, ch) =>
      cmbStep x 5 (if ch < x.c.chunks then [(accOff x i + 256 * ch * 4 / x.c.es, 1024 / x.c.es)] else [headArea, slotArea x i]) s
        (releaseStep x i ch)
    | none => if (unitOf s mt.key).isNone || x.u.recv.isNone then .next s else match releasable s x with
      | none => .next s
      | some i => cmbStep x 5 [slotArea x i] s (fun s =>
          some (modCmb x.mt (fun u => { u with rel := some (i, 0) }) (wrHead x i 8 1 4 s)).act)

/-- A waiting marker goes to its CMBR's targets once every slot at or before its time is released. -/
def releaseMarker (x : CU) (s : State) (m : Msg) : Option State :=
  if (upto x.c.n).any (fun i => slotState s x i != 0 && decide (slotTime s x i ≤ m.time.toNat)) then none
  else answer x.mt m [markerOut m.snum m.time m.t0, markerOut m.snum m.time m.t1]
    (modCmb x.mt (fun u => { u with markers := removeFirst (fun y => y == m) u.markers }) s)

/-- R322: the oldest marker whose slots are released goes out. -/
def execCombineMarkerRelease (mt : TileId) (s : State) : Result :=
  match unitOf s mt.key with
  | none => .next s
  | some x => match firstSome (releaseMarker x s) x.u.markers with
    | some s2 => .next s2.act
    | none => .next s

/-- R321: at a freeze every live REMC is written to its slot's head. -/
def saveRemc (mt : Nat) (s : State) : State :=
  match unitAt s mt with
  | none => s
  | some x => x.u.live.foldl (fun s e => noteRemc x e.1 s) s

end Sys2Proof.Machine
end

