-- ==== Sys2Proof/Machine/Progress.lean ====
section
/-! DEFINITION. Trackers (R327 to R329, R462), WAITF and FRONT (R340 to R342). -/

namespace Sys2Proof.Machine

/-! ### Applying a batch (R328, R329) -/

/-- Exact entries and waiters of a tracker. -/
def exactCap (trk : Nat) : Nat := if trk < 480 then 256 else if trk < 484 then 4096 else 16384
def waiterCap (trk : Nat) : Nat := if trk < 480 then 64 else if trk < 484 then 512 else 2048

def Count.isAt (c : Count) (p : Post) : Bool := c.res == p.res && c.loc == p.loc && c.time == p.time
def Count.ofLoc (c : Count) (h l : Nat) : Bool := c.res == h && c.loc == l

/-- Add to the exact entry of a pointstamp, which frees at 0. -/
def addExact (p : Post) (n : Int) : List Count → List Count
  | [] => []
  | c :: cs => if c.isAt p then (if c.n + n = 0 then cs else { c with n := c.n + n } :: cs) else c :: addExact p n cs

/-- Add a positive count to a location's spill entry, at its least time. -/
def addSpill (h l : Nat) (t : Time) (n : Int) : List Count → List Count
  | [] => [⟨h, l, t, n⟩]
  | c :: cs =>
    if c.ofLoc h l then
      if c.n + n = 0 then cs else { c with n := c.n + n, time := if t.toNat < c.time.toNat then t else c.time } :: cs
    else c :: addSpill h l t n cs

/-- An increment. -/
def applyInc (cap : Nat) (p : Post) (t : Tracker) : Tracker :=
  if t.exact.any (fun c => c.isAt p) then { t with exact := addExact p p.n t.exact }
  else if t.exact.length < cap then { t with exact := t.exact ++ [⟨p.res, p.loc, p.time, p.n⟩] }
  else { t with spill := addSpill p.res p.loc p.time p.n t.spill }

/-- A negative entry for a decrement: in a free exact entry, or in the one of a positive count moved to its spill entry. -/
def newNegative (cap : Nat) (p : Post) (n : Int) (t : Tracker) : Option Tracker :=
  let e : Count := ⟨p.res, p.loc, p.time, n⟩
  if t.exact.length < cap then some { t with exact := t.exact ++ [e] }
  else match t.exact.find? (fun c => decide (c.n > 0)) with
    | none => none
    | some c => some { t with
        exact := t.exact.erase c ++ [e]
        spill := addSpill c.res c.loc c.time c.n t.spill }

/-- A decrement; `none` when it must wait. One that meets no exact entry is applied whole to a positive spill count, which it may make
negative (R329). -/
def applyDec (cap : Nat) (p : Post) (t : Tracker) : Option Tracker :=
  if t.exact.any (fun c => c.isAt p) then some { t with exact := addExact p p.n t.exact }
  else match t.spill.find? (fun c => c.ofLoc p.res p.loc) with
    | none => newNegative cap p p.n t
    | some c =>
      let rest := t.spill.filter (fun x => !x.ofLoc p.res p.loc)
      if c.n ≤ 0 then newNegative cap p p.n t
      else if c.n + p.n = 0 then some { t with spill := rest }
      else some { t with spill := rest ++ [{ c with n := c.n + p.n }] }

/-- Locations that a quad node and a die root forward without keeping: egress channels of bindings (R462). -/
def forwarded (s : State) (trk : Nat) (p : Post) : Bool :=
  decide (trk < 484) && (match get? p.res s.res with
    | none => false
    | some r => (upto r.desc.binds.length).any (fun b => (egressLocs r.desc b).contains p.loc))

/-- A whole batch, increments first; `none` when it waits. -/
def applyBatch (s : State) (trk : Nat) (b : List Post) (t : Tracker) : Option Tracker :=
  let kept := b.filter (fun p => !forwarded s trk p)
  let t := (kept.filter (fun p => decide (p.n > 0))).foldl (fun t p => applyInc (exactCap trk) p t) t
  (kept.filter (fun p => decide (p.n < 0))).foldl (fun o p => o.bind (applyDec (exactCap trk) p)) (some t)

/-- The tracker above, with the input that this one is to it. -/
def parentOf (trk : Nat) : Option (Nat × Nat) :=
  if trk < 480 then some (480 + trk / 120, trk % 120) else if trk < 484 then some (484, trk - 480) else none

/-- Queue a batch at an input of a tracker. -/
def State.enqueue (s : State) (trk input : Nat) (b : List Post) : State :=
  let t := getD {} trk s.trackers
  { s with trackers := put trk { t with inq := upd [] input (fun l => l ++ [b]) t.inq } s.trackers }

/-- R328: the oldest batch of an input is applied and its changes go up. -/
def execTrackerBatch (trk input : Nat) (s : State) : Result :=
  let t := getD {} trk s.trackers
  match getD [] input t.inq with
  | [] => .next s
  | b :: rest =>
    match applyBatch s trk b { t with inq := if rest.isEmpty then del input t.inq else put input rest t.inq } with
    | none => .next s
    | some t' =>
      let s := { s with trackers := put trk t' s.trackers }
      match parentOf trk with
      | none => .next s.act
      | some (up, i) => .next (s.enqueue up i b).act

/-! ### WAITF (R341) -/

/-- The tracker that an instruction's scope names, from a tile. -/
def trackerOf (k : Nat) (x : PrbX) : Nat := scopeTracker x.scp.toNat (quadOf k)

/-- R341: the first time registers; after the release, one token a firing goes out, in arrival order. -/
def execWaitf (h : Hd) (x : PrbX) (s : State) : Result :=
  let i : Instr := .waitf h x
  match ctxOf i s with
  | none => .next s
  | some c =>
    match (c.a.slot c.slot).wait with
    | none =>
      if leastTime (c.a.posNow c.slot .l) ≠ some c.time.toNat then .next s
      else
        let w : WaitF := { time := c.time, prb := x.prb.toNat, scp := x.scp.toNat }
        let trk := trackerOf c.key x
        let t := getD {} trk s.trackers
        let s := s.modAt c.key (fun a => a.modSlot c.slot (fun y => { y with wait := some w }))
        .next ({ s with trackers := put trk { t with regq := t.regq ++ [(⟨c.h, c.key, c.slot, c.time, x.prb.toNat⟩ : Waiter)] } s.trackers }).act
    | some w =>
      match w.freed with
      | none => .next s
      | some f =>
        let ready := (c.a.posNow c.slot .l).filter (fun k => passes (f.map BitVec.toNat) k.time.toNat)
        match ready with
        | [] => .next s
        | k :: rest =>
          if k.time ≠ c.time then .next s
          else fireOwn i (fun c s =>
            c.send (both h c.l.to) (if rest.isEmpty
              then s.modAt c.key (fun a => a.modSlot c.slot (fun y => { y with wait := none })) else s)) s

/-- R341: a registration reaches its tracker when a waiter entry is free. -/
def execWaitfRegister (trk : Nat) (s : State) : Result :=
  let t := getD {} trk s.trackers
  match t.regq with
  | [] => .next s
  | w :: rest =>
    if t.waiters.length ≥ waiterCap trk then .next s
    else .next ({ s with trackers := put trk { t with regq := rest, waiters := t.waiters ++ [w] } s.trackers }).act

/-- R341: a waiter whose time the frontier has passed is released with the frontier. -/
def execFrontierRelease (trk index : Nat) (s : State) : Result :=
  let t := getD {} trk s.trackers
  match t.waiters[index]? with
  | none => .next s
  | some w =>
    let f := frontier s trk w.res w.prb
    if passes f w.time.toNat then
      let s := { s with trackers := put trk { t with waiters := t.waiters.eraseIdx index } s.trackers }
      .next (s.modAt w.tile (fun a => a.modSlot w.slot (fun y => { y with
        wait := y.wait.map (fun v => { v with freed := some (f.map (BitVec.ofNat 64)) }) }))).act
    else .next s

/-! ### FRONT (R342) -/

/-- R342: sends a query; its pointstamp counts until the answer. -/
def execFront (h : Hd) (x : PrbX) (s : State) : Result :=
  fire (.front h x) (fun c s =>
    let trk := trackerOf c.key x
    let m := { c.msg (.front h x) h s.nextId with snum := x.prb.toNat }
    let t := getD {} trk s.trackers
    .fired [.l] [] (postAt c.a (posEdge c.slot .l) c.time 1)
      { s with nextId := s.nextId + 1, trackers := put trk { t with queries := t.queries ++ [m] } s.trackers }) s

/-- A frontier token (R342). -/
def frontBytes (f : Option Nat) : List Byte := match f with
  | some v => leBytes 8 v ++ zeros 8
  | none => List.replicate 8 0xFF ++ leBytes 8 1

/-- A query of a running residency answered with the frontier that the tracker holds. -/
def answerQuery (trk : Nat) (s : State) (m : Msg) : Option State :=
  if (runRes s m.h).isNone then none
  else
    let d := frontBytes (frontier s trk m.h m.snum)
    let k := match m.src with | .slot k _ => k | .core _ _ => 0
    let t := getD {} trk s.trackers
    let s1 := { s with trackers := put trk { t with queries := removeFirst (fun x => x == m) t.queries } s.trackers }
    answer k m [dataOut .n64 m.time d m.t0, dataOut .n64 m.time d m.t1] s1

/-- R342: the tracker answers the oldest query whose residency runs and whose targets take the answer. -/
def execFrontQuery (trk : Nat) (s : State) : Result :=
  match firstSome (answerQuery trk s) (getD {} trk s.trackers).queries with
  | some s1 => .next s1.act
  | none => .next s

end Sys2Proof.Machine
end

