-- ==== Sys2Proof/Machine/System.lean ====
section
/-! DEFINITION. The system instructions and tile control registers (R411 to R416), SVC (R423), LAUNCH and JOIN as they fire
(R389, R390). -/

namespace Sys2Proof.Machine

/-! ### Tile control registers (R411, R412) -/

/-- Feature bits (R83): bits 0 to 3 on every part, bit 4 with a share of the interleaved window, bit 5 with an expander port,
bit 6 with a host port. -/
def featr (s : State) : W64 :=
  let expander := s.host.ports.any (fun p => match p.2 with | .expander _ => true | _ => false)
  let host := s.host.ports.any (fun p => p.2 == .host)
  BitVec.ofNat 64 (15 + (if s.share ≥ 1 then 16 else 0) + (if expander then 32 else 0) + (if host then 64 else 0))

/-- Whether a class stops an operation until a disposition arrives (R392). -/
def FClass.isHold : FClass → Bool
  | .loadchk | .undrained | .launchovf => false
  | _ => true

/-- Whether a record is of a hold: what scan-out finds is only reported (R392, R400). -/
def FRec.isHold (f : FRec) : Bool := f.cls.isHold && !bit f.fflg 6

/-- Class code (R392). -/
def FClass.code : FClass → Nat
  | .range => 1 | .perm => 2 | .migrating => 3 | .notpresent => 4 | .discarded => 5 | .revoked => 6 | .ragged => 7
  | .align => 8 | .timeout => 9 | .uncorr => 10 | .timewrap => 11 | .softtrap => 12 | .brk => 13 | .loadchk => 14
  | .undrained => 15 | .launchovf => 16

/-- Whether a record names a tile of the residency (R393: PLACE 0). -/
def FRec.ofTile (f : FRec) (s : State) (h : Nat) (r : Res) (k : Nat) : Bool :=
  f.place == .at && f.rid == ridOf s h && f.qx == relX r k && f.qy == relY r k && f.tile == keyT k

/-- HELD of FAULTST: a hold of this tile is open (R412). -/
def tileHeld (s : State) (h : Nat) (r : Res) (k : Nat) : Bool :=
  s.faults.table.any (fun o => o.fr.isHold && o.fr.ofTile s h r k)

/-- A time-shape entry (R75). -/
def shapeEntry (w : List Nat) : Nat := w.length + (w.zipIdx.map (fun e => e.1 * 2 ^ (3 + 6 * e.2))).sum

/-- A register of a tile as RDCR and service cores read it; a reserved number reads 0 (R411). -/
def crRead (s : State) (k n : Nat) : W64 :=
  let a := s.at k
  let d := s.die (keyDie k)
  let of (f : Nat → Res → W64) : W64 := match a.res with
    | none => 0
    | some h => match get? h s.res with
      | some r => f h r
      | none => 0
  let shape (i : Nat) : W64 := of (fun _ r =>
    BitVec.ofNat 64 (shapeEntry (r.desc.shapes.getD (2 * i) []) + shapeEntry (r.desc.shapes.getD (2 * i + 1) []) * 2 ^ 32))
  if n = 0x00 then of (fun _ r => BitVec.ofNat 64 (keyT k + relX r k * 2 ^ 4 + relY r k * 2 ^ 8 + keyDie k * 2 ^ 12))
  else if n = 0x01 then 1
  else if n = 0x02 then featr s
  else if n = 0x03 then BitVec.ofNat 64 s.cycle
  else if n = 0x04 then of (fun h r => BitVec.ofNat 64 (r.asid + h * 2 ^ 12))
  else if n = 0x05 then of (fun _ r => r.larg)
  else if 0x08 ≤ n ∧ n ≤ 0x0B then shape (n - 8)
  else if n = 0x0C then of (fun _ r => BitVec.ofNat 64 r.epb)
  else if n = 0x10 then a.detseed
  else if n = 0x18 then of (fun h r => if tileHeld s h r k then a.faultst ||| BitVec.ofNat 64 (2 ^ 63) else a.faultst)
  else if n = 0x19 then a.faultad
  else if n = 0x1A then of (fun _ r => r.resst)
  else if n = 0x1B then of (fun _ r => r.failt)
  else if n = 0x1C then a.dbgctl
  else if n = 0x20 then a.sbstate
  else if n = 0x21 then BitVec.ofNat 64 (a.sharedFree + a.floors * 2 ^ 16 + a.tokensHeld * 2 ^ 32)
  else if n = 0x22 then a.tokstat
  else if 0x28 ≤ n ∧ n ≤ 0x2B then getD 0 (n - 0x28) a.perfsel
  else if 0x2C ≤ n ∧ n ≤ 0x2F then getD 0 (n - 0x2C) a.perfcnt
  else if n = 0x30 then BitVec.ofNat 64 (getD 0x100 (keyDie k) s.bccap)
  else if n = 0x38 then a.driftLim
  else if n = 0x39 then a.driftCost
  else if n = 0x40 then d.up0
  else if n = 0x41 then d.up1
  else if n = 0x42 then d.dn0
  else if n = 0x43 then d.dn1
  else if n = 0x44 then d.lim
  else if 0x80 ≤ n ∧ n ≤ 0x8F then getD 0 (n - 0x80) a.user
  else 0

/-- PERFSELk chooses an event and PERFCNTk restarts (R416). -/
def setPerfsel (a : AT) (j : Nat) (v : W64) : AT :=
  { a with perfsel := put j (v &&& 0xFF) a.perfsel, perfcnt := put j 0 a.perfcnt }

/-- A write to a register that residencies may write; read-only bits ignore it (R415). -/
def crWrite (a : AT) (n : Nat) (v : W64) : AT :=
  if n = 0x10 then { a with detseed := v }
  else if 0x28 ≤ n ∧ n ≤ 0x2B then setPerfsel a (n - 0x28) v
  else if n = 0x38 then { a with driftLim := v &&& 0xFF }
  else if n = 0x39 then { a with driftCost := v }
  else if 0x80 ≤ n ∧ n ≤ 0x8F then { a with user := put (n - 0x80) v a.user }
  else a

/-! ### TRAP, BRK, RDCR, WRCR, PERF (R413 to R416) -/

/-- GEN of SOFTTRAP and BRK (R392): CODE, then L payload bytes 8 to 39. -/
def trapGen (code : Nat) (l : List Byte) : List Nat := code :: (upto 8).map (fun i => natAt l (8 + 4 * i) 4)

/-- A hold by TRAP or BRK: RETRY passes L on, SKIP sends nothing, ABORT sends end-of-stream (R414). -/
def trapHold (h : Hd) (x : SysX) (cls : FClass) (c : Ctx) (s : State) : FireRes :=
  .hold
    { cls := cls, time := c.time, onRetry := some (both h c.l.to), onAbort := both h (markerOut 5 c.time) }
    (slotRec c.r (ridOf s c.h) c.key c.slot cls c.time (BitVec.ofNat 64 (natAt c.l.data 0 8)) (trapGen x.code.toNat c.l.data)) s

/-- R414: holds its slot with SOFTTRAP. -/
def execTrap (h : Hd) (x : SysX) (s : State) : Result := fire (.trap h x) (fun c s => trapHold h x .softtrap c s) s

/-- R414: holds with BRK when BRKEN is 1, and under `f` requests a freeze with cause 3; else passes L as MOV
does, its TYPE SH. -/
def execBrk (h : Hd) (x : SysX) (s : State) : Result :=
  fire (.brk h x) (fun c s =>
    if bit c.a.dbgctl.toNat 0 then
      trapHold h x .brk c
        (if h.md = 1 then { s with dsp := { s.dsp with frzq := s.dsp.frzq ++ [(c.h, 3)] } } else s)
    else c.send (both h (fun t => { c.l.to t with type := h.sh })) s) s

/-- R415: reads a register. -/
def execRdcr (h : Hd) (x : SysX) (s : State) : Result :=
  fire (.rdcr h x) (fun c s => c.send (both h (dataOut .n64 c.time (leBytes 8 (crRead s c.key x.crn.toNat).toNat))) s) s

/-- R415: writes a register that residencies may write. -/
def execWrcr (h : Hd) (x : SysX) (s : State) : Result :=
  fire (.wrcr h x) (fun c s =>
    c.send (both h (pulseOut c.time))
      (s.modAt c.key (fun a => crWrite a x.crn.toNat (BitVec.ofNat 64 (natAt c.l.data 0 8))))) s

/-- R416: reads a counter or CYCLE; `rdz` zeroes the counter. -/
def execPerf (h : Hd) (x : SysX) (s : State) : Result :=
  fire (.perf h x) (fun c s =>
    let j := x.sel.toNat
    let v := if j = 4 then BitVec.ofNat 64 s.cycle else getD 0 j c.a.perfcnt
    c.send (both h (dataOut .n64 c.time (leBytes 8 v.toNat)))
      (if h.md = 1 then s.modAt c.key (fun a => { a with perfcnt := put j 0 a.perfcnt }) else s)) s

/-! ### SVC (R423) -/

/-- A token joins a core's take queue. -/
def State.giveCore (s : State) (c : Nat) (t : Take) : State :=
  { s with cores := upd {} c (fun x => { x with takeq := x.takeq ++ [t] }) s.cores }

/-- R423: sends a service request; the reply comes under its handle. -/
def execSvc (h : Hd) (x : SysX) (s : State) : Result :=
  fire (.svc h x) (fun c s =>
    let e := getD 0 x.sel.toNat s.clsmap
    if outgoing s c.key ≥ 4 then .idle
    else if !bit e 7 then c.holdWith (.svc h x) .range descFlag 0 [] [] s
    else
      let m := c.msg (.svc h x) h s.nextId
      let s := { s with nextId := s.nextId + 1, svcs := put m.id ⟨m, c.l, e % 32, none⟩ s.svcs }
      .fired [.l] [] (postAt c.a (posEdge c.slot .l) c.time 1)
        (s.giveCore (e % 32) { cls := x.sel.toNat, code := x.code.toNat, asid := c.r.asid, handle := m.id, tok := c.l })) s

/-! ### LAUNCH and JOIN (R389, R390) -/

/-- Wait pairs of a payload (R378, R390): record id, probe, time. -/
def waitPairs (bs : List Byte) (o n : Nat) : List (Nat × Nat × Time) :=
  (upto n).map (fun i => (natAt bs (o + 16 * i) 4, natAt bs (o + 16 * i + 4) 1, BitVec.ofNat 64 (natAt bs (o + 16 * i + 8) 8)))

/-- R390: sends a launch request; the answer comes when the record is created. Level 255 is the template's. -/
def execLaunch (h : Hd) (imm : BitVec 30) (s : State) : Result :=
  fire (.launch h imm) (fun c s =>
    if outgoing s c.key ≥ 4 then .idle
    else
      let v := imm.toNat
      let d := c.l.data
      let p := bits v 12 3
      let q : LaunchReq :=
        { src := .msg (c.msg (.launch h imm) h s.nextId), asid := c.r.asid, tmpl := bits v 0 12,
          prio := if p = 7 then 255 else p, aff := keyDie c.key, epb := epochOf c.time, parent := natAt d 8 4,
          join := natAt d 12 4, arg := BitVec.ofNat 64 (natAt d 0 8), waits := waitPairs d 16 (bits v 15 4) }
      .fired [.l] [] (postAt c.a (posEdge c.slot .l) c.time 1)
        { s with nextId := s.nextId + 1, dsp := { s.dsp with launchq := s.dsp.launchq ++ [q] } }) s

/-- R390: sends a change of a record's join counter. -/
def execJoin (h : Hd) (imm : BitVec 30) (s : State) : Result :=
  fire (.join h imm) (fun c s =>
    if outgoing s c.key ≥ 4 then .idle
    else
      let d := c.l.data
      let q : JoinReq :=
        { src := .msg (c.msg (.join h imm) h s.nextId), asid := c.r.asid, set := h.md == 0, id := natAt d 0 4,
          n := if h.md = 0 then natAt d 4 4 else bits imm.toNat 0 16 }
      .fired [.l] [] (postAt c.a (posEdge c.slot .l) c.time 1)
        { s with nextId := s.nextId + 1, dsp := { s.dsp with joinq := s.dsp.joinq ++ [q] } }) s

end Sys2Proof.Machine
end

