-- ==== Sys2Proof/Machine/Load.lean ====
section
/-! DEFINITION. What the configuration loader checks of a residency's blocks (R41, R42, R59, R60, R62, R143, R170 to R172,
R180, R315, R316, R325, R337, R339, R341, R346, R372, R373), and the depths, covers and path summaries it computes. -/

namespace Sys2Proof.Machine

/-- What a LOADCHK record names (R465): section type and record, tile, slot, and whether it is a block header. -/
structure LoadErr where
  sec    : Nat
  rec'   : Nat := 0xFFFFFFFF
  tile   : Option (Nat × Nat × Nat) := none
  slot   : Option Nat := none
  header : Bool := false
  deriving DecidableEq, Repr, Inhabited

/-- The first failing check of a list. -/
def firstErr : List (Bool × LoadErr) → Option LoadErr
  | [] => none
  | (bad, e) :: cs => if bad then some e else firstErr cs

/-! ### Blocks and places -/

/-- A block as a bank. -/
def Block.bank (b : Block) : Bank := { valid := true, words := b.words }

/-- The block of a tile. -/
def Desc.blockAt (d : Desc) (x y t : Nat) : Option Block := d.blocks.find? (fun b => b.qx == x && b.qy == y && b.t == t)

/-- Instructions of a block with their slots. -/
def Block.instrs (b : Block) : List (Nat × Instr) :=
  (upto b.bank.icnt).filterMap (fun k => (b.bank.instr k).map (fun i => (k, i)))

/-- Every slot of a residency. -/
def Desc.slots (d : Desc) : List (Block × Nat × Instr) := d.blocks.flatMap (fun b => b.instrs.map (fun e => (b, e.1, e.2)))

/-- Whether a position is one that its slot's opcode uses. -/
def Desc.posUsed (d : Desc) (x y t slot pos : Nat) : Bool := match (d.blockAt x y t).bind (fun b => b.bank.instr slot) with
  | some i => (uses i).any (fun q => q.num == pos)
  | none => false

/-- Whether byte `o` of a buffer of a tile lies within an allocation (R41). -/
def Desc.inAlloc (d : Desc) (x y t buf o : Nat) : Bool :=
  d.tbi.any (fun a => a.qx == x && a.qy == y && a.t == t && a.buf == buf && decide (a.off ≤ o) && decide (o < a.off + a.size))

/-- Fields of an engine word. -/
def engX? : Instr → Option EngX
  | .send _ x | .cpy _ x | .cpys _ x | .cpyf _ x | .cpyc _ x | .sbw _ x | .snap _ x | .cmbc _ x | .cmba _ x | .cmbi _ x
  | .cmbr _ x | .syno _ x | .synq _ x => some x
  | _ => none

/-- Whether DSC is a descriptor address (R41). -/
def readsDesc : Instr → Bool
  | .send _ _ | .cpy _ _ | .cpys _ _ | .cmbc _ _ | .syno _ _ | .snap _ _ => true
  | _ => false

/-- Whether the word acts on a combine unit (R316). -/
def onUnit : Instr → Bool
  | .cmbc _ _ | .cmba _ _ | .cmbi _ _ | .cmbr _ _ => true
  | _ => false

/-- Whether a conversion word counts statistics (R245). -/
def countsStats : Instr → Bool
  | .cvt h _ | .cvts h _ | .qnt h _ | .dqnt h _ | .pack h _ | .unpk h _ => decide (h.md.toNat ≥ 8)
  | _ => false

/-- Whether a word is time-committed (R62, R346). -/
def isTc : Instr → Bool
  | .lds _ x | .sts _ x => x.tc
  | _ => false

/-- Whether a slot issues deterministic updates (R372). -/
def detUpdates : Instr → Bool
  | .amo _ _ | .amor _ _ | .red _ _ | .bin _ _ | .binf _ _ | .scat _ _ => true
  | _ => false

/-! ### R41: one block -/

/-- Header checks. -/
def headerBad (d : Desc) (b : Block) : Bool :=
  let k := b.bank
  let stcBad := k.stc ≠ 127 && (match k.chan k.stc with
    | some w => w.cls != 1 || decide (k.stc > 63)
    | none => true)
  k.ver ≠ 1 || k.kind ≠ 0 || k.icnt = 0 || k.icnt > 128 || k.tsi ≥ d.shapes.length || k.cho ≠ 2 + k.icnt || k.sdo < k.cho
    || b.words.length ≠ k.sdo + (k.icnt + 1) / 2 || stcBad || k.det != d.det || hdrBits k 0 84 ≠ 0

/-- A channel word (R59, R42: a route leaves the region). -/
def chanBad (d : Desc) (b : Block) (i : Nat) : Bool :=
  let w := (b.words.getD (b.bank.cho + i) 0)
  let v := w.toNat
  let c := chanWord w
  let dest : Bool := if c.cls = 2 then c.dqx ≠ 0 || c.dqy ≠ 0 || c.dt ≠ 0 || c.dslot ≠ 0 || c.dpos ≠ 0 || c.depth = 0
    else c.dt = 3 || c.dpos = 3 || c.dqx ≥ d.w || c.dqy ≥ d.h || !d.posUsed c.dqx c.dqy c.dt c.dslot c.dpos
  let bind : Bool := if c.cls = 2 then (match d.binds[c.bind]? with | some x => x.kind != 0 | none => true) else c.bind ≠ 0
  let bq : Bool := c.bq ≠ 63 && (match d.backqs[c.bq]? with | some q => q.tokens == 0 | none => true)
  let rep := (b.bank.chans.filter (fun x => x.ch == c.ch)).length ≠ 1
  bits v 0 18 ≠ 0 || c.cls = 3 || dest || bind || bq || rep

/-- The slot-depth table (R60). -/
def depthTableBad (b : Block) : Bool :=
  let ws := (b.words.drop b.bank.sdo).map BitVec.toNat
  let unused := ws.any (fun w => bits w 24 8 != 0 || bits w 56 8 != 0)
  let odd := decide (b.bank.icnt % 2 = 1) && (match ws.getLast? with | some w => bits w 32 24 != 0 | none => false)
  let slot (e : Nat × Instr) : Bool := (upto 3).any (fun p =>
    ((uses e.2).any (fun q => q.num == p)) != decide (b.bank.slotDepth e.1 p ≠ 0))
  unused || odd || b.instrs.any slot

/-- A target that names nothing of the block (R41). -/
def targetBad (b : Block) : Target → Bool
  | .none => false
  | .pos q slot => (match b.bank.instr slot.toNat with
    | some i => decide (slot.toNat ≥ b.bank.icnt) || !(uses i).contains q
    | none => decide (slot.toNat ≥ b.bank.icnt))
  | .chan c => (b.bank.chan c.toNat).isNone

/-- The edge of a RESIZE (R192). -/
def resizeBad (b : Block) (imm : BitVec 30) : Bool :=
  let ix := immBits imm 21 7
  let k := immBits imm 28 2
  if k = 3 then (match b.bank.chan ix with | some w => w.depth == 0 | none => true)
  else match b.bank.instr ix with
    | some i => decide (ix ≥ b.bank.icnt) || !(uses i).any (fun q => q.num == k)
    | none => true

/-- A byte of an A allocation as the image holds it. -/
def Desc.aByte (d : Desc) (x y t o : Nat) : Byte :=
  match d.tbi.find? (fun a => a.qx == x && a.qy == y && a.t == t && a.buf == 1 && decide (a.off ≤ o) && decide (o < a.off + a.size)) with
  | some a => a.image.getD (o - a.off) 0
  | none => 0

/-- Whether the word sends a copy, fill or stream descriptor whose destination space is Q, as the image holds it (R143). -/
def copyIntoQ (d : Desc) (b : Block) (i : Instr) : Bool :=
  match i with
  | .send _ x => (d.aByte b.qx b.qy b.t (8 * x.dsc.toNat + 14)).toNat / 16 % 8 == 4
  | .cpy _ x | .cpys _ x => (d.aByte b.qx b.qy b.t (8 * x.dsc.toNat + 6)).toNat / 16 % 8 == 4
  | _ => false

/-- What a word's fields must find in the residency (R41, R62, R143, R180, R192, R245, R316). -/
def contextBad (d : Desc) (b : Block) (i : Instr) : Bool :=
  let eng := match engX? i with
    | some x => decide (x.eqx.toNat ≥ d.w) || decide (x.eqy.toNat ≥ d.h)
        || (readsDesc i && !d.inAlloc b.qx b.qy b.t 1 (8 * x.dsc.toNat))
        || (onUnit i && !d.combines.any (fun c => c.qx == x.eqx.toNat && c.qy == x.eqy.toNat))
    | none => false
  let own := match i with
    | .mldb _ x => !d.inAlloc b.qx b.qy x.src.toNat 0 (16 * x.woff.toNat)
    | .mrowa _ x => !d.inAlloc b.qx b.qy x.src.toNat 1 (16 * x.woff.toNat)
    | .cdmc _ x | .cdip _ x => !d.inAlloc b.qx b.qy b.t 0 (64 * x.woff.toNat)
    | .agen _ x => !d.inAlloc b.qx b.qy b.t 1 x.off.toNat
    | .waitf _ x | .front _ x => (d.probe x.prb.toNat).isNone
    | .hold _ x | .release _ x => (match d.locs[x.loc.toNat]? with
      | some (.cap x y t _) => !(x == b.qx && y == b.qy && t == b.t)
      | _ => true)
    | .resize _ imm => resizeBad b imm
    | _ => false
  eng || own || copyIntoQ d b i || (countsStats i && decide (b.bank.stc = 127)) || (isTc i && d.tcp.isNone)

/-- The first failing check of a slot's word. -/
def wordBad (d : Desc) (b : Block) (slot : Nat) : Bool := match decodeWord (b.bank.word slot) with
  | .error _ => true
  | .ok i => !i.wf || (targetsOf i).any (targetBad b) || contextBad d b i

/-- The checks of one block (R41, R59, R60, R171), in this order. -/
def blockErr (d : Desc) (n : Nat) (b : Block) : Option LoadErr :=
  let at' : LoadErr := { sec := 4, rec' := n, tile := some (b.qx, b.qy, b.t) }
  match firstErr
    [(decide (b.t > 2) || decide (b.qx ≥ d.w) || decide (b.qy ≥ d.h) || headerBad d b, { at' with header := true }),
     ((upto (b.bank.sdo - b.bank.cho)).any (chanBad d b), at')] with
  | some e => some e
  | none => match firstSome (fun k => if wordBad d b k then some { at' with slot := some k } else none) (upto b.bank.icnt) with
    | some e => some e
    | none => firstErr
      [(depthTableBad b, at'),
       (decide (({ active := b.bank } : AT).floors > 256), at')]

/-! ### The graph (R325, R331 to R334, R339, R373) -/

/-- An edge of the residency's graph, from place to place. -/
abbrev Edge := Loc × Loc × Summary

def ident : Summary := ⟨0, 0, 0⟩

/-- Summary of what target `k` of an instruction is sent (R332). -/
def outSum (i : Instr) (k : Nat) : Summary := match i with
  | .enter _ => ⟨0, 0, 1⟩
  | .cnt _ | .repeat _ => if k = 0 then ⟨0, 0, 1⟩ else ident
  | .leave _ => ⟨1, 0, 0⟩
  | .step _ imm | .epoch _ imm => ⟨0, imm.toNat, 0⟩
  | _ => ident

/-- Place of a target. -/
def targetPlace (b : Block) : Target → Option Loc
  | .none => none
  | .pos q slot => some (.pos b.qx b.qy b.t slot.toNat q.num)
  | .chan c => some (.chan b.qx b.qy b.t c.toNat)

/-- Places a slot's tokens go to, with summaries: its targets, and the statistics channel (R245). -/
def slotOuts (b : Block) (i : Instr) : List (Loc × Summary) :=
  ((targetsOf i).zipIdx.filterMap (fun e => (targetPlace b e.1).map (fun l => (l, outSum i e.2))))
    ++ (if countsStats i then [(Loc.chan b.qx b.qy b.t b.bank.stc, ident)] else [])

/-- Positions of a slot. -/
def slotIns (b : Block) (slot : Nat) (i : Instr) : List Loc := (uses i).map (fun q => Loc.pos b.qx b.qy b.t slot q.num)

/-- Edges of the channels. -/
def chanEdges (d : Desc) : List Edge :=
  d.blocks.flatMap (fun b => b.bank.chans.filterMap (fun c =>
    if c.cls = 2 then none else some (.chan b.qx b.qy b.t c.ch, .pos c.dqx c.dqy c.dt c.dslot c.dpos, ident)))

/-- Edges along which depths pass (R170): every target of a slot, every channel. -/
def depthEdges (d : Desc) : List Edge :=
  chanEdges d ++ d.slots.flatMap (fun e => (slotIns e.1 e.2.1 e.2.2).flatMap (fun u =>
    (slotOuts e.1 e.2.2).map (fun o => (u, o.1, o.2))))

/-! ### Depths (R170) -/

abbrev DepthMap := List (Loc × Int)

def DepthMap.get (m : DepthMap) (l : Loc) : Option Int := (m.find? (fun e => e.1 == l)).map (·.2)

/-- The places where depths start: the entry and the ingress positions. -/
def depthStarts (d : Desc) : DepthMap :=
  (Loc.pos d.eqx d.eqy d.etl d.esl d.eps, (0 : Int)) ::
    d.binds.filterMap (fun b => if b.kind = 1 then some (.pos b.qx b.qy b.tile b.slot b.pos, (b.depth : Int)) else none)

/-- One pass over the edges. -/
def depthPass (es : List Edge) (m : DepthMap) : DepthMap :=
  es.foldl (fun m e => match DepthMap.get m e.1, DepthMap.get m e.2.1 with
    | some v, none => m ++ [(e.2.1, v - e.2.2.p + e.2.2.q)]
    | _, _ => m) m

def depthAll (es : List Edge) : Nat → DepthMap → DepthMap
  | 0, m => m
  | n + 1, m => let m' := depthPass es m; if m' == m then m else depthAll es n m'

/-- Static depths of the places that tokens can reach. -/
def depths (d : Desc) : DepthMap := let es := depthEdges d; depthAll es (es.length + 1) (depthStarts d)

/-- Depth of a slot's firing, where tokens reach it. -/
def slotDepthOf (m : DepthMap) (b : Block) (slot : Nat) (i : Instr) : Option Int :=
  firstSome (fun l => DepthMap.get m l) (slotIns b slot i)

/-! ### Engine places -/

/-- Engine place that work of a slot passes through: the copy engine (R130, R311), the combine unit (R318, R319, R322), the
syntax bindings (R284), the deterministic-pending location (R373). -/
def enginePlaces (d : Desc) (b : Block) (i : Instr) : List Loc :=
  let eng := match i with
    | .send _ x | .cpy _ x | .cpys _ x => [Loc.copy x.eqx.toNat x.eqy.toNat]
    | .cdmc _ _ | .cdip _ _ => [Loc.copy b.qx b.qy]
    | .cmba _ x | .cmbi _ x | .cmbr _ x => [Loc.cmb x.eqx.toNat x.eqy.toNat]
    | .syno _ _ => (upto d.binds.length).filterMap (fun n =>
        if ((d.binds[n]?).map (·.kind)) = some 2 then some (Loc.syn n) else none)
    | _ => []
  eng ++ (if d.det && detUpdates i then [Loc.detPend] else [])

/-- The part of an engine place that work of one static depth passes: its results come back at that depth (R170, log 25). -/
def hubOf (e : Nat) : Loc → Loc
  | .copy x y => .hub 0 x y e
  | .cmb x y => .hub 1 x y e
  | .detPend => .hub 2 0 0 e
  | l => l

/-- The engine place of a hub. -/
def hubPlace : Loc → Loc
  | .hub 0 x y _ => .copy x y
  | .hub 1 x y _ => .cmb x y
  | .hub _ _ _ _ => .detPend
  | l => l

/-- Edges of one slot. The tokens of CMBR's targets come from the unit, CMBA and CMBI send nothing from it. -/
def slotEdges (d : Desc) (m : DepthMap) (b : Block) (slot : Nat) (i : Instr) : List Edge :=
  let l := Loc.pos b.qx b.qy b.t slot 0
  let outs := slotOuts b i
  let direct := match i with | .cmbr _ _ => [] | _ => outs
  let feeds := match i with | .cmba _ _ | .cmbi _ _ => [] | _ => outs
  let cap := match i with
    | .hold _ x => (match d.locs[x.loc.toNat]? with
      | some c => [(l, c, ident), (c, l, ident)]
      | none => [])
    | _ => []
  (slotIns b slot i).flatMap (fun u => direct.map (fun o => (u, o.1, o.2)))
    ++ (enginePlaces d b i).flatMap (fun e =>
      let h := hubOf ((slotDepthOf m b slot i).getD 0).toNat e
      (if e == .detPend then [] else [(l, h, ident)]) ++ (if h == e then [] else [(h, e, ident)])
        ++ feeds.map (fun o => (h, o.1, o.2)))
    ++ cap

/-- The graph's edges. -/
def graphEdges (d : Desc) : List Edge :=
  let m := depths d
  chanEdges d ++ d.slots.flatMap (fun e => slotEdges d m e.1 e.2.1 e.2.2)

/-- The lesser of two summaries. -/
def minSum (a b : Option Summary) : Option Summary := match a, b with
  | none, y => y
  | x, none => x
  | some x, some y => if leSum x y then some x else some y

/-- Best summaries known from one place. -/
abbrev Reach := List (Loc × Summary)

def Reach.get (v : Reach) (l : Loc) : Option Summary := (v.find? (fun e => e.1 == l)).map (·.2)

/-- Put a better summary. -/
def Reach.improve (v : Reach) (l : Loc) (s : Summary) : Reach := match Reach.get v l with
  | none => v ++ [(l, s)]
  | some old => if leSum old s then v else v.map (fun e => if e.1 == l then (l, s) else e)

/-- One pass over the edges. -/
def relax (es : List Edge) (v : Reach) : Reach :=
  es.foldl (fun v e => match Reach.get v e.1 with
    | none => v
    | some s => Reach.improve v e.2.1 (composeSum s e.2.2)) v

/-- Passes until nothing changes. -/
def relaxAll (es : List Edge) : Nat → Reach → Reach
  | 0, v => v
  | n + 1, v => let v' := relax es v; if v' == v then v else relaxAll es n v'

/-- A list without its repeats. -/
def distinct {α : Type} [DecidableEq α] (l : List α) : List α := l.foldl (fun acc x => if acc.contains x then acc else acc ++ [x]) []

/-- Least summaries from a place to every place it reaches (R334); an engine place starts from each of its depths. -/
def reachFrom (es : List Edge) (l : Loc) : Reach :=
  let hubs := es.filterMap (fun e => if e.1 != l && hubPlace e.1 == l then some (e.1, ident) else none)
  relaxAll es (8 * (es.length + 1)) ((l, ident) :: distinct hubs)

/-- Order of tiles, then slots, then positions, then channels (R325). -/
def placeOrder : Loc → Nat
  | .pos x y t slot p => (((y * 12 + x) * 4 + t) * 1024) + slot * 4 + p
  | .chan x y t c => (((y * 12 + x) * 4 + t) * 1024) + 512 + c
  | .copy x y => (((y * 12 + x) * 4 + 3) * 1024) + 700
  | .cmb x y => (((y * 12 + x) * 4 + 3) * 1024) + 701
  | .owner x y => (((y * 12 + x) * 4 + 3) * 1024) + 702
  | .cap x y t k => (((y * 12 + x) * 4 + t) * 1024) + 800 + k
  | .detPend => 2 ^ 30
  | .syn b => 2 ^ 30 + 1 + b
  | .hub k x y e => 2 ^ 31 + ((k * 10 + y) * 12 + x) * 8 + e

/-- Shape of a block. -/
def Desc.shapeOfBlock (d : Desc) (b : Block) : List Nat := d.shapes.getD b.bank.tsi []

/-- Whether some target, channel, binding or the entry names a position of a slot. -/
def reached (d : Desc) (es : List Edge) (b : Block) (slot : Nat) (i : Instr) : Bool :=
  let ps := slotIns b slot i
  es.any (fun e => ps.contains e.2.1) || (depthStarts d).any (fun e => ps.contains e.1)

/-- The depth rules of one slot. -/
def slotDepthBad (d : Desc) (es : List Edge) (m : DepthMap) (b : Block) (slot : Nat) (i : Instr) : Bool :=
  if !reached d es b slot i then false
  else
    let ds := (slotIns b slot i).map (DepthMap.get m)
    let clash := (slotIns b slot i).any (fun l => es.any (fun e => e.2.1 == l &&
      (match DepthMap.get m e.1, DepthMap.get m l with
        | some u, some v => v != u - e.2.2.p + e.2.2.q
        | _, _ => false)) || (depthStarts d).any (fun e => e.1 == l && DepthMap.get m l != some e.2))
    match ds.head? with
    | some (some v) =>
      let top := (d.shapeOfBlock b).length
      let own := match i with
        | .enter _ | .cnt _ | .repeat _ => decide (v = top)
        | .leave _ | .step _ _ => decide (v = 0)
        | .epoch _ _ => decide (v > 0)
        | _ => false
      clash || ds.any (fun x => x != some v) || decide (v < 0) || decide (v > top) || own
    | _ => true

/-- A channel that slots of different static depths feed (R42, R170). -/
def chanDepthBad (es : List Edge) (m : DepthMap) (b : Block) (c : ChanWord) : Bool :=
  let l := Loc.chan b.qx b.qy b.t c.ch
  es.any (fun e => e.2.1 == l && (match DepthMap.get m e.1, DepthMap.get m l with
    | some u, some v => v != u - e.2.2.p + e.2.2.q
    | _, _ => false))

/-- A channel whose blocks' shapes differ below its depth (R170). -/
def chanShapeBad (d : Desc) (m : DepthMap) (b : Block) (c : ChanWord) : Bool :=
  if c.cls = 2 then false
  else match DepthMap.get m (.chan b.qx b.qy b.t c.ch), d.blockAt c.dqx c.dqy c.dt with
    | some v, some b' => (d.shapeOfBlock b).take v.toNat != (d.shapeOfBlock b').take v.toNat
    | _, _ => false

/-- An egress binding fed by channels of different depths (R64). -/
def egressDepths (d : Desc) (m : DepthMap) (n : Nat) : List Int :=
  d.blocks.flatMap (fun b => (b.bank.chans.filter (fun c => c.cls == 2 && c.bind == n)).filterMap (fun c =>
    DepthMap.get m (.chan b.qx b.qy b.t c.ch)))

/-- Channels of depth 0 that a channel of depth 0 leads to (R172). -/
def zeroNext (d : Desc) (c : Nat × Nat × Nat × ChanWord) : List (Nat × Nat × Nat × Nat) :=
  let w := c.2.2.2
  match (d.blockAt w.dqx w.dqy w.dt) with
  | none => []
  | some b => match b.bank.instr w.dslot with
    | none => []
    | some i => (slotOuts b i).filterMap (fun o => match o.1 with
      | .chan x y t k => match b.bank.chan k with
        | some w' => if w'.depth = 0 then some (x, y, t, k) else none
        | none => none
      | _ => none)

/-- The channels of depth 0. -/
def zeroChans (d : Desc) : List (Nat × Nat × Nat × ChanWord) :=
  d.blocks.flatMap (fun b => (b.bank.chans.filter (fun c => c.depth == 0 && c.cls != 2)).map (fun c => (b.qx, b.qy, b.t, c)))

/-- Drop the channels that lead to none of those left; a cycle is what remains. -/
def zeroPrune (d : Desc) : Nat → List (Nat × Nat × Nat × ChanWord) → List (Nat × Nat × Nat × ChanWord)
  | 0, cs => cs
  | n + 1, cs =>
    let cs' := cs.filter (fun c => (zeroNext d c).any (fun k => cs.any (fun e => (e.1, e.2.1, e.2.2.1, e.2.2.2.ch) == k)))
    zeroPrune d n cs'

/-! ### Checks over the whole residency -/

/-- A slot as what a record names. -/
def slotErr (d : Desc) (b : Block) (slot : Option Nat) : LoadErr :=
  { sec := 4, rec' := (d.blocks.findIdx? (fun x => x == b)).getD 0, tile := some (b.qx, b.qy, b.t), slot := slot }

/-- Slots that name a unit with one opcode (R316). -/
def unitSlots (d : Desc) (x y : Nat) (p : Instr → Bool) : List (Block × Nat × Instr) :=
  d.slots.filter (fun e => p e.2.2 && ((engX? e.2.2).map (fun g => g.eqx.toNat == x && g.eqy.toNat == y)).getD false)

/-- R170: the tile and slot named for a channel: those of the position it feeds, or for an egress channel those of the first
slot that sends into it (DEDUCED, log 27). -/
def chanErr (d : Desc) (b : Block) (c : ChanWord) : LoadErr :=
  if c.cls = 2 then
    slotErr d b ((b.instrs.find? (fun e => (targetsOf e.2).any (fun t => match t with | .chan x => x.toNat == c.ch | _ => false))).map (·.1))
  else match d.blockAt c.dqx c.dqy c.dt with
    | some b' => slotErr d b' (some c.dslot)
    | none => slotErr d b none

/-- R315, R316: the slots and the return probe of a combine unit; no combine location has a path to it. -/
def unitErr (d : Desc) (es : List Edge) (c : CmbDecl) : Option LoadErr :=
  let recv := unitSlots d c.qx c.qy (fun i => match i with | .cmbr _ _ => true | _ => false)
  let ins := unitSlots d c.qx c.qy (fun i => match i with | .cmbi _ _ => true | _ => false)
  let alloc := unitSlots d c.qx c.qy (fun i => match i with | .cmba _ _ => true | _ => false)
  let second (l : List (Block × Nat × Instr)) : Option LoadErr := match l with
    | _ :: e :: _ => some (slotErr d e.1 (some e.2.1))
    | _ => none
  let ret := (d.probe c.ret).bind (fun p => d.locs[p.loc]?)
  let retBad := match ret, ins with
    | some l, e :: _ => l != .pos e.1.qx e.1.qy e.1.t e.2.1 0
    | some _, [] => false
    | none, _ => true
  let loops := match ret with
    | some l => d.combines.any (fun u => (Reach.get (reachFrom es (.cmb u.qx u.qy)) l).isSome)
    | none => false
  match second recv with
  | some e => some e
  | none => match second ins with
    | some e => some e
    | none => match (if d.det then second alloc else none) with
      | some e => some e
      | none => if retBad || loops then some { sec := 12 } else none

/-- R337, R341, R346, R372: a slot whose rule needs path summaries. -/
def progressBad (d : Desc) (es : List Edge) (b : Block) (slot : Nat) (i : Instr) : Bool :=
  let l := Loc.pos b.qx b.qy b.t slot 0
  let sumTo (p : Nat) : Option Summary := ((d.probe p).bind (fun q => d.locs[q.loc]?)).bind (Reach.get (reachFrom es l))
  let tc := match d.tcp with | some p => (sumTo p).isSome | none => false
  let scope (x : PrbX) : Bool := match d.probe x.prb.toNat with
    | some p => !scopeHolds d b.qx b.qy p.loc x.scp.toNat
    | none => true
  (match i with
    | .waitf _ x => scope x || ((sumTo x.prb.toNat).map (fun s => s.d == 0)).getD false
    | .front _ x => scope x
    | .sts _ x => x.tc && !tc
    | _ => false)
  || (d.det && detUpdates i && (!tc || ((Reach.get (reachFrom es .detPend) l).map (fun s => s.d == 0)).getD false))

/-- The structural checks of a residency (R42, R59, R62, R64, R66, R67, R170, R172, R315, R316, R337, R341, R346, R372). -/
def residencyErr (d : Desc) : Option LoadErr :=
  let es := graphEdges d
  let ds := depthEdges d
  let m := depths d
  let slotCheck (f : Block → Nat → Instr → Bool) : Option LoadErr :=
    firstSome (fun (e : Block × Nat × Instr) => if f e.1 e.2.1 e.2.2 then some (slotErr d e.1 (some e.2.1)) else none) d.slots
  let chanCheck (f : Block → ChanWord → Bool) : Option LoadErr :=
    firstSome (fun (b : Block) => (b.bank.chans.find? (f b)).map (chanErr d b)) d.blocks
  let bindCheck : Option LoadErr := firstSome (fun (n : Nat) =>
    match d.binds[n]? with
    | none => none
    | some x =>
      let bad := (x.kind = 1 && !d.posUsed x.qx x.qy x.tile x.slot x.pos)
        || (x.kind = 0 && (match egressDepths d m n with | [] => false | v :: vs => vs.any (fun w => w != v)))
      if bad then some { sec := 9, rec' := n } else none) (upto d.binds.length)
  let zero := zeroChans d
  let cyc := zeroPrune d (zero.length + 1) zero
  firstSome id
    [ if d.posUsed d.eqx d.eqy d.etl d.esl d.eps then none else some { sec := 3 },
      if d.det && d.tcp.isNone then some { sec := 3 } else none,
      slotCheck (slotDepthBad d ds m),
      chanCheck (chanDepthBad ds m),
      chanCheck (chanShapeBad d m),
      bindCheck,
      (cyc.head?).bind (fun c => (d.blockAt c.1 c.2.1 c.2.2.1).map (fun b => slotErr d b none)),
      firstSome (unitErr d es) d.combines,
      slotCheck (progressBad d es) ]

/-! ### What the loader computes for a tile (R170, R325) -/

/-- Places of a residency that hold tokens or work. -/
def places (d : Desc) : List Loc :=
  let ds := depthEdges d
  let ps := d.slots.flatMap (fun e => if reached d ds e.1 e.2.1 e.2.2 then slotIns e.1 e.2.1 e.2.2 else [])
  let cs := d.blocks.flatMap (fun b => b.bank.chans.map (fun c => Loc.chan b.qx b.qy b.t c.ch))
  let es := d.slots.flatMap (fun e => (enginePlaces d e.1 e.2.2).filter (fun l => match l with | .copy _ _ | .cmb _ _ => true | _ => false))
  (ps ++ cs ++ es).foldl (fun acc l => if acc.contains l then acc else insertBy (fun a b => decide (placeOrder a < placeOrder b)) l acc) []

/-- Whether location `l` covers a place (R325): the identity leads from it to the place, and both have the same summary to
every probe's location, or both lack a path. -/
def coversPlace (es : List Edge) (probes : List Loc) (l place : Loc) : Bool :=
  let rl := reachFrom es l
  let rp := reachFrom es place
  Reach.get rl place == some ident && probes.all (fun p => Reach.get rl p == Reach.get rp p)

/-- Locations of the probes. -/
def probeLocs (d : Desc) : List Loc := d.probes.filterMap (fun p => d.locs[p.loc]?)

/-- The location that stands for a place: itself, or the lowest-numbered that covers it. -/
def coverOf (d : Desc) (es : List Edge) (place : Loc) : Option Nat := match d.locIdx place with
  | some n => some n
  | none => d.locs.findIdx? (fun l => coversPlace es (probeLocs d) l place)

/-- Whether a declaration names the location: a probe, a HOLD or RELEASE, a binding, a deterministic or syntax location. -/
def isDeclared (d : Desc) (l : Loc) : Bool :=
  (probeLocs d).contains l
  || (match l with
    | .cap _ _ _ _ | .detPend | .syn _ => true
    | .chan x y t c => (d.blockAt x y t).any (fun b => match b.bank.chan c with | some w => w.cls == 2 | none => false)
    | .pos x y t s p => d.binds.any (fun b => b.kind == 1 && b.qx == x && b.qy == y && b.tile == t && b.slot == s && b.pos == p)
    | _ => false)

/-- The locations that R325 appends to a list of them. -/
def appendLocs (es : List Edge) (probes : List Loc) : List Loc → List Loc → List Loc
  | [], ls => ls
  | p :: ps, ls => appendLocs es probes ps (if ls.contains p || ls.any (fun l => coversPlace es probes l p) then ls else ls ++ [p])

/-- R62, R325, R373: the declared locations come first, those that bindings, deterministic mode and syntax bindings add are
among them, and the rest are those that must be appended. -/
def locsOk (d : Desc) : Bool :=
  let es := graphEdges d
  let decl := d.locs.takeWhile (isDeclared d)
  let egress := (upto d.binds.length).all (fun n => (d.blocks.flatMap (fun b =>
    (b.bank.chans.filter (fun c => c.cls == 2 && c.bind == n)).map (fun c => Loc.chan b.qx b.qy b.t c.ch))).all decl.contains)
  let others := (upto d.binds.length).all (fun n => match d.binds[n]? with
    | some b => if b.kind = 1 then decl.contains (.pos b.qx b.qy b.tile b.slot b.pos)
        else if b.kind = 2 then decl.contains (.syn n) else true
    | none => true)
  egress && others && (!d.det || decl.contains .detPend) && appendLocs es (probeLocs d) (places d) decl == d.locs

/-- R80, R334: the summaries of the file are those the loader computes. -/
def sumsOk (d : Desc) : Bool :=
  let es := graphEdges d
  d.locs.flatMap (fun i => let r := reachFrom es i; d.locs.map (fun j => Reach.get r j)) == d.sums

/-- Slots whose work passes a copy engine or waits as a pending update: L position, place, static depth, shape. -/
def engineUses (d : Desc) (m : DepthMap) : List (Loc × Loc × Nat × List Nat) :=
  d.slots.flatMap (fun e => ((enginePlaces d e.1 e.2.2).filter (fun l => match l with
      | .copy _ _ | .detPend => true
      | _ => false)).map (fun l =>
    (Loc.pos e.1.qx e.1.qy e.1.t e.2.1 0, l, ((slotDepthOf m e.1 e.2.1 e.2.2).getD 0).toNat, d.shapeOfBlock e.1)))

/-- Those whose place serves several depths. -/
def mixedUses (d : Desc) (m : DepthMap) : List (Loc × Loc × Nat × List Nat) :=
  let us := engineUses d m
  us.filter (fun u => us.any (fun v => v.2.1 == u.2.1 && v.2.2.1 != u.2.2.1))

/-- The hubs of a residency. -/
def hubList (d : Desc) (m : DepthMap) : List Loc := distinct ((mixedUses d m).map (fun u => hubOf u.2.2.1 u.2.1))

/-- Static depth and shape of a location (R170, R331). An engine, a capability or a pending update takes those of the first
slot that uses it. -/
def locDepth (d : Desc) (m : DepthMap) (l : Loc) : Nat × List Nat :=
  let ofSlot (p : Block → Instr → Bool) : Nat × List Nat :=
    match d.slots.find? (fun e => p e.1 e.2.2) with
    | some e => (((slotDepthOf m e.1 e.2.1 e.2.2).getD 0).toNat, d.shapeOfBlock e.1)
    | none => (0, [])
  match l with
  | .pos x y t _ _ | .chan x y t _ =>
    (((DepthMap.get m l).getD 0).toNat, match d.blockAt x y t with | some b => d.shapeOfBlock b | none => [])
  | .cap _ _ _ _ => ofSlot (fun _ i => match i with | .hold _ x => d.locs[x.loc.toNat]? == some l | _ => false)
  | _ => ofSlot (fun b i => (enginePlaces d b i).contains l)

end Sys2Proof.Machine
end

