-- ==== Sys2Proof/Machine/Picture.lean ====
section
/-! DEFINITION. Coded pictures: stream descriptors (R296), the records of coding blocks (R275, R292, R293), operations on the syntax
(R285 to R288), the coded picture tensor (R289 to R294), and what the engines accept (R274, R276). -/

namespace Sys2Proof.Machine

/-! ### Stream descriptors (R296) -/

/-- Fields of a stream descriptor. -/
structure VDesc where
  bind   : Nat
  codec  : Nat
  rot    : Nat
  fh     : Bool
  fv     : Bool
  rsz    : Nat
  crop   : Bool
  pln    : Nat
  va     : Nat
  ring   : Nat
  len    : Nat
  x0     : Nat
  y0     : Nat
  cw     : Nat
  ch     : Nat
  slots  : Nat
  slotsz : Nat
  maxpic : Nat
  /-- lanes that may share a picture (R279) -/
  lmax   : Nat
  deriving DecidableEq, Repr, Inhabited

def vdesc (m : Msg) : VDesc :=
  let w (i : Nat) : Nat := (m.body.getD i 0).toNat
  let a := w 0
  ⟨bits a 59 5, bits a 57 2, bits a 55 2, bit a 54, bit a 53, bits a 51 2, bit a 50, bits a 48 2, w 1, w 2 % 2 ^ 32, w 3,
   bits (w 4) 0 16, bits (w 4) 16 16, bits (w 4) 32 16, bits (w 4) 48 16, bits (w 5) 48 16, w 5 % 2 ^ 32, w 6 % 2 ^ 32,
   bits a 44 4 + 1⟩

/-! ### Block records (R275, R292, R293) -/

/-- A block record before its bytes: the fields of R292, and for each transform block of its grid, in raster order, its coefficients
row by row, or `none` where it is not coded. -/
structure VBlk where
  x     : Nat
  y     : Nat
  lw    : Nat
  lh    : Nat
  plane : Nat
  kind  : Nat
  imode : Nat
  ref0  : Nat
  ref1  : Nat
  qp    : Nat
  mv    : List Int
  tlw   : Nat
  tlh   : Nat
  hk    : Nat
  vk    : Nat
  fim   : Nat
  cbi   : Nat
  edge  : Bool := false
  sub   : Bool := false
  tbs   : List (Option (List Int)) := []
  deriving DecidableEq, Repr, Inhabited

/-- Order of transform blocks in raster order. -/
def VTb.before (a b : VTb) : Bool := decide (a.y < b.y) || (a.y == b.y && decide (a.x < b.x))

/-- log2 of 1, 2, 4, 8 or 16. -/
def log2Of (n : Nat) : Option Nat := (upto 5).find? (fun k => 2 ^ k == n)

/-- The uniform grid that transform blocks form: its corner, log2 of its columns and rows, and its blocks in raster order (R293). -/
def gridOf (tbs : List VTb) : Option (Nat × Nat × Nat × Nat × List VTb) :=
  let ts := sortBy VTb.before tbs
  match ts with
  | [] => none
  | t :: _ =>
    let tw := 2 ^ (t.lw - 2)
    let th := 2 ^ (t.lh - 2)
    let cols := (ts.takeWhile (fun u => u.y == t.y)).length
    let rows := ts.length / cols
    let fits := (ts.zipIdx).all (fun u => u.1.lw == t.lw && u.1.lh == t.lh && u.1.hk == t.hk && u.1.vk == t.vk
      && u.1.x == t.x + u.2 % cols * tw && u.1.y == t.y + u.2 / cols * th)
    match log2Of cols, log2Of rows with
    | some c, some r =>
      if fits && cols * rows == ts.length && decide (ts.length ≤ 16) && decide (t.lw + c ≤ 6) && decide (t.lh + r ≤ 6)
      then some (t.x, t.y, c, r, ts) else none
    | _, _ => none

/-- Fields that the records of a plane share. -/
def planeRecord (cbi : Nat) (c : VCode) (p : VPlane) : VBlk :=
  { x := p.x / 4, y := p.y / 4, lw := p.lw, lh := p.lh, plane := p.plane, kind := c.kind, imode := p.imode, ref0 := c.ref0,
    ref1 := c.ref1, qp := c.qp, mv := p.mv, tlw := p.tlw, tlh := p.tlh, hk := p.hk, vk := p.vk, fim := c.fim, cbi := cbi }

/-- R275: coefficients saturate to s16. -/
def satCoef (l : List Int) : List Int := l.map (clampInt .s16)

/-- The record of transform blocks that form a grid. -/
def gridRecord (b : VBlk) (g : List VTb) : Option VBlk :=
  (gridOf g).map (fun (x, y, c, r, ts) =>
    let t := ts.headD default
    { b with
      x := b.x + x, y := b.y + y, lw := t.lw + c, lh := t.lh + r, tlw := t.lw, tlh := t.lh, hk := t.hk, vk := t.vk
      tbs := ts.map (fun u => u.coef.map satCoef) })

/-- Records of the groups, where each transform block is in one, each group forms a grid, and they follow one another in decoding
order (R293). -/
def groupRecords (b : VBlk) (tbs : List VTb) (gs : List (List Nat)) : Option (List VBlk) :=
  let rs := gs.filterMap (fun g => gridRecord b (g.filterMap (fun i => tbs[i]?)))
  let heads := gs.map (fun g => (minNat? g).getD 0)
  if sortBy (fun a b => decide (a < b)) gs.flatten == upto tbs.length && rs.length == gs.length
      && sortBy (fun a b => decide (a < b)) heads == heads then some rs else none

/-- Records of at most 64 by 64 samples that cover one without transform blocks, in raster order (R292, R293). -/
def bareRecords (b : VBlk) : List VBlk :=
  (upto (2 ^ (b.lh - 6))).flatMap (fun y => (upto (2 ^ (b.lw - 6))).map (fun x =>
    { b with x := b.x + 16 * x, y := b.y + 16 * y, lw := min 6 b.lw, lh := min 6 b.lh }))

/-- R293: the records of a plane: one, where its transform blocks form one grid; else as the free split has it, where that keeps to
the rule; else one for each. -/
def planeRecords (cbi : Nat) (c : VCode) (bare : Bool) (p : VPlane) : List VBlk :=
  let b := planeRecord cbi c p
  if bare || p.tbs.isEmpty then bareRecords b
  else match gridRecord b p.tbs with
    | some r => [r]
    | none => match groupRecords b p.tbs (Config.recordSplit (p.tbs.map (fun t => [t.x, t.y, t.lw, t.lh, t.hk, t.vk]))) with
      | some rs => rs
      | none => p.tbs.filterMap (fun t => gridRecord b [t])

/-- R293: the records of coding block number `cbi`, per plane in the order Y, Cb, Cr; without coded residual they have no transform
blocks. -/
def codeRecords (cbi : Nat) (c : VCode) : List VBlk :=
  let bare := c.planes.all (fun p => p.tbs.all (fun t => t.coef.isNone))
  (sortBy (fun a b => decide (a.plane < b.plane)) c.planes).flatMap (planeRecords cbi c bare)

/-! ### Operations on the syntax (R285 to R288) -/

/-- Combined orientation: transpose, then flips. -/
def orient (d : VDesc) : Bool × Bool × Bool :=
  let t := d.rot == 1 || d.rot == 3
  let h := d.rot == 1 || d.rot == 2
  let v := d.rot == 2 || d.rot == 3
  (t, h != d.fh, v != d.fv)

/-- Luma samples per sample of a record's plane. -/
def planeScale (p : VPic) (b : VBlk) : Nat × Nat := if b.plane = 0 then (1, 1) else (max 1 p.chromaX, max 1 p.chromaY)

/-- Position of CTU number c: its top-left luma sample. -/
def ctuPos (p : VPic) (c : Nat) : Nat × Nat :=
  let size := 2 ^ p.ctbl
  let per := (p.width + size - 1) / size
  (c % per * size, c / per * size)

def ctuCount (p : VPic) : Nat :=
  let size := 2 ^ p.ctbl
  ((p.width + size - 1) / size) * ((p.height + size - 1) / size)

/-- Whether a coding block's top-left sample lies in the crop rectangle. -/
def inCrop (d : VDesc) (b : VCode) : Bool :=
  decide (8 * d.x0 ≤ b.x) && decide (b.x < 8 * (d.x0 + d.cw)) && decide (8 * d.y0 ≤ b.y) && decide (b.y < 8 * (d.y0 + d.ch))

/-- R286: rebase a record of a kept block, and mark it where the block passes the right or bottom edge. -/
def cropBlk (p : VPic) (d : VDesc) (c : VCode) (b : VBlk) : VBlk :=
  let (sx, sy) := planeScale p b
  { b with
    x := b.x - 2 * d.x0 / sx
    y := b.y - 2 * d.y0 / sy
    edge := decide (c.x + c.w > 8 * (d.x0 + d.cw)) || decide (c.y + c.h > 8 * (d.y0 + d.ch)) }

/-- A transform block read at (u, v) through a change of coordinates, tw' wide and th' high after it. -/
def mapTb (tw tw' th' : Nat) (f : Nat → Nat → Nat × Nat) (g : Nat → Nat → Int → Int) (c : List Int) : List Int :=
  (upto th').flatMap (fun v => (upto tw').map (fun u =>
    let (u0, v0) := f u v
    g u v (c.getD (v0 * tw + u0) 0)))

/-- Columns of a record's grid of transform blocks. -/
def gridCols (b : VBlk) : Nat := 2 ^ (b.lw - b.tlw)
def gridRows (b : VBlk) : Nat := 2 ^ (b.lh - b.tlh)

/-- The grid read through a change of places; gw' columns, gh' rows after it. -/
def mapGrid {α : Type} (gw gw' gh' : Nat) (f : Nat → Nat → Nat × Nat) (l : List (Option α)) : List (Option α) :=
  if l.isEmpty then []
  else (upto gh').flatMap (fun y => (upto gw').map (fun x =>
    let (x0, y0) := f x y
    (l[y0 * gw + x0]?).getD none))

/-- R287: transpose. -/
def transBlk (b : VBlk) : VBlk :=
  let gw := gridCols b
  let gh := gridRows b
  { b with
    x := b.y
    y := b.x
    lw := b.lh
    lh := b.lw
    tlw := b.tlh
    tlh := b.tlw
    hk := b.vk
    vk := b.hk
    mv := [b.mv.getD 1 0, b.mv.getD 0 0, b.mv.getD 3 0, b.mv.getD 2 0]
    tbs := (mapGrid gw gh gw (fun x y => (y, x)) b.tbs).map (fun o =>
      o.map (mapTb (2 ^ b.tlw) (2 ^ b.tlh) (2 ^ b.tlw) (fun u v => (v, u)) (fun _ _ c => c))) }

/-- ADST and FLIPADST exchange under a flip. -/
def flipKind (k : Nat) : Nat := if k = 1 then 2 else if k = 2 then 1 else k

/-- A position mirrored in a plane of n units; 12 bits. -/
def mirror (n x lw : Nat) : Nat := (((n : Int) - x - (2 ^ (lw - 2) : Nat)) % 2 ^ 12).toNat

/-- R287: horizontal flip in a plane of w4 units. -/
def flipH (w4 : Nat) (b : VBlk) : VBlk :=
  let gw := gridCols b
  let tw := 2 ^ b.tlw
  { b with
    x := mirror w4 b.x b.lw
    mv := [-(b.mv.getD 0 0), b.mv.getD 1 0, -(b.mv.getD 2 0), b.mv.getD 3 0]
    hk := flipKind b.hk
    tbs := (mapGrid gw gw (gridRows b) (fun x y => (gw - 1 - x, y)) b.tbs).map (fun o =>
      o.map (mapTb tw tw (2 ^ b.tlh) (fun u v => (if b.hk = 3 then tw - 1 - u else u, v))
        (fun u _ c => if b.hk = 0 && u % 2 = 1 then -c else c))) }

/-- R287: vertical flip in a plane of h4 units. -/
def flipV (h4 : Nat) (b : VBlk) : VBlk :=
  let gh := gridRows b
  let gw := gridCols b
  let tw := 2 ^ b.tlw
  let th := 2 ^ b.tlh
  { b with
    y := mirror h4 b.y b.lh
    mv := [b.mv.getD 0 0, -(b.mv.getD 1 0), b.mv.getD 2 0, -(b.mv.getD 3 0)]
    vk := flipKind b.vk
    tbs := (mapGrid gw gw gh (fun x y => (x, gh - 1 - y)) b.tbs).map (fun o =>
      o.map (mapTb tw tw th (fun u v => (u, if b.vk = 3 then th - 1 - v else v))
        (fun _ v c => if b.vk = 0 && v % 2 = 1 then -c else c))) }

/-- Division by 2^k to nearest, ties away from zero. -/
def divAway (v : Int) (k : Nat) : Int :=
  let h : Int := if k = 0 then 0 else 2 ^ (k - 1)
  if v < 0 then -((-v + h) / 2 ^ k) else (v + h) / 2 ^ k

/-- R288: resize by 1/2^k. -/
def resizeBlk (k : Nat) (b : VBlk) : VBlk :=
  if k = 0 then b
  else
    let tw := 2 ^ b.tlw
    let th := 2 ^ b.tlh
    let lw' := max 2 (b.tlw - k)
    let lh' := max 2 (b.tlh - k)
    let kw := max 1 (tw / 2 ^ k)
    let kh := max 1 (th / 2 ^ k)
    { b with
      x := b.x / 2 ^ k
      y := b.y / 2 ^ k
      lw := max 2 (b.lw - k)
      lh := max 2 (b.lh - k)
      sub := decide (b.lw < 2 + k) || decide (b.lh < 2 + k)
      mv := b.mv.map (fun v => divAway v k)
      tlw := lw'
      tlh := lh'
      tbs := b.tbs.map (fun o => o.map (fun c =>
        (mapTb tw (2 ^ lw') (2 ^ lh') (fun u v => (u, v))
          (fun u v d => if u < kw && decide (v < kh) then divAway d k else 0) c))) }

/-- Units of 4 samples, rounded up. -/
def units4 (n : Nat) : Nat := (n + 3) / 4

/-- The options of a stream on a picture: width and height in luma samples after them, rows of blocks (R285 to R288). -/
def applyOptions (d : VDesc) (p : VPic) : Nat × Nat × List (List VBlk) :=
  let (t, fh, fv) := orient d
  let size := 2 ^ p.ctbl
  let outside := d.crop && (decide (8 * d.x0 ≥ p.width) || decide (8 * d.y0 ≥ p.height))
  let rowIds := if bit p.ptype 5 || outside then []
    else (upto (ctuCount p)).filter (fun c =>
      let (x, y) := ctuPos p c
      !d.crop || (decide (x < 8 * (d.x0 + d.cw)) && decide (8 * d.x0 < x + size) && decide (y < 8 * (d.y0 + d.ch))
        && decide (8 * d.y0 < y + size)))
  let w := if d.crop then 8 * d.cw else p.width
  let h := if d.crop then 8 * d.ch else p.height
  let (w1, h1) := if t then (h, w) else (w, h)
  let one (c : VCode) (b : VBlk) : VBlk :=
    let (sx, sy) := planeScale p b
    let (sx, sy) := if t then (sy, sx) else (sx, sy)
    let b := if d.crop then cropBlk p d c b else b
    let b := if t then transBlk b else b
    let b := if fh then flipH (units4 ((w1 + sx - 1) / sx)) b else b
    let b := if fv then flipV (units4 ((h1 + sy - 1) / sy)) b else b
    resizeBlk d.rsz b
  let half (n : Nat) : Nat := (n + 2 ^ d.rsz - 1) / 2 ^ d.rsz
  (half w1, half h1, rowIds.map (fun n =>
    (p.blocks.zipIdx.filter (fun c => c.1.ctu == n && (!d.crop || inCrop d c.1))).flatMap (fun c =>
      ((codeRecords c.2 c.1).filter (fun b => d.pln == 1 || b.plane == 0)).map (one c.1))))

/-! ### The coded picture tensor (R289 to R294) -/

/-- 16 bits of a coefficient or motion vector component; what an operation takes beyond s16 is open. -/
def s16Bits (v : Int) : Nat := if -32768 ≤ v ∧ v ≤ 32767 then (v % 2 ^ 16).toNat else (Config.beyondS16 v).toNat

/-- A coded transform block as stored: CG-skip mask and the groups that hold something. -/
def tbBytes (tlw tlh : Nat) (c : List Int) : List Byte :=
  let tw := 2 ^ tlw
  let cw := min tw 32
  let chh := min (2 ^ tlh) 32
  let gw := cw / 4
  let n := gw * (chh / 4)
  let group (g : Nat) : List Int :=
    (upto 16).map (fun e => c.getD ((g / gw * 4 + e / 4) * tw + g % gw * 4 + e % 4) 0)
  let gs := (upto n).map group
  let mask := ((upto 64).map (fun g => if g < n && (gs.getD g []).any (· != 0) then 0 else 2 ^ g)).sum
  leBytes 8 mask ++ gs.flatMap (fun l => if l.any (· != 0) then l.flatMap (fun v => leBytes 2 (s16Bits v)) else [])

/-- The coded blocks of a record. -/
def blkStore (b : VBlk) : List Byte := (b.tbs.filterMap id).flatMap (tbBytes b.tlw b.tlh)

/-- A block record (R292), its first coded block at `toff`. -/
def blkRecord (b : VBlk) (toff : Nat) : List Byte :=
  let w0 := b.x % 4096 + b.y % 4096 * 2 ^ 12 + b.lw % 8 * 2 ^ 24 + b.lh % 8 * 2 ^ 27 + b.plane % 4 * 2 ^ 30
  let cbf := ((b.tbs.zipIdx).map (fun e => if e.1.isSome then 2 ^ e.2 else 0)).sum
  let coded := b.tbs.any (·.isSome)
  leBytes 4 w0 ++ leBytes 1 (b.kind % 4 + b.imode % 64 * 4) ++ leBytes 1 b.ref0 ++ leBytes 1 b.ref1 ++ leBytes 1 b.qp
    ++ (upto 4).flatMap (fun i => leBytes 2 (if (if i < 2 then b.ref0 else b.ref1) = 0xFF then 0 else s16Bits (b.mv.getD i 0)))
    ++ leBytes 1 (b.tlw % 8 + b.tlh % 8 * 8) ++ leBytes 1 b.tbs.length ++ leBytes 2 cbf
    ++ leBytes 4 (if coded then toff else 0) ++ leBytes 1 (b.hk % 8 + b.vk % 8 * 8)
    ++ leBytes 1 ((if b.edge then 1 else 0) + (if b.sub then 2 else 0) + b.fim % 8 * 4) ++ zeros 2 ++ leBytes 4 b.cbi

/-- Records and store of blocks in order. -/
def blkList : List VBlk → Nat → List Byte × List Byte
  | [], _ => ([], [])
  | b :: bs, off =>
    let st := blkStore b
    let (r, t) := blkList bs (off + st.length)
    (blkRecord b off ++ r, st ++ t)

/-- Running counts of blocks: the row pointers. -/
def rowPtrs : List (List VBlk) → Nat → List Nat
  | [], n => [n]
  | r :: rs, n => n :: rowPtrs rs (n + r.length)

/-- An entry of REFL0 or REFL1: how far back in decoding order the reference lies, at most 255; 0 for an unused one (R290). -/
def reflEntry (n : Nat) (refs : List (Option Nat)) (i : Nat) : Nat := match (refs[i]?).getD none with
  | some r => min 255 (n - r)
  | none => 0

/-- PIX: PicOrderCntVal, or the count of shown frames before the picture (R290). -/
def pixOf (codec shown : Nat) (p : VPic) : Int := if codec = 1 then p.poc else (shown : Int)

/-- PTYPE (R290): the lists of the parse; a random-access point (an IRAP picture of HEVC, a shown key frame of AV1); the codec; not output;
a repeat. -/
def ptypeOf (codec : Nat) (p : VPic) : Nat :=
  let rap := p.restart || (codec == 1 && bit p.ptype 2)
  min 2 (p.ptype % 4) + (if rap then 4 else 0) + (if codec = 1 then 0 else 8) + (if p.shown then 0 else 16) + (if bit p.ptype 5 then 32 else 0)

/-- The CPT of a picture of stream σ (R289, R290): its number in the stream and in the parse, and the frames shown before it. -/
def cptBytes (sig : Nat) (d : VDesc) (dix n shown : Nat) (p : VPic) : List Byte :=
  let (w, h, rows) := applyOptions d p
  let (t, fh, fv) := orient d
  let blocks := rows.flatten
  let (recs, store) := blkList blocks 0
  let boff := (64 + 4 * (rows.length + 1) + 31) / 32 * 32
  let coff := boff + 32 * blocks.length
  let pflg := (if p.ten then 1 else 0) + (if p.mono then 2 else 0) + (if d.crop then 4 else 0) + (if fh then 8 else 0)
    + (if fv then 16 else 0) + (if t then 32 else 0) + d.rsz * 64
  let hdr := leBytes 4 sig ++ leBytes 4 dix ++ leBytes 4 (pixOf d.codec shown p % 2 ^ 32).toNat ++ leBytes 1 (ptypeOf d.codec p)
    ++ leBytes 1 p.bqp ++ leBytes 2 (units4 w) ++ leBytes 2 (units4 h) ++ leBytes 1 p.ctbl ++ leBytes 1 pflg
    ++ leBytes 4 blocks.length ++ leBytes 4 rows.length ++ leBytes 4 boff ++ leBytes 4 coff
    ++ leBytes 4 (coff + store.length) ++ (upto 8).flatMap (fun i => leBytes 1 (reflEntry n p.refs0 i))
    ++ (upto 8).flatMap (fun i => leBytes 1 (if d.codec = 1 then reflEntry n p.refs1 i else 0)) ++ zeros 8
  fitBytes boff (hdr ++ (rowPtrs rows 0).flatMap (leBytes 4)) ++ recs ++ store

/-! ### Containers and layers (R274)

The layouts are those of the standards that R274 names (PRESUMED, log 7): start codes and NAL unit headers of an Annex B byte stream, OBU
headers and the first fields of a sequence header. -/

/-- nuh_layer_id of a NAL unit, from its header's two bytes. -/
def nalLayer (h0 h1 : Byte) : Nat := h0.toNat % 2 * 32 + h1.toNat / 8

/-- The bytes of an Annex B byte stream, each with its offset, without the NAL units of nuh_layer_id above 0; `skip` where such a unit is
under way. -/
def layerZero (skip : Bool) : List (Byte × Nat) → List (Byte × Nat)
  | [] => []
  | x :: xs =>
    let skip := match x.1.toNat, xs with
      | 0, y :: z :: h0 :: h1 :: _ => if y.1 = 0 && z.1 = 1 then decide (nalLayer h0.1 h1.1 > 0) else skip
      | _, _ => skip
    if skip then layerZero skip xs else x :: layerZero skip xs

/-- Where the bytes cease to be an Annex B byte stream: zero bytes lead to its first start code. -/
def annexBAt : Nat → List Byte → Option Nat
  | _, [] => none
  | n, b :: bs => if b = 0 then annexBAt (n + 1) bs else if decide (n ≥ 2) && b = 1 then none else some n

/-- A leb128 value and how many bytes it takes, at most 8; `none` where it does not end. -/
def leb128 : Nat → List Byte → Option (Nat × Nat)
  | 0, _ => none
  | _, [] => none
  | n + 1, b :: bs =>
    if b.toNat < 128 then some (b.toNat, 1) else (leb128 n bs).map (fun v => (b.toNat % 128 + 128 * v.1, v.2 + 1))

/-- An OBU: type, layers where it has an extension, whether it has a size field, bytes of its header and size, bytes of its payload. -/
structure Obu where
  type  : Nat
  ext   : Option (Nat × Nat)
  sized : Bool
  head  : Nat
  size  : Nat
  deriving DecidableEq, Repr, Inhabited

/-- The OBU at the head of some bytes, as far as its header is there. -/
def obuAt (bs : List Byte) : Option Obu := match bs with
  | [] => none
  | b :: rest =>
    let v := b.toNat
    let ext := bit v 2
    let hb := if ext then 2 else 1
    let x := (rest.headD 0).toNat
    if ext && rest.isEmpty then none
    else if !bit v 1 then some ⟨bits v 3 4, if ext then some (bits x 5 3, bits x 3 2) else none, false, hb, 0⟩
    else (leb128 8 (bs.drop hb)).map (fun z => ⟨bits v 3 4, if ext then some (bits x 5 3, bits x 3 2) else none, true, hb + z.2, z.1⟩)

/-- Bits of some bytes, the most significant first. -/
def bitsMsb (bs : List Byte) : List Bool := bs.flatMap (fun b => (upto 8).map (fun i => bit b.toNat (7 - i)))

/-- The value of the first n bits. -/
def takeBits (n : Nat) (l : List Bool) : Nat := (l.take n).foldl (fun v b => 2 * v + if b then 1 else 0) 0

/-- Behind a uvlc code: its leading zeros, a one, and as many bits again, none from 32 zeros on. -/
def dropUvlc (l : List Bool) : List Bool :=
  let z := (l.takeWhile (fun b => !b)).length
  l.drop (z + 1 + if z ≥ 32 then 0 else z)

/-- Idc of operating point 0 that a sequence header gives. -/
def opPoint0 (payload : List Byte) : Nat :=
  let l := (bitsMsb payload).drop 4
  if takeBits 1 l = 1 then 0
  else
    let l := l.drop 1
    let timing := takeBits 1 l = 1
    let l := l.drop 1
    let l := if !timing then l
      else
        let equal := takeBits 1 (l.drop 64) = 1
        let l := l.drop 65
        let l := if equal then dropUvlc l else l
        if takeBits 1 l = 1 then l.drop 48 else l.drop 1
    takeBits 12 (l.drop 6)

/-- Whether an OBU belongs to the operating point; sequence headers and temporal delimiters always do. -/
def inOpPoint (idc : Nat) (o : Obu) : Bool :=
  o.type == 1 || o.type == 2 || idc == 0 || (match o.ext with
    | none => true
    | some (t, sp) => bit idc t && bit idc (sp + 8))

/-- The OBUs of operating point 0, each byte with its offset, and where the bytes cease to be the low-overhead format with size fields;
`idc` is that of the last sequence header, `fuel` bounds the OBUs. -/
def pointZero (idc : Nat) : Nat → List (Byte × Nat) → List (Byte × Nat) × Option Nat
  | 0, _ => ([], none)
  | fuel + 1, l => match l with
    | [] => ([], none)
    | x :: _ => match obuAt ((l.take 10).map (·.1)) with
      | none => (l, none)
      | some o =>
        if !o.sized then ([], some x.2)
        else
          let n := o.head + o.size
          let idc := if o.type = 1 then opPoint0 (((l.drop o.head).take o.size).map (·.1)) else idc
          let r := pointZero idc fuel (l.drop n)
          (if inOpPoint idc o then l.take n ++ r.1 else r.1, r.2)

/-- R274: the bytes of a bitstream that are parsed, each with its offset, and where it leaves its container. -/
def container (codec : Nat) (data : List Byte) : List (Byte × Nat) × Option Nat :=
  if codec = 1 then (layerZero false data.zipIdx, annexBAt 0 data) else pointZero 0 data.length data.zipIdx

/-! ### What the engines accept (R274, R276) -/

/-- Order of levels. -/
def levelUpTo (a b : Nat × Nat) : Bool := decide (a.1 < b.1) || (a.1 == b.1 && decide (a.2 ≤ b.2))

/-- R274: the headers that the engines accept. -/
def seqAccepted (codec : Nat) (h : VSeq) : Bool :=
  h.container && !h.large && !h.other &&
    (if codec = 1 then (h.profile == 1 || h.profile == 2 || h.profile == 3) && levelUpTo h.level (6, 2)
     else h.profile == 0 && (h.depth == 8 || h.depth == 10) && decide (h.chroma ≤ 1) && levelUpTo h.level (6, 3))

/-- Whether a picture is refused: a lossless block under a flip or rotation (R276). -/
def refusedPic (d : VDesc) (p : VPic) : Bool := p.lossless && (d.rot != 0 || d.fh || d.fv)

/-- R276: the pictures before the first refusal, and whether there is one. -/
def admitted (d : VDesc) : List VItem → List VPic × Bool
  | [] => ([], false)
  | .seq h :: is => if seqAccepted d.codec h then admitted d is else ([], true)
  | .pic p :: is => if refusedPic d p then ([], true) else let r := admitted d is; (p :: r.1, r.2)

end Sys2Proof.Machine
end

