-- ==== Sys2Proof/Machine/Parse.lean ====
section
/-! DEFINITION. The syntax engines: streams and bindings (R277 to R284, R296 to R298), and the delivery of load
results. What the standards decode from a bitstream is the opaque parse of Config (log 7). -/

namespace Sys2Proof.Machine

/-! ### Opening a stream (R297) -/

/-- The allocations in which a syntax binding may deliver: those of A of the tile its record names; where its record names no tile other than
the first, those of the scratchpad too (R65, R277). -/
def ringPlaces (d : Desc) (b : Bind) : List Alloc :=
  d.allocs.filter (fun a => (a.buf == 1 && a.qx == b.qx && a.qy == b.qy && a.t == b.tile)
    || (a.buf == 3 && b.qx == 0 && b.qy == 0 && b.tile == 0))

/-- The allocation of a syntax binding: a free choice among those that it may be, as no section that the loader may read ties a name to
an allocation (R85, log 22). -/
def ringAlloc (r : Res) (bind : Nat) : Option Alloc :=
  match r.desc.binds[bind]? with
  | some b =>
    let l := ringPlaces r.desc b
    (l[Config.allocOf b.dest % l.length]?).map (fun a => { a with name := b.dest })
  | none => none

/-- The failing word of a VOPEN (R297). -/
def vopenBad (r : Res) (m : Msg) : Option Nat :=
  let w (i : Nat) : Nat := (m.body.getD i 0).toNat
  let d := vdesc m
  if m.past then some m.body.length
  else match r.desc.binds[d.bind]? with
    | none => some 0
    | some b =>
      if b.kind ≠ 2 || d.codec = 0 || d.codec = 3 || (b.codec ≠ 3 && b.codec ≠ d.codec) || d.rsz = 3 || decide (d.pln ≥ 2)
          || bits (w 0) 0 44 ≠ 0 then some 0
      else if bits (w 2) 32 32 ≠ 0 || d.ring % 256 ≠ 0 then some 2
      else if d.len = 0 || decide (d.len > 2 ^ 40) then some 3
      else if d.crop && (d.cw = 0 || d.ch = 0) then some 4
      else if bits (w 5) 32 16 ≠ 0 || d.slots = 0 || d.slotsz = 0 || d.slotsz % 256 ≠ 0 then some 5
      else if bits (w 6) 32 32 ≠ 0 then some 6
      else if w 7 ≠ 0 then some 7
      else match ringAlloc r d.bind with
        | none => some 0
        | some a => if d.ring + d.slots * d.slotsz > a.size then some 2 else none

/-! ### Streams -/

def State.syn (s : State) (k : Nat) : Syn := getD {} k s.syns
def State.setSyn (s : State) (k : Nat) (y : Syn) : State := { s with syns := put k y s.syns }
def State.setStream (s : State) (k sig : Nat) (v : VStream) : State :=
  let y := s.syn k
  s.setSyn k { y with streams := put sig v y.streams }

/-- MT whose SPORT the deliveries of a binding carry, and where its messages are held: the quad of the ring's tile. -/
def synMt (r : Res) (bind : Nat) : Nat := match r.desc.binds[bind]? with
  | some b => resTile r b.qx b.qy 3
  | none => resTile r 0 0 3

/-- A change at a binding's location (R284). -/
def synPost (r : Res) (bind : Nat) (m : Msg) (n : Int) : List Post := enginePost r (.syn bind) m n

/-- Bytes of the bitstream read. -/
def VStream.consumed (v : VStream) : Nat := v.off + v.got.length

/-- Address of the next read. -/
def readAddr (v : VStream) : Nat := ((vdesc v.msg).va + v.consumed) % 2 ^ 64

/-- Address of a read that held at a freeze. -/
def laterAddr (s : State) (v : VStream) : Option Nat :=
  ((v.later.bind (fun id => get? id s.reqs)).bind (fun q => q.elts.head?)).map (·.addr)

/-- Bytes of the next read: up to the next 64-byte boundary, the bitstream's end, and the read that held at a freeze. -/
def nextRead (s : State) (v : VStream) : Nat :=
  let a := readAddr v
  let n := min (64 - a % 64) ((vdesc v.msg).len - v.consumed)
  match laterAddr s v with
  | some b => if a < b then min n (b - a) else n
  | none => n

/-- Issue a stream's next read (R282), or take up the one that held at a freeze. -/
def readMore (h bind sig : Nat) (v : VStream) (s : State) : State :=
  let k := synKey h bind
  if laterAddr s v = some (readAddr v) then s.setStream k sig { v with read := v.later, later := none }
  else
    let e : Elt := { space := .virt, addr := readAddr v, n := nextRead s v }
    let (id, s) := s.newReq { h := h, org := .syn h bind sig, op := .load, time := v.msg.time, elts := [e], bc := v.msg.bc }
    s.setStream k sig { v with read := some id }

/-- The items of a parse up to the byte at which the bitstream leaves its container; a picture's place is that in the bitstream. -/
def placed (kept : List (Byte × Nat)) (out : Option Nat) : List VItem → List VItem
  | [] => []
  | .seq h :: is => .seq h :: placed kept out is
  | .pic p :: is =>
    let at' := ((kept[p.start]?).map (·.2)).getD p.start
    if (out.map (fun n => decide (n ≤ at'))).getD false then [] else .pic { p with start := at' } :: placed kept out is

/-- What the bytes read so far yield: the pictures before a refusal, the status once it is known, the substreams of the picture that
is being parsed. A bitstream that leaves its container is refused there (R274, R276). -/
def parsed (v : VStream) : List VPic × Option Nat × Nat :=
  let d := vdesc v.msg
  let whole := decide (v.consumed ≥ d.len)
  let (kept, out) := container d.codec v.got
  let x := Config.parse d.codec (kept.map (·.1)) whole
  let (ps, refused) := admitted d (placed kept out x.items)
  (ps, if refused || out.isSome then some 1 else x.status.orElse (fun _ => if whole then some 0 else none), x.subs)

/-- Frames shown before picture number n (R290). -/
def shownBefore (v : VStream) (ps : List VPic) (n : Nat) : Nat :=
  v.shown + ((ps.take (n - v.base)).filter (·.shown)).length

/-- Bytes of a picture's CPT, or none where it is not yet parsed. -/
def pictureBytes (sig : Nat) (v : VStream) (ps : List VPic) (n : Nat) : Option (List Byte) :=
  if n < v.base then none
  else (ps[n - v.base]?).map (fun p => cptBytes sig (vdesc v.msg) n (n - v.base) (shownBefore v ps n) p)

/-- A lane receives its bytes. -/
def deliverSyn (req : Nat) (s : State) : Result :=
  match get? req s.reqs with
  | none => .next s
  | some q =>
    match q.org, q.elts.head? with
    | .syn h bind sig, some e =>
      let k := synKey h bind
      match runRes s h, get? sig (s.syn k).streams with
      | some _, some v =>
        if e.st ≠ .done || v.read ≠ some req then .next s
        else .next ((({ s with reqs := del req s.reqs }).setStream k sig { v with got := v.got ++ fitBytes e.n e.data, read := none }).act)
      | _, _ => .next s
    | _, _ => .next s

/-- R148: a load result is delivered: to a slot's targets, or to the lane that reads a bitstream. -/
def execResponseDelivery (req : Nat) (s : State) : Result :=
  match get? req s.reqs with
  | none => .next s
  | some q => match q.org with
    | .syn _ _ _ => deliverSyn req s
    | _ => deliverSlot req s

/-! ### Messages (R297, R298) -/

/-- The head of a binding's queue, where it has this opcode. -/
def synHead (s : State) (h bind op : Nat) : Option (Res × Msg × State) :=
  let k := synKey h bind
  match runRes s h, (s.syn k).queue with
  | some r, m :: rest => if m.amop = op then some (r, m, s.setSyn k { s.syn k with queue := rest }) else none
  | _, _ => none

/-- Answer a message of a binding. -/
def synAnswer (r : Res) (bind : Nat) (m : Msg) (outs : List Out) (s : State) : Option State :=
  answer (synMt r bind) m outs s

/-- R297: the descriptor is checked and the stream takes the next submission sequence. -/
def execVopen (res bind : Nat) (s : State) : Result :=
  match synHead s res bind 0x20 with
  | none => .next s
  | some (r, m, s1) =>
    match vopenBad r m with
    | some w => .next ((holdMsg r (synMt r bind) m w s1).act)
    | none =>
      let k := synKey res bind
      let y := s1.syn k
      let s2 := s1.setSyn k { y with next := y.next + 1, streams := put y.next { msg := m, credits := (vdesc m).slots } y.streams }
      .next ((s2.post (synMt r bind) (ownPost m (-1) ++ synPost r bind m 1)).act)

/-- R298: state, status, pictures delivered, credits, bytes consumed. -/
def execVqry (res bind : Nat) (s : State) : Result :=
  match synHead s res bind 0x21 with
  | none => .next s
  | some (r, m, s1) =>
    let out := match get? m.snum (s.syn (synKey res bind)).streams with
      | none => leBytes 8 3 ++ zeros 8
      | some v =>
        leBytes 8 (v.state + (if v.state = 2 then v.status.getD 0 else 0) * 2 ^ 8 + v.sent % 2 ^ 32 * 2 ^ 16
          + v.credits % 2 ^ 16 * 2 ^ 48) ++ leBytes 8 v.consumed
    match synAnswer r bind m [dataOut .n64 m.time out m.t0, dataOut .n64 m.time out m.t1] s1 with
    | some s2 => .next s2.act
    | none => .next s

/-- What SYNQ sends when its message is applied. -/
def synqOuts (m : Msg) : List Out := [pulseOut m.time m.t0, pulseOut m.time m.t1]

/-- R298, R280: credits return to a stream; those beyond SLOTS, and notices for an unknown stream, are counted. -/
def execVfree (res bind : Nat) (s : State) : Result :=
  match synHead s res bind 0x22 with
  | none => .next s
  | some (r, m, s1) =>
    let k := synKey res bind
    let s2 := match get? m.snum (s.syn k).streams with
      | some v =>
        if v.state = 2 then addXsc res 1 s1
        else
          let n := (vdesc v.msg).slots
          let sum := v.credits + m.count
          (if sum > n then addXsc res (sum - n) s1 else s1).setStream k m.snum { v with credits := min sum n }
      | none => addXsc res 1 s1
    match synAnswer r bind m (synqOuts m) s2 with
    | some s3 => .next s3.act
    | none => .next s

/-- R298: ends a stream; the answer waits for the end, or goes at once for an ended or unknown one. -/
def execVclose (res bind : Nat) (s : State) : Result :=
  match synHead s res bind 0x23 with
  | none => .next s
  | some (r, m, s1) =>
    let k := synKey res bind
    let now : Result := match synAnswer r bind m (synqOuts m) s1 with
      | some s2 => .next s2.act
      | none => .next s
    match get? m.snum (s.syn k).streams with
    | some v =>
      if v.state = 2 then now
      else .next (s1.setStream k m.snum { v with closing := true, closers := v.closers ++ [m] }).act
    | none => now

/-! ### Parsing and delivery (R278 to R281) -/

/-- The stream that delivers: the lowest one not ended. -/
def current (y : Syn) : Option (Nat × VStream) := y.streams.find? (fun e => e.2.state != 2)

/-- Lanes of a binding that parse nothing. -/
def freeLanes (y : Syn) : List Nat :=
  let used := y.streams.flatMap (fun e => e.2.lanes)
  y.lanes.filter (fun n => !used.contains n)

/-- R278: a free lane of the binding takes the earliest waiting stream. -/
def execStreamParseStart (res bind sigma : Nat) (s : State) : Result :=
  let k := synKey res bind
  let y := s.syn k
  match runRes s res, get? sigma y.streams, freeLanes y with
  | some _, some v, lane :: _ =>
    if v.state ≠ 0 || v.closing || y.streams.any (fun e => e.1 < sigma && e.2.state == 0 && !e.2.closing) then .next s
    else .next (readMore res bind sigma { v with state := 1, lanes := [lane], engine := lane / 16 } s).act
  | _, _, _ => .next s

/-- Bytes that the pictures parsed ahead by the lanes of an engine take in its output store (R278). -/
def storeUsed (s : State) (die engine : Nat) : Nat :=
  (s.syns.flatMap (fun e => if ((get? (e.1 / 64) s.res).map (·.die)) = some die then
      e.2.streams.map (fun x => if x.2.engine = engine then
        let ps := (parsed x.2).1
        ((upto (x.2.kept - x.2.sent)).map (fun i => ((pictureBytes x.1 x.2 ps (x.2.sent + i)).map List.length).getD 0)).sum
        else 0)
    else [])).sum

/-- Pictures parsed that find a place in the store, in order; the one that the binding delivers next needs none (DESIGN CHOICE, log
7). -/
def keepPictures (sig : Nat) (v : VStream) (cur : Bool) (ps : List VPic) (used : Nat) : Nat → Nat → Nat
  | 0, kept => kept
  | n + 1, kept =>
    match pictureBytes sig v ps kept with
    | none => kept
    | some bs =>
      if cur && kept == v.sent then keepPictures sig v cur ps (used + bs.length) n (kept + 1)
      else if used + bs.length ≤ 2 ^ 23 then keepPictures sig v cur ps (used + bs.length) n (kept + 1)
      else kept

/-- R279: lanes that share the picture now parsed, once its substreams are known: the lane that has the stream counts as free for it
(DEDUCED, log 7). -/
def shareLanes (y : Syn) (v : VStream) (n subs : Nat) : VStream :=
  if subs = 0 || v.lanesFor = some n then v
  else
    let first := v.lanes.take 1
    let free := first ++ (freeLanes { y with streams := y.streams.map (fun e => (e.1,
      if e.2.lanes == v.lanes then { e.2 with lanes := first } else e.2)) })
    { v with lanes := free.take (max 1 (min (vdesc v.msg).lmax subs)), lanesFor := some n }

/-- Whether a stream's pictures up to its limit are parsed. -/
def enoughParsed (v : VStream) : Bool := let n := (vdesc v.msg).maxpic; n != 0 && decide (v.kept ≥ n)

/-- A lane in a cycle (R278, R279): what is parsed goes to the output store; the lane stops while its next picture does not fit; else
it reads on until the parse is over, and is then free. -/
def laneCycle (h bind sig : Nat) (s : State) : State :=
  let k := synKey h bind
  let y := s.syn k
  match runRes s h, get? sig y.streams with
  | some r, some v =>
    if v.state ≠ 1 || v.closing || v.failed || v.status.isSome || v.read.isSome || v.lanes.isEmpty then s
    else
      let (ps, st, subs) := parsed v
      let v := { v with kept := keepPictures sig v ((current y).map (·.1) == some sig) ps (storeUsed s r.die v.engine) ps.length (max v.kept v.sent) }
      if st.isSome || enoughParsed v then
        s.setStream k sig (if decide (v.base + ps.length ≤ v.kept) || enoughParsed v then { v with lanes := [] } else v)
      else if v.kept < v.base + ps.length then s.setStream k sig v
      else readMore h bind sig (shareLanes y v (v.base + ps.length) subs) s
  | _, _ => s

/-- The syntax lanes in a cycle. -/
def synCycle (s : State) : State :=
  s.syns.foldl (fun s e => e.2.streams.foldl (fun s x => laneCycle (e.1 / 64) (e.1 % 64) x.1 s) s) s

/-- A token of a binding's own, delivered by the MTs of the receiving quads (R166). -/
def synSend (r : Res) (m : Msg) (outs : List Out) (s : State) : Option (State × List Post) :=
  match m.src with
  | .slot t _ => mtSend s r t outs
  | .core _ _ => some (s, [])

/-- Record of a stream's TIMEWRAP. -/
def synRec (s : State) (r : Res) (h bind sig : Nat) (m : Msg) (n : Nat) : FRec :=
  { cls := .timewrap, asid := r.asid, rid := ridOf s h, place := .lane, die := r.die, time := m.time,
    gen := [(msgShape s r m).1, n], link := .stream h bind sig }

/-- The piece of an image that an engine writes in one step: what lies in one 256-byte line, from byte `done` on (R142, R146). -/
def imagePart (off done : Nat) (bs : List Byte) : List Byte := (bs.drop done).take (256 - (off + done) % 256)

/-- Whether an engine waits to write a typed buffer. -/
def engineWaits (s : State) (k b : Nat) : Bool :=
  s.reqs.any (fun e => (match e.2.org with | .engine _ _ _ _ _ => true | _ => false) && e.2.op.writes
    && e.2.elts.any (fun x => x.st == .home && x.space == .buf k b))

/-- Whether a syntax delivery may write bytes of its allocation now: at its turn in the banks of the scratchpad (R146), over the write port of
A, where the tile's own stores go first and it takes turns with the copy engine (R143). -/
def allocTurn (r : Res) (key : Nat) (a : Alloc) (off n : Nat) (s : State) : Bool :=
  if a.buf = 3 then unitTurn s r (.syn key) [(a.off + off, n)]
  else
    let k := resTile r a.qx a.qy a.t
    (s.at k).portFree s.cycle (2 * a.buf + 1) n && !slotWaits s k a.buf true && ((s.at k).synAsk == s.cycle || !engineWaits s k a.buf)

/-- It waits there. -/
def allocWait (r : Res) (key : Nat) (a : Alloc) (off n : Nat) (s : State) : State :=
  if a.buf = 3 then unitWait r (.syn key) [(a.off + off, n)] s
  else s.modAt (resTile r a.qx a.qy a.t) (fun t => { t with synAsk := s.cycle + 1 })

/-- Write bytes into an allocation, as an engine does (R143, R144). -/
def writeAlloc (r : Res) (key : Nat) (a : Alloc) (off : Nat) (bs : List Byte) (s : State) : State :=
  if a.buf = 3 then scrPut r (unitTake r (.syn key) [(a.off + off, bs.length)] s) (a.off + off) bs
  else s.modAt (resTile r a.qx a.qy a.t) (fun t =>
    { (t.writeBuf s.cycle a.buf 2 (a.off + off) bs).usePort s.cycle (2 * a.buf + 1) bs.length with synAsk := 0 })

/-- Whether a stream has reached its picture limit. -/
def atLimit (v : VStream) : Bool := let n := (vdesc v.msg).maxpic; n != 0 && decide (v.sent ≥ n)

/-- R280: the next picture of the delivering stream: a credit, the whole CPT, line by line, and with its last line its token. -/
def execPictureDelivery (res bind : Nat) (s : State) : Result :=
  let k := synKey res bind
  match runRes s res, current (s.syn k), ringAlloc ((get? res s.res).getD default) bind with
  | some r, some (sig, v), some a =>
    let d := vdesc v.msg
    if v.state ≠ 1 || v.held || v.failed || v.closing || v.status.isSome || v.credits = 0 || atLimit v || decide (v.sent ≥ v.kept)
    then .next s
    else match pictureBytes sig v (parsed v).1 v.sent with
      | none => .next s
      | some bs =>
        let n := v.sent % d.slots
        let at' := d.ring + n * d.slotsz
        let part := imagePart (a.off + at') v.put bs
        if bs.length > d.slotsz then .next (s.setStream k sig { v with status := some 5, lanes := [] }).act
        else match tileTime s r v.msg v.sent with
          | none => .next (((s.setStream k sig { v with held := true }).raise (synRec s r res bind sig v.msg v.sent)).act)
          | some t =>
            if !allocTurn r k a (at' + v.put) part.length s then .next (allocWait r k a (at' + v.put) part.length s)
            else
              let s1 := writeAlloc r k a (at' + v.put) part s
              if v.put + part.length < bs.length then .next (s1.setStream k sig { v with put := v.put + part.length }).act
              else match synSend r v.msg [dataOut .n64 t (leBytes 8 (v.sent % 2 ^ 32 + n * 2 ^ 32)) v.msg.t0]
                  (s1.setStream k sig { v with credits := v.credits - 1, sent := v.sent + 1, put := 0 }) with
                | some (s2, ps) => .next ((s2.post (synMt r bind) ps).act)
                | none => .next s
  | _, _, _ => .next s

/-- The status with which a stream ends now, or none while it goes on (R281). -/
def endStatus (v : VStream) : Option Nat :=
  if v.closing then some 3
  else if v.state ≠ 1 then none
  else match v.status with
    | some st => some st
    | none =>
      if atLimit v then some 4
      else match parsed v with
        | (ps, some st, _) => if v.sent ≥ v.base + ps.length then some st else none
        | _ => none

/-- A stream that has ended. -/
def VStream.ended (v : VStream) (st : Nat) : VStream :=
  { v with state := 2, status := some st, closers := [], read := none, later := none, lanes := [], held := false }

/-- A stream ends: its reads go, and the closes that waited for it are answered next. -/
def endStream (k sig st : Nat) (v : VStream) (s : State) : State :=
  let s1 := (dropReq v.later (dropReq v.read s)).setStream k sig (v.ended st)
  let y := s1.syn k
  s1.setSyn k { y with queue := v.closers ++ y.queue }

/-- R281: the delivering stream ends; closes that waited are answered next. After ABORT both targets have end-of-stream. -/
def execSyntaxStreamEnd (res bind sigma : Nat) (s : State) : Result :=
  let k := synKey res bind
  match runRes s res, current (s.syn k) with
  | some r, some (sig, v) =>
    if sig ≠ sigma || v.held then .next s
    else
      let fin (st : Nat) (outs : List Out) : Result :=
        let s1 := endStream k sig st v s
        match synSend r v.msg outs s1 with
        | some (s2, ps) =>
          .next ((coreDone v.msg v.failed (s2.post (synMt r bind) (synPost r bind v.msg (-1) ++ ps))).act)
        | none => .next s
      if v.failed then fin (v.status.getD 2) [markerOut 5 v.msg.time v.msg.t0, markerOut 5 v.msg.time v.msg.t1]
      else match endStatus v with
        | none => .next s
        | some st => match tileTime s r v.msg v.sent with
          | none => .next (((s.setStream k sig { v with held := true }).raise (synRec s r res bind sig v.msg v.sent)).act)
          | some t => fin st [markerOut 1 t v.msg.t0,
              dataOut .n64 v.msg.time (leBytes 8 (st + v.sent % 2 ^ 32 * 2 ^ 32)) v.msg.t1]
  | _, _ => .next s

end Sys2Proof.Machine
end

