-- ==== Sys2Proof/Machine/Dispatcher.lean ====
section
/-! DEFINITION. The Dispatcher (R377 to R388, R390): creating records, JOIN, waits, selection and placement, loading blocks,
draining, retirement, watch slots. Activation and freezing stand in Freeze.lean. -/

namespace Sys2Proof.Machine

/-! ### Records -/

def State.task (s : State) (h : Nat) : Task := getD {} h s.tasks

/-- Index and generation of a record id (R377). -/
def idIndex (id : Nat) : Nat := id % 2 ^ 13
def idGen (id : Nat) : Nat := id / 2 ^ 13

/-- A stale id: its generation is not the record's (R377). -/
def staleId (s : State) (id : Nat) : Bool := decide ((s.task (idIndex id)).gen ≠ idGen id)

/-- The lowest free record of the pool. -/
def freeRecord (s : State) : Option Nat := (upto 8192).find? (fun i => (s.task i).state == .free)

/-- Free records (FREE of DSPST). -/
def freeCount (s : State) : Nat := 8192 - (s.tasks.filter (fun t => t.2.state != .free)).length

/-- Number of a state in STATE (R379). -/
def TState.num : TState → Nat
  | .free => 0
  | .waiting => 1
  | .ready => 2
  | .loading => 3
  | .active => 4
  | .draining => 5
  | .frozen => 6

/-- The 192 bytes of a record (R378). -/
def recordBytes (s : State) (i : Nat) : List Byte :=
  let t := s.task i
  let flags := (if t.image then 1 else 0) + (if t.pinned then 2 else 0) + (if t.failed then 4 else 0)
  let wait (w : Nat × Nat × Time) : List Byte := leBytes 4 w.1 ++ leBytes 1 w.2.1 ++ zeros 3 ++ leBytes 8 w.2.2.toNat
  leBytes 4 (i + t.gen * 2 ^ 13) ++ leBytes 1 t.state.num ++ leBytes 1 t.prio ++ leBytes 1 t.bprio ++ leBytes 1 flags ++ leBytes 2 t.asid
    ++ leBytes 2 t.tmpl ++ leBytes 4 t.parent ++ leBytes 8 t.arg.toNat ++ leBytes 4 t.join ++ leBytes 1 t.waits.length ++ leBytes 1 t.aff
    ++ leBytes 1 t.skips ++ zeros 1 ++ leBytes 8 t.ready ++ leBytes 1 t.die ++ leBytes 1 t.rx ++ leBytes 1 t.ry ++ zeros 1
    ++ leBytes 4 t.epb ++ fitBytes 128 (t.waits.flatMap wait) ++ zeros 16

/-- The byte of the ready pool at a core-physical address, which service cores may read (R377). -/
def poolByte (s : State) (a : Nat) : Option Byte :=
  let b := Config.readyPool.toNat
  if b ≤ a ∧ a < b + 192 * 8192 then (recordBytes s ((a - b) / 192))[(a - b) % 192]? else none

/-- DSPST (R386). -/
def dspst (s : State) : W64 :=
  BitVec.ofNat 64 (s.dsp.wovf * 2 ^ 48 + s.dsp.jund * 2 ^ 32 + s.dsp.stale * 2 ^ 16 + freeCount s)

/-- The residency a record stands for: the one in its region or image, else its template's. -/
def taskDesc (s : State) (h : Nat) : Option Desc := match get? h s.res with
  | some r => some r.desc
  | none => (get? (s.task h).tmpl s.templates).map (·.desc)

def State.modDsp (s : State) (f : Dsp → Dsp) : State := { s with dsp := f s.dsp }

def Dsp.addStale (d : Dsp) : Dsp := { d with stale := satAdd (2 ^ 16 - 1) d.stale 1 }

/-- A quad has become free: every record may be placed again (R384). -/
def quadFreed (s : State) : State := { s with tasks := s.tasks.map (fun e => (e.1, { e.2 with unplaced := false })) }

/-! ### Answers of the Dispatcher -/

/-- Whether the source of a request can take its answer: its residency stands in its region. -/
def awake (s : State) : LSrc → Bool
  | .msg m => let st := (s.task m.h).state; st == .active || st == .draining
  | _ => true

/-- Answer a request: tokens to the slot, or completion of the command (R422). -/
def answerSrc (src : LSrc) (outs : Msg → List Out) (aborted : Bool) (s : State) : Option State := match src with
  | .msg m => (match m.src with
    | .slot k _ => answer k m (outs m) s
    | .core _ _ => some (coreDone m aborted s))
  | .cmd c id => some { s with cmdDone := s.cmdDone ++ [(c, id, aborted)] }
  | .ask a _ => some { s with files := (s.files.map (fun e => if e.1 = a then (e.1, { e.2 with busy := false }) else e)) }
  | _ => some s

/-- Record of a hold of a launch or JOIN: the issuing slot, or the Dispatcher for a command. -/
def srcRec (s : State) (src : LSrc) (asid : Nat) (cls : FClass) (fflg hold : Nat) : FRec :=
  let f : FRec := match src with
    | .msg m => (match m.src, get? m.h s.res with
      | .slot k slot, some r => slotRec r (ridOf s m.h) k slot cls m.time 0 []
      | _, _ => { cls := cls, asid := asid, place := .dispatcher })
    | _ => { cls := cls, asid := asid, place := .dispatcher }
  { f with fflg := fflg, link := .dreq hold }

/-- Hold a request at the Dispatcher. -/
def holdReq (q : DReq) (src : LSrc) (asid : Nat) (cls : FClass) (fflg : Nat) (s : State) : State :=
  let (id, s) := s.newId
  (s.modDsp (fun d => { d with held := put id q d.held })).raise (srcRec s src asid cls fflg id)

/-! ### Waits (R380) -/

/-- Whether a wait pair is satisfied: a stale id, or a frontier that passes the time; before the launch argument counts,
the frontier is its time. -/
def waitSat (s : State) (w : Nat × Nat × Time) : Bool :=
  let h := idIndex w.1
  let t := s.task h
  if staleId s w.1 || t.state == .free then true
  else if (get? h s.res).isNone then
    passes (some (t.epb * 2 ^ 44)) w.2.2.toNat
  else passes (frontier s 484 h w.2.1) w.2.2.toNat

/-- A pair that names an undeclared probe or a record of another ASID (R381). -/
def waitBad (s : State) (asid : Nat) (w : Nat × Nat × Time) : Bool :=
  let h := idIndex w.1
  let t := s.task h
  if staleId s w.1 || t.state == .free then false
  else t.asid ≠ asid || (match taskDesc s h with
    | some d => (d.probe w.2.1).isNone
    | none => true)

/-- R380: a waiting record whose JOIN is 0 and whose pairs are satisfied is ready. -/
def execWaitReevaluate (h : Nat) (s : State) : Result :=
  let t := s.task h
  if t.state == .waiting && t.join == 0 && t.waits.all (waitSat s) then
    .next ((s.modTask h (fun t => { t with state := .ready, ready := s.cycle })).act)
  else .next s

/-! ### Creation (R381) -/

/-- The record of a residency's latest launch, in the file of a template (R68, R381). -/
def fileRecord (s : State) (tmpl j : Nat) : Option Nat :=
  ((get? tmpl s.templates).bind (fun t => get? t.desc.file s.files)).bind (fun f => get? j f.made)

/-- Whether a request's waits name residencies: those of a command's launch entry do (R76, R421). -/
def LaunchReq.indexed (q : LaunchReq) : Bool := match q.src with
  | .cmd _ _ => true
  | _ => false

/-- A request with its waits on records. -/
def LaunchReq.placed (s : State) (q : LaunchReq) : LaunchReq :=
  if q.indexed then { q with waits := q.waits.filterMap (fun w => (fileRecord s q.tmpl w.1).map (fun id => (id, w.2))) } else q

/-- What is wrong with a request: class and FFLG. -/
def launchBad (s : State) (q : LaunchReq) : Option (FClass × Nat) := match get? q.tmpl s.templates with
  | none => some (.range, descFlag)
  | some t =>
    if t.asid ≠ q.asid then some (.perm, 0)
    else if q.indexed && q.waits.any (fun w => (fileRecord s q.tmpl w.1).isNone) then some (.range, descFlag)
    else if (q.placed s).waits.any (waitBad s q.asid) then some (.range, descFlag)
    else none

/-- A new record at index `i`. -/
def newRecord (s : State) (i : Nat) (q : LaunchReq) : State :=
  let own := ((get? q.tmpl s.templates).map (fun t => t.desc.prio)).getD 0
  let p := if q.prio = 255 then own else q.prio
  s.modTask i (fun t =>
    { gen := t.gen, state := .waiting, prio := p, bprio := p, asid := q.asid, tmpl := q.tmpl, parent := q.parent,
      arg := q.arg, join := q.join, waits := q.waits, aff := q.aff, epb := q.epb })

/-- A report of the Dispatcher on a watch slot (R381, R383). -/
def launchovf (slot cause asid : Nat) (v : W64) (s : State) : State :=
  (s.modDsp (fun d => { d with wovf := satAdd (2 ^ 16 - 1) d.wovf 1 })).raise
    { cls := .launchovf, asid := asid, place := .dispatcher, addr := v, gen := [slot, cause] }

/-- A launch entry of a file, or a command that launches a residency of one, has made its record (R68, R381). -/
def noteMade (q : LaunchReq) (id : Nat) (s : State) : State :=
  let note (a i : Nat) : State := { s with files := s.files.map (fun e => if e.1 = a then (e.1, { e.2 with made := put i id e.2.made }) else e) }
  match q.src with
  | .ask a i => note a i
  | .cmd _ _ =>
    match (get? q.tmpl s.templates).bind (fun t => (get? t.desc.file s.files).map (fun f => (t.desc.file, f))) with
    | some (a, f) => (match f.tmpls.find? (fun e => e.2 == q.tmpl) with
      | some e => note a e.1
      | none => s)
    | none => s
  | _ => s

/-- Create the record of a request, or hold its source. -/
def createFrom (q : LaunchReq) (s : State) : Option State := match launchBad s q with
  | some (cls, fflg) => some (holdReq (.launch q) q.src q.asid cls fflg s)
  | none => match freeRecord s with
    | none => none
    | some i =>
      let id := i + (s.task i).gen * 2 ^ 13
      answerSrc q.src (fun m => [dataOut .n64 m.time (leBytes 8 id) m.t0, dataOut .n64 m.time (leBytes 8 id) m.t1]) false
        (noteMade q id (newRecord s i (q.placed s)))

/-- The lowest watch slot whose launch queue holds entries. -/
def dueWatch (s : State) : Option (Nat × Watch) := s.watch.find? (fun w => !w.2.queue.isEmpty)

/-- Create a record for the oldest entry of a watch slot; an entry without a template, or with another ASID's, is reported
and removed (R381). -/
def createWatch (slot : Nat) (w : Watch) (s : State) : Option State := match w.queue with
  | [] => none
  | (v, tmpl, prio, aff, asid) :: rest =>
    let s1 := { s with watch := put slot { w with queue := rest } s.watch }
    match get? tmpl s.templates with
    | none => some (launchovf slot 1 asid v s1)
    | some t =>
      if t.asid ≠ asid then some (launchovf slot 2 asid v s1)
      else match freeRecord s with
        | none => none
        | some i => some (newRecord s1 i
          { src := .watch slot v, asid := asid, tmpl := tmpl, prio := if prio = 7 then 255 else prio, aff := aff, epb := 0,
            parent := 0xFFFFFFFF, join := 0, arg := v, waits := [] })

/-- R381: the oldest request whose source can take its answer; without one, a watch slot's oldest entry. -/
def execTaskCreate (s : State) : Result :=
  match s.dsp.launchq.find? (fun q => awake s q.src) with
  | some q =>
    (match createFrom q (s.modDsp (fun d => { d with launchq := removeFirst (fun x => x == q) d.launchq })) with
    | some s' => .next s'.act
    | none => .next s)
  | none => match dueWatch s with
    | none => .next s
    | some (slot, w) => match createWatch slot w s with
      | some s' => .next s'.act
      | none => .next s

/-! ### JOIN (R390) -/

/-- Tokens of a JOIN's answer: its pulse and the n32 count. -/
def joinOuts (v : Nat) (m : Msg) : List Out := [pulseOut m.time m.t0, dataOut .n32 m.time (leBytes 8 v) m.t1]

/-- R390: applies the oldest JOIN. A retirement decrement whose target is of another ASID is discarded as a stale one. -/
def applyJoin (j : JoinReq) (s : State) : Option State :=
  let h := idIndex j.id
  let t := s.task h
  let stale := staleId s j.id || t.state != .waiting
  if stale || (j.src == .retire && t.asid ≠ j.asid) then
    answerSrc j.src (joinOuts 0xFFFFFFFF) false (s.modDsp Dsp.addStale)
  else if t.asid ≠ j.asid then some (holdReq (.join j) j.src j.asid .perm 0 s)
  else
    let under := !j.set && decide (t.join < j.n)
    let v := if j.set then j.n else t.join - j.n
    let s := if under then s.modDsp (fun d => { d with jund := satAdd (2 ^ 16 - 1) d.jund 1 }) else s
    answerSrc j.src (joinOuts v) false (s.modTask h (fun t => { t with join := v }))

/-- R390: one JOIN or retirement decrement, in arrival order. -/
def execJoinApply (s : State) : Result :=
  match s.dsp.joinq.find? (fun j => awake s j.src) with
  | none => .next s
  | some j => match applyJoin j (s.modDsp (fun d => { d with joinq := removeFirst (fun x => x == j) d.joinq })) with
    | some s' => .next s'.act
    | none => .next s

/-! ### Selection and placement (R384, R385) -/

/-- Number of a quad, 0 to 479. -/
def quadNum (die x y : Nat) : Nat := die * 120 + 12 * y + x

/-- Whether a record's region holds a quad. -/
def holdsQuad (s : State) (e : Nat × Task) (die x y : Nat) : Bool :=
  let t := e.2
  (t.state == .loading || t.state == .active || t.state == .draining) && t.die == die && (match taskDesc s e.1 with
    | some d => decide (t.rx ≤ x) && decide (x < t.rx + d.w) && decide (t.ry ≤ y) && decide (y < t.ry + d.h)
    | none => false)

/-- Records that hold a quad. -/
def quadUsers (s : State) (die x y : Nat) : List (Nat × Task) := s.tasks.filter (fun e => holdsQuad s e die x y)

/-- Whether a pre-emption in progress has a quad for another record. -/
def reserved (s : State) (h die x y : Nat) : Bool := s.dsp.preempt.any (fun p =>
  p.2.1 != h && p.2.2.1 == die && (match taskDesc s p.2.1 with
    | some d => decide (p.2.2.2.1 ≤ x) && decide (x < p.2.2.2.1 + d.w) && decide (p.2.2.2.2 ≤ y) && decide (y < p.2.2.2.2 + d.h)
    | none => false))

/-- A quarantined quad, one under test, or one that is reserved (R437). -/
def quadBarred (s : State) (h die x y : Nat) : Bool :=
  bit (s.die die).qmask (12 * y + x) || s.testing.contains (quadNum die x y) || reserved s h die x y

/-- A quad that placement may claim: free, or draining and claimed by none. -/
def quadOpen (s : State) (h die x y : Nat) : Bool :=
  !quadBarred s h die x y && (quadUsers s die x y).all (fun e => e.2.state == .draining)

/-- A quad that is free, or the victim's. -/
def quadOrVictim (s : State) (h v die x y : Nat) : Bool :=
  !quadBarred s h die x y && (quadUsers s die x y).all (fun e => e.1 == v)

/-- Syntax lanes a residency declares (R65, R277). -/
def Desc.lanes (d : Desc) : Nat := ((d.binds.filter (fun b => b.kind == 2)).map (·.lanes)).sum

/-- Syntax lanes free on a die. -/
def lanesFree (s : State) (die : Nat) : Nat :=
  64 - ((s.tasks.filter (fun e => e.2.die == die && (e.2.state == .loading || e.2.state == .active || e.2.state == .draining))).map
    (fun e => ((taskDesc s e.1).map Desc.lanes).getD 0)).sum

/-- Dies in the order of R385. -/
def dieOrder (aff : Nat) : List Nat := [aff, Nat.xor aff 1, Nat.xor aff 2, Nat.xor aff 3]

/-- Whether a die takes the record: its lanes, and no pinned record of another id at its level or above. -/
def dieTakes (s : State) (h : Nat) (t : Task) (d : Desc) (die : Nat) : Bool :=
  decide (d.lanes ≤ lanesFree s die)
    && !s.tasks.any (fun e => e.1 != h && e.2.pinned && e.2.state != .free && e.2.aff == die && decide (e.2.prio ≥ t.prio))

/-- Origins of a region on a die, bottom-left to top-right. -/
def origins (w h : Nat) : List (Nat × Nat) := (upto (11 - h)).flatMap (fun y => (upto (13 - w)).map (fun x => (x, y)))

/-- Whether every quad of a region passes a test. -/
def regionAll (w h x y : Nat) (p : Nat → Nat → Bool) : Bool :=
  (upto h).all (fun j => (upto w).all (fun i => p (x + i) (y + j)))

/-- The first region of R385: die and origin. -/
def place (s : State) (h : Nat) (t : Task) (d : Desc) : Option (Nat × Nat × Nat) :=
  firstSome (fun die => if !dieTakes s h t d die then none
    else ((origins d.w d.h).find? (fun o => regionAll d.w d.h o.1 o.2 (quadOpen s h die))).map (fun o => (die, o.1, o.2)))
    (dieOrder t.aff)

/-- Whether a residency can be a victim of record `t`: active, not freezing, of a lower level. -/
def victims (s : State) (t : Task) : List (Nat × Task) :=
  s.tasks.filter (fun e => e.2.state == .active && e.2.freezing.isNone && decide (e.2.prio < t.prio)
    && !s.dsp.preempt.any (fun p => p.1 == e.1))

/-- Cycle of a residency's activation. -/
def activatedAt (s : State) (h : Nat) : Nat := ((get? h s.res).map (·.since)).getD 0

/-- The preferred of two victims: lower level, then later activation. -/
def betterVictim (s : State) (a b : Nat × Task) : Bool :=
  decide (a.2.prio < b.2.prio) || (a.2.prio == b.2.prio && decide (activatedAt s a.1 > activatedAt s b.1))

/-- R385: the victim whose quads, joined with free ones, give a fit at the earliest origin. -/
def victimFor (s : State) (h : Nat) (t : Task) (d : Desc) : Option (Nat × Nat × Nat × Nat) :=
  firstSome (fun die => if !dieTakes s h t d die then none
    else firstSome (fun (o : Nat × Nat) =>
      let vs := (victims s t).filter (fun v => v.2.die == die && regionAll d.w d.h o.1 o.2 (quadOrVictim s h v.1 die))
      ((sortBy (betterVictim s) vs).head?).map (fun v => (v.1, die, o.1, o.2))) (origins d.w d.h)) (dieOrder t.aff)

/-- An eligible record (R384). -/
def eligible (s : State) (e : Nat × Task) : Bool :=
  (e.2.state == .ready || e.2.state == .frozen) && !e.2.unplaced && !s.dsp.preempt.any (fun p => p.2.1 == e.1)

/-- The record R384 selects, and the credits and pointers it leaves. -/
def selectRecord (s : State) : Option (Nat × Task × Dsp) :=
  let es := s.tasks.filter (eligible s)
  if es.isEmpty then none
  else
    let l := (es.map (fun e => e.2.prio)).foldl max 0
    let es := es.filter (fun e => e.2.prio == l)
    let as := sortBy (fun a b => decide (a < b)) (dedup (es.map (fun e => e.2.asid)))
    let key (a : Nat) : Nat := l * 4096 + a
    let weight (a : Nat) : Nat := max 1 (getD 0 a s.dsp.weights)
    let credits := if as.all (fun a => getD 0 (key a) s.dsp.credits == 0)
      then as.foldl (fun m a => put (key a) (weight a) m) s.dsp.credits else s.dsp.credits
    let p := getD 0 l s.dsp.ptrs
    let order := as.filter (fun a => decide (a ≥ p)) ++ as.filter (fun a => decide (a < p))
    match order.find? (fun a => decide (getD 0 (key a) credits > 0)) with
    | none => none
    | some a =>
      let before (x y : Nat × Task) : Bool :=
        decide (x.2.ready < y.2.ready) || (x.2.ready == y.2.ready && decide (x.1 < y.1))
      match (sortBy before (es.filter (fun e => e.2.asid == a))).head? with
      | none => none
      | some e => some (e.1, e.2,
          { s.dsp with credits := put (key a) (getD 0 (key a) credits - 1) credits, ptrs := put l (a + 1) s.dsp.ptrs })

/-- A record claims a region: its load begins, and bring-up is over (R93, R429). -/
def claim (h die x y : Nat) (s : State) : State :=
  { s.modTask h (fun t => { t with state := .loading, die := die, rx := x, ry := y, pinned := false, loaded := 0 }) with
    broughtUp := true }

/-- R384, R385: selects a record and places it, or tries pre-emption. -/
def execTaskSelect (s : State) : Result :=
  match selectRecord s with
  | none => .next s
  | some (h, t, dsp) =>
    let s := { s with dsp := dsp }
    match taskDesc s h with
    | none => .next s.act
    | some d => match place s h t d with
      | some (die, x, y) => .next (claim h die x y s).act
      | none =>
        let s := if bit s.dsp.ctl.toNat 0 then match victimFor s h t d with
            | some (v, die, x, y) => s.modDsp (fun q =>
                { q with
                  frzq := q.frzq ++ [(v, 1)]
                  preempt := q.preempt ++ [(v, h, die, x, y)] })
            | none => s
          else s
        .next (s.modTask h (fun t =>
          let n := satAdd 255 t.skips 1
          { t with skips := n, pinned := t.pinned || decide (n ≥ 16), unplaced := true })).act

/-- R384: one level for every 2^20 cycles in ready or frozen. -/
def execPriorityAging (h : Nat) (s : State) : Result :=
  let t := s.task h
  if (t.state == .ready || t.state == .frozen) && decide (t.prio < 6) && decide (s.cycle ≥ t.ready + 2 ^ 20) then
    .next (s.modTask h (fun t => { t with prio := t.prio + 1, ready := s.cycle })).act
  else .next s

/-! ### Regions and quiescence (R387) -/

/-- Quads of a region, relative. -/
def Desc.quads (d : Desc) : List (Nat × Nat) := (upto d.h).flatMap (fun y => (upto d.w).map (fun x => (x, y)))

/-- ATs and MTs of a region at an origin. -/
def atsOf (d : Desc) (die x0 y0 : Nat) : List Nat :=
  d.quads.flatMap (fun q => (upto 3).map (fun t => tileKey die (x0 + q.1) (y0 + q.2) t))
def mtsOf (d : Desc) (die x0 y0 : Nat) : List Nat := d.quads.map (fun q => tileKey die (x0 + q.1) (y0 + q.2) 3)

/-- Whether an AT holds no token, generator, hold, capability, generator context, or operation of its node. -/
def AT.quiet (a : AT) : Bool :=
  a.pos.all (fun e => e.2.isEmpty) && a.chan.all (fun e => e.2.isEmpty) && a.caps.isEmpty && a.agens.isEmpty
    && a.resizing.isEmpty && a.slots.all (fun e => e.2.gen.isNone && e.2.hold.isNone && e.2.wait.isNone && e.2.owed.isEmpty)
    && a.node.flight.isEmpty && a.node.loads.isEmpty && a.node.outq.isEmpty && a.node.cfg.isNone

/-- Whether an MT holds no message, engine context, combine slot or committed store. -/
def MT.quiet (m : MT) : Bool :=
  m.inbox.isEmpty && m.asideC.isEmpty && m.asideS.isEmpty && m.cctx.isEmpty && m.sctx.isEmpty && m.cin.isEmpty
    && m.commit.isEmpty && m.waiters.isEmpty
    && (match m.cmb with
      | some u => u.waiting.isNone && u.allocq.isEmpty && u.order.isEmpty && u.markers.isEmpty && u.rel.isNone
      | none => true)

def LSrc.ofRes (h : Nat) : LSrc → Bool
  | .msg m => m.h == h
  | _ => false

/-- Whether nothing of a residency is outstanding outside its tiles. -/
def resQuiet (s : State) (h : Nat) : Bool :=
  !s.reqs.any (fun e => e.2.h == h) && !s.subs.any (fun e => e.2.h == h) && !s.held.any (fun e => e.2.msg.h == h)
    && !s.svcs.any (fun e => e.2.msg.h == h) && !s.dsp.launchq.any (fun q => q.src.ofRes h)
    && !s.dsp.joinq.any (fun q => q.src.ofRes h)
    && !s.dsp.held.any (fun e => match e.2 with | .launch q => q.src.ofRes h | .join j => j.src.ofRes h)
    && !s.trackers.any (fun t => t.2.queries.any (fun m => m.h == h))
    && !s.snapq.any (fun m => m.h == h) && !(s.snap.any (fun n => n.msg.h == h))
    && !s.syns.any (fun e => e.1 / 64 == h && (!e.2.queue.isEmpty || e.2.streams.any (fun v => v.2.state != 2)))
    && !s.homes.any (fun e => e.2.det.any (fun c => c.h == h)) && !s.posts.any (fun e => e.2.any (fun p => p.res == h))

/-- The region of a residency reports quiet. -/
def regionQuiet (s : State) (h : Nat) (r : Res) : Bool :=
  (atsOf r.desc r.die r.x0 r.y0).all (fun k => (s.at k).quiet) && (mtsOf r.desc r.die r.x0 r.y0).all (fun k => (s.mt k).quiet)
    && r.backq.all (fun e => e.2.toks.isEmpty && e.2.src.isNone) && resQuiet s h

/-! ### Freeing a record -/

/-- The parent's decrement (R388), its generation advanced, its record free. -/
def freeTask (h : Nat) (s : State) : State :=
  let t := s.task h
  let s := if t.parent = 0xFFFFFFFF then s
    else s.modDsp (fun d => { d with joinq := d.joinq ++ [(⟨.retire, t.asid, false, t.parent, 1⟩ : JoinReq)] })
  quadFreed (s.modTask h (fun t => { gen := (t.gen + 1) % 2 ^ 19 }))

/-- Inactive banks that a load has written become invalid (R43). -/
def dropLoads (h : Nat) (s : State) : State :=
  { s with ats := s.ats.map (fun e => (e.1, if e.2.next = some h then { e.2 with inactive := {}, next := none } else e.2)) }

/-- A residency's counts leave the trackers of a range (R338, R402). -/
def dropCounts (h lo hi : Nat) (s : State) : State :=
  { s with trackers := s.trackers.map (fun e =>
      if lo ≤ e.1 ∧ e.1 ≤ hi then (e.1,
        { e.2 with
          exact := e.2.exact.filter (fun c => c.res != h)
          spill := e.2.spill.filter (fun c => c.res != h)
          inq := (e.2.inq.map (fun q => (q.1, (q.2.map (fun b => b.filter (fun p => p.res != h))).filter
            (fun b => !b.isEmpty)))).filter (fun q => !q.2.isEmpty) })
      else e) }

/-- WAITF registrations of a residency are dropped (R341). -/
def dropWaiters (h : Nat) (s : State) : State :=
  { s with trackers := s.trackers.map (fun e => (e.1,
      { e.2 with
        waiters := e.2.waiters.filter (fun w => w.res != h)
        regq := e.2.regq.filter (fun w => w.res != h) })) }

/-- What a node keeps while residencies come and go: its slew grant, which only a tick withdraws (R269). -/
def Node.slewOnly (n : Node) : Node := { grant := n.grant, filling := n.filling }

/-- What a tile keeps when its residency leaves it: its inactive bank and load, the bytes of its buffers, and its node's grant. -/
def AT.vacate (a : AT) : AT :=
  { inactive := a.inactive, next := a.next, w := a.w, a := a.a, q := a.q, node := a.node.slewOnly }

/-- What an MT keeps: its bytes. -/
def MT.vacate (m : MT) : MT := { scr := m.scr }

/-- The tiles of a region lose their residency. -/
def vacate (r : Res) (s : State) : State :=
  let s := (atsOf r.desc r.die r.x0 r.y0).foldl (fun s k => s.modAt k AT.vacate) s
  (mtsOf r.desc r.die r.x0 r.y0).foldl (fun s k => s.modMt k MT.vacate) s

/-- R388, R338, R97: the residency's counts, cache entries, lanes and record go; its peers and pre-emptions lose it, and so does whatever
still worked for it: what reuses its handle finds nothing (log 28). -/
def retireRes (h : Nat) (s : State) : State :=
  let s := match get? h s.res with
    | none => s
    | some _ => dropWaiters h (dropCounts h 0 484 s)
  let s := { s with
    res := (del h s.res).map (fun e => (e.1, { e.2 with peers := e.2.peers.filter (fun p => p.2.1 != h) }))
    images := del h s.images
    dsp := { s.dsp with
      preempt := s.dsp.preempt.filter (fun p => p.1 != h && p.2.1 != h)
      launchq := s.dsp.launchq.filter (fun q => !q.src.ofRes h)
      joinq := s.dsp.joinq.filter (fun q => !q.src.ofRes h)
      held := s.dsp.held.filter (fun e => !(match e.2 with | .launch q => q.src.ofRes h | .join j => j.src.ofRes h)) }
    trackers := s.trackers.map (fun e => (e.1, { e.2 with queries := e.2.queries.filter (fun m => m.h != h) }))
    homes := s.homes.map (fun e => (e.1, { e.2 with det := e.2.det.filter (fun c => c.h != h) }))
    snapq := s.snapq.filter (fun m => m.h != h)
    snap := if s.snap.any (fun n => n.msg.h == h) then none else s.snap
    syns := s.syns.filter (fun e => e.1 / 64 != h)
    reqs := s.reqs.filter (fun e => e.2.h != h)
    subs := s.subs.filter (fun e => e.2.h != h)
    held := s.held.filter (fun e => e.2.msg.h != h)
    svcs := s.svcs.filter (fun e => e.2.msg.h != h)
    pts := s.pts.map (fun e => (e.1,
      { e.2 with
        ranges := e.2.ranges.filter (fun x => x.2.1 != h)
        trans := e.2.trans.filter (fun x => x.h != h) })) }
  freeTask h s

/-! ### Loading (R387) -/

/-- A LOADCHK record (R465). -/
def loadchk (s : State) (h : Nat) (d : Desc) (e : LoadErr) : FRec :=
  let t := s.task h
  let tile := e.tile.getD (0, 0, 0)
  { cls := .loadchk, fflg := if e.header then 4 else 0, asid := t.asid, rid := ridOf s h, place := .loader,
    die := if e.tile.isSome then t.die else 0, qx := tile.1, qy := tile.2.1, tile := tile.2.2, slot := e.slot.getD 0xFF,
    gen := [getD 0 e.sec d.secs, e.rec'] }

/-- A load that fails: its record, and the claim and task record are freed as at retirement. -/
def failLoad (h : Nat) (d : Desc) (e : LoadErr) (s : State) : State :=
  retireRes h (dropLoads h (s.raise (loadchk s h d e)))

/-- Whether a load may begin: up to 8 run at once (R387). -/
def loadRoom (s : State) (h : Nat) : Bool :=
  let going (e : Nat × Task) : Bool := e.1 != h && e.2.state == .loading && e.2.loaded != 0
    && ((taskDesc s e.1).map (fun d => decide (e.2.loaded < d.blocks.length))).getD false
  (s.task h).loaded != 0 || decide ((s.tasks.filter going).length < 8)

/-- R41 to R44: one block enters the inactive bank of its tile, checked; with the last one, the checks over the whole
residency. -/
def execBlockLoad (h : Nat) (s : State) : Result :=
  let t := s.task h
  match taskDesc s h with
  | none => .next s
  | some d =>
    if t.state != .loading || t.freezing.isSome || !loadRoom s h then .next s
    else match d.blocks[t.loaded]? with
      | none => .next s
      | some b =>
        let last := decide (t.loaded + 1 = d.blocks.length)
        match (match blockErr d t.loaded b with
          | some e => some e
          | none => if last then residencyErr d else none) with
        | some e => .next (failLoad h d e s).act
        | none =>
          let k := tileKey t.die (t.rx + b.qx) (t.ry + b.qy) b.t
          .next (((s.modAt k (fun a => { a with inactive := b.bank, next := some h })).modTask h (fun t =>
            { t with loaded := t.loaded + 1 })).act)

/-! ### Draining and retirement (R388) -/

/-- Output probes of a residency. -/
def Desc.outputs (d : Desc) : List Probe := d.probes.filter (·.out)

/-- R388: an active residency enters draining. -/
def execEnterDraining (h : Nat) (s : State) : Result :=
  let t := s.task h
  match get? h s.res with
  | none => .next s
  | some r =>
    let done := if r.desc.outputs.isEmpty then regionQuiet s h r
      else r.desc.outputs.all (fun p => (frontier s 484 h p.num).isNone)
    if t.state == .active && t.freezing.isNone && done then
      .next (((s.modTask h (fun t => { t with state := .draining })).modRes h (fun r => { r with since := s.cycle })).act)
    else .next s

/-- R388: a draining region that reports quiet is retired. -/
def execRetire (h : Nat) (s : State) : Result :=
  let t := s.task h
  match get? h s.res with
  | none => .next s
  | some r =>
    if t.state == .draining && t.freezing.isNone && regionQuiet s h r then .next (retireRes h (vacate r s)).act else .next s

/-- R388: the drain limit passes: the residency is frozen with cause 2. -/
def execDrainLimitExpiry (h : Nat) (s : State) : Result :=
  let t := s.task h
  match get? h s.res with
  | none => .next s
  | some r =>
    let counts := t.state == .draining || (t.state == .active && r.desc.outputs.isEmpty)
    if counts && t.freezing.isNone && !s.dsp.frzq.contains (h, 2) && decide (s.cycle ≥ r.since + r.desc.drain)
        && !regionQuiet s h r then
      .next (s.modDsp (fun d => { d with frzq := d.frzq ++ [(h, 2)] })).act
    else .next s

/-! ### Watch slots (R382, R383) -/

/-- A performed store to a watch slot: its launch queue takes the value, or LAUNCHOVF. -/
def watchStore (slot : Nat) (v : W64) (s : State) : State :=
  let w := getD {} slot s.watch
  if !w.en then s
  else if w.queue.length ≥ 64 then launchovf slot 0 w.asid v s
  else
    let w' := { w with queue := w.queue ++ [(v, w.tmpl, w.prio, w.aff, w.asid)], en := !w.once }
    { s with watch := put slot w' s.watch }

/-- R382: a watched word's new value reaches the Dispatcher. -/
def execWatchedStore (s : State) : Result :=
  match s.watchq with
  | [] => .next s
  | (slot, v) :: rest => .next (watchStore slot v { s with watchq := rest }).act

/-- R382: a host write to the watch window. -/
def execWatchWindowWrite (slot : Nat) (value : BitVec 64) (s : State) : Result :=
  if slot < 256 then .next (watchStore slot value s).act else .next s

/-- R386: clears DSPST's counters. -/
def execDspstClear (s : State) : Result := .next (s.modDsp (fun d => { d with wovf := 0, jund := 0, stale := 0 })).act

end Sys2Proof.Machine
end

