-- ==== Sys2Proof/Machine/File.lean ====
section
/-! DEFINITION. The loader's checks of a Skein file (R61 to R88, R94, R313, R325, R334, R465). -/

namespace Sys2Proof.Machine

/-! ### CRC-32 (R69) -/

/-- One bit of the reflected polynomial. -/
def crcBit (c : Nat) : Nat := if c % 2 = 1 then Nat.xor (c / 2) 0xEDB88320 else c / 2

def crcByte (c : Nat) (b : Byte) : Nat :=
  crcBit (crcBit (crcBit (crcBit (crcBit (crcBit (crcBit (crcBit (Nat.xor c b.toNat))))))))

/-- CRC-32 of IEEE 802.3, initial and final value 0xFFFF_FFFF. -/
def crc32 (bs : List Byte) : Nat := Nat.xor (bs.foldl crcByte 0xFFFFFFFF) 0xFFFFFFFF

/-! ### Errors -/

/-- What a failure names: section-table index and record. -/
structure FileErr where
  sec  : Nat
  rec' : Nat := 0xFFFFFFFF
  deriving DecidableEq, Repr, Inhabited

/-- The parse of n records, each from its number. -/
def eachRec {α : Type} (n : Nat) (f : Nat → Except FileErr α) : Except FileErr (List α) :=
  (upto n).foldr (fun i acc => match f i with
    | .error e => .error e
    | .ok x => acc.map (fun l => x :: l)) (.ok [])

/-- Refuse a record unless a test holds. -/
def guardRec (ok : Bool) (e : FileErr) : Except FileErr Unit := if ok then .ok () else .error e

/-- Whether bytes are all 0. -/
def zeroAt (bs : List Byte) (o n : Nat) : Bool := (sliceBytes bs o n).all (fun b => b == 0)

/-! ### Header and section table (R69 to R72) -/

/-- A section-table entry. -/
structure Sec where
  index : Nat
  typ   : Nat
  sflg  : Nat
  owner : Nat
  off   : Nat
  size  : Nat
  count : Nat
  crc   : Nat
  deriving DecidableEq, Repr, Inhabited

/-- Fields of the header. -/
structure Header where
  stoff : Nat
  scnt  : Nat
  flags : Nat
  flen  : Nat
  nres  : Nat
  deriving DecidableEq, Repr, Inhabited

def header (b : List Byte) : Header := ⟨natAt b 0x10 8, natAt b 0x18 4, natAt b 0x1C 4, natAt b 0x20 8, natAt b 0x28 4⟩

/-- What is wrong with the header of a file that is a frozen image, or of one that is not (R69). -/
def headerWrong (frozen : Bool) (b : List Byte) : Bool :=
  let x := header b
  natAt b 0 4 ≠ 0x014E4B53 || natAt b 4 2 ≠ 1 || natAt b 6 2 > 1 || natAt b 0x30 4 ≠ crc32 (b.take 0x30)
    || x.stoff % 8 ≠ 0 || x.scnt < 2 || x.scnt > 65535 || x.flags ≥ 16 || bit x.flags 0 != frozen || x.nres = 0 || x.nres > 64
    || natAt b 8 8 ≥ 2 ^ 7 || !zeroAt b 0x2C 4 || !zeroAt b 0x34 12 || x.stoff + 32 * x.scnt > x.flen || x.flen < 64

/-- What is wrong with the header: a frozen image is accepted only by restore (R86). -/
def fileHeaderBad (b : List Byte) : Bool := headerWrong false b

def secAt (f : List Byte) (stoff i : Nat) : Sec :=
  let b := sliceBytes f (stoff + 32 * i) 32
  ⟨i, natAt b 0 2, natAt b 2 2, natAt b 4 4, natAt b 8 8, natAt b 0x10 8, natAt b 0x18 4, natAt b 0x1C 4⟩

/-- Whether a section belongs to a residency (R71). -/
def ownedType (t : Nat) : Bool := (decide (4 ≤ t) && decide (t ≤ 0xC)) || t == 0x10

/-- A tool annotation. -/
def Sec.note (x : Sec) : Bool := decide (x.typ ≥ 0x8000)

/-- What is wrong with one entry by itself. TYPE 0, which R71 neither lists nor reserves, is refused as a reserved type (DESIGN
CHOICE, log 27). -/
def secBad (x : Header) (e : Sec) : Bool :=
  (decide (e.typ > 0x11) && !e.note) || e.typ = 0 || e.sflg > 1 || e.off % 8 ≠ 0 || e.size % 8 ≠ 0
    || decide (e.off + e.size > x.flen)
    || (if e.note then false else if ownedType e.typ then decide (e.owner ≥ x.nres) else e.owner ≠ 0xFFFFFFFF)
    || (if e.index = 0 then e.typ ≠ 1 || e.off ≠ 0 || e.size ≠ 64 || e.count ≠ 1 else e.typ = 1)
    || (if e.index = 1 then e.typ ≠ 2 else e.typ = 2)
    || (bit x.flags 1 && !e.note && e.typ ≠ 0x11 && e.sflg ≠ 1)

/-- Two sections that overlap, or repeat a type of one owner; NEG, SIG and the annotations may repeat. -/
def secClash (a b : Sec) : Bool :=
  (decide (a.off < b.off + b.size) && decide (b.off < a.off + a.size))
    || (!a.note && a.typ != 0xF && a.typ != 0x11 && a.typ == b.typ && a.owner == b.owner)

/-- Whether some pair of a list clashes. -/
def anyClash : List Sec → Bool
  | [] => false
  | x :: xs => xs.any (secClash x) || anyClash xs

/-- Size of a record where every record of the type has it. -/
def recSize (t : Nat) : Option Nat := match t with
  | 5 => some 16 | 7 => some 8 | 8 => some 32 | 9 => some 32 | 0xC => some 64 | 0xD => some 24 | 0xE => some 16 | 0xF => some 16
  | _ => none

/-- What is wrong with a section as a whole: its checksum, or its count. -/
def secWhole (f : List Byte) (e : Sec) : Bool :=
  crc32 (sliceBytes f e.off e.size) ≠ e.crc || (!e.note && (match recSize e.typ with
    | some n => e.size != n * e.count
    | none => false))

/-! ### Strings (R73) -/

/-- The string at an offset. -/
def strAt (str : List Byte) (o : Nat) : List Byte := (str.drop o).takeWhile (fun b => b != 0)

/-- Whether an offset is the start of a string. -/
def isStr (str : List Byte) (o : Nat) : Bool := o = 0 || (decide (o < str.length) && natAt str (o - 1) 1 == 0)

/-- End of the n-th string from an offset. -/
def strEnd : List Byte → Nat → Nat → Nat
  | _, 0, p => p
  | [], _ + 1, p => p
  | b :: bs, n + 1, p => strEnd bs (if b = 0 then n else n + 1) (p + 1)

/-- STR starts with the empty string and holds its count of strings, padded. -/
def strBad (str : List Byte) (count : Nat) : Bool :=
  let e := strEnd str count 0
  natAt str 0 1 ≠ 0 || str.isEmpty || count = 0 || str.length ≠ (e + 7) / 8 * 8 || !zeroAt str e (str.length - e)

/-! ### Requirements and signatures (R83, R84, R87, R88) -/

/-- Whether a requirement is met. Fields that a kind does not use must be 0, or the requirement is not met (DESIGN CHOICE,
log 27: R83 does not say what they hold). -/
def negMet (s : State) (b : List Byte) : Bool :=
  let major := natAt b 4 2
  let minor := natAt b 6 2
  zeroAt b 1 3 && (match natAt b 0 1 with
    | 1 | 2 | 3 => major == 1 && minor == 0 && zeroAt b 8 8
    | 4 => major == 0 && minor == 0 && BitVec.ofNat 64 (natAt b 8 8) &&& ~~~(featr s) == 0
    | _ => false)

/-- Signature records: algorithm, key, signature; `none` where one is malformed. -/
def sigRecs (str b : List Byte) : Nat → Nat → Option (List (Nat × Nat × List Byte))
  | 0, o => if o = b.length then some [] else none
  | n + 1, o =>
    let alg := natAt b o 2
    let len := natAt b (o + 4) 4
    if len = (if alg = 1 then 384 else if alg = 2 then 29792 else 0) && len ≠ 0 && isStr str (natAt b (o + 8) 4) && zeroAt b (o + 12) 4
        && decide (o + 16 + len ≤ b.length) then
      (sigRecs str b n (o + 16 + len)).map (fun l => (alg, natAt b (o + 2) 2, sliceBytes b (o + 16) len) :: l)
    else none

/-- Records of a SIG section: one or two, well formed. -/
def sigSec (f str : List Byte) (e : Sec) : Option (List (Nat × Nat × List Byte)) :=
  if e.count = 1 || e.count = 2 then sigRecs str (sliceBytes f e.off e.size) e.count 0 else none

/-- The first malformed SIG section. -/
def sigBad (f str : List Byte) (es : List Sec) : Option Nat :=
  (es.find? (fun e => e.typ == 0x11 && (sigSec f str e).isNone)).map (·.index)

/-- The bytes that both algorithms sign. An annotation that sets SFLG bit 0 is among them: R87 names every entry with the bit set
(DESIGN CHOICE, log 27: R71 says that signatures do not cover annotations). -/
def signedBytes (f : List Byte) (x : Header) (es : List Sec) : List Byte :=
  let cov := es.filter (fun e => bit e.sflg 0)
  f.take 0x34 ++ cov.flatMap (fun e => sliceBytes f (x.stoff + 32 * e.index) 32) ++ cov.flatMap (fun e => sliceBytes f e.off e.size)

/-- Whether the file's signatures, or their absence, are accepted. R88 speaks of two records: the records of all SIG sections are taken
together, and one of each algorithm that verifies is enough, whatever stands beside it (DESIGN CHOICE, log 27). -/
def signedOk (f str : List Byte) (asid : Nat) (x : Header) (es : List Sec) : Bool :=
  if bit x.flags 1 then
    let rs := (es.filter (fun e => e.typ == 0x11)).flatMap (fun e => (sigSec f str e).getD [])
    [1, 2].all (fun alg => rs.any (fun r => r.1 == alg && Config.sigValid alg r.2.1 (signedBytes f x es) r.2.2))
  else !bit x.flags 2 && Config.unsignedAccepted asid

/-! ### Frozen state in a file (R72, R86) -/

/-- Subrecords of an FRZ section from an offset: each head's kind is one of R86's, its reserved bytes are 0, its payload and padding lie
in the section, and the last ends it. -/
def subsOk (b : List Byte) : Nat → Nat → Bool
  | 0, o => o == b.length
  | n + 1, o =>
    let len := natAt b (o + 8) 4
    let next := o + 16 + (len + 7) / 8 * 8
    decide (1 ≤ natAt b o 2) && decide (natAt b o 2 ≤ 10) && zeroAt b (o + 5) 1 && zeroAt b (o + 12) 4 && decide (next ≤ b.length)
      && zeroAt b (o + 16 + len) (next - (o + 16 + len)) && subsOk b n next

/-- Whether an FRZ section is one image as R86 lays it out; its COUNT is that of its subrecords (DESIGN CHOICE, log 27). -/
def frzOk (count : Nat) (b : List Byte) : Bool :=
  decide (64 ≤ b.length) && zeroAt b 2 1 && decide (1 ≤ natAt b 3 1) && decide (natAt b 3 1 ≤ 4) && natAt b 4 4 == count && zeroAt b 24 40
    && decide (16 * count ≤ b.length) && subsOk b count 64

/-- Whether a frozen image is one of a region of W × H quads (R86). -/
def frzFits (w h count : Nat) (b : List Byte) : Bool := natAt b 0 1 == w && natAt b 1 1 == h && frzOk count b

/-- Whether a file is a frozen image for a region of W × H quads (R86): FLAGS bit 0, sound entries, and FRZ sections of which each fits. -/
def frozenFileOk (w h : Nat) (f : List Byte) : Bool :=
  let x := header f
  let es := (upto x.scnt).map (secAt f x.stoff)
  let own := es.filter (fun e => e.typ == 0x10)
  !headerWrong true (f.take 64) && !es.any (secBad x) && !anyClash es && !es.any (secWhole f) && !own.isEmpty
    && own.all (fun e => frzFits w h e.count (sliceBytes f e.off e.size))

/-- R86: what restore accepts for a region of W × H quads: the FRZ section that scan-out wrote, or a file that is a frozen image. -/
def restoreTakes (w h : Nat) (b : List Byte) : Bool :=
  if natAt b 0 4 = 0x014E4B53 then frozenFileOk w h b else frzFits w h (natAt b 4 4) b

/-- The first malformed FRZ section. -/
def frzBad (f : List Byte) (es : List Sec) : Option Nat :=
  (es.find? (fun e => e.typ == 0x10 && !frzOk e.count (sliceBytes f e.off e.size))).map (·.index)

/-! ### Residency descriptors (R74 to R76) -/

/-- A time shape; `none` where it is malformed. -/
def shapeAt (v : Nat) : Option (List Nat) :=
  let d := bits v 0 3
  let ws := (upto 4).map (fun i => bits v (3 + 6 * i) 6)
  if d > 4 || bits v 27 5 ≠ 0 || (ws.drop d).any (fun w => w != 0) || (ws.take d).any (fun w => w == 0 || decide (w > 44))
      || decide ((ws.take d).sum > 44) then none
  else some (ws.take d)

/-- A launch entry; `seen` are the residencies launched before it. Pairs beyond NWT must be 0 (DESIGN CHOICE, log 27: R76 does
not say what they hold). -/
def launchAt (nres : Nat) (seen : List Nat) (b : List Byte) : Option LaunchEntry :=
  let kind := natAt b 0 1
  let lpri := natAt b 1 1
  let nwt := natAt b 2 1
  let ws := waitPairs b 0x10 nwt
  let epb := natAt b 0x90 4
  let ok := decide (lpri ≤ 6) || lpri == 255
  if !ok || !zeroAt b 0x94 12 || decide (nwt > 8) || (upto nwt).any (fun i => !zeroAt b (0x10 + 16 * i + 5) 3)
      || !zeroAt b (0x10 + 16 * nwt) (128 - 16 * nwt) then none
  else if kind = 1 && decide (epb < 2 ^ 20) && ws.all (fun w => decide (w.1 < nres) && seen.contains w.1) then
    some ⟨1, lpri, natAt b 3 1, natAt b 4 4, natAt b 8 8, ws.map (fun w => (w.1, w.2.1, w.2.2.toNat)), epb⟩
  else if kind = 2 && epb = 0 && nwt = 0 && decide (natAt b 4 4 ≤ 1) then
    some ⟨2, lpri, natAt b 3 1, natAt b 4 4, natAt b 8 8, [], 0⟩
  else none

/-- What is wrong with a descriptor by itself. -/
def resBad (str : List Byte) (sys : Bool) (b : List Byte) : Bool :=
  let w := natAt b 4 1
  let h := natAt b 5 1
  let p := natAt b 6 1
  !isStr str (natAt b 0 4) || w = 0 || w > 12 || h = 0 || h > 10 || p > 7 || (p = 7 && !sys) || natAt b 7 1 = 0 || natAt b 8 4 > 1
    || natAt b 0xD 1 > 64 || natAt b 0xE 1 > 64 || (natAt b 8 4 = 0 && !zeroAt b 0x10 8)
    || (upto 8).any (fun i => (shapeAt (natAt b (0x18 + 4 * i) 4)).isNone)
    || natAt b 0x40 1 ≥ w || natAt b 0x41 1 ≥ h || natAt b 0x42 1 > 2 || natAt b 0x43 1 > 127 || natAt b 0x44 1 > 2
    || !zeroAt b 0x45 59

/-- A descriptor and its launch entries, with NLOC and NPRB. -/
structure ResRec where
  k        : Nat
  b        : List Byte
  launches : List LaunchEntry
  nloc     : Nat
  nprb     : Nat
  deriving DecidableEq, Repr, Inhabited

/-- Launch entries of residency i from record number k on. -/
def launchesAt (sec nres i : Nat) (b : List Byte) : Nat → Nat → Nat → List Nat → Except FileErr (List LaunchEntry)
  | 0, _, _, _ => .ok []
  | n + 1, o, k, seen => match launchAt nres seen (sliceBytes b o 160) with
    | none => .error ⟨sec, k⟩
    | some l => (launchesAt sec nres i b n (o + 160) (k + 1) (if l.kind = 1 then seen ++ [i] else seen)).map (fun ls => l :: ls)

/-- RES from residency i on: offset, record number, residencies launched before. -/
def resRecs (sec nres : Nat) (sys : Bool) (str b : List Byte) (count : Nat) : Nat → Nat → Nat → Nat → List Nat →
    Except FileErr (List ResRec)
  | 0, _, o, k, _ => if o = b.length && k = count then .ok [] else .error { sec := sec }
  | n + 1, i, o, k, seen =>
    let d := sliceBytes b o 128
    let nl := natAt d 0xF 1
    if o + 128 + 160 * nl > b.length then .error { sec := sec }
    else if resBad str sys d then .error ⟨sec, k⟩
    else match launchesAt sec nres i b nl (o + 128) (k + 1) seen with
      | .error e => .error e
      | .ok ls =>
        (resRecs sec nres sys str b count n (i + 1) (o + 128 + 160 * nl) (k + 1 + nl)
          (if ls.any (fun l => l.kind == 1) then seen ++ [i] else seen)).map (fun rs => ⟨k, d, ls, natAt d 0xD 1, natAt d 0xE 1⟩ :: rs)

/-! ### Records of a residency (R77 to R82) -/

/-- Block records; the word count agrees with the block header's ICNT and SDO (R77). -/
def blockRecs (sec : Nat) (b : List Byte) : Nat → Nat → Nat → Except FileErr (List Block)
  | 0, o, _ => if o = b.length then .ok [] else .error { sec := sec }
  | n + 1, o, k =>
    let nw := natAt b (o + 4) 4
    if o + 16 + 8 * nw > b.length then .error { sec := sec }
    else
      let x : Block := ⟨natAt b o 1, natAt b (o + 1) 1, natAt b (o + 2) 1,
        (upto nw).map (fun i => BitVec.ofNat 64 (natAt b (o + 16 + 8 * i) 8))⟩
      if !zeroAt b (o + 3) 1 || !zeroAt b (o + 8) 8 || decide (nw < 2) || nw ≠ x.bank.sdo + (x.bank.icnt + 1) / 2 then .error ⟨sec, k⟩
      else (blockRecs sec b n (o + 16 + 8 * nw) (k + 1)).map (fun bs => x :: bs)

/-- A location record. -/
def locAt (w h : Nat) (b : List Byte) : Option Loc :=
  let x := natAt b 1 1
  let y := natAt b 2 1
  let t := natAt b 3 1
  let p := natAt b 4 1
  let q := natAt b 5 1
  let here := decide (x < w) && decide (y < h)
  if !zeroAt b 6 2 then none
  else match natAt b 0 1 with
    | 0 => if here && decide (t < 3) && decide (p < 128) && decide (q < 3) then some (.pos x y t p q) else none
    | 1 => if here && decide (t < 3) && p = 0 && decide (q < 64) then some (.chan x y t q) else none
    | 2 => if here && t = 3 && p = 0 && q = 0 then some (.copy x y) else none
    | 3 => if here && t = 3 && p = 0 && q = 0 then some (.cmb x y) else none
    | 4 => if here && t = 3 && p = 0 && q = 0 then some (.owner x y) else none
    | 5 => if here && decide (t < 3) && decide (p < 64) && q = 0 then some (.cap x y t p) else none
    | 6 => if x = 0 && y = 0 && t = 0 && p = 0 && q = 0 then some .detPend else none
    | 7 => if x = 0 && y = 0 && t = 0 && decide (p < 32) && q = 0 then some (.syn p) else none
    | _ => none

/-- A probe record. -/
def probeAt (str : List Byte) (nloc : Nat) (b : List Byte) : Option Probe :=
  if natAt b 0 1 < 64 && decide (natAt b 1 1 < 4) && decide (natAt b 2 1 < nloc) && zeroAt b 3 1 && isStr str (natAt b 4 4) && zeroAt b 8 8 then
    some ⟨natAt b 0 1, bit (natAt b 1 1) 0, bit (natAt b 1 1) 1, natAt b 2 1⟩
  else none

/-- A SUM entry. -/
def sumAt (v : Nat) : Option (Option Summary) :=
  if bit v 6 then (if bit v 7 then none else some (some ⟨bits v 0 3, bits v 8 56, bits v 3 3⟩))
  else if v = 0 then some none else none

/-- Code of the region of the physical map, as bring-up set it, in which an address lies (R94); `none` for a gap or control
space. -/
def regionOf (s : State) (pa : Nat) : Option Nat := match pkind { s with extents := s.extents.map (fun e => { e with up := true }) } pa with
  | .hbm d _ => some d
  | .inter _ => some 4
  | .tier2 _ => some 5
  | .host n => some (6 + n)
  | _ => none

/-- A range record (R63, R81, R94). -/
def rangeAt (s : State) (b : List Byte) : Option Range :=
  let va := natAt b 0 8
  let len := natAt b 8 4
  let pa := natAt b 0x10 8
  let kind? : Option RKind := match natAt b 0xC 1 with
    | 0 => some .direct | 1 => some .paged | 2 => some .host | _ => none
  match kind? with
  | none => none
  | some kind =>
    let last := pa + len * 2 ^ 21 - 1
    let direct := pa % 2 ^ 21 == 0 && (regionOf s pa).isSome && regionOf s pa == regionOf s last
    if va % 2 ^ 21 = 0 && len ≠ 0 && decide (va + len * 2 ^ 21 ≤ 2 ^ 56) && decide (natAt b 0xD 1 < 16) && zeroAt b 0xE 2
        && zeroAt b 0x18 8 && (if kind = .direct then direct else pa == 0) then some ⟨va, len, kind, natAt b 0xD 1, pa⟩
    else none

/-- Two ranges that overlap. -/
def rangeClash (a b : Range) : Bool := decide (a.va < b.va + b.len * 2 ^ 21) && decide (b.va < a.va + a.len * 2 ^ 21)

/-- A binding record (R64, R65, R81). A syntax binding's quad and tile name the tile of an A allocation (R277). -/
def bindAt (str : List Byte) (w h : Nat) (b : List Byte) : Option Bind :=
  let kind := natAt b 4 1
  let x : Bind := ⟨strAt str (natAt b 0 4), kind, natAt b 5 1, natAt b 6 1, natAt b 7 1, natAt b 8 1, natAt b 9 1, natAt b 0xA 1,
    strAt str (natAt b 0xC 4), natAt b 0x10 1, natAt b 0x11 1, strAt str (natAt b 0x14 4)⟩
  let names := isStr str (natAt b 0 4) && isStr str (natAt b 0xC 4) && isStr str (natAt b 0x14 4)
  let place := decide (x.qx < w) && decide (x.qy < h) && decide (x.tile < 3) && decide (x.slot < 128) && decide (x.pos < 3)
  if !names || !zeroAt b 0xB 1 || !zeroAt b 0x12 2 || !zeroAt b 0x18 8 then none
  else match kind with
    | 0 => if zeroAt b 5 6 && zeroAt b 0x10 8 then some x else none
    | 1 => if place && decide (x.depth ≤ 4) && zeroAt b 0x10 8 then some x else none
    | 2 => if place && zeroAt b 8 3 && zeroAt b 0xC 4 && decide (1 ≤ x.codec) && decide (x.codec ≤ 3) && decide (1 ≤ x.lanes) then some x else none
    | _ => none

/-- A combine record (R66, R81, R312). -/
def cmbAt (str : List Byte) (w h : Nat) (probes : List Probe) (b : List Byte) : Option CmbDecl :=
  let ty := natAt b 7 1
  let x : CmbDecl := ⟨natAt b 4 1, natAt b 5 1, natAt b 6 1, Elem.ofCode ty, natAt b 8 2, natAt b 0xA 2, natAt b 0xC 1, natAt b 0xD 1,
    natAt b 0xE 1 == 1, natAt b 0xF 1, natAt b 0x10 4, natAt b 0x14 4⟩
  if isStr str (natAt b 0 4) && decide (x.qx < w) && decide (x.qy < h) && decide (1 ≤ x.k) && decide (x.k ≤ 16) && (ty == 0xC || ty == 0xE)
      && decide (1 ≤ x.rowlen) && decide (x.rowlen ≤ 4096) && decide (1 ≤ x.slots) && decide (x.slots ≤ 4096) && decide (x.policy ≤ 2)
      && (x.policy ≠ 2 || x.shared) && decide (x.release ≤ 1) && decide (natAt b 0xE 1 ≤ 1) && probes.any (fun p => p.num == x.ret)
      && x.base % 256 == 0 && zeroAt b 0x18 40 then some x
  else none

/-- Footprint of a declared unit (R313). -/
def CmbDecl.foot (x : CmbDecl) : Nat := let w := declWords x; (cmbCfg w.1 w.2).foot

/-- A backing-queue record (R61, R78); all zeros stand for none. -/
def backqAt (scr : Nat) (b : List Byte) : Option BackqDecl :=
  let x : BackqDecl := ⟨natAt b 0 4, natAt b 4 4, natAt b 8 1⟩
  if zeroAt b 0 16 then some x
  else if x.off % 256 = 0 && decide (1 ≤ x.tokens) && decide (x.tokens ≤ 2 ^ 20) && decide (x.size ≤ 5) && zeroAt b 9 7
      && decide (x.off + 272 * x.tokens ≤ scr) then some x
  else none

/-- Bytes of a backing queue, rounded up to 256 (R150). -/
def BackqDecl.foot (x : BackqDecl) : Nat := (272 * x.tokens + 255) / 256 * 256

/-- Image records: `tb` for TBI, else SCR. Each is a tile and buffer, an offset and a size, multiples of 16 or of 256 (R56), and the
bytes. -/
def imageRecs (sec : Nat) (tb : Bool) (w h scr : Nat) (b : List Byte) : Nat → Nat → Nat → Except FileErr (List TbImage)
  | 0, o, _ => if o = b.length then .ok [] else .error { sec := sec }
  | n + 1, o, k =>
    let x := if tb then natAt b o 1 else 0
    let y := if tb then natAt b (o + 1) 1 else 0
    let t := if tb then natAt b (o + 2) 1 else 0
    let buf := if tb then natAt b (o + 3) 1 else 3
    let base := if tb then o + 4 else o
    let off := natAt b base 4
    let size := natAt b (base + 4) 4
    let flg := natAt b (base + 8) 1
    let room := if tb then bufSize buf else scr
    let ok := decide (x < w) && decide (y < h) && decide (t < 3) && (!tb || decide (buf < 3)) && decide (off + size ≤ room)
      && off % (if tb then 16 else 256) == 0 && size % (if tb then 16 else 256) == 0 && decide (flg ≤ 1) && zeroAt b (base + 9) (o + 7 - base)
    let len := if flg = 1 then (size + 7) / 8 * 8 else 0
    if o + 16 + len > b.length then .error { sec := sec }
    else if !ok then .error ⟨sec, k⟩
    else (imageRecs sec tb w h scr b n (o + 16 + len) (k + 1)).map (fun is =>
      ⟨x, y, t, buf, off, size, if flg = 1 then sliceBytes b (o + 16) size else []⟩ :: is)

/-- Whether two areas overlap. -/
def areaClash (a b : Nat × Nat) : Bool := decide (a.1 < b.1 + b.2) && decide (b.1 < a.1 + a.2)

/-- What is wrong with a SYM record (R85): its name, kind, residency and place. The index of a file-level constant, which R85 does
not give, must lie below NRES like every other (DESIGN CHOICE, log 27). -/
def symBad (str b : List Byte) (nres : Nat) : Bool :=
  let k := natAt b 4 1
  let t := natAt b 18 1
  let f := natAt b 19 1
  let place := match k with
    | 0 => decide (t < 3) && f == 0
    | 2 => decide (f < 3 ∧ t < 3 ∨ f = 3)
    | _ => zeroAt b 16 8
  !isStr str (natAt b 0 4) || k > 4 || natAt b 5 1 ≥ nres || !zeroAt b 6 2 || !zeroAt b 20 4 || !place

/-- What is wrong with a LIN record (R85). -/
def linBad (str b : List Byte) : Bool := !zeroAt b 6 2 || !isStr str (natAt b 12 4)

/-! ### A residency -/

/-- A section of a type and owner: its index, count and bytes; an absent one is empty. -/
def secOf (f : List Byte) (es : List Sec) (typ owner : Nat) : Nat × Nat × List Byte :=
  match es.find? (fun e => e.typ == typ && e.owner == owner) with
  | some e => (e.index, e.count, sliceBytes f e.off e.size)
  | none => (0, 0, [])

/-- Records of one size, each parsed or refused. -/
def fixedRecs {α : Type} (x : Nat × Nat × List Byte) (n : Nat) (f : List Byte → Option α) : Except FileErr (List α) :=
  eachRec x.2.1 (fun i => match f (sliceBytes x.2.2 (n * i) n) with
    | some a => .ok a
    | none => .error ⟨x.1, i⟩)

/-- The first record of a list that clashes with another thing. -/
def clashRec {α : Type} (sec : Nat) (l : List α) (bad : Nat → α → Bool) : Except FileErr Unit :=
  match (l.zipIdx).find? (fun e => bad e.2 e.1) with
  | some e => .error ⟨sec, e.2⟩
  | none => .ok ()

/-- Residency i of a file: its sections parsed and checked by themselves, then against each other; where every block passes
R41, its locations and summaries are recomputed (R80, R325). -/
def resDesc (s : State) (f str : List Byte) (x : Header) (es : List Sec) (addr i : Nat) (r : ResRec) : Except FileErr Desc := do
  let b := r.b
  let w := natAt b 4 1
  let h := natAt b 5 1
  let scrSize := 2 ^ 20 * w * h
  let own (t : Nat) : Nat × Nat × List Byte := secOf f es t i
  let (bi, bn, bb) := own 4
  let blocks ← blockRecs bi bb bn 0 0
  let chn := own 5
  let backqs ← fixedRecs chn 16 (backqAt scrSize)
  let (pi, pn, pb) := own 6
  guardRec (pn = r.nloc + r.nprb && pb.length = 8 * r.nloc + 16 * r.nprb) { sec := pi }
  let locs ← fixedRecs (pi, r.nloc, pb) 8 (locAt w h)
  let probes ← eachRec r.nprb (fun j => match probeAt str r.nloc (sliceBytes pb (8 * r.nloc + 16 * j) 16) with
    | some p => .ok p
    | none => .error ⟨pi, r.nloc + j⟩)
  clashRec pi (locs.map (fun _ => ())) (fun j _ => (locs.take j).any (fun l => some l == locs[j]?))
  let twice (j : Nat) (p : Probe) : Bool := (probes.take j).any (fun q => q.num == p.num)
  guardRec (!(probes.zipIdx.any (fun e => twice e.2 e.1))) { sec := pi }
  let tcp := natAt b 0xC 1
  guardRec (if tcp = 0xFF then probes.all (fun p => !p.tcp) else probes.all (fun p => p.tcp == (p.num == tcp)) && probes.any (·.tcp))
    { sec := pi }
  let sm := own 7
  guardRec (sm.2.1 = r.nloc * r.nloc) { sec := sm.1 }
  let sums ← fixedRecs sm 8 (fun v => sumAt (natAt v 0 8))
  let rng := own 8
  let ranges ← fixedRecs rng 32 (rangeAt s)
  guardRec (decide (ranges.length ≤ 32)) { sec := rng.1 }
  clashRec rng.1 ranges (fun j g => (ranges.take j).any (rangeClash g))
  let bnd := own 9
  guardRec (decide (bnd.2.1 ≤ 32)) { sec := bnd.1 }
  let binds ← fixedRecs bnd 32 (bindAt str w h)
  guardRec (decide (((binds.filter (fun y => y.kind == 2)).map (·.lanes)).sum ≤ 64)) { sec := bnd.1 }
  let (ti, tn, tb) := own 0xA
  let tbi ← imageRecs ti true w h scrSize tb tn 0 0
  let (si, sn, sb) := own 0xB
  let scr ← imageRecs si false w h scrSize sb sn 0 0
  let cmb := own 0xC
  let combines ← fixedRecs cmb 64 (cmbAt str w h probes)
  let areas := scr.map (fun a => (a.off, a.size))
  let units := combines.map (fun c => (c.base, c.foot))
  clashRec cmb.1 combines (fun j c => decide (c.base + c.foot > scrSize) || areas.any (areaClash (c.base, c.foot))
    || (combines.take j).any (fun d => (d.qx == c.qx && d.qy == c.qy) || areaClash (c.base, c.foot) (d.base, d.foot)))
  clashRec chn.1 backqs (fun j q => q.tokens ≠ 0 && (areas.any (areaClash (q.off, q.foot)) || units.any (areaClash (q.off, q.foot))
    || (backqs.take j).any (fun p => p.tokens != 0 && areaClash (q.off, q.foot) (p.off, p.foot))))
  let allocs : List Alloc := tbi.map (fun i => ⟨[], i.buf, i.qx, i.qy, i.t, i.off, i.size⟩)
    ++ scr.map (fun i => ⟨[], 3, 0, 0, 0, i.off, i.size⟩)
  let used := ((backqs.filter (fun q => q.tokens != 0)).map BackqDecl.foot).sum + (combines.map CmbDecl.foot).sum
  clashRec si scr (fun _ a => decide (a.off + a.size > scrSize - used))
  guardRec (!blocks.isEmpty) { sec := bi }
  guardRec ((upto 8).all (fun j => natAt b (0x18 + 4 * j) 4 == 0 || blocks.any (fun k => k.bank.tsi == j)))
    ⟨(secOf f es 3 0xFFFFFFFF).1, r.k⟩
  clashRec bi blocks (fun j k => (blocks.take j).any (fun l => l.qx == k.qx && l.qy == k.qy && l.t == k.t))
  let d : Desc :=
    { name := strAt str (natAt b 0 4), w := w, h := h, prio := natAt b 6 1, wgt := natAt b 7 1, det := natAt b 8 4 == 1,
      tcp := if tcp = 0xFF then none else some tcp, seed := BitVec.ofNat 64 (natAt b 0x10 8),
      shapes := (upto 8).map (fun j => (shapeAt (natAt b (0x18 + 4 * j) 4)).getD []), drain := natAt b 0x38 8,
      eqx := natAt b 0x40 1, eqy := natAt b 0x41 1, etl := natAt b 0x42 1, esl := natAt b 0x43 1, eps := natAt b 0x44 1,
      locs := locs, probes := probes, sums := sums, ranges := ranges, binds := binds, combines := combines, backqs := backqs,
      blocks := blocks, tbi := tbi, scr := scr.map (fun a => ⟨a.off, a.size, a.image⟩), launches := r.launches, allocs := allocs,
      sysImage := bit x.flags 2
      secs := (es.filter (fun e => e.owner == i || e.typ == 3)).foldl (fun m e => put e.typ e.index m) []
      file := addr }
  let sound := (blocks.zipIdx).all (fun e => (blockErr d e.2 e.1).isNone)
  guardRec (!sound || locsOk d) { sec := pi }
  guardRec (!sound || sumsOk d) { sec := sm.1 }
  pure d

/-! ### The file (R72, R84) -/

/-- The residencies of a file, or the first failure. A file without a SIG section that needs one names section 0 (DESIGN CHOICE,
log 27: R88 names the SIG section alone). -/
def readFile (s : State) (addr asid : Nat) : Except FileErr (List Desc) := do
  let hb := readBytes s.mem addr 64
  guardRec (!fileHeaderBad hb) { sec := 0 }
  let x := header hb
  let f := readBytes s.mem addr x.flen
  let es := (upto x.scnt).map (secAt f x.stoff)
  guardRec (!(es.any (secBad x) || anyClash es)) { sec := 0 }
  match es.find? (secWhole f) with
  | some e => throw { sec := e.index }
  | none => pure ()
  let negs := es.filter (fun e => e.typ == 0xF)
  let _ ← eachRec negs.length (fun i => match negs[i]? with
    | some e => fixedRecs (e.index, e.count, sliceBytes f e.off e.size) 16 (fun b => if negMet s b then some () else none)
    | none => .ok [])
  let str := match es[1]? with | some e => sliceBytes f e.off e.size | none => []
  guardRec (!strBad str ((es[1]?.map (·.count)).getD 0)) { sec := 1 }
  match sigBad f str es with
  | some n => throw { sec := n }
  | none => pure ()
  guardRec (signedOk f str asid x es) { sec := ((es.find? (fun e => e.typ == 0x11)).map (·.index)).getD 0 }
  match frzBad f es with
  | some n => throw { sec := n }
  | none => pure ()
  let _ ← fixedRecs (secOf f es 0xD 0xFFFFFFFF) 24 (fun b => if symBad str b x.nres then none else some ())
  let _ ← fixedRecs (secOf f es 0xE 0xFFFFFFFF) 16 (fun b => if linBad str b then none else some ())
  let (ri, rn, rb) := secOf f es 3 0xFFFFFFFF
  let rs ← resRecs ri x.nres (bit x.flags 2) str rb rn x.nres 0 0 0 []
  eachRec x.nres (fun i => match rs[i]? with
    | some r => resDesc s f str x es addr i r
    | none => .error { sec := ri })

/-- What the launch and watch entries of a file's residencies ask for, in file order (R68). -/
def fileAsks (ds : List Desc) : List (Nat × Nat) :=
  ds.zipIdx.flatMap (fun d => (upto d.1.launches.length).map (fun j => (d.2, j)))

/-- R72, R84: the loader checks a file; a checked one may be registered, a refused one is reported with LOADCHK. What bring-up has
enabled is settled by then (R83). -/
def execSkeinFileLoad (addr asid : Nat) (s : State) : Result :=
  match readFile s addr asid with
  | .ok ds => .next ({ s with broughtUp := true, files := put addr { asid := asid, res := ds, asks := fileAsks ds } s.files }).act
  | .error e => .next ((({ s with broughtUp := true } : State).raise { cls := .loadchk, asid := asid, place := .loader, gen := [e.sec, e.rec'] }).act)

end Sys2Proof.Machine
end

