-- ==== Sys2Proof/Machine/Admission.lean ====
section
/-! DEFINITION. Channels, bindings and backing queues (R150, R172 to R174, R402, R462), and aging (R177). -/

namespace Sys2Proof.Machine

/-- Tile, slot and position that a channel's tokens enter: a place of the region, or the ingress of the paired binding. -/
def chanDest (s : State) (r : Res) (w : ChanWord) : Option (Nat × Nat × Pos) :=
  if w.cls ≠ 2 then some (resTile r w.dqx w.dqy w.dt, w.dslot, posOf w.dpos)
  else match get? w.bind r.peers with
    | none => none
    | some (h', n) => match get? h' s.res with
      | none => none
      | some r' => match r'.desc.binds[n]? with
        | none => none
        | some b => if r'.running then some (resTile r' b.qx b.qy b.tile, b.slot, posOf b.pos) else none

/-- A channel of a running residency with its residency and word. -/
def chanOf (s : State) (k c : Nat) : Option (Res × ChanWord) :=
  match (s.at k).res, (s.at k).active.chan c with
  | some h, some w => match get? h s.res with
    | some r => if r.running then some (r, w) else none
    | none => none
  | _, _ => none

/-- The token that an admission delivers: a binding's carries the SPORT and SEQ of the MT of the receiving quad (R166). -/
def ingressToken (s : State) (r : Res) (w : ChanWord) (d : Nat) (tok : Token) : Token :=
  if w.cls ≠ 2 then tok
  else
    let mt := d / 4 * 4 + 3
    let r' := (((s.at d).res).bind (fun h => get? h s.res)).getD r
    { tok with sport := sportOf r' mt 3, seq := BitVec.ofNat 16 (s.mt mt).seq }

/-- R172, R174, R462: the oldest token of a channel enters its destination position when that admits it; a refusal by R174 is
counted at the destination (R416). -/
def execTokenAdmission (tile : TileId) (chan : Nat) (s : State) : Result :=
  let k := tile.key
  match chanOf s k chan, (s.at k).chanNow chan with
  | some (r, w), tok :: _ =>
    match chanDest s r w with
    | none => .next s
    | some (d, slot, q) =>
      let b := s.at d
      if b.canTake slot q tok.time then
        let s1 := s.modAt k (fun a => a.popChan chan ((a.chanToks chan).drop 1) tok.time)
        let s2 := s1.modAt d (fun a => a.takeToken slot q (ingressToken s r w d tok))
        let s3 := if w.cls = 2 then s2.modMt (d / 4 * 4 + 3) MT.nextSeq else s2
        .next ((s3.post d (postAt (s.at k) (chanEdge chan) tok.time (-1)
          ++ (if b.exited then [] else postAt b (posEdge slot q) tok.time 1))).act)
      else if b.room slot q then .next (s.modAt d (fun a => a.perf 7 1))
      else .next s
  | _, _ => .next s

/-! ### Backing queues in the scratchpad (R146, R150) -/

/-- Where entry k of a queue stands: its payload, of a number of bytes, and its header image. -/
def entryAreas (d : BackqDecl) (k n : Nat) : List (Nat × Nat) := [(d.off + 256 * k, n), (d.off + 256 * d.tokens + 16 * k, 16)]

/-- A token as the bytes of its entry have it, which any access of the residency may have changed (R445); its TIME, under which it is
counted, stays, and so does a field whose code the image makes none of (DESIGN CHOICE, log 6). -/
def entryToken (s : State) (r : Res) (d : BackqDecl) (k : Nat) (tok : Token) : Token :=
  let img := leNat (scrRead r s (d.off + 256 * d.tokens + 16 * k) 16)
  let code := bits img 68 3
  { tok with
    sport := BitVec.ofNat 12 (bits img 90 12)
    seq := BitVec.ofNat 16 (bits img 74 16)
    kind := (match bits img 71 3 with
      | 0 => .data | 1 => .pulse | 2 => .coord | 3 => .eof | 4 => .eos | 5 => .count | _ => tok.kind)
    type := Elem.ofCode (bits img 64 4)
    data := scrRead r s (d.off + 256 * k) (if code ≤ d.size then sizeBytes code else tok.data.length) }

/-- The oldest token of a queue that its entry does not hold yet is written there, at its turn in the banks. -/
def spillOne (h : Nat) (e : Nat × BackQ) (s : State) : State :=
  match get? h s.res with
  | none => s
  | some r => match r.desc.backqs[e.1]?, e.2.toks[e.2.stored]? with
    | some d, some tok =>
      let k := (e.2.head + e.2.stored) % d.tokens
      atBanks r (.backq h e.1 false) (entryAreas d k tok.data.length) s (fun s =>
        (scrPut r (scrPut r s (d.off + 256 * k) tok.data) (d.off + 256 * d.tokens + 16 * k) (leBytes 16 tok.header)).modRes h
          (fun r => { r with backq := put e.1 { e.2 with stored := e.2.stored + 1 } r.backq }))
    | _, _ => s

/-- A cycle of the backing queues of residencies that stand in their region. -/
def spillCycle (s : State) : State :=
  s.res.foldl (fun s e => if e.2.backq.isEmpty || (get? e.1 s.images).isSome then s
    else e.2.backq.foldl (fun s q => spillOne e.1 q s) s) s

/-- R150, R192: the head of a backing queue enters a freed buffer slot, at its entry's turn in the banks, and after the last entry a token that
waited at the source; the count stays at the channel. A finished tile discards it (R191). -/
def execBackqMove (tile : TileId) (chan : Nat) (s : State) : Result :=
  let k := tile.key
  let a := s.at k
  match chanOf s k chan, a.res with
  | some (r, w), some h =>
    let q := getD {} w.bq r.backq
    let room := w.bq ≠ 63 && (a.exited || a.chanRoom w)
    let into (tok : Token) (q : BackQ) (s : State) : State :=
      let s := s.modRes h (fun r => { r with backq := put w.bq q r.backq })
      (if a.exited then (s.setAt k (a.addExd 1)).post k (postAt a (chanEdge chan) tok.time (-1)) else s.setAt k (a.pushChan chan tok)).act
    match r.desc.backqs[w.bq]?, q.toks, q.src with
    | some d, tok :: rest, _ =>
      if room && decide (0 < q.stored) then
        .next (atBanks r (.backq h w.bq true) (entryAreas d q.head tok.data.length) s
          (into (entryToken s r d q.head tok) { q with head := (q.head + 1) % d.tokens, toks := rest, stored := q.stored - 1 }))
      else .next s
    | some _, [], some tok => if room then .next (into tok { q with src := none } s) else .next s
    | _, _, _ => .next s
  | _, _ => .next s

/-- R177: a slot whose count has reached 64 is aged. -/
def execSlotAged (tile : TileId) (slot : Nat) (s : State) : Result :=
  let x := (s.at tile.key).slot slot
  if decide (x.aging ≥ 64) && !x.aged then
    .next ((s.modAt tile.key (fun a => a.modSlot slot (fun x => { x with aged := true }))).act)
  else .next s

end Sys2Proof.Machine
end

