-- ==== Sys2Proof/Machine/Irregular.lean ====
section
/-! DEFINITION. The irregular streams: ISECT, UNION and PART (R246 to R249). -/

namespace Sys2Proof.Machine

/-- Coordinate of a padding lane. -/
def padCoord : Nat := 0xFFFFFFFF

/-- Where a walk stands: cursors, last coordinates, lanes emitted to each side, newest first. -/
structure Walk where
  cl   : Nat
  cr   : Nat
  ll   : Option Nat
  lr   : Option Nat
  outL : List (Nat × Nat) := []
  outR : List (Nat × Nat) := []
  /-- a lane out of order: position, lane, previous and offending coordinate (R248) -/
  bad  : Option (Nat × Nat × Nat × Nat) := none
  deriving DecidableEq, Repr, Inhabited

/-- First lane at or after a cursor that is not padding. -/
def nextLane (ls : List Nat) (c : Nat) : Nat :=
  c + ((ls.drop c).takeWhile (fun v => v % 2 ^ 32 == padCoord)).length

/-- Bits [63:48] of an emitted lane of a 16-bit SH are those of the input lane, whatever they hold: R246 gives no value to such bits (DESIGN
CHOICE, log 14).

The walk of R247 over both heads' lanes; an ended side (its head is a marker, R248) has no lanes and does not stop
it. -/
def walk (union : Bool) (ls rs : List Nat) (endL endR : Bool) : Nat → Walk → Walk
  | 0, w => w
  | n + 1, w =>
    let cl := nextLane ls w.cl
    let cr := nextLane rs w.cr
    let w := { w with cl := cl, cr := cr }
    let le := decide (cl ≥ ls.length)
    let re := decide (cr ≥ rs.length)
    if w.outL.length ≥ 32 || (le && !endL) || (re && !endR) || (le && re) then w
    else
      let l := ls.getD cl 0
      let r := rs.getD cr 0
      let cL := l % 2 ^ 32
      let cR := r % 2 ^ 32
      let badL := !le && (match w.ll with | some p => decide (cL ≤ p) | none => false)
      let badR := !re && (match w.lr with | some p => decide (cR ≤ p) | none => false)
      if badL then { w with bad := some (0, cl, w.ll.getD 0, cL) }
      else if badR then { w with bad := some (1, cr, w.lr.getD 0, cR) }
      else if !le && !re && cL = cR then
        walk union ls rs endL endR n
          { w with
            cl := cl + 1, cr := cr + 1, ll := some cL, lr := some cR
            outL := (cL, l / 2 ^ 32) :: w.outL, outR := (cR, r / 2 ^ 32) :: w.outR }
      else if re || (!le && decide (cL < cR)) then
        walk union ls rs endL endR n
          { w with
            cl := cl + 1, ll := some cL
            outL := if union then (cL, l / 2 ^ 32) :: w.outL else w.outL
            outR := if union then (cL, 0) :: w.outR else w.outR }
      else
        walk union ls rs endL endR n
          { w with
            cr := cr + 1, lr := some cR
            outL := if union then (cR, 0) :: w.outL else w.outL
            outR := if union then (cR, r / 2 ^ 32) :: w.outR else w.outR }

/-- A coordinate-value token of the emitted lanes, padded with padding lanes whose value bits are free (R247). -/
def coordOut (sh : Elem) (t : Time) (ls : List (Nat × Nat)) (tgt : Target) : Out :=
  let n := sizeBytes (sizeCode (8 * ls.length)) / 8
  let pad := padCoord + Sys2Proof.Config.padValue.toNat * 2 ^ 32
  ⟨tgt, .coord, sh, t, packLanes 8 (ls.reverse.map (fun x => x.1 + x.2 * 2 ^ 32) ++ List.replicate (n - ls.length) pad)⟩

/-- Put a walk's cursors into the slot. -/
def keepWalk (c : Ctx) (w : Walk) (eatL eatR : Bool) (s : State) : State :=
  s.modAt c.key (fun a => a.modSlot c.slot (fun x =>
    { x with curL := if eatL then 0 else w.cl, curR := if eatR then 0 else w.cr, lastL := w.ll, lastR := w.lr }))

/-- ISECT and UNION (R247, R248). -/
def fireMerge (i : Instr) (h : Hd) (union : Bool) (s : State) : Result :=
  fireOwn i (fun c s =>
    let x := c.a.slot c.slot
    if c.l.isMarker && c.rt.isMarker then
      .fired [.l, .r] (both h (markerOut (max c.l.rank c.rt.rank) c.time)) []
        (s.modAt c.key (fun a => a.modSlot c.slot (fun x => { x with curL := 0, curR := 0, lastL := none, lastR := none })))
    else
      let ls := if c.l.isMarker then [] else lanes 8 c.l.data
      let rs := if c.rt.isMarker then [] else lanes 8 c.rt.data
      let w := walk union ls rs c.l.isMarker c.rt.isMarker 65 ⟨x.curL, x.curR, x.lastL, x.lastR, [], [], none⟩
      let moved := w.cl != nextLane ls x.curL || w.cr != nextLane rs x.curR
      match w.bad, moved with
      | some (p, ln, prev, off), false =>
        match c.holdWith i .ragged 0 0 [ln, prev, off] [] s with
        | .hold hd f s' => .hold { hd with skipFx := .lane p ln } f s'
        | r => r
      | _, _ =>
        let eatL := !c.l.isMarker && decide (w.cl ≥ ls.length)
        let eatR := !c.rt.isMarker && decide (w.cr ≥ rs.length)
        if !eatL && !eatR && !moved then .idle
        else
          let outs := if w.outL.isEmpty then [] else [coordOut h.sh c.time w.outL h.t0, coordOut h.sh c.time w.outR h.t1]
          .fired ((if eatL then [.l] else []) ++ (if eatR then [.r] else [])) outs [] (keepWalk c w eatL eatR s)) s

/-- R247, R248: the lanes whose coordinates both sides hold. -/
def execIsect (h : Hd) (imm : BitVec 30) (s : State) : Result := fireMerge (.isect h imm) h false s

/-- R247, R248: the lanes of either side, zero-filled on the other. -/
def execUnion (h : Hd) (imm : BitVec 30) (s : State) : Result := fireMerge (.union h imm) h true s

/-! ### PART (R249) -/

/-- First row whose pointers fall and that no SKIP made empty. -/
def raggedRow (ptr skip : List Nat) : Option Nat :=
  (upto (ptr.length - 1)).find? (fun i => decide (ptr.getD (i + 1) 0 < ptr.getD i 0) && !skip.contains i)

/-- Weights of the rows. -/
def weights (ptr skip : List Nat) : List Nat :=
  (upto (ptr.length - 1)).map (fun i =>
    let d := ptr.getD (i + 1) 0 - ptr.getD i 0
    if skip.contains i || d = 0 then 1 else d)

/-- Sums before each element. -/
def sumsBefore : Nat → List Nat → List Nat
  | _, [] => []
  | a, x :: xs => a :: sumsBefore (a + x) xs

/-- First row of part j and one past its last. -/
def partRange (wt : List Nat) (np j : Nat) : Nat × Nat :=
  let total := wt.sum
  let parts := (sumsBefore 0 wt).map (fun c => np * c / total)
  ((parts.filter (fun p => decide (p < j))).length, (parts.filter (fun p => decide (p ≤ j))).length)

/-- The results of PART's firing on an end-of-fibre, in the cycles in which they go out (R219, R249). -/
def partOuts (h : Hd) (np : Nat) (wt : List Nat) (mark : Token) (t : Time) : List (List Out) :=
  (upto np).map (fun j =>
    let (a, b) := partRange wt np j
    [dataOut .n64 t (leBytes 4 a ++ leBytes 4 b) h.t0]) ++
  [[markerOut mark.rank t h.t0, dataOut .n64 t (leBytes 8 wt.sum) h.t1]]

/-- R249. Data tokens are buffered; the firing on an end-of-fibre sends the first range, and the others follow, one a cycle, the last
with the marker and the total (R219); an end-of-stream discards the buffer. Under SKIP of its RANGE hold the marker alone is sent, to T0: R249
does not say to which targets (DESIGN CHOICE, log 14). -/
def execPart (h : Hd) (imm : BitVec 30) (s : State) : Result :=
  fireOwn (.part h imm) (fun c s =>
    let x := c.a.slot c.slot
    let clear := s.modAt c.key (fun a => a.modSlot c.slot (fun x => { x with part := [], pskip := [], pbad := false }))
    if c.l.kind == .eos then .fired [.l] (both h (markerOut 5 c.time)) [] clear
    else if !c.l.isMarker then
      let ptr := x.part ++ lanes 4 c.l.data
      if x.pbad then .fired [.l] [] [] s
      else if ptr.length > 4097 then
        match c.holdWith (.part h imm) .range 2 0 [] [] s with
        | .hold hd f s' => .hold { hd with skipFx := .discard } f s'
        | r => r
      else .fired [.l] [] [] (s.modAt c.key (fun a => a.modSlot c.slot (fun x => { x with part := ptr })))
    else if x.pbad then .fired [.l] [c.l.to h.t0] [] clear
    else match raggedRow x.part x.pskip with
      | some i =>
        match c.holdWith (.part h imm) .ragged 0 0 [i, x.part.getD i 0, x.part.getD (i + 1) 0] [] s with
        | .hold hd f s' => .hold { hd with skipFx := .row i } f s'
        | r => r
      | none =>
        let outs := partOuts h (imm.toNat % 256) (weights x.part x.pskip) c.l c.time
        let seq := c.a.seqOf .vec
        if (sendAll s c.key (sportOf c.r c.key Pipe.vec.port) seq (outs.getLastD [])).isNone then .idle
        else .fired [.l] (outs.headD []) (postAt c.a (posEdge c.slot .l) c.time 1)
          (clear.modAt c.key (fun a => a.modSlot c.slot (fun x => { x with owed := outs.drop 1, owedSeq := seq })))) s

/-- The next results that a slot still owes go out, where their targets take them; the firing's pointstamp ends with the last. -/
def owedSend (k slot : Nat) (s : State) : Option State :=
  let a := s.at k
  let x := a.slot slot
  match x.owed, a.res with
  | os :: rest, some h =>
    (match get? h s.res with
    | none => none
    | some r =>
      let s1 := s.modAt k (fun a => a.modSlot slot (fun x => { x with owed := rest }))
      (sendAll s1 k (sportOf r k Pipe.vec.port) x.owedSeq os).map (fun e =>
        e.1.post k (e.2 ++ (if rest.isEmpty then postAt a (posEdge slot .l) ((os.headD default).time) (-1) else []))))
  | _, _ => none

/-- One cycle of the results that the tiles' slots owe. -/
def owedCycle (s : State) : State :=
  s.ats.foldl (fun s e => e.2.slots.foldl (fun s x => if x.2.owed.isEmpty then s
    else (owedSend e.1 x.1 s).getD (countRefused [fun s => (owedSend e.1 x.1 s).isSome] s)) s) s

end Sys2Proof.Machine
end

