-- ==== Sys2Proof/Machine/Frz.lean ====
section
/-! DEFINITION. The image of a frozen residency as bytes: one FRZ section with its subrecords (R86, R401), as scan-out writes it to
the save area (R400), what its words that read as uncorrectable report, and what a service core reads there. Fields of R401 that its
table does not lay out are the model's (log 28). -/

namespace Sys2Proof.Machine

/-! ### Subrecords (R86) -/

/-- A subrecord: its head's fields, its payload, and where in the payload words read as uncorrectable. -/
structure Sub where
  kind : Nat
  qx   : Nat
  qy   : Nat
  tile : Nat
  idx  : Nat := 0
  body : List Byte
  bads : List Nat := []
  deriving DecidableEq, Repr, Inhabited

/-- Padded to 8 bytes. -/
def pad8 (bs : List Byte) : List Byte := bs ++ zeros ((8 - bs.length % 8) % 8)

/-- Head and padded payload. -/
def Sub.bytes (x : Sub) : List Byte :=
  leBytes 2 x.kind ++ leBytes 1 x.qx ++ leBytes 1 x.qy ++ leBytes 1 x.tile ++ zeros 1 ++ leBytes 2 x.idx ++ leBytes 4 x.body.length
    ++ zeros 4 ++ pad8 x.body

/-- A token: its header image and payload. -/
def Token.frz (t : Token) : List Byte := leBytes 16 t.header ++ t.data

/-- Tokens in order, from a place of the payload on, and where their payloads are bad. -/
def tokensFrz : Nat → List Token → List Byte × List Nat
  | _, [] => ([], [])
  | o, t :: ts =>
    let (bs, bad) := tokensFrz (o + 16 + t.data.length) ts
    (t.frz ++ bs, if t.bad then (o + 16) :: bad else bad)

/-- A whole memory's bytes, from the top down: `m` is its list reversed. -/
def wholeDown : Nat → Memory → List Byte → List Byte
  | 0, _, acc => acc
  | n + 1, m, acc =>
    let m := m.dropWhile (fun c => decide (c.1 > n))
    match m with
    | (a, b) :: rest => if a = n then wholeDown n rest (b :: acc) else wholeDown n m (0 :: acc)
    | [] => wholeDown n [] (0 :: acc)

/-- The first n bytes of a memory. -/
def wholeBytes (m : Memory) (n : Nat) : List Byte := wholeDown n m.reverse []

def leWord (w : W64) : List Byte := leBytes 8 w.toNat

/-! ### An arithmetic tile (kinds 1, 2, 4, 5, 6, 8, 9) -/

/-- State of a slot (kind 1): its length covers the whole; a coordinate not yet read is all ones (log 28). -/
def Slot.frz (x : Slot) : List Byte :=
  let last (o : Option Nat) : List Byte := leBytes 4 (o.getD 0xFFFFFFFF)
  let rest := leBytes 4 ((if x.aged then 1 else 0) + (if x.gen.isSome then 2 else 0)) ++ leBytes 4 x.index ++ leBytes 4 x.tokIdx
    ++ (upto 4).flatMap (fun i => leBytes 4 (x.st.getD i 0)) ++ leBytes 4 x.curL ++ leBytes 4 x.curR ++ last x.lastL ++ last x.lastR
    ++ leBytes 4 x.part.length ++ x.part.flatMap (leBytes 4)
  let n := (rest.length + 4 + 7) / 8 * 8
  fitBytes n (leBytes 4 n ++ rest)

/-- Subrecords of the positions (kind 1): those that hold tokens, and position L of a slot that keeps state. -/
def posFrz (r : Res) (k : Nat) (a : AT) : List Sub :=
  (upto a.active.icnt).flatMap (fun slot => [Pos.l, Pos.r, Pos.p].filterMap (fun q =>
    let toks := a.posToks slot q
    let st : Option Slot := if q = .l then get? slot a.slots else none
    if toks.isEmpty && st.isNone then none
    else
      let head := if q = .l then ((st.getD {}).frz) else []
      let (bs, bad) := tokensFrz head.length toks
      some ⟨1, relX r k, relY r k, keyT k, slot + q.num * 2 ^ 8, head ++ bs, bad⟩))

/-- Subrecords of the channel buffers (kind 2). -/
def chanFrz (r : Res) (k : Nat) (a : AT) : List Sub :=
  (a.chan.filter (fun e => !e.2.isEmpty)).map (fun e =>
    let (bs, bad) := tokensFrz 0 e.2
    ⟨2, relX r k, relY r k, keyT k, e.1, bs, bad⟩)

/-- A generator context (kind 4), its pending token last: the composed tokens, then the lanes not yet full. -/
def agenCtxFrz (r : Res) (k : Nat) (c : Option Agen) : List Byte :=
  match c with
  | none => zeros 64
  | some g =>
    let idx := if bits (g.words.headD 0).toNat 58 2 = 0 then (upto 9).map (fun i => g.idx.getD i 0)
      else g.row :: g.elem :: List.replicate 7 0
    let tok (ty : Elem) (kd : Kind) (bs : List Byte) : Token := ⟨sportOf r k 1, g.seq, kd, ty, g.time, bs, false, []⟩
    leBytes 4 g.off ++ leBytes 1 1 ++ leBytes 1 (bits (g.words.headD 0).toNat 58 2) ++ zeros 2 ++ leWord g.time ++ leBytes 8 g.base
      ++ idx.flatMap (leBytes 4) ++ zeros 4
      ++ (g.outq.flatMap (fun o => (tok o.1.type o.1.kind o.1.data).frz))
      ++ (if g.pend.isEmpty then [] else (tok .n64 .data (g.pend.flatMap (leBytes 8))).frz)

/-- The MCFG payload of a configuration (R262). -/
def MCfg.word (c : MCfg) : Nat := (if c.qinc then 2 ^ 35 else 0) + c.eofl * 2 ^ 32 + c.k * 2 ^ 23 + c.n * 2 ^ 16 + c.m

/-- A partial set (kind 5): an absent product reads as 0. -/
def PSet.frz (p : PSet) : List Byte :=
  leWord p.time ++ leBytes 8 (if p.valid then 1 else 0) ++ (upto 512).flatMap (fun i => leBytes 4 ((p.p.getD i none).getD 0))

/-- The matrix node (kind 5, R272). -/
def Node.frz (n : Node) : List Byte :=
  wholeBytes n.bank0 8192 ++ wholeBytes n.bank1 8192 ++ wholeBytes n.sp0 512 ++ wholeBytes n.sp1 512
    ++ (match n.cfg with
      | none => leBytes 8 (if n.cur then 1 else 0) ++ zeros 16
      | some c => leBytes 8 ((if n.cur then 1 else 0) + 2 + c.slot * 2 ^ 8 + c.sh.code.toNat * 2 ^ 16 + c.used * 2 ^ 20)
          ++ leBytes 8 c.word ++ leWord c.time)
    ++ zeros 8 ++ (upto 4).flatMap (fun s => (getD {} s n.sets).frz)

/-- The capability table (kind 8); pointstamp counts stand in the entry quad's subrecord (log 28). -/
def capsFrz (a : AT) : List Byte :=
  leBytes 4 a.caps.length ++ zeros 12
    ++ a.caps.flatMap (fun c => leBytes 1 c.loc ++ zeros 1 ++ leBytes 2 c.count ++ zeros 4 ++ leWord c.time)

/-- Registers, aging counts and current depths (kind 9). -/
def regsFrz (s : State) (k : Nat) (a : AT) : List Byte :=
  let d (slot : Nat) : Nat := a.posDepth slot .l + a.posDepth slot .r * 2 ^ 8 + a.posDepth slot .p * 2 ^ 16
  let icnt := a.active.icnt
  (upto 256).flatMap (fun n => leWord (crRead s k n)) ++ (upto 128).flatMap (fun n => leBytes 1 (getD {} n a.slots).aging)
    ++ (upto ((icnt + 1) / 2)).flatMap (fun j => leBytes 8 (d (2 * j) + (if 2 * j + 1 < icnt then d (2 * j + 1) * 2 ^ 32 else 0)))
    ++ (upto 64).flatMap (fun c => leBytes 1 (((a.active.chan c).map a.chanDepth).getD 0))

/-- What the matrix node and the slots of a tile still send, as entries of the response buffer. -/
def owedFrz (r : Res) (k : Nat) (a : AT) : List (Nat × Out × Token) :=
  (a.node.outq.flatMap (fun o => o.outs.map (fun x => (o.slot, x, ⟨sportOf r k o.pipe.port, o.seq, x.kind, x.type, x.time, x.data, false, []⟩))))
    ++ a.slots.flatMap (fun e => e.2.owed.flatten.map (fun x => (e.1, x, ⟨sportOf r k 0, e.2.owedSeq, x.kind, x.type, x.time, x.data, false, []⟩)))

/-! ### Entries of kind 7 -/

/-- An entry: 16-byte head and body. -/
def entry7 (typ : Nat) (body : List Byte) : List Byte := leBytes 2 typ ++ zeros 2 ++ leBytes 4 body.length ++ zeros 8 ++ body

/-- A message as its packet (R114): four header words and the body; behind them, where it carries payloads to a combine unit (R318, R319, R322),
their lengths and bytes (log 28). -/
def Msg.packet (s : State) (m : Msg) : List Byte :=
  let reply := match m.src with
    | .slot k slot =>
      let at' := (get? m.h s.res).map (fun r => keyDie k * 2 ^ 60 + relX r k * 2 ^ 56 + relY r k * 2 ^ 52)
      at'.getD 0 + keyT k * 2 ^ 50 + slot * 2 ^ 43
    | .core _ _ => 2 ^ 62
  let flag (b : Bool) (n : Nat) : Nat := if b then 2 ^ n else 0
  leBytes 8 (m.amop * 2 ^ 56 + m.asid * 2 ^ 44 + m.body.length * 2 ^ 38 + m.mseq % 2 ^ 32) ++ leWord m.time
    ++ leBytes 8 (reply + m.t0.code.toNat * 2 ^ 34 + m.t1.code.toNat * 2 ^ 25 + m.sb * 2 ^ 22 + flag m.arv 21 + flag m.flg 20 + flag m.bc 19)
    ++ leBytes 8 (m.h * 2 ^ 51 + m.count % 2 ^ 16 * 2 ^ 16 + m.snum % 16) ++ m.body.flatMap leWord
    ++ (if m.lpay.isEmpty && m.rpay.isEmpty then [] else leBytes 4 m.lpay.length ++ leBytes 4 m.rpay.length ++ pad8 m.lpay ++ pad8 m.rpay)

/-- Bytes of its elements that a request has performed. -/
def performed (s : State) (id : Option Nat) : Nat :=
  match id.bind (fun n => get? n s.reqs) with
  | none => 0
  | some q => ((q.elts.filter (fun e => e.st == .done)).map (·.cnt)).sum

/-- Index vector of a copy's first element not yet performed (R131). -/
def nextIndex (s : State) (c : Copy) : List Nat :=
  match c.wr.bind (fun n => get? n s.reqs) with
  | none => List.replicate 9 0
  | some q =>
    let g := match q.elts.find? (fun e => e.st != .done) with
      | some e => eltGen s q e
      | none => []
    (upto 9).map (fun i => g.getD i 0)

/-- Contexts and messages of a copy engine, in order (R131, R401). -/
def engineFrz (s : State) (m : MT) : List Byte :=
  m.cctx.flatMap (fun e => entry7 1 (e.2.msg.body.flatMap leWord ++ leBytes 8 (performed s e.2.wr) ++ (nextIndex s e.2).flatMap (leBytes 4)
      ++ leBytes 1 e.2.msg.sb))
    ++ m.sctx.flatMap (fun e => entry7 2 (e.2.msg.body.flatMap leWord ++ leBytes 4 e.2.credits ++ leBytes 4 e.2.next ++ leBytes 4 e.2.sent))
    ++ (m.asideC ++ m.asideS ++ m.closed ++ m.inbox ++ m.cin).flatMap (fun x => entry7 6 (x.packet s))

/-- Open and waiting streams of the bindings whose MT this is (R284): descriptor, σ, M, credits, byte offset. -/
def streamsFrz (s : State) (h : Nat) (r : Res) (mt : Nat) : List Byte :=
  (s.syns.filter (fun e => e.1 / 64 == h && synMt r (e.1 % 64) == mt)).flatMap (fun e =>
    ((e.2.streams.filter (fun x => x.2.state != 2)).flatMap (fun x =>
      entry7 3 (x.2.msg.body.flatMap leWord ++ leBytes 4 x.1 ++ leBytes 4 x.2.sent ++ leBytes 4 x.2.credits ++ zeros 4 ++ leBytes 8 x.2.off)))
    ++ e.2.queue.flatMap (fun m => entry7 6 (m.packet s)))

/-- The combine unit (R323): what it keeps beside its footprint: waiting CCFG, allocations, markers, the receiver registration, each
list with its count first. -/
def cmbFrz (s : State) (r : Res) (u : Cmb) : List Byte :=
  let msgs (l : List Msg) : List Byte := leBytes 8 l.length ++ l.flatMap (fun m => leBytes 8 m.body.length ++ m.packet s)
  entry7 4 (msgs u.waiting.toList ++ msgs u.allocq ++ msgs u.markers
    ++ (match u.recv with
      | none => zeros 16
      | some (k, slot, t0, t1) => leBytes 1 1 ++ leBytes 1 (relX r k) ++ leBytes 1 (relY r k) ++ leBytes 1 (keyT k) ++ leBytes 4 slot
          ++ leBytes 4 t0.code.toNat ++ leBytes 4 t1.code.toNat)
    ++ leBytes 8 u.order.length ++ u.order.flatMap (leBytes 4) ++ pad8 (leBytes 4 u.ready.length ++ u.ready.flatMap (leBytes 4)))

/-- Entries of a commit buffer, and deterministic updates accepted at the MT (R376). -/
def commitFrz (h : Nat) (m : MT) : List Byte :=
  (m.commit.filter (fun c => c.h == h)).flatMap (fun c =>
    entry7 (if c.upd.isSome then 10 else 5)
      (leWord c.time ++ leBytes 2 c.sport.toNat ++ leBytes 1 c.slot ++ zeros 1 ++ leBytes 2 c.seq.toNat ++ zeros 2 ++ leBytes 4 c.off
        ++ fitBytes 64 c.data))

/-- The FID of the open record of a held operation, 0 while it has none. -/
def fidOf (s : State) (p : Link → Bool) : Nat := ((s.faults.table.find? (fun o => p o.fr.link)).map (fun o => o.fr.fid)).getD 0

/-- Code of an operation in a withdrawn request. -/
def ROp.frz : ROp → Nat
  | .load => 0 | .store => 1 | .loadTc => 2 | .storeTc => 3 | .prefetch => 4 | .amo k => 16 + k | .amor k => 32 + k | .scat k => 48 + k
  | .arrv r => if r then 65 else 64 | .waita c => if c then 67 else 66 | .bin => 68 | .binf => 69 | .mark r => 80 + r
  | .fence cl tl _ => 96 + (if tl then 1 else 0) + (if cl.contains 2 then 2 else 0) + (if cl.contains 7 then 4 else 0)

/-- FID and class of the open record of a held operation, 0 while it has none. -/
def heldAs (s : State) (p : Link → Bool) : Nat × Nat :=
  ((s.faults.table.find? (fun o => p o.fr.link)).map (fun o => (o.fr.fid, o.fr.cls.code))).getD (0, 0)

/-- A withdrawn request, or some elements of one, as it was issued (type 9): operation, SEQ, count of elements, time, then each element's
address, size and bytes. -/
def withdrawn (q : Req) (slot : Nat) (x : Nat × Nat) (es : List Elt) : List Byte :=
  entry7 9 (leBytes 4 x.1 ++ leBytes 1 x.2 ++ zeros 3 ++ leBytes 1 q.op.frz ++ leBytes 1 slot ++ leBytes 2 q.seq.toNat
    ++ leBytes 4 es.length ++ leWord q.time
    ++ es.flatMap (fun e => leBytes 8 e.addr ++ leBytes 4 e.n ++ leBytes 4 e.data.length ++ pad8 e.data))

/-- The held lanes or lines of a request, one entry each under its own FID. -/
def heldLanes (s : State) (id : Nat) (q : Req) (slot : Nat) : List Byte :=
  (q.elts.zipIdx).flatMap (fun e => match e.1.st with
    | .held c => withdrawn q slot ((heldAs s (fun l => l == .elem id e.2)).1, c.code) [e.1]
    | _ => [])

/-- Responses and withdrawn requests of a tile's slots: a finished request's tokens (type 8); of one that holds, waits behind a hold or
at a page (type 9), its held lanes, then what else there is of it. -/
def reqFrz (s : State) (r : Res) (k : Nat) (id : Nat) (q : Req) : List Byte :=
  match q.org with
  | .slot k' slot =>
    if k' ≠ k then []
    else if q.elts.all (fun e => e.st == .done) then
      (q.outs.zipIdx).flatMap (fun o => if o.1.tgt = .none then []
        else entry7 8 (leBytes 1 slot ++ leBytes 1 o.2 ++ zeros 6
          ++ (⟨sportOf r k q.pipe.port, q.seq, o.1.kind, o.1.type, o.1.time, o.1.data, false, []⟩ : Token).frz))
    else
      let rest := q.elts.filter (fun e => !e.isHeld)
      heldLanes s id q slot ++ if rest.isEmpty then [] else withdrawn q slot (heldAs s (fun l => l == .request id)) rest
  | _ => []

/-- The held requests of the copy engine and of the syntax lanes at an MT (type 9); what else these have under way stands in their
contexts and streams. -/
def unitReqFrz (s : State) (h : Nat) (r : Res) (mt : Nat) (id : Nat) (q : Req) : List Byte :=
  match q.org with
  | .engine k _ _ _ _ => if k = mt && q.h = h then heldLanes s id q 0 else []
  | .syn h' bind _ => if h' = h && synMt r bind = mt then heldLanes s id q 0 else []
  | _ => []

/-- A message that a unit refused and holds, with its FID (type 9). -/
def heldFrz (s : State) (k : Nat) (id : Nat) (x : Held) : List Byte := match x.msg.src with
  | .slot k' _ => if k' = k then
      entry7 9 (leBytes 4 (fidOf s (fun l => l == .msg id)) ++ leBytes 1 FClass.range.code ++ zeros 3 ++ x.msg.packet s) else []
  | .core _ _ => []

/-! ### The section (R86) -/

/-- Subrecords of an arithmetic tile. -/
def atFrz (s : State) (h : Nat) (r : Res) (k : Nat) : List Sub :=
  let a := s.at k
  let sub (kind idx : Nat) (body : List Byte) : Sub := ⟨kind, relX r k, relY r k, keyT k, idx, body, []⟩
  let resp := (s.reqs.filter (fun e => e.2.h == h)).flatMap (fun e => reqFrz s r k e.1 e.2)
    ++ (owedFrz r k a).flatMap (fun o => entry7 8 (leBytes 1 o.1 ++ leBytes 1 0 ++ zeros 6 ++ o.2.2.frz))
    ++ s.held.flatMap (fun e => heldFrz s k e.1 e.2)
  posFrz r k a ++ chanFrz r k a
    ++ (if a.agens.isEmpty then [] else [sub 4 0 (agenCtxFrz r k (get? 0 a.agens) ++ agenCtxFrz r k (get? 1 a.agens))])
    ++ [sub 5 0 a.node.frz, sub 6 0 (wholeBytes a.w (bufSize 0)), sub 6 1 (wholeBytes a.a (bufSize 1)), sub 6 2 (wholeBytes a.q (bufSize 2)),
        sub 7 0 (entry7 7 (leWord a.sbstate) ++ resp), sub 8 0 (capsFrz a), sub 9 0 (regsFrz s k a)]

/-- Channels that feed a backing queue stand in the quad of their source, whose MT runs the queue (R150). -/
def backqFrz (s : State) (r : Res) (mt : Nat) : List Sub :=
  (r.backq.filter (fun e => (upto 3).any (fun t => (s.at (mt / 4 * 4 + t)).active.chans.any (fun w => w.bq == e.1)))).filterMap (fun e =>
    let toks := ((e.2.toks.zipIdx).map (fun t => match r.desc.backqs[e.1]? with
      | some d => if t.2 < e.2.stored then entryToken s r d ((e.2.head + t.2) % d.tokens) t.1 else t.1
      | none => t.1)) ++ e.2.src.toList
    if toks.isEmpty then none
    else
      let (bs, bad) := tokensFrz 0 toks
      some ⟨3, relX r mt, relY r mt, 3, e.1, bs, bad⟩)

/-- Pointstamp counts of a residency at the package root (kind 8). -/
def countsFrz (s : State) (h : Nat) : List Byte :=
  let t := getD {} 484 s.trackers
  let cs := (t.exact ++ t.spill).filter (fun c => c.res == h)
  zeros 4 ++ leBytes 4 cs.length ++ zeros 8
    ++ cs.flatMap (fun c => leBytes 1 c.loc ++ zeros 3 ++ leBytes 4 (c.n % 2 ^ 32).toNat ++ leWord c.time)

/-- Subrecords of a memory tile. -/
def mtFrz (s : State) (h : Nat) (r : Res) (k : Nat) : List Sub :=
  let m := s.mt k
  let sub (kind idx : Nat) (body : List Byte) : Sub := ⟨kind, relX r k, relY r k, 3, idx, body, []⟩
  backqFrz s r k ++ [sub 6 3 (wholeBytes m.scr (2 ^ 20)),
    sub 7 0 (engineFrz s m ++ streamsFrz s h r k ++ ((m.cmb.map (cmbFrz s r)).getD []) ++ commitFrz h m
      ++ s.reqs.flatMap (fun e => unitReqFrz s h r k e.1 e.2))]
    ++ (if relX r k = r.desc.eqx && relY r k = r.desc.eqy then [sub 8 0 (countsFrz s h)] else [])

/-- Subrecords of a residency, quad by quad (R400). -/
def resFrz (s : State) (h : Nat) (r : Res) : List Sub :=
  r.desc.quads.flatMap (fun q => (upto 3).flatMap (fun t => atFrz s h r (resTile r q.1 q.2 t)) ++ mtFrz s h r (resTile r q.1 q.2 3))

/-- Kind 10 of an abandoned load: blocks whose load had begun (R403). -/
def loadFrz (d : Desc) (loaded : Nat) : List Sub :=
  ((d.blocks.take loaded).zipIdx).map (fun b =>
    ⟨10, b.1.qx, b.1.qy, b.1.t, 0, leBytes 4 b.2 ++ leBytes 4 b.1.words.length ++ zeros 8, []⟩)

/-- The smallest outstanding time of a residency; all ones where it has none, an abandoned load for one: R86 states no value for it
(DESIGN CHOICE, log 28). -/
def resLeast (s : State) (h : Nat) : Nat :=
  let t := getD {} 484 s.trackers
  (minNat? (((t.exact ++ t.spill).filter (fun c => c.res == h && decide (c.n > 0))).map (fun c => c.time.toNat))).getD (2 ^ 64 - 1)

/-- One FRZ section: W and H, cause, count, epoch base, least time, subrecords (R86). -/
def frzSection (w h cause epb least : Nat) (subs : List Sub) : List Byte :=
  leBytes 1 w ++ leBytes 1 h ++ zeros 1 ++ leBytes 1 cause ++ leBytes 4 subs.length ++ leBytes 8 epb ++ leBytes 8 least ++ zeros 40
    ++ subs.flatMap Sub.bytes

/-- Offsets in the section of words that read as uncorrectable. -/
def badOffsets : Nat → List Sub → List (Sub × Nat)
  | _, [] => []
  | o, x :: xs => x.bads.map (fun b => (x, o + 16 + b)) ++ badOffsets (o + x.bytes.length) xs

/-- R400: the report of such a word: the image's address and the byte offset in it; the place is the quad's MT (log 28). -/
def frzReport (s : State) (h : Nat) (r : Res) (x : Sub × Nat) : FRec :=
  { cls := .uncorr, fflg := 64, asid := r.asid, rid := ridOf s h, place := .mt, die := r.die, qx := x.1.qx, qy := x.1.qy, tile := 3,
    addr := Config.saveArea (ridOf s h), gen := [x.2] }

/-- The subrecord whose payload holds a byte of the section. -/
def subAt (byte : Nat) : Nat → List Sub → Option Sub
  | _, [] => none
  | o, x :: xs => if o + 16 ≤ byte && decide (byte < o + x.bytes.length) then some x else subAt byte (o + x.bytes.length) xs

/-- R400: the image of a residency in its save area, and a report for each word of it that read as uncorrectable: those of tokens that came
so, and the one in which the step's bad byte lies. -/
def saveImage (h : Nat) (r : Res) (cause : Nat) (s : State) : State :=
  let subs := resFrz s h r
  let s1 := { s with saved := put (ridOf s h) (frzSection r.desc.w r.desc.h cause r.epb (resLeast s h) subs) s.saved }
  let found := match s.focus.bad.bind (fun b => (subAt b 64 subs).map (fun x => (x, b / 8 * 8))) with
    | some x => [x]
    | none => []
  (badOffsets 64 subs ++ found).foldl (fun s2 x => s2.raise (frzReport s h r x))
    (if found.isEmpty then s1 else noteUe r.die s1)

/-- The section of an abandoned load. -/
def saveLoad (h : Nat) (d : Desc) (cause : Nat) (s : State) : State :=
  let t := s.task h
  { s with saved := put (ridOf s h) (frzSection d.w d.h cause t.epb (resLeast s h) (loadFrz d t.loaded)) s.saved }

end Sys2Proof.Machine
end

