-- ==== Sys2Proof/Machine/Owner.lean ====
section
/-! DEFINITION. Owner nodes: updates, exactly-once windows, deterministic commits, time-outs (R159 to R161, R360 to
R376). -/

namespace Sys2Proof.Machine

/-! ### The operations of R364 -/

/-- A float operation rounded `rn` to its type. -/
def encRn (e : Elem) (v : FVal) : Nat := (encodeF (fmtOf e) 0 false v).1

/-- R364 (and SCAT's of R159) on an element m and a value v of type e; 8 stores. -/
def updOp (e : Elem) (k m v : Nat) : Nat :=
  let f := Elem.isFlt e
  let fv (x : Nat) : FVal := decodeF (fmtOf e) x
  match k with
  | 0 => if f then encRn e (addV 0 (fv m) (fv v)) else iadd e m v
  | 1 => if f then encRn e (minV (fv m) (fv v)) else imin e m v
  | 2 => if f then encRn e (maxV (fv m) (fv v)) else imax e m v
  | 3 => m &&& v
  | 4 => m ||| v
  | 5 => m ^^^ v
  | 6 => encRn e (addV 0 (fv m) (fv v))
  | 7 => encRn e (maxV (fv m) (fv v))
  | _ => v

/-- Elements of a word, each with its value where R supplies one (R363). -/
def updBytes (e : Elem) (k : Nat) (old val : List Byte) : List Byte :=
  packLanes e.width ((upto (old.length / e.width)).map (fun i =>
    let m := natAt old (i * e.width) e.width
    if i * e.width < val.length then updOp e k m (natAt val (i * e.width) e.width) else m))

/-- R365: the new value of an AMOR: 0 add, 1 swap, 2 cas, 3 tas. -/
def amorNew (e : Elem) (k old r cmp : Nat) : Nat :=
  match k with
  | 0 => iadd e old r
  | 1 => r
  | 2 => if old = cmp then r else old
  | _ => old ||| 2 ^ (r % 64)

/-! ### Applying an update -/

/-- What an update does: it is applied, it waits (BIN and BINF at a busy bin), or it holds. -/
inductive Applied where
  | ok (s : State)
  | wait
  | hold (cls : FClass) (fflg : Nat) (gen : List Nat)
  deriving Inhabited

/-- Waiters of every 8-byte word of scratchpad bytes observe an update (R161). -/
def wakeRange (q : Req) (e : Elt) (o n : Nat) (s : State) : State :=
  if e.space ≠ .scr then s
  else (upto ((n + 7) / 8)).foldl (fun s i => wake q.h (e.addr + o + 8 * i) s) s

/-- The busy bit and count of a bin's count word (R367). -/
def binBusy (v : Nat) : Bool := bit v 31
def binCount (v : Nat) : Nat := v % 2 ^ 31

/-- R369: entries of a queue as (index, value), in queue order. -/
def binEntries (s : State) (r : Res) (base c : Nat) : List (Nat × Nat) :=
  (upto c).map (fun i => (leNat (scrRead r s (base + 8 * i) 4), leNat (scrRead r s (base + 8 * i + 4) 4)))

/-- R369: the sum of an index's values, in queue order. -/
def binSum (e : Elem) (vs : List Nat) : Nat :=
  match vs with
  | [] => 0
  | v :: rest => rest.foldl (fun acc x => updOp e 0 acc (x % 2 ^ (8 * e.width))) (v % 2 ^ (8 * e.width))

/-- Whether a bank has yet to perform a word in this cycle at a scratchpad offset, and that it has. -/
def bankFree (s : State) (r : Res) (off : Nat) : Bool := !bankUsed s (r.scrHome off).1 (r.scrBank off)
def takeBank (r : Res) (off : Nat) (s : State) : State :=
  s.modMt (r.scrHome off).1 (fun m => { m with bankAt := put (r.scrBank off) (s.cycle + 1) m.bankAt })

/-- R369: the target updates of a bin, in ascending index. -/
def binTargets (e : Elem) (tbase : Nat) (es : List (Nat × Nat)) : List Elt :=
  let xs := sortBy (fun a b => decide (a < b)) (dedup (es.map (·.1)))
  (xs.zipIdx).map (fun p =>
    { lane := p.2 + 1, space := .virt, addr := (tbase + p.1 * e.width) % 2 ^ 64, n := e.width,
      data := leBytes e.width (binSum e ((es.filter (fun y => y.1 == p.1)).map (·.2))) })

/-- The bytes of a word's elements of which R supplies a value: the others are not written (R363). -/
def updSome (e : Elem) (k : Nat) (old val : List Byte) : List Byte :=
  (updBytes e k old val).take ((val.length + e.width - 1) / e.width * e.width)

/-- R363, R365, R159, R160, R368, R369: word `w` of element `i` of an update request is applied as one step. A BIN lane's entry is part
of it, in a cycle in which the entry's bank performs no other word; so are BINF's entries (DEDUCED, log 6). -/
def applyWord (s : State) (id i w : Nat) : Applied :=
  match get? id s.reqs with
  | none => .wait
  | some q =>
    match q.elts[i]?, get? q.h s.res with
    | some e, some r =>
      let o := e.wordOff w
      let len := e.wordLen w
      let old := eltRead s q e o len
      let done (e : Elt) (s : State) : State := s.setReq id (q.setElt i (e.didWord w))
      match q.op with
      | .amo k =>
        let s := eltWrite s q e o (updSome q.type k old (e.data.drop o))
        .ok (wakeRange q e o len (notifyWatch e w (done e s)))
      | .scat k =>
        let s := eltWrite s q e o (updBytes q.type k old e.data)
        .ok (wakeRange q e o len (done e s))
      | .amor k =>
        let nv := amorNew q.type k (leNat old) (leNat e.data) (leNat q.cmp)
        let s := if k = 2 && leNat old ≠ leNat q.cmp then s else eltWrite s q e o (leBytes e.n nv)
        .ok (wakeRange q e o len (notifyWatch e w (done { e with data := old } s)))
      | .arrv reset =>
        let nv := if reset then 0 else arrExpect (leNat old) (leNat e.data)
        .ok (wakeRange q e o len (done e (eltWrite s q e o (leBytes 8 nv))))
      | .bin =>
        let v := leNat old
        let b := e.aux.getD 2 0
        if b > e.aux.getD 3 0 then .hold .range 0 []
        else if binBusy v then .wait
        else if binCount v ≥ e.aux.getD 1 0 then .hold .range descFlag [b]
        else
          let at' := e.aux.getD 0 0 + 8 * binCount v
          let same := (r.scrHome at').1 == (r.scrHome e.addr).1 && r.scrBank at' == r.scrBank e.addr
          if !same && !bankFree s r at' then .wait
          else
          let s := scrPut r (takeBank r at' s) at' e.data
          .ok (wakeRange q e o len (done e (eltWrite s q e o (leBytes 4 (v + 1)))))
      | .binf =>
        if i ≠ 0 then
          let s := eltWrite s q e o (updSome q.type 0 old (e.data.drop o))
          .ok (notifyWatch e w (done e s))
        else if q.stage = 0 then
          let v := leNat old
          if binBusy v then .wait
          else
            let c := binCount v
            let es := binEntries s r (e.aux.getD 0 0) c
            let ts := binTargets q.type (e.aux.getD 3 0) es
            if c = 0 then .ok (done e s)
            else .ok ((eltWrite ((dedup ((upto c).map (fun i => (e.aux.getD 0 0 + 8 * i) / 64 * 64))).foldl (fun s a => takeBank r a s) s)
                q e o (leBytes 4 (v + 2 ^ 31))).setReq id
              { q with elts := q.elts ++ ts, stage := 1, cnt := c })
        else if (q.elts.drop 1).all (fun x => x.st == .done) then .ok (done e (eltWrite s q e o (zeros 4)))
        else .wait
      | _ => .wait
    | _, _ => .wait

/-! ### Exactly once (R370, R371) -/

/-- A home's window of a source port, freed where the mark has passed its newest sequence; `none` while 512 other
sources hold windows. -/
def windowOf (s : State) (home port : Nat) : Option Window :=
  let ws := (getD {} home s.homes).windows
  match get? port ws with
  | some w =>
    let past := seqBack w.newest (markOf s port)
    some (if decide (0 < past) && decide (past < 2 ^ 15) then {} else w)
  | none => if ws.length ≥ 512 then none else some {}

/-- Record a sequence in a window; the newest is the later of two, modulo 2^16. -/
def Window.note (w : Window) (seq : Nat) (old : List Byte) : Window :=
  { newest := if w.entries.isEmpty || decide (seqBack w.newest seq < 2 ^ 15) then seq else w.newest, entries := put (seq % 64) (seq, old) w.entries }

/-- The old value that a window holds of a sequence, which it has seen before (R370). -/
def Window.twice (w : Window) (seq : Nat) : Option (List Byte) :=
  (get? (seq % 64) w.entries).bind (fun e => if e.1 = seq then some e.2 else none)

/-- Whether the window's place for a sequence still serves one that the source has not seen answered. -/
def windowFull (s : State) (port home : Nat) (w : Window) (seq : Nat) : Bool :=
  match get? (seq % 64) w.entries with
  | some e => (unanswered s port home).any (fun x => x.useq == some e.1)
  | none => false

def State.modHome (s : State) (h : Nat) (f : Home → Home) : State := { s with homes := upd {} h f s.homes }

/-- A request element's sequence, as it came with the request; one that came without gets the port's next. -/
def takeSeq (s : State) (id i : Nat) (q : Req) (e : Elt) (home : Nat) : Option (Nat × State) :=
  match e.useq with
  | some n => some (n, s)
  | none => (seqFor s q e home).map (fun n => (n, (useSeq q e n s).setReq id (q.setElt i { e with useq := some n })))

/-! ### Deterministic updates (R372 to R376) -/

def addDet (home : Nat) (c : CEnt) (s : State) : State :=
  if home < 2048 then s.modMt home (fun m => { m with commit := m.commit ++ [c] })
  else s.modHome home (fun x => { x with det := x.det ++ [c] })

/-- The elements of a request that are deterministic updates: of a BINF those of its targets (R372). -/
def Req.detElts (q : Req) : List Elt := if q.op == .binf then q.elts.drop 1 else q.elts

/-- R373: the last element of a request is accepted: its pointstamp moves to `det.pend`. -/
def movePend (id : Nat) (s : State) : State :=
  match get? id s.reqs with
  | none => s
  | some q =>
    match get? q.h s.res, q.org with
    | some r, .slot k slot =>
      match (r.hubAt k slot).or (r.desc.locIdx .detPend), q.loc with
      | some d, some l =>
        if l ≠ d && q.detElts.all (fun e => e.st == .accepted || e.st == .done) then
          (s.setReq id { q with loc := some d }).post k [⟨q.h, d, q.time, 1⟩, ⟨q.h, l, q.time, -1⟩]
        else s
      | _, _ => s
    | _, _ => s

/-- The home accepts word `w` of a deterministic update. -/
def acceptDet (s : State) (id i w home : Nat) (q : Req) (e : Elt) : State :=
  match q.org, get? q.h s.res with
  | .slot k slot, some r =>
    if !detRoom s home q.h q.time then s
    else
      let c : CEnt :=
        { h := q.h
          time := q.time
          sport := sportOf r k q.pipe.port
          slot := slot
          seq := q.seq
          lane := e.lane
          upd := some (id, i, w) }
      let ws := e.words ++ [w]
      let e := { e with
        words := if ws.length ≥ e.nwords then [] else ws
        st := if ws.length ≥ e.nwords then .accepted else .home }
      (movePend id ((addDet home c s).setReq id (q.setElt i e))).act
  | _, _ => s

/-- An element that is done, or accepted, enters the window, with its old value (R370). -/
def noteApplied (home port : Nat) (win : Window) (seq req i : Nat) (s : State) : State :=
  match (get? req s.reqs).bind (fun q => (q.elts[i]?).map (fun x => (q.op, x))) with
  | some (op, x) =>
    if x.st == .done || x.st == .accepted then
      let old := match op with | .amor _ => x.data | _ => []
      s.modHome home (fun h => { h with windows := put port (win.note seq old) h.windows })
    else s
  | none => s

/-! ### OWNER_UPDATE -/

/-- Whether an owner node has a place for an update: its sequence, its source's window, its entry (R370, R371, R374). -/
def ownerTakes (s : State) (id : Nat) (q : Req) (i : Nat) (e : Elt) (home : Nat) : Bool :=
  !laneBlocked s q i e && !stuck s id q i e && (windowOf s home q.port).isSome
    && (seqFor s q e home).isSome && (!detUpdate s q i || detRoom s home q.h q.time)

/-- R360: an owner node applies one update per cycle, a word of it, in the order in which they come; at an MT that is the order of the
bank's queue, and one that cannot be taken yet has not come. -/
def ownerTurn (s : State) (q : Req) (e : Elt) (home : Nat) : Bool :=
  (getD {} home s.homes).upAt != s.cycle + 1 && (q.op == .binf && e.space == .scr || e.space != .virt
    || s.reqs.all (fun p => !p.2.op.isUpdate || (p.2.elts.zipIdx).all (fun x => !(x.1.space == .virt && x.1.st == .home
        && decide (x.1.arr < e.arr) && eltHome s p.2 x.1 == some home && ownerTakes s p.1 p.2 x.2 x.1 home))))

/-- The owner node has applied an update in this cycle. -/
def useOwner (home : Nat) (s : State) : State := s.modHome home (fun x => { x with upAt := s.cycle + 1 })

/-- R360, R361, R366, R370: an owner node applies word `w` of one update, once; a deterministic one is accepted; `bad`:
the word is uncorrectable. -/
def execOwnerUpdate (req elem : Nat) (bad : Bool) (s : State) : Result :=
  let i := elem / 4
  let w := elem % 4
  match get? req s.reqs with
  | none => .next s
  | some q =>
    match q.elts[i]? with
    | none => .next s
    | some e =>
      if !q.op.isUpdate || !wordTurn s req q i e w then .next s
      else match eltHome s q e with
        | none => .next s
        | some home =>
          if !ownerTurn s q e home then .next s
          else if bad then .next ((useOwner home (serveWord req q e w
            (holdElt req i .uncorr 0 (homeHolder s q e) (some [e.wordOff w]) (ueAt q e bad s)))).act)
          else if e.space == .virt && snapHolds s q.h q.timed e.addr then
            .next ((s.setReq req (q.setElt i { e with st := .paged })).act)
          else match windowOf s home q.port, takeSeq s req i q e home with
            | some win, some (seq, s1) =>
              match get? req s1.reqs with
              | none => .next s
              | some q1 =>
                let e1 := q1.elts.getD i e
                match win.twice seq with
                | some old =>
                  let d := match q.op with | .amor _ => old | _ => e1.data
                  .next ((useOwner home (serveWord req q e w (s1.setReq req (q1.setElt i { e1 with st := .done, data := d })))).act)
                | none =>
                  if windowFull s q.port home win seq then .next s
                  else if detUpdate s q i then
                    if detRoom s home q.h q.time then
                      .next (useOwner home (serveWord req q e w (noteApplied home q.port win seq req i (acceptDet s1 req i w home q1 e1))))
                    else .next s
                  else match applyWord s1 req i w with
                    | .ok s2 => .next ((useOwner home (serveWord req q e w (noteApplied home q.port win seq req i s2))).act)
                    | .wait => .next s
                    | .hold cls fflg gen =>
                      .next ((useOwner home (serveWord req q e w (holdElt req i cls fflg (homeHolder s q e) (some gen) s))).act)
            | _, _ => .next s

/-! ### DET_COMMIT -/

/-- Entries of a home that belong to a residency's deterministic updates. -/
def detEntries (s : State) (home h : Nat) : List CEnt :=
  (if home < 2048 then (s.mt home).commit else (getD {} home s.homes).det).filter (fun c => c.h == h && c.upd.isSome)

def dropDet (home : Nat) (c : CEnt) (s : State) : State :=
  if home < 2048 then s.modMt home (fun m => { m with commit := m.commit.erase c })
  else s.modHome home (fun x => { x with det := x.det.erase c })

/-- Whether a pending page of the snapshot holds an update back (R356, R407). -/
def detHeld (s : State) (id i : Nat) : Bool :=
  match get? id s.reqs with
  | none => false
  | some q => match q.elts[i]? with
    | some e => e.space == .virt && snapHolds s q.h q.timed e.addr
    | none => false

/-- An entry is applied at its turn; one that waits keeps its place, one that holds leaves it. `bad`: its word is uncorrectable (R366). -/
def applyDet (home : Nat) (c : CEnt) (bad : Option Nat) (s : State) : State :=
  match c.upd with
  | none => s
  | some (id, i, w) =>
    let hold (cls : FClass) (fflg : Nat) (gen : List Nat) (s : State) : State := match get? id s.reqs with
      | some q => holdElt id i cls fflg (homeHolder s q (q.elts.getD i { space := .scr, addr := 0, n := 8 })) (some gen) (dropDet home c s)
      | none => dropDet home c s
    if detHeld s id i then s
    else match bad with
    | some o => hold .uncorr 0 [o] (match get? id s.reqs with
        | some q => ueAt q (q.elts.getD i { space := .scr, addr := 0, n := 8 }) true s
        | none => s)
    | none => match applyWord s id i w with
      | .ok s1 => dropDet home c s1
      | .wait => s
      | .hold cls fflg gen => hold cls fflg gen s

/-- The scratchpad bytes that a deterministic update at an MT changes. -/
def detBytes (s : State) (c : CEnt) : Option (Res × List (Nat × Nat)) :=
  match c.upd with
  | none => none
  | some (id, i, w) => match get? id s.reqs with
    | none => none
    | some q => match q.elts[i]?, get? q.h s.res with
      | some e, some r => if e.space == .scr then some (r, [(e.addr + e.wordOff w, e.wordLen w)]) else none
      | _, _ => none

/-- R374: once the issue frontier passes a time, the home applies that time's updates in ascending SPORT, slot, firing
order and lane, one per cycle, at an MT at its turn in the bank (R146); not those of a residency that does not run (R376). -/
def execDetCommit (home res : Nat) (s : State) : Result :=
  let cs := detEntries s home res
  let runs := match get? res s.res with | some r => r.running | none => false
  match minNat? (cs.map (fun c => c.time.toNat)) with
  | none => .next s
  | some t =>
    if runs && passes (issueFrontier s home res) t && (getD {} home s.homes).upAt != s.cycle + 1 then
      match sortBy CEnt.before (cs.filter (fun c => c.time.toNat == t)) with
      | c :: _ =>
        let go (s : State) : State := (useOwner home (applyDet home c s.focus.bad s)).act
        .next (match detBytes s c with
          | some (r, at') => atBanks r (.det home) at' s go
          | none => go s)
      | [] => .next s
    else .next s

/-! ### Time-outs and marks -/

/-! A bank queue, a full commit buffer or a hold before it keeps a request waiting without end, and that is no silence (R147): the timer
runs for what a PT, a table, the host or an owner beyond the chip's memories owes, and for an answer that is on its way back. -/

/-- Whether the timer of an element runs (R370): it has been sent and awaits its answer. -/
def awaits (s : State) (id : Nat) (q : Req) (i : Nat) (e : Elt) : Bool := match e.st with
  | .fetch | .walk _ _ | .ats => !behindHeld s id q
  | .new => e.space == .virt && !behindHeld s id q && mayIssue s q e && bcGrant s (ingressPt (q.org.tile s)) q
  | .home => e.space == .virt && !laneBlocked s q i e && !stuck s id q i e && homeGrant s q e && !behindReleased s q e
      && (!q.op.isUpdate || (match eltHome s q e with | some home => ownerTakes s id q i e home | none => true))
  | .done => e.useq.isSome
  | _ => false

/-- Whether the timer of a request runs. -/
def timerRuns (s : State) (id : Nat) (q : Req) : Bool := (q.elts.zipIdx).any (fun x => awaits s id q x.2 x.1)

/-- An element of an update that is sent again, with its sequence. -/
def Req.resent (q : Req) (e : Elt) : Elt :=
  if q.op.isUpdate && e.st == .done && !e.dropped && e.useq.isSome then
    { e with st := if e.space == .scr then .mesh else .home, words := [], lost := false }
  else e

/-- What holds with TIMEOUT after the last attempt: what awaits its answer, but not an answer that is known to be on its way. -/
def expires (s : State) (id : Nat) (q : Req) (i : Nat) (e : Elt) : Bool := awaits s id q i e && (e.st != .done || e.lost)

/-- R370: without an answer after 65,536 cycles a request is sent again, an update with its sequence; after five
attempts it holds with TIMEOUT, and a prefetch ends (R111). -/
def execEndToEndTimeout (req : Nat) (s : State) : Result :=
  match get? req s.reqs with
  | none => .next s
  | some q =>
    if s.cycle < q.since + 65536 || !timerRuns s req q then .next s
    else if q.tries < 5 then
      .next ((s.setReq req { q with tries := q.tries + 1, since := s.cycle, elts := q.elts.map q.resent }).act)
    else if q.op == .prefetch then
      .next ((upto q.elts.length).foldl (fun s i => dropPrefetch req i q.h s) s).act
    else match (q.elts.zipIdx).find? (fun x => expires s req q x.2 x.1) with
      | none => .next s
      | some x =>
        let f := { issuerRec s q .timeout with
          addr := BitVec.ofNat 64 x.1.addr
          gen := recGen s q [q.tries]
          desc := reqDesc s q
          link := .request req }
        let held := { q with elts := (q.elts.zipIdx).map (fun x => if expires s req q x.2 x.1 then { x.1 with st := .held .timeout } else x.1) }
        .next (((queueBehind req held (s.setReq req held)).raise f).act)

/-! ### Acknowledgements (R370) -/

/-- Whether an MT keeps a response back behind an earlier access of its stream that it has not yet performed (R148). -/
def keptBack (s : State) (q : Req) (e : Elt) : Bool :=
  e.space == .scr && q.stream.isSome && s.reqs.any (fun p => p.2.stream == q.stream && p.2.elts.any (fun x =>
    x.space == .scr && (x.st == .home || x.st == .accepted) && decide (x.arr < e.arr) && eltHome s p.2 x == eltHome s q e))

/-- The acknowledgement of an update that its owner has performed or accepted comes back to the source, which has it no longer
outstanding, unless it was lost. -/
def ackElt (s : State) (q : Req) (e : Elt) : Elt :=
  if (e.st == .done || e.st == .accepted) && e.useq.isSome && !e.lost && !keptBack s q e then { e with useq := none } else e

/-- A cycle of the responses on their way. -/
def ackCycle (s : State) : State :=
  { s with reqs := s.reqs.map (fun e => if e.2.op.isUpdate then (e.1, { e.2 with elts := e.2.elts.map (ackElt s e.2) }) else e) }

/-- The answer to an update is lost on its way (R354): the outside decides it. -/
def loseAnswer (req elem : Nat) (s : State) : State :=
  match get? req s.reqs with
  | none => s
  | some q => match q.elts[elem]? with
    | none => s
    | some e => if q.op.isUpdate && e.st == .done && e.useq.isSome then s.setReq req (q.setElt elem { e with lost := true }) else s

/-- R371: a source with nothing outstanding at an owner frees its window there. -/
def execMarkOnlyPacket (home port : Nat) (s : State) : Result :=
  match get? port (getD {} home s.homes).windows with
  | none => .next s
  | some _ =>
    if (unanswered s port home).isEmpty then
      .next ((s.modHome home (fun x => { x with windows := del port x.windows })).act)
    else .next s

end Sys2Proof.Machine
end

