-- ==== Sys2Proof/Machine/Freeze.lean ====
section
/-! DEFINITION. Freezing, scan-out, activation and restore (R64, R67, R82, R131, R323, R326, R385, R387, R388, R398 to R404). -/

namespace Sys2Proof.Machine

/-! ### The freeze (R398, R399) -/

/-- Whether a freeze with a cause is accepted: in states 3 and 4, by the drain limit also in state 5, once. -/
def freezeAccepted (t : Task) (cause : Nat) : Bool :=
  t.freezing.isNone && (t.state == .loading || t.state == .active || (t.state == .draining && cause == 2))

/-- R398: the request reaches the region: every tile stops firing; a load is abandoned (R403). One that is ignored has no effect; where its
victim does not freeze at all, pre-emptions that wait for it are over. -/
def execFreezeRequest (h cause : Nat) (s : State) : Result :=
  if !s.dsp.frzq.contains (h, cause) then .next s
  else
    let s := s.modDsp (fun d => { d with frzq := removeFirst (fun e => e == (h, cause)) d.frzq })
    let t := s.task h
    if freezeAccepted t cause then
      let s := s.modTask h (fun t => { t with freezing := some cause })
      .next (if t.state == .loading then dropLoads h s else s.modRes h (fun r => { r with running := false })).act
    else if t.freezing.isSome then .next s.act
    else .next (s.modDsp (fun d => { d with preempt := d.preempt.filter (fun p => p.1 != h) })).act

/-- Whether a BIN lane, or a BINF that has not taken its bin, finds the bin busy (R368, R369). -/
def binWaits (s : State) (q : Req) (i : Nat) (e : Elt) : Bool :=
  (q.op == .bin || (q.op == .binf && i == 0 && q.stage == 0)) && e.st == .home && binBusy (leNat (eltRead s q e 0 4))

/-- Whether an element waits at the MT to which another goes, before it, for what a frozen residency does not bring: an entry (R157, R374), or a
bin that a BINF keeps. -/
def behindFull (s : State) (q : Req) (i : Nat) (x : Elt) : Bool :=
  match eltHome s q x with
  | none => false
  | some mt =>
    (x.st == .home && noEntry s mt q i) || binWaits s q i x
      || (x.space == .scr && s.reqs.any (fun e => e.2.h == q.h && (e.2.elts.zipIdx).any (fun y =>
        y.1.space == .scr && y.1.st == .home && (x.st == .mesh || decide (y.1.arr < x.arr)) && eltHome s e.2 y.1 == some mt
          && (noEntry s mt e.2 y.2 || binWaits s e.2 y.2 y.1))))

/-- Whether a freeze need not wait for an element (R113, R131, R155, R311, R371, R399): it holds, or is kept at its home, or is done and
acknowledged; an engine has not issued it, but a generation issues all it has; it queues behind a hold; or an entry, a bin or its own targets keep
it waiting. -/
def eltSettled (s : State) (id : Nat) (q : Req) (i : Nat) (x : Elt) : Bool := match x.st with
  | .held _ | .accepted | .paged | .wait => true
  | .done => x.useq.isNone
  | .new | .mesh => (match q.org with
      | .engine mt ctx strm _ _ => strm || !generation s mt ctx || ctxHeld s q
      | .syn _ _ _ => true
      | _ => behindHeld s id q || stuck s id q i x || (x.st == .mesh && behindFull s q i x))
  | .fetch | .walk _ _ | .ats => behindHeld s id q
  | .home => behindFull s q i x || stuck s id q i x
      || (q.op == .binf && i == 0 && q.stage != 0 && !((q.elts.drop 1).all (fun y => y.st == .done)))
      || (match q.org with
        | .slot _ _ => (q.elts.take i).any (fun y => y.isHeld || y.st == .paged)
        | _ => false)

/-- Whether a request is the snapshot controller's, whose copying goes on (R408). -/
def Req.ofSnap (q : Req) : Bool := match q.org with
  | .snap _ _ => true
  | _ => false

/-- R399, R272, R311, R323: requests already issued have been performed, hold or stand behind a hold, nothing is on its way in the
trackers below the root, generations, loads and releases are over. -/
def settled (s : State) (h : Nat) (r : Res) : Bool :=
  s.reqs.all (fun e => e.2.h != h || e.2.ofSnap || (e.2.elts.zipIdx).all (fun x => eltSettled s e.1 e.2 x.2 x.1))
  && !s.subs.any (fun e => e.2.h == h)
  && (atsOf r.desc r.die r.x0 r.y0).all (fun k =>
    let n := (s.at k).node
    n.flight.isEmpty && n.loads.isEmpty && n.sets.all (fun e => !e.2.filling)
      && (s.at k).slots.all (fun e => (owedSend k e.1 s).isNone))
  && (mtsOf r.desc r.die r.x0 r.y0).all (fun k => (releaseGoing s k).isNone)
  && !s.posts.any (fun e => e.2.any (fun p => p.res == h))
  && !s.trackers.any (fun e => decide (e.1 < 484) && e.2.inq.any (fun q => q.2.any (fun b => b.any (fun p => p.res == h))))

/-- An element in a frozen residency: what was not performed is issued afresh after the restore; of an update the words that have been applied
stay so. Sequences end here (R371). -/
def Elt.frozen (x : Elt) : Elt := match x.st with
  | .paged | .home | .mesh => { x with st := .new, useq := none, rel := false }
  | _ => { x with useq := none }

/-- Tokens as scan-out reads them: a restored payload is what was read (R400). -/
def scanned (m : SMap (List Token)) : SMap (List Token) := m.map (fun e => (e.1, e.2.map (fun t => { t with bad := false })))

/-- A tile's image: WAITF registrations are dropped (R341). -/
def AT.frozen (a : AT) : AT := { a with pos := scanned a.pos, chan := scanned a.chan, newIn := [], gone := [], slots := a.slots.map (fun e => (e.1, { e.2 with wait := none })) }

/-- Whether a die's engines have the lanes that a record's residency declares (R277). -/
def lanesFit (s : State) (h die : Nat) : Bool := match taskDesc s h with
  | some d => decide (d.lanes ≤ lanesFree s die)
  | none => true

/-- R385: the claimants of a victim's region claim it, where none of its quads has been quarantined meanwhile (R437); else they are placed
afresh. -/
def claimAfter (victim : Nat) (s : State) : State :=
  let ps := s.dsp.preempt.filter (fun p => p.1 == victim)
  let s := s.modDsp (fun d => { d with preempt := d.preempt.filter (fun p => p.1 != victim) })
  ps.foldl (fun s p =>
    let t := s.task p.2.1
    let open' := match taskDesc s p.2.1 with
      | some d => regionAll d.w d.h p.2.2.2.1 p.2.2.2.2 (quadOpen s p.2.1 p.2.2.1)
      | none => true
    if (t.state == .ready || t.state == .frozen) && lanesFit s p.2.1 p.2.2.1 && open' then claim p.2.1 p.2.2.1 p.2.2.2.1 p.2.2.2.2 s else s) s

/-- A frozen record (R400, R402). -/
def freezeTask (h : Nat) (s : State) : State :=
  quadFreed (s.modTask h (fun t => { t with state := .frozen, image := true, freezing := none, loaded := 0, ready := s.cycle }))

/-- UNDRAINED (R388, R400). -/
def undrained (s : State) (h : Nat) : FRec :=
  { cls := .undrained, asid := (s.task h).asid, rid := ridOf s h, place := .dispatcher, addr := Config.saveArea (ridOf s h),
    gen := [ridOf s h] }

/-- A stream at scan-out (R284): its lanes go; the parse begins afresh at the last picture at which it may, at or before the next
undelivered one; a read that holds is kept. -/
def VStream.frozen (s : State) (v : VStream) : VStream :=
  if v.state ≠ 1 then v
  else
    let ps := (parsed v).1
    let held := ((v.read.bind (fun id => get? id s.reqs)).map (fun q => q.elts.any Elt.isHeld)).getD false
    let v := { v with
      state := if v.status.isSome then 1 else 0
      got := []
      put := 0
      read := none
      kept := v.sent
      lanes := []
      lanesFor := none
      later := if held then v.read else v.later }
    match ((ps.zipIdx).filter (fun p => p.1.restart && decide (v.base + p.2 ≤ v.sent))).getLast? with
    | some (p, i) => { v with off := v.off + p.start, base := v.base + i, shown := shownBefore v ps (v.base + i) }
    | none => v

/-- The streams of a residency at scan-out; reads that do not hold are made again after the restore. -/
def freezeStreams (h : Nat) (s : State) : State :=
  { s with
    syns := s.syns.map (fun e => if e.1 / 64 = h
      then (e.1, { e.2 with streams := e.2.streams.map (fun x => (x.1, x.2.frozen s)), lanes := [] }) else e)
    reqs := s.reqs.filter (fun e => match e.2.org with
      | .syn h' _ _ => h' != h || e.2.elts.any Elt.isHeld
      | _ => true) }

/-- Lanes of a die that bindings have. -/
def takenLanes (s : State) (die : Nat) : List Nat :=
  s.syns.flatMap (fun e => if ((get? (e.1 / 64) s.res).map (·.die)) = some die then e.2.lanes else [])

/-- A residency's bindings get the lowest free lanes of its die, in BND order (R277; which lanes: DESIGN CHOICE, log 7). -/
def giveLanes (h : Nat) (r : Res) (s : State) : State :=
  ((r.desc.binds.zipIdx).filter (fun b => b.1.kind == 2)).foldl (fun s b =>
    let taken := takenLanes s r.die
    let free := (upto 64).filter (fun n => !taken.contains n)
    let k := synKey h b.2
    s.setSyn k { s.syn k with lanes := free.take b.1.lanes }) s

/-- R400, R402, R403: a settled region is scanned out and its counts stay parked at the package root; a freeze by the drain
limit completes retirement. -/
def execScanOut (h : Nat) (s : State) : Result :=
  let t := s.task h
  match t.freezing with
  | none => .next s
  | some cause =>
    if t.state == .loading then
      let s := if (get? h s.images).isSome then s
        else let s := (match taskDesc s h with | some d => saveLoad h d cause s | none => s)
        { s with images := put h { cause := cause, loading := true, loaded := t.loaded, die := t.die, x0 := t.rx, y0 := t.ry } s.images }
      .next (freezeTask h s).act
    else match get? h s.res with
      | none => .next s
      | some r =>
        if !settled s h r then .next s
        else
          let ks := atsOf r.desc r.die r.x0 r.y0
          let ms := mtsOf r.desc r.die r.x0 r.y0
          let s := saveImage h r cause (freezeStreams h (ms.foldl (fun s k => saveRemc k s) s))
          let im : Image :=
            { cause := cause, die := r.die, x0 := r.x0, y0 := r.y0,
              ats := ks.foldl (fun m k => put k (s.at k).frozen m) [],
              mts := ms.foldl (fun m k => put k (s.mt k) m) [] }
          let s := dropWaiters h (dropCounts h 0 483 (vacate r s))
          let s := { s with
            images := put h im s.images
            reqs := s.reqs.map (fun e => if e.2.h = h && !e.2.ofSnap then (e.1, { e.2 with elts := e.2.elts.map Elt.frozen }) else e) }
          if cause = 2 then .next (claimAfter h (retireRes h (s.raise (undrained s h)))).act
          else .next (claimAfter h (freezeTask h s)).act

/-! ### Moving a residency's names to its new region (R404) -/

/-- Key of a tile of the old region in the new one. -/
def moveKey (im : Image) (r : Res) (k : Nat) : Nat := tileKey r.die (r.x0 + (keyX k - im.x0)) (r.y0 + (keyY k - im.y0)) (keyT k)

def From.moved (f : Nat → Nat) : From → From
  | .slot k x => .slot (f k) x
  | .core c i => .core c i
def Msg.moved (h : Nat) (f : Nat → Nat) (m : Msg) : Msg := if m.h = h then { m with src := m.src.moved f } else m
def LSrc.moved (h : Nat) (f : Nat → Nat) : LSrc → LSrc
  | .msg m => .msg (m.moved h f)
  | x => x
def Origin.moved (f : Nat → Nat) : Origin → Origin
  | .slot k x => .slot (f k) x
  | .engine k c b p o => .engine (f k) c b p o
  | x => x
def Elt.moved (f : Nat → Nat) (e : Elt) : Elt := match e.space with
  | .buf k b => { e with space := .buf (f k) b }
  | _ => e
def Link.moved (f : Nat → Nat) : Link → Link
  | .slot k x => .slot (f k) x
  | .agen k c => .agen (f k) c
  | .strm k c => .strm (f k) c
  | x => x
def Cmb.moved (h : Nat) (f : Nat → Nat) (u : Cmb) : Cmb :=
  { u with
    waiting := u.waiting.map (Msg.moved h f)
    allocq := u.allocq.map (Msg.moved h f)
    recv := u.recv.map (fun e => (f e.1, e.2))
    markers := u.markers.map (Msg.moved h f) }
def MT.moved (h : Nat) (f : Nat → Nat) (m : MT) : MT :=
  let g := Msg.moved h f
  { m with
    inbox := m.inbox.map g
    asideC := m.asideC.map g
    asideS := m.asideS.map g
    closed := m.closed.map g
    cctx := m.cctx.map (fun e => (e.1, { e.2 with msg := g e.2.msg, sbt := e.2.sbt.map f }))
    sctx := m.sctx.map (fun e => (e.1, { e.2 with msg := g e.2.msg, closers := e.2.closers.map g }))
    cmb := m.cmb.map (Cmb.moved h f)
    cin := m.cin.map g }
def Syn.moved (h : Nat) (f : Nat → Nat) (y : Syn) : Syn :=
  let g := Msg.moved h f
  { y with
    queue := y.queue.map g
    streams := y.streams.map (fun e => (e.1, { e.2 with msg := g e.2.msg, closers := e.2.closers.map g })) }

/-- Queries of a residency go to the trackers of their scope in its new region (R342). -/
def moveQueries (h : Nat) (f : Nat → Nat) (s : State) : State :=
  let g := Msg.moved h f
  let scopeOf (trk : Nat) (m : Msg) : Nat := match m.src with
    | .slot k _ => if trk < 480 then quadOf (f k) else if trk < 484 then 480 + keyDie (f k) else trk
    | .core _ _ => trk
  let moved := s.trackers.flatMap (fun e => (e.2.queries.filter (fun m => m.h == h)).map (fun m => (scopeOf e.1 m, g m)))
  moved.foldl (fun s x => { s with trackers := upd {} x.1 (fun t => { t with queries := t.queries ++ [x.2] }) s.trackers })
    { s with trackers := s.trackers.map (fun e => (e.1, { e.2 with queries := e.2.queries.filter (fun m => m.h != h) })) }

/-- Every place outside the tiles that names a tile of the residency. -/
def moveOutside (h : Nat) (f : Nat → Nat) (s : State) : State :=
  let g := Msg.moved h f
  let rid := ridOf s h
  let fr (x : FRec) : FRec := if x.rid = rid then { x with link := x.link.moved f } else x
  let s := moveQueries h f s
  { s with
    reqs := s.reqs.map (fun e => if e.2.h = h
      then (e.1, { e.2 with org := e.2.org.moved f, elts := e.2.elts.map (Elt.moved f) }) else e)
    held := s.held.map (fun e => if e.2.msg.h = h then (e.1, ⟨g e.2.msg, f e.2.mt⟩) else e)
    syns := s.syns.map (fun e => if e.1 / 64 = h then (e.1, e.2.moved h f) else e)
    svcs := s.svcs.map (fun e => (e.1, { e.2 with msg := g e.2.msg }))
    snap := s.snap.map (fun n => { n with msg := g n.msg })
    snapq := s.snapq.map g
    dsp := { s.dsp with
      launchq := s.dsp.launchq.map (fun q => { q with src := q.src.moved h f })
      joinq := s.dsp.joinq.map (fun q => { q with src := q.src.moved h f })
      held := s.dsp.held.map (fun e => (e.1, match e.2 with
        | .launch q => .launch { q with src := q.src.moved h f }
        | .join q => .join { q with src := q.src.moved h f })) }
    faults := { s.faults with
      incoming := s.faults.incoming.map fr
      table := s.faults.table.map (fun o => { o with fr := fr o.fr }) } }

/-! ### Pairing (R64, R431) -/

/-- Name of a binding as a peer writes it: `res.bind`. -/
def bindName (d : Desc) (b : Bind) : List Byte := d.name ++ [0x2E] ++ b.name

/-- The number that decimal digits write; `none` where another byte stands or nothing. -/
def decimal : List Byte → Option Nat
  | [] => none
  | bs => bs.foldl (fun n b => n.bind (fun n => if 0x30 ≤ b.toNat ∧ b.toNat ≤ 0x39 then some (10 * n + (b.toNat - 0x30)) else none)) (some 0)

/-- The peer name as this package reads it: of `pN.res.bind`, with N its own number in the pod, what follows `pN.` (R431). -/
def peerHere (podid : Nat) (peer : List Byte) : List Byte :=
  let n := (peer.drop 1).takeWhile (fun b => b != 0x2E)
  let tail := peer.drop (n.length + 2)
  if peer.head? = some 0x70 ∧ decimal n = some podid ∧ tail.contains 0x2E then tail else peer

/-- Whether two bindings name each other, one egress and one ingress. -/
def mates (podid : Nat) (d : Desc) (b : Bind) (d' : Desc) (b' : Bind) : Bool :=
  b.kind + b'.kind == 1 && peerHere podid b.peer == bindName d' b' && peerHere podid b'.peer == bindName d b

/-- A resident, unpaired mate of a binding: residency and index. -/
def findMate (s : State) (asid : Nat) (d : Desc) (b : Bind) : Option (Nat × Nat) :=
  firstSome (fun (e : Nat × Res) =>
    if e.2.asid ≠ asid then none
    else ((upto e.2.desc.binds.length).find? (fun n => (get? n e.2.peers).isNone && (match e.2.desc.binds[n]? with
      | some b' => mates s.host.podid d b e.2.desc b'
      | none => false))).map (fun n => (e.1, n))) s.res

/-- Shapes of the blocks that feed an egress binding. -/
def egressShapes (d : Desc) (n : Nat) : List (List Nat) :=
  (d.blocks.filter (fun b => b.bank.chans.any (fun c => c.cls == 2 && c.bind == n))).map d.shapeOfBlock

/-- Checks at pairing: the depth, and the widths of every level up to it. -/
def pairOk (eg : Desc) (n : Nat) (ing : Desc) (b : Bind) : Bool :=
  let shape := match ing.blockAt b.qx b.qy b.tile with
    | some k => ing.shapeOfBlock k
    | none => []
  (egressDepths eg (depths eg) n).all (fun v => v == (b.depth : Int))
    && (egressShapes eg n).all (fun w => w.take b.depth == shape.take b.depth)

/-- What pairing gives binding n: its mate, no mate yet, or a failure. -/
def pairing (s : State) (asid : Nat) (d : Desc) (n : Nat) : Except Unit (Option (Nat × Nat)) := match d.binds[n]? with
  | none => .ok none
  | some b =>
    if b.kind = 2 then .ok none
    else match findMate s asid d b with
      | some (h', n') => (match get? h' s.res with
        | some r' => (match r'.desc.binds[n']? with
          | some b' =>
            if (if b.kind = 0 then pairOk d n r'.desc b' else pairOk r'.desc n' d b) then .ok (some (h', n')) else .error ()
          | none => .error ())
        | none => .error ())
      | none =>
        let sameFile := (get? d.file s.files).any (fun f => f.res.any (fun d' => d'.binds.any (mates s.host.podid d b d')))
        if sameFile then .ok none else .error ()

/-- The first binding whose pairing fails. -/
def pairErr (s : State) (asid : Nat) (d : Desc) : Option LoadErr :=
  firstSome (fun n => match pairing s asid d n with
    | .error _ => some { sec := 9, rec' := n }
    | .ok _ => none) (upto d.binds.length)

/-- Pair a residency's bindings, on both sides. -/
def pairAll (h : Nat) (d : Desc) (asid : Nat) (s : State) : State :=
  (upto d.binds.length).foldl (fun s n => match pairing s asid d n with
    | .ok (some (h', n')) =>
      (s.modRes h (fun r => { r with peers := put n (h', n') r.peers })).modRes h' (fun r => { r with peers := put n' (h, n) r.peers })
    | _ => s) s

/-! ### Activation (R387) -/

/-- Static depths of a block's slots, as its tile keeps them. -/
def slotDepths (m : DepthMap) (b : Block) : SMap Nat :=
  b.instrs.foldl (fun acc e => match slotDepthOf m b e.1 e.2 with
    | some v => put e.1 v.toNat acc
    | none => acc) []

/-- Covers of a block's edges, as its tile keeps them: location plus one. -/
def slotCovers (d : Desc) (es : List Edge) (b : Block) : SMap Nat :=
  let ps := b.instrs.flatMap (fun e => (uses e.2).map (fun q => (posEdge e.1 q, Loc.pos b.qx b.qy b.t e.1 q.num)))
  let cs := b.bank.chans.map (fun c => (chanEdge c.ch, Loc.chan b.qx b.qy b.t c.ch))
  (ps ++ cs).foldl (fun acc e => match coverOf d es e.2 with
    | some n => put e.1 (n + 1) acc
    | none => acc) []

/-- An AT at activation: its banks swap, its registers are at reset but DETSEED. -/
def AT.activate (a : AT) (h : Nat) (d : Desc) (m : DepthMap) (es : List Edge) (b : Option Block) : AT :=
  { active := if a.next = some h then a.inactive else {}, inactive := a.active, res := some h, w := a.w, a := a.a, q := a.q,
    node := a.node.slewOnly, detseed := d.seed, sdepth := (b.map (slotDepths m)).getD [], cover := (b.map (slotCovers d es)).getD [] }

/-- A typed-buffer image (R82). -/
def loadTbi (r : Res) (i : TbImage) (s : State) : State :=
  s.modAt (resTile r i.qx i.qy i.t) (fun a =>
    let bs := fitBytes i.size i.image
    if i.buf = 0 then { a with w := writeBytes a.w i.off bs }
    else if i.buf = 1 then { a with a := writeBytes a.a i.off bs }
    else { a with q := writeBytes a.q i.off bs })

/-- A combine unit at activation: head and slot heads free, the declared configuration in force (R312). -/
def loadCmb (h : Nat) (r : Res) (c : CmbDecl) (s : State) : State :=
  let (w0, w1) := declWords c
  let cfg := cmbCfg w0 w1
  let mt := resTile r c.qx c.qy 3
  let u : Cmb := { h := h, base := c.base, ret := c.ret, det := r.desc.det, foot := cfg.foot }
  let s := scrPut r s c.base (zeros 32 ++ leBytes 8 w0 ++ leBytes 8 w1 ++ zeros 208)
  freeHeads ⟨mt, h, r, u, cfg⟩ cfg.n (s.modMt mt (fun t => { t with cmb := some u }))

/-- Add posts to a tracker directly. -/
def addCounts (trk : Nat) (ps : List Post) (s : State) : Option State :=
  (applyBatch s trk ps (getD {} trk s.trackers)).map (fun t => { s with trackers := put trk t s.trackers })

/-- Tracker of a quad of a residency. -/
def quadTracker (r : Res) (x y : Nat) : Nat := quadNum r.die (r.x0 + x) (r.y0 + y)

/-- The launch argument's token (R67, R166). -/
def argToken (r : Res) : Token :=
  let k := resTile r r.desc.eqx r.desc.eqy 3
  ⟨sportOf r k 3, 0, .data, .n64, BitVec.ofNat 64 (r.epb * 2 ^ 44), leBytes 8 r.larg.toNat, false, []⟩

/-- A new residency in its region. -/
def newRes (s : State) (h : Nat) (d : Desc) : Res :=
  let t := s.task h
  let es := graphEdges d
  let m := depths d
  let hubs := hubList d m
  { desc := d, asid := t.asid, tmpl := t.tmpl, rid := ridOf s h, die := t.die, x0 := t.rx, y0 := t.ry, epb := t.epb,
    larg := t.arg, running := true, since := s.cycle, 
    ldepth := d.locs.map (locDepth d m) ++ hubs.map (fun l => match (mixedUses d m).find? (fun u => hubOf u.2.2.1 u.2.1 == l) with
      | some u => u.2.2
      | none => (0, []))
    hubs := hubs.map (fun l => let v := reachFrom es l; ⟨l, d.locs.map (Reach.get v)⟩)
    ecover := (places d).filterMap (fun l => match l with
        | .copy _ _ | .cmb _ _ => (coverOf d es l).map (fun n => (l, n))
        | _ => none)
      ++ (mixedUses d m).filterMap (fun u =>
        (hubs.findIdx? (fun l => l == hubOf u.2.2.1 u.2.1)).map (fun n => (u.1, d.locs.length + n))) }

/-- Steps 3 to 5 of R387. -/
def startRes (h : Nat) (d : Desc) (s : State) : Option State :=
  let r := newRes s h d
  let es := graphEdges d
  let m := depths d
  let s := { s with res := put h r s.res }
  let s := d.quads.foldl (fun s q => (upto 3).foldl (fun s t =>
    s.modAt (resTile r q.1 q.2 t) (fun a => a.activate h d m es (d.blockAt q.1 q.2 t))) s) s
  let s := (mtsOf d r.die r.x0 r.y0).foldl (fun s k => s.modMt k MT.vacate) s
  let s := d.tbi.foldl (fun s i => loadTbi r i s) s
  let s := d.scr.foldl (fun s i => scrPut r s i.off (fitBytes i.size i.image)) s
  let s := giveLanes h r (d.combines.foldl (fun s c => loadCmb h r c s) s)
  let k := resTile r d.eqx d.eqy d.etl
  let a := s.at k
  let ps := postAt a (d.esl * 3 + d.eps) (argToken r).time 1
  match ((addCounts (quadTracker r d.eqx d.eqy) ps s).bind (addCounts (480 + r.die) ps)).bind (addCounts 484 ps) with
  | none => none
  | some s => some (s.setAt k (a.takeToken d.esl (posOf d.eps) (argToken r)))

/-- A tile at restore: the frozen state under the bank that was loaded; the node asks for a grant afresh in its new domain, whose
grants stand as they are (R269, R272, R404). -/
def AT.restore (a im : AT) : AT :=
  { im with
    active := a.inactive
    inactive := a.active
    next := none
    fired := []
    node := { im.node with grant := a.node.grant, filling := a.node.filling } }

/-- The counts that the package root parks for a residency, with the quad each belongs to (R404). -/
def parkedPosts (s : State) (h : Nat) (r : Res) : List (Nat × Post) :=
  let t := getD {} 484 s.trackers
  ((t.exact ++ t.spill).filter (fun c => c.res == h)).map (fun c =>
    let q := ((r.locAt c.loc).bind locQuad).getD (r.desc.eqx, r.desc.eqy)
    (quadTracker r q.1 q.2, ⟨c.res, c.loc, c.time, c.n⟩))

/-- R371: the tiles of a region begin with empty windows at every owner. -/
def freshWindows (r : Res) (s : State) : State :=
  let mine (port : Nat) : Bool := (atsOf r.desc r.die r.x0 r.y0 ++ mtsOf r.desc r.die r.x0 r.y0).contains (port / 4)
  { s with homes := s.homes.map (fun e => (e.1, { e.2 with windows := e.2.windows.filter (fun w => !mine w.1) })) }

/-- R404: the frozen image takes the place of the template's images; backing queues are written again in order (R150). -/
def restoreRes (h : Nat) (r0 : Res) (im : Image) (s : State) : Option State :=
  let t := s.task h
  let r := { r0 with die := t.die, x0 := t.rx, y0 := t.ry, running := true, since := s.cycle,
                     backq := r0.backq.map (fun e => (e.1, { e.2 with head := 0, stored := 0 })) }
  let f := moveKey im r
  let s := { s with
    res := put h r s.res
    images := del h s.images
    faults := { s.faults with disps := s.faults.disps.map (fun q =>
      if s.faults.table.any (fun o => o.fr.fid == q.fid && o.fr.rid == ridOf s h) then { q with held := false } else q) } }
  let s := giveLanes h r (freshWindows r (moveOutside h f s))
  let s := im.ats.foldl (fun s e => s.modAt (f e.1) (fun a => a.restore e.2)) s
  let s := im.mts.foldl (fun s e => s.setMt (f e.1) (e.2.moved h f)) s
  let ps := parkedPosts s h r
  let quads := dedup (ps.map (·.1))
  match quads.foldl (fun (o : Option State) q => o.bind (addCounts q ((ps.filter (fun p => p.1 == q)).map (·.2)))) (some s) with
  | none => none
  | some s => addCounts (480 + r.die) (ps.map (·.2)) s

/-- Whether the region a record claimed is its own and quiet (R387, R388). -/
def regionReady (s : State) (h : Nat) (t : Task) (d : Desc) : Bool :=
  d.quads.all (fun q => (quadUsers s t.die (t.rx + q.1) (t.ry + q.2)).all (fun e => e.1 == h))
    && (atsOf d t.die t.rx t.ry).all (fun k => (s.at k).quiet) && (mtsOf d t.die t.rx t.ry).all (fun k => (s.mt k).quiet)

/-- Whether restore refuses what stands in a record's save area (R86). -/
def saveRefused (s : State) (h : Nat) (d : Desc) : Bool := match get? (ridOf s h) s.saved with
  | some b => !restoreTakes d.w d.h b
  | none => false

/-- R387, R404: every bank is valid and the region is quiet: the residency activates, or its frozen state is restored; an image that R86 has
restore refuse ends the load with LOADCHK (DEDUCED, log 28). -/
def execActivation (h : Nat) (s : State) : Result :=
  let t := s.task h
  match taskDesc s h with
  | none => .next s
  | some d =>
    if t.state != .loading || t.freezing.isSome || t.loaded ≠ d.blocks.length || !regionReady s h t d then .next s
    else
      let go (s : State) : State := (s.modTask h (fun t => { t with state := .active, image := false })).act
      match get? h s.images, get? h s.res with
      | some im, some r => if saveRefused s h d then .next (failLoad h d { sec := 0x10 } s).act else (match restoreRes h r im s with
        | some s' => .next (go s')
        | none => .next s)
      | _, _ => match pairErr s t.asid d with
        | some e => .next (failLoad h d e s).act
        | none => match startRes h d s with
          | some s' => .next (go { (pairAll h d t.asid s') with images := del h s'.images })
          | none => .next s

end Sys2Proof.Machine
end

