-- ==== Sys2Proof/Machine/Snapshot.lean ====
section
/-! DEFINITION. The package snapshot controller (R405 to R410). -/

namespace Sys2Proof.Machine

/-! ### The descriptor (R406) -/

def snapRanges (m : Msg) : Nat := bits (m.body.getD 0 0).toNat 59 5 + 1
def snapProbe (m : Msg) : Nat := bits (m.body.getD 0 0).toNat 53 6
def snapScope (m : Msg) : Nat := bits (m.body.getD 0 0).toNat 50 3

/-- Quad of a snapshot's issuer: the slot's, or the one its command names. -/
def snapQuad (m : Msg) : Nat := match m.src with
  | .slot k _ => quadOf k
  | .core _ _ => m.snum

/-- The failing word of a snapshot descriptor. -/
def snapBad (r : Res) (m : Msg) : Option Nat :=
  let w (i : Nat) : Nat := (m.body.getD i 0).toNat
  let q := snapQuad m
  if m.past || m.body.length < 4 + 2 * snapRanges m then some m.body.length
  else if bits (w 0) 0 50 ≠ 0 then some 0
  else match r.desc.probe (snapProbe m) with
    | none => some 0
    | some p =>
      if decide (snapScope m < 2) || decide (snapScope m > 5)
          || !scopeHolds r.desc (keyX (4 * q) - r.x0) (keyY (4 * q) - r.y0) p.loc (snapScope m) then some 0
      else if w 1 % 65536 ≠ 0 then some 1
      else if w 3 ≠ 0 then some 3
      else (upto (snapRanges m)).findSome? (fun i =>
        if w (4 + 2 * i) % 65536 ≠ 0 then some (4 + 2 * i)
        else if w (5 + 2 * i) = 0 || decide (w (5 + 2 * i) ≥ 2 ^ 32) then some (5 + 2 * i) else none)

/-- Pages of the ranges from `i` on, with their destinations. -/
def snapPages (m : Msg) : Nat → Nat → Nat → List SnapPage
  | 0, _, _ => []
  | n + 1, i, done =>
    let va := (m.body.getD (4 + 2 * i) 0).toNat
    let len := (m.body.getD (5 + 2 * i) 0).toNat
    (upto len).map (fun p => { src := va + 65536 * p, dst := (m.body.getD 1 0).toNat + 65536 * (done + p) })
      ++ snapPages m n (i + 1) (done + len)

/-- Hold a SNAP with RANGE and the descriptor-error bit: at its slot, or at the controller for a core's command. -/
def holdSnap (r : Res) (m : Msg) (word : Nat) (s : State) : State :=
  let mt := 4 * snapQuad m + 3
  let f := msgRec s r mt m .range (descGen word)
  let f := match m.src with
    | .slot _ _ => { f with hkind := 0, hdie := 0, hunit := 0 }
    | .core _ _ => { f with place := .snapshot, die := 0, qx := 0, qy := 0, tile := 0, hkind := 0, hdie := 0, hunit := 0 }
  (markSlot m (· ++ [m.id]) { s with held := put m.id ⟨m, mt⟩ s.held }).raise f

/-- R407: without a snapshot in progress, the oldest SNAP is checked, and its pages are marked at every home: the untimed
cut. -/
def execSnapshotRequest (s : State) : Result :=
  match s.snap, s.snapq with
  | none, m :: rest =>
    match runRes s m.h with
    | none => .next s
    | some r =>
      let s1 := { s with snapq := rest }
      match snapBad r m with
      | some w => .next (holdSnap r m w s1).act
      | none => .next ({ s1 with
          snap := some
            { msg := m, cut := m.body.getD 2 0, prb := snapProbe m, scp := snapScope m,
              pages := snapPages m (snapRanges m) 0 0 } }).act
  | _, _ => .next s

/-- R407: every home has marked: T0 has its pulse. -/
def execSnapshotMarked (s : State) : Result :=
  match s.snap with
  | none => .next s
  | some n =>
    if n.marked || (runRes s n.msg.h).isNone then .next s
    else match reply n.msg [pulseOut n.msg.time n.msg.t0] { s with snap := some { n with marked := true } } with
      | none => .next s
      | some (s1, ps) => .next (match n.msg.src with
        | .slot k _ => s1.post k ps
        | .core _ _ => s1).act

/-! ### Copying (R407) -/

/-- The 256-byte elements of a page's read (role 0) or write (role 1). -/
def pageElts (va : Nat) (write : Bool) : List Elt :=
  (upto 256).map (fun i =>
    { space := .virt, addr := va + 256 * i, n := 256, posn := 256 * i,
      aux := if write then (upto 256).map (fun j => 256 * i + j) else [] })

/-- A request of the controller for page `p`. -/
def snapReq (n : Snap) (p role : Nat) (g : SnapPage) : Req :=
  { h := n.msg.h, org := .snap p role, op := if role = 0 then .load else .store, time := n.msg.time, size := 256,
    elts := pageElts (if role = 0 then g.src else g.dst) (role == 1), bc := n.msg.bc }

/-- Whether a write is held for a page. -/
def pageWanted (s : State) (g : SnapPage) : Bool :=
  s.reqs.any (fun e => e.2.elts.any (fun x => x.st == .paged && x.addr / 65536 * 65536 == g.src))

/-- The next page: pending ones with held writers first, then ascending VA. -/
def nextPage (s : State) (pages : List SnapPage) : Option Nat :=
  let ps := pages.zipIdx.filter (fun e => e.1.pending)
  let least (l : List (SnapPage × Nat)) : Option Nat :=
    ((sortBy (fun a b => decide (a.1.src < b.1.src)) l).head?).map (·.2)
  match least (ps.filter (fun e => pageWanted s e.1)) with
  | some i => some i
  | none => least ps

/-- Start copying page `p`. -/
def startPage (n : Snap) (p : Nat) (s : State) : State :=
  match n.pages[p]? with
  | none => s
  | some g =>
    let (_, s) := s.newReq (snapReq n p 0 g)
    let (_, s) := s.newReq (snapReq n p 1 g)
    { s with snap := some { n with pages := n.pages.set p { g with copying := true } } }

/-- The tracker at which the cut is read: that of the scope; of a frozen issuer the root, which parks its counts (R402, R408). -/
def cutTracker (s : State) (n : Snap) : Nat :=
  if (get? n.msg.h s.images).isSome then 484 else scopeTracker n.scp (snapQuad n.msg)

/-- R407: the probe's frontier at the scope passes the cut: the first page is copied. -/
def execSnapshotCut (s : State) : Result :=
  match s.snap with
  | none => .next s
  | some n =>
    if !n.marked || n.passed || !passes (frontier s (cutTracker s n) n.msg.h n.prb) n.cut.toNat
    then .next s
    else
      let n := { n with passed := true }
      match nextPage s n.pages with
      | none => .next ({ s with snap := some n }).act
      | some p => .next (startPage n p s).act

/-- Held writers of a page go on, in the order in which they arrived: their numbers keep it (R407), and what arrives later waits for them. -/
def releasePage (src : Nat) (s : State) : State :=
  { s with reqs := s.reqs.map (fun e => (e.1,
      { e.2 with elts := e.2.elts.map (fun x =>
          if x.st == .paged && x.addr / 65536 * 65536 == src then { x with st := .home, rel := true } else x) })) }

/-- The request of a page's copy. -/
def snapCopy (s : State) (p role : Nat) : Option (Nat × Req) :=
  s.reqs.find? (fun e => match e.2.org with
    | .snap p' role' => p' == p && role' == role
    | _ => false)

/-- Drop the controller's requests. -/
def dropSnapReqs (s : State) : State :=
  { s with reqs := s.reqs.filter (fun e => match e.2.org with
      | .snap _ _ => false
      | _ => true) }

/-- End the snapshot: T1, the pointstamp, the command's completion. -/
def endSnap (n : Snap) (outs : List Out) (aborted : Bool) (s : State) : Option State :=
  let s := dropSnapReqs { s with snap := none }
  (reply n.msg outs s).map (fun e => coreDone n.msg aborted (match n.msg.src with
    | .slot k _ => e.1.post k (ownPost n.msg (-1) ++ e.2)
    | .core _ _ => e.1))

/-- R407: a page's last byte is performed; its writers are released and the next page is copied; after the last one T1 has
its pulse. -/
def execSnapshotPageCopied (page : Nat) (s : State) : Result :=
  match s.snap with
  | none => .next s
  | some n =>
    match n.pages[page]?, snapCopy s page 1 with
    | some g, some (_, w) =>
      if !g.copying || !(w.elts.all (fun e => e.st == .done)) then .next s
      else
        let n := { n with pages := n.pages.set page { g with pending := false, copying := false } }
        let s1 := releasePage g.src (dropSnapReqs s)
        match nextPage s1 n.pages with
        | some p => .next (startPage n p s1).act
        | none =>
          if (runRes s n.msg.h).isNone then .next s
          else match endSnap n [pulseOut n.msg.time n.msg.t1] false s1 with
            | some s2 => .next s2.act
            | none => .next s
    | _, _ => .next s

/-- R409: ABORT ends the snapshot: pages are cleared, writers released, T1 has end-of-stream, and the cut is marked failed. -/
def abortSnap (s : State) : Option State :=
  match s.snap with
  | none => some s
  | some n =>
    let s1 := n.pages.foldl (fun s g => releasePage g.src s) s
    (endSnap n [markerOut 5 n.msg.time n.msg.t1] true s1).map (fun s => s.markFailed n.msg.h n.cut)

end Sys2Proof.Machine
end

