-- ==== Sys2Proof/Machine/Faults.lean ====
section
/-! DEFINITION. The package fault controller and dispositions (R102, R107, R129, R134, R153, R186, R282, R366, R390 to R397,
R409, R426, R427, R464). -/

namespace Sys2Proof.Machine

/-! ### Record images (R391) -/

def Place.code : Place → Nat
  | .at => 0 | .mt => 1 | .pt => 2 | .lt => 3 | .lane => 4 | .dispatcher => 5 | .loader => 6 | .snapshot => 7

def Disp.code : Disp → Nat
  | .retry => 1 | .skip => 2 | .abort => 3

/-- The 128 bytes of a record. -/
def FRec.bytes (f : FRec) : List Byte :=
  leBytes 1 f.cls.code ++ leBytes 1 f.fflg ++ leBytes 2 f.asid ++ leBytes 4 f.fid ++ leBytes 4 f.rid
    ++ leBytes 1 f.place.code ++ leBytes 1 f.die ++ leBytes 1 f.qx ++ leBytes 1 f.qy ++ leBytes 1 f.tile
    ++ leBytes 1 f.slot ++ leBytes 1 f.lane ++ leBytes 1 ((f.disp.map Disp.code).getD 0) ++ leBytes 4 f.stat
    ++ leBytes 8 f.time.toNat ++ leBytes 8 f.addr.toNat
    ++ (upto 10).flatMap (fun i => leBytes 4 (f.gen.getD i 0))
    ++ leBytes 1 f.hkind ++ leBytes 1 f.hdie ++ leBytes 1 f.hunit ++ zeros 45

/-! ### Entry (R393) -/

/-- The next fault id from n on that no open record has; 0 is skipped. -/
def freeFid (t : List Open) : Nat → Nat → Nat
  | 0, n => n
  | k + 1, n => if n = 0 || t.any (fun o => o.fr.fid == n) then freeFid t k ((n + 1) % 2 ^ 32) else n

/-- Key of the AT that a record names, while its residency stands in its region. -/
def recTile (s : State) (f : FRec) : Option Nat :=
  let h := idIndex f.rid
  let st := (s.task h).state
  if f.place == .at && !staleId s f.rid && (st == .active || st == .draining) then
    (get? h s.res).map (fun r => resTile r f.qx f.qy f.tile)
  else none

def State.modFaults (s : State) (f : FaultCtl → FaultCtl) : State := { s with faults := f s.faults }

/-- R393: the oldest record on its way enters the table: its FID, FAULTST and FAULTAD of the AT. -/
def execFaultRecordEntry (s : State) : Result :=
  match s.faults.incoming with
  | [] => .next s
  | f :: rest =>
    if s.faults.table.length ≥ 1024 then .next s
    else
      let fid := freeFid s.faults.table 1025 s.faults.nextFid
      let f := { f with fid := fid }
      let s1 := s.modFaults (fun c =>
        { c with
          incoming := rest
          table := c.table ++ [({ fr := f, since := s.cycle } : Open)]
          nextFid := (fid + 1) % 2 ^ 32
          migrating := if f.cls == .migrating then c.migrating + 1 else c.migrating })
      .next (match recTile s f with
        | some k => s1.modAt k (fun a =>
            { a with faultst := BitVec.ofNat 64 (f.cls.code * 2 ^ 48 + f.slot * 2 ^ 40 + fid), faultad := f.addr })
        | none => s1).act

/-! ### Delivery (R394, R395, R427) -/

/-- The claim entry of a record's ASID and class. -/
def claimOf (s : State) (f : FRec) : Nat := getD 0 (16 * f.asid + f.cls.code) s.faults.claim

/-- A receiver: the core, or the host where none. -/
abbrev Receiver := Option Nat

/-- Whom a record still has to reach: the first receiver of HND, or the host after escalation. -/
def pendingTo (s : State) (o : Open) : Option Receiver :=
  if o.core.isNone && !o.host then
    let c := claimOf s o.fr
    some (if c % 4 = 1 || c % 4 = 3 then some (bits c 2 5) else none)
  else if o.esc && !o.host then some none
  else none

/-- Whether a migration's record waits for R102. -/
def unripe (s : State) (o : Open) : Bool :=
  o.fr.cls == .migrating && o.core.isNone && !o.host && decide (s.cycle ≤ o.since + s.faults.claimto)

/-- Whether a record is the first of its receiver's. -/
def firstFor (s : State) (o : Open) (to' : Receiver) : Bool :=
  ((s.faults.table.find? (fun x => !unripe s x && pendingTo s x == some to')).map (fun x => x.fr.fid == o.fr.fid)).getD false

/-- A set whose protocol's major differs: nothing is served on it (R428). -/
def HostSt.silent (h : HostSt) (set : Nat) : Bool := getD 0 set h.mbver == 0xFFFF

/-- The host address of the lowest enabled mailbox set. -/
def faultSet (s : State) : Option Nat :=
  ((upto 8).find? (fun i => bit (getD 0 i s.host.mbbase).toNat 0 && !s.host.silent i)).map (fun i => bits (getD 0 i s.host.mbbase).toNat 14 50 * 2 ^ 14)

/-- Producer and consumer index of ring r of a set: 0 host to device, 1 device to host, 2 faults. -/
def ringProd (s : State) (base r : Nat) : Nat := readNat s.host.mem (base + 8 + 8 * r) 4
def ringCons (s : State) (base r : Nat) : Nat := readNat s.host.mem (base + 12 + 8 * r) 4

/-- A record joins the fault ring, before its producer index; `none` while no set is enabled or the ring is full. -/
def toFaultRing (f : FRec) (s : State) : Option State := match faultSet s with
  | none => none
  | some base =>
    let p := ringProd s base 2
    if (p + 2 ^ 32 - ringCons s base 2) % 2 ^ 32 ≥ 64 then none
    else
      let m := writeBytes s.host.mem (base + 0x2000 + 128 * (p % 64)) f.bytes
      some { s with host := { s.host with mem := writeNat m (base + 8 + 16) 4 ((p + 1) % 2 ^ 32) } }

/-- A token of the fault class for a core (R395, R424). -/
def faultTake (n : Nat) (f : FRec) : Take :=
  let v := (Config.queueToken n).toNat
  { cls := 12, code := bits v 28 16, asid := f.asid, handle := f.fid,
    tok := ⟨BitVec.ofNat 12 v, BitVec.ofNat 16 (bits v 12 16), .data, .b64, f.time, leBytes 8 (bits v 44 64), false, []⟩ }

/-- Change an open record. -/
def modOpen (fid : Nat) (f : Open → Open) (s : State) : State :=
  s.modFaults (fun c => { c with table := c.table.map (fun o => if o.fr.fid = fid then f o else o) })

def dropOpen (fid : Nat) (s : State) : State :=
  s.modFaults (fun c => { c with table := c.table.filter (fun o => o.fr.fid != fid) })

/-- Deliver an open record to its receiver; a report closes with its delivery to the host. -/
def deliverOpen (o : Open) (s : State) : Option State := match pendingTo s o with
  | none => none
  | some to' =>
    if !firstFor s o to' then none
    else match to' with
      | some c =>
        let (n, s) := s.draw
        some (modOpen o.fr.fid (fun x => { x with core := some c, since := s.cycle }) (s.giveCore c (faultTake n o.fr)))
      | none => (toFaultRing o.fr s).map (fun s =>
          if o.fr.isHold then modOpen o.fr.fid (fun x => { x with host := true }) s else dropOpen o.fr.fid s)

def openOf (s : State) (fid : Nat) : Option Open := s.faults.table.find? (fun o => o.fr.fid == fid)

/-- R395: a record reaches its receiver, in the order of entry; the copy owed under HND 11 reaches the fault ring. -/
def execFaultDelivery (fid : Nat) (s : State) : Result :=
  match s.faults.copies with
  | f :: rest =>
    if f.fid = fid then
      match toFaultRing f (s.modFaults (fun c => { c with copies := rest })) with
      | some s' => .next s'.act
      | none => .next s
    else single
  | [] => single
where
  single : Result := match openOf s fid with
    | none => .next s
    | some o =>
      if o.fr.cls == .migrating && o.core.isNone && !o.host then .next s
      else match deliverOpen o s with
        | some s' => .next s'.act
        | none => .next s

/-- R102: a migration that lasts longer than the claim time-out is delivered. -/
def execMigratingDelivery (fid : Nat) (s : State) : Result :=
  match openOf s fid with
  | none => .next s
  | some o =>
    if o.fr.cls != .migrating || o.core.isSome || o.host || unripe s o then .next s
    else match deliverOpen o s with
      | some s' => .next s'.act
      | none => .next s

/-- R395: no disposition by the end of cycle c + CLAIMTO: STAT[0] is set and the host receives the record next. -/
def execClaimEscalation (fid : Nat) (s : State) : Result :=
  match openOf s fid with
  | none => .next s
  | some o =>
    if o.core.isNone || o.esc || !o.fr.isHold || decide (s.cycle ≤ o.since + s.faults.claimto)
        || s.faults.disps.any (fun q => q.fid == fid && q.core == o.core) then .next s
    else .next (modOpen fid (fun o => { o with esc := true, fr := { o.fr with stat := o.fr.stat ||| 1 } }) s).act

/-! ### Dispositions at a slot (R186, R414, R464) -/

/-- What a held firing consumes. -/
def slotEat (a : AT) (slot : Nat) (t : Time) (i : Instr) : List Pos := match i with
  | .repeat _ => (match a.stream slot t with
    | some ks => List.replicate ks.length Pos.l ++ [Pos.r]
    | none => [.l, .r])
  | _ => ((a.matched slot t (uses i) (eitherFires i)).getD []).map (·.1)

/-- A slot after its held firing has ended: no generator, no cursor. -/
def Slot.ended (x : Slot) : Slot :=
  { x with hold := none, gen := none, index := 0, tokIdx := 0, curL := 0, curR := 0, lastL := none, lastR := none,
           part := [], pskip := [], pbad := false, subst := none, sword := none }

/-- A WAITF whose released times are all consumed registers again (R341). -/
def Slot.rewait (x : Slot) (ks : List Token) : Slot := match x.wait with
  | some w => (match w.freed with
    | some f => if ks.any (fun k => passes (f.map BitVec.toNat) k.time.toNat) then x else { x with wait := none }
    | none => x)
  | none => x

/-- End a held firing: it consumes its tokens and sends these. -/
def endSlot (r : Res) (k slot : Nat) (t : Time) (i : Instr) (outs : List Out) (s : State) : Option State :=
  let a := s.at k
  let p := pipeOf i
  let s1 := s.setAt k { a.modSlot slot Slot.ended with seqs := upd 0 p.port (fun n => (n + 1) % 2 ^ 16) a.seqs }
  match sendAll s1 k (sportOf r k p.port) (a.seqOf p) outs with
  | none => none
  | some (s2, ps) =>
    let (b, cs) := consume (s2.at k) slot t (slotEat a slot t i)
    let b := b.modSlot slot (fun x => x.rewait (b.posToks slot .l))
    some ((s2.setAt k b).post k (cs ++ ps))

/-- Change the earliest token of time t in a position. -/
def mapHead (t : Time) (f : Token → Token) : List Token → List Token
  | [] => []
  | k :: ks => if k.time = t then f k :: ks else k :: mapHead t f ks

def AT.mapTok (a : AT) (slot : Nat) (q : Pos) (t : Time) (f : Token → Token) : AT :=
  { a with pos := upd [] (posEdge slot q) (mapHead t f) a.pos }

/-- SKIP of a slot hold that leaves the tokens in place: the slot is evaluated again. -/
def skipAgain (fx : SkipFx) (slot : Nat) (t : Time) (a : AT) : AT :=
  let a := a.modSlot slot (fun x => { x with hold := none })
  match fx with
  | .none => a
  | .lane pos lane => a.mapTok slot (posOf pos) t (fun k => { k with data := spliceBytes k.data (8 * lane) (List.replicate 4 0xFF) })
  | .row i => a.modSlot slot (fun x => { x with pskip := x.pskip ++ [i] })
  | .discard => a.modSlot slot (fun x => { x with part := [], pbad := true })
  | .subst => a.modSlot slot (fun x => { x with subst := some t, sword := none })
  | .word byte => a.modSlot slot (fun x => { x with subst := some t, sword := some byte })
  | .clean pos => a.mapTok slot (posOf pos) t (fun k => { k with data := zeros k.data.length, bad := false })

/-- A disposition ends a slot's hold; `none` while a target cannot take what it sends. -/
def slotDisp (k slot : Nat) (d : Disp) (s : State) : Option State :=
  let a := s.at k
  match (a.slot slot).hold, a.res, a.active.instr slot with
  | some hd, some h, some i =>
    match get? h s.res with
    | none => some s
    | some r =>
      match d with
      | .retry => (match hd.onRetry with
        | none => some (s.setAt k (a.modSlot slot (fun x => { x with hold := none })))
        | some outs => endSlot r k slot hd.time i outs s)
      | .skip =>
        if hd.skipFx == .none then endSlot r k slot hd.time i hd.onSkip s
        else some (s.setAt k (skipAgain hd.skipFx slot hd.time a))
      | .abort => (endSlot r k slot hd.time i hd.onAbort s).map (fun s => s.markFailed h hd.time)
  | _, _, _ => some s

/-! ### Dispositions at a generator context (R153) -/

def agenDisp (k ctx : Nat) (d : Disp) (s : State) : Option State :=
  let a := s.at k
  match get? ctx a.agens, a.res with
  | some g, some h =>
    match get? h s.res, (a.active.instr g.slot).bind instrHd with
    | some r, some hd =>
      if !g.held then some s
      else match d with
        | .retry => some (s.setAt k { a with agens := put ctx { g with held := false, word := none } a.agens })
        | .skip =>
          let g := { g with held := false }
          some (s.setAt k { a with agens := put ctx (if g.word.isSome then g else rowEnd hd g) a.agens })
        | .abort =>
          (sendAll (s.setAt k { a with agens := del ctx a.agens }) k (sportOf r k 1) g.seq
            [markerOut 5 g.time hd.t0, markerOut 5 g.time hd.t1]).map (fun e =>
              (e.1.post k (e.2 ++ postAt a (posEdge g.slot .l) g.time (-1))).markFailed h g.time)
    | _, _ => some s
  | _, _ => some s

/-! ### Dispositions at a memory request (R107, R129, R282, R366, R397, R409) -/

/-- An element that brings zeros or is dropped. -/
def Elt.skipped (e : Elt) : Elt := { e with st := .done, dropped := true, data := zeros e.n }

/-- SKIP of an element: whole; of uncorrectable data only the bad word, which reads as zero or stays unchanged (R397); a time-committed
load's words have all been read by then. -/
def Elt.skip (e : Elt) (op : ROp) (cls : FClass) (o : Nat) : Elt :=
  let w := e.wordOf o
  let clear := spliceBytes (fitBytes e.n e.data) (e.wordOff w) (zeros (e.wordLen w))
  if cls == .uncorr && op == .loadTc then { e with st := .done, data := clear }
  else if cls == .uncorr && decide (e.nwords > 1) then
    ({ e with st := .home, data := if op == ROp.load then clear else e.data }).didWord w
  else e.skipped

/-- Whether an engine's context has been aborted. -/
def ctxFailed (s : State) (mt ctx : Nat) (strm : Bool) : Bool :=
  if strm then ((get? ctx (s.mt mt).sctx).map (·.failed)).getD false
  else ((get? ctx (s.mt mt).cctx).map (·.failed)).getD false

/-- No further part of an aborted context's requests is performed; elements that hold keep their holds. -/
def dropCtxElts (mt ctx : Nat) (strm : Bool) (s : State) : State :=
  { s with reqs := s.reqs.map (fun e => match e.2.org with
      | .engine mt' ctx' strm' _ _ =>
        if mt' = mt && ctx' = ctx && strm' == strm then (e.1, { e.2 with elts := e.2.elts.map (fun x => match x.st with
          | .held _ | .done => x
          | _ => x.skipped) })
        else e
      | _ => e) }

/-- A context fails. -/
def failCtx (mt ctx : Nat) (strm : Bool) (s : State) : State :=
  s.modMt mt (fun m => if strm
    then { m with sctx := m.sctx.map (fun e => if e.1 = ctx then (e.1, { e.2 with failed := true, held := false }) else e) }
    else { m with cctx := m.cctx.map (fun e => if e.1 = ctx then (e.1, { e.2 with failed := true }) else e) })

/-- A slot's or stream's time is marked failed; a core's command has none. -/
def failMsg (m : Msg) (s : State) : State := match m.src with
  | .slot _ _ => s.markFailed m.h m.time
  | .core _ _ => s

/-- ABORT of a request: its slot, copy, stream, lane or snapshot ends. -/
def abortReq (id : Nat) (q : Req) (s : State) : Option State := match q.org with
  | .slot _ _ => some ((s.setReq id { q with dead := true }).markFailed q.h q.time)
  | .engine mt ctx strm _ _ =>
    let s := dropCtxElts mt ctx strm (failCtx mt ctx strm s)
    some (match ctxMsg s mt ctx strm with | some m => failMsg m s | none => s)
  | .syn h bind sig =>
    let k := synKey h bind
    (match get? sig (s.syn k).streams with
    | some v => some (failMsg v.msg (({ s with reqs := del id s.reqs }).setStream k sig { v with failed := true, read := none, later := none }))
    | none => some s)
  | .snap _ _ => abortSnap s

/-- What follows when an element of a request has been skipped or dropped. -/
def afterSkip (id i : Nat) (s : State) : State := match get? id s.reqs with
  | none => s
  | some q => match q.org with
    | .engine mt ctx strm _ 1 => if ctxFailed s mt ctx strm then s else burstDone id i s
    | .slot _ _ => if detUpdate s q i then movePend id s else s
    | _ => s

/-- SKIP at a snapshot's page: its destination is zeros (R409). The page reads as zeros, and what had been written of it is written again; where
it is the destination that holds, what has not been written is dropped. Other holds of the page close. -/
def skipPage (q : Req) (s : State) : State :=
  let mine (e : Nat × Req) : Bool := e.2.org.together q.org
  let write (r : Req) : Bool := match r.org with | .snap _ role => role == 1 | _ => false
  let again (e : Elt) : Elt := match e.st with
    | .done => if e.dropped then e else { e with st := .new, words := [] }
    | _ => if write q then e.skipped else e
  let s := { s with reqs := s.reqs.map (fun e =>
    if mine e then (e.1, { e.2 with elts := e.2.elts.map (if write e.2 then again else Elt.skipped) }) else e) }
  (s.reqs.filter mine).foldl (fun s e => (upto e.2.elts.length).foldl (fun s i =>
    if (e.2.elts[i]?.map Elt.isHeld).getD false then s else closeElt e.1 i false s) s) s

/-- RETRY of an element: it is issued afresh, in its place in its stream's order (R107); an update's words that have been applied stay so. Its PT walks the tables again, and asks the
host again for a revoked address (R103, R104). -/
def retryElt (id i : Nat) (q : Req) (e : Elt) (cls : FClass) (s : State) : State :=
  let e := { e with
    st := .new
    words := if q.op.isUpdate then e.words else []
    aux := if q.op == .loadTc then [] else e.aux
    tbl := false
    again := cls == .revoked }
  let s := s.setReq id { q.setElt i e with since := s.cycle }
  let p := ingressPt (q.org.tile s)
  if e.space == .virt then s.modPt p (fun t => { t with trans := t.trans.filter (fun x =>
      !(x.h == q.h && decide (x.va ≤ e.addr) && decide (e.addr < x.va + x.size) && !x.host)) })
  else issueElts id [i] s

/-- Whether SKIP of a copy's hold takes in the rest of the held page: every hold but one of the element's own address or data. -/
def FClass.ofPage : FClass → Bool
  | .align | .uncorr | .timeout => false
  | _ => true

/-- SKIP of a copy's hold: a held read supplies zeros, a held write is dropped, for the held page (R129, R460): what of the request lies in the
same 64 KiB and has not gone home goes with the held element (DEDUCED, log 25). -/
def skipCopy (id i : Nat) (q : Req) (e : Elt) (cls : FClass) (f : FRec) (s : State) : State :=
  let page (x : Elt) : Bool := e.space == .virt && x.space == .virt && (cls.ofPage || e.tbl) && x.early && x.addr / 65536 == e.addr / 65536
  let held := if e.tbl then e.skipped else e.skip q.op cls (f.gen.getD 0 0)
  let q' : Req := { q with elts := (q.elts.map (fun x => if page x then x.skipped else x)).set i held, since := s.cycle }
  (upto q.elts.length).foldl (fun s j => if j = i || ((q.elts[j]?).map page).getD false then afterSkip id j s else s) (s.setReq id q')

/-- A disposition ends an element's hold. -/
def elemDisp (id i : Nat) (f : FRec) (d : Disp) (s : State) : Option State :=
  match get? id s.reqs with
  | none => some s
  | some q => match q.elts[i]? with
    | none => some s
    | some e => match e.st with
      | .held cls => (match d with
        | .retry => some (retryElt id i q e cls s)
        | .skip => (match q.org with
          | .snap _ _ => some (skipPage q s)
          | .engine _ _ _ _ _ => some (skipCopy id i q e cls f s)
          | _ => some (afterSkip id i (s.setReq id { q.setElt i (if e.tbl then e.skipped else e.skip q.op cls (f.gen.getD 0 0)) with since := s.cycle })))
        | .abort =>
          let q := q.setElt i e.skipped
          (abortReq id q (s.setReq id q)).map (afterSkip id i))
      | _ => some s

/-- Elements that a time-out holds. -/
def timedOut (q : Req) : List Nat := (upto q.elts.length).filter (fun i =>
  ((q.elts[i]?).map (fun e => e.st == .held .timeout)).getD false)

/-- A disposition ends a TIMEOUT hold; RETRY restarts the attempts (R107, R370). -/
def requestDisp (id : Nat) (d : Disp) (s : State) : Option State :=
  match get? id s.reqs with
  | none => some s
  | some q =>
    let is := timedOut q
    let skipped : Req := is.foldl (fun q i => q.setElt i ((q.elts.getD i { space := .scr, addr := 0, n := 8 }).skipped)) q
    if is.isEmpty then some s
    else match d with
      | .retry =>
        let q' : Req := is.foldl (fun q i =>
          let e := q.elts.getD i { space := .scr, addr := 0, n := 8 }
          q.setElt i { e with st := .new, lost := false }) q
        some (issueElts id is (s.setReq id { q' with tries := 1, since := s.cycle }))
      | .skip => some (is.foldl (fun s i => afterSkip id i s) (s.setReq id skipped))
      | .abort => (abortReq id skipped (s.setReq id skipped)).map (fun s => is.foldl (fun s i => afterSkip id i s) s)

/-! ### Dispositions at streams (R133, R186, R281) -/

/-- TIMEWRAP of a copy stream: SKIP drops the token that does not fit. -/
def strmDisp (mt ctx : Nat) (d : Disp) (s : State) : Option State :=
  match get? ctx (s.mt mt).sctx with
  | none => some s
  | some c =>
    if !c.held then some s
    else match d with
      | .retry => some (match get? c.msg.h s.res with
        | some r => startTiles r mt ctx c.credits { c with held := false } s
        | none => s.putStrm mt ctx { c with held := false })
      | .abort => some (failMsg c.msg (dropCtxElts mt ctx true (failCtx mt ctx true s)))
      | .skip => match c.tiles.find? (fun e => e.1 == c.sent), get? c.msg.h s.res with
        | some (m, a, b), _ =>
          some ((dropReq (some b) (dropReq (some a) s)).putStrm mt ctx
            { c with held := false, sent := m + 1, tiles := c.tiles.filter (fun e => e.1 != m) })
        | none, some r =>
          (engineSend r mt c.msg [pulseOut c.msg.time c.msg.t1]
            (s.modMt mt (fun t => { t with sctx := del ctx t.sctx, closed := t.closed ++ c.closers }))).map (fun e =>
              coreDone c.msg false (e.1.post mt (enginePost r (copyLoc r mt) c.msg (-1) ++ e.2)))
        | none, none => some s

/-- TIMEWRAP of a syntax stream: SKIP drops the token that does not fit. -/
def streamDisp (h bind sig : Nat) (d : Disp) (s : State) : Option State :=
  let k := synKey h bind
  match get? sig (s.syn k).streams, get? h s.res with
  | some v, some r =>
    if !v.held then some s
    else match d with
      | .retry => some (s.setStream k sig { v with held := false })
      | .abort => some (failMsg v.msg (s.setStream k sig { v with held := false, failed := true }))
      | .skip => match endStatus v with
        | none => some (s.setStream k sig { v with held := false, sent := v.sent + 1 })
        | some st =>
          let s1 := endStream k sig st v s
          (synSend r v.msg [dataOut .n64 v.msg.time (leBytes 8 (st + v.sent % 2 ^ 32 * 2 ^ 32)) v.msg.t1] s1).map
            (fun e => coreDone v.msg false (e.1.post (synMt r bind) (synPost r bind v.msg (-1) ++ e.2)))
  | _, _ => some s

/-! ### Dispositions at messages (R128, R129, R297, R316, R464) -/

/-- The unit that takes a message; it goes first there. -/
def putBack (mt : Nat) (m : Msg) (s : State) : State :=
  if m.amop ≥ 0x30 then { s with snapq := m :: s.snapq }
  else if m.amop ≥ 0x20 then
    { s with syns := upd {} (synKey m.h (bits (m.body.getD 0 0).toNat 59 5)) (fun y => { y with queue := m :: y.queue }) s.syns }
  else if m.amop ≥ 0x10 then s.modMt mt (fun t => { t with cin := m :: t.cin })
  else s.modMt mt (fun t => { t with inbox := m :: t.inbox })

/-- A slot's message with its descriptor read again. -/
def reread (m : Msg) (s : State) : Msg := match m.src with
  | .slot k slot => (match (s.at k).active.instr slot with
    | some i => loadDesc i (s.at k).a m
    | none => m)
  | .core _ _ => m

/-- What SKIP of a SYNO sends (R297). -/
def skipOuts (m : Msg) : List Out :=
  if m.amop = 0x20 then [markerOut 1 m.time m.t0, dataOut .n64 m.time (leBytes 8 3) m.t1] else []

/-- A disposition ends the hold of a message. -/
def msgDisp (id : Nat) (d : Disp) (s : State) : Option State :=
  match get? id s.held with
  | none => some s
  | some x =>
    let m := x.msg
    let s := markSlot m (fun l => l.filter (fun i => i != id)) { s with held := del id s.held }
    match d with
    | .retry => some (putBack x.mt (reread m s) s)
    | .skip =>
      if m.amop ≤ 5 then some (putBack x.mt { m with skip := true } s) else answer x.mt m (skipOuts m) s
    | .abort =>
      (reply m [markerOut 5 m.time m.t0, markerOut 5 m.time m.t1] s).map (fun e =>
        failMsg m (coreDone m true (e.1.post x.mt (ownPost m (-1) ++ e.2))))

/-! ### Dispositions at the Dispatcher (R381, R390) -/

def dreqSrc : DReq → LSrc
  | .launch q => q.src
  | .join q => q.src

/-- A disposition ends the hold of a launch or JOIN. -/
def dreqDisp (id : Nat) (d : Disp) (s : State) : Option State :=
  match get? id s.dsp.held with
  | none => some s
  | some q =>
    let s := s.modDsp (fun x => { x with held := del id x.held })
    let src := dreqSrc q
    match d with
    | .retry => some (s.modDsp (fun x => match q with
        | .launch l => { x with launchq := l :: x.launchq }
        | .join j => { x with joinq := j :: x.joinq }))
    | .skip => (match q with
      | .launch _ => answerSrc src (fun _ => []) false s
      | .join _ => answerSrc src (joinOuts 0xFFFFFFFF) false s)
    | .abort =>
      (answerSrc src (fun m => [markerOut 5 m.time m.t0, markerOut 5 m.time m.t1]) true s).map (fun s => match src with
        | .msg m => failMsg m s
        | _ => s)

/-! ### DISPOSITION (R396, R402) -/

/-- The effect of a disposition on the held operation; `none` while it cannot be carried out. -/
def applyDisp (f : FRec) (d : Disp) (s : State) : Option State := match f.link with
  | .none => some s
  | .slot k slot => slotDisp k slot d s
  | .agen k ctx => agenDisp k ctx d s
  | .elem id i => elemDisp id i f d s
  | .strm mt ctx => strmDisp mt ctx d s
  | .msg id => msgDisp id d s
  | .stream h bind sig => streamDisp h bind sig d s
  | .request id => requestDisp id d s
  | .dreq id => dreqDisp id d s

/-- Whether a record's residency is frozen or freezing. -/
def recFrozen (s : State) (f : FRec) : Bool :=
  let own := match f.link with
    | .none => false
    | .dreq id => (match (get? id s.dsp.held).map dreqSrc with
      | some (.msg _) => true
      | _ => false)
    | _ => true
  let t := s.task (idIndex f.rid)
  own && !staleId s f.rid && (t.state != .active && t.state != .draining && t.state != .free || t.freezing.isSome)

/-- Whether a disposition's issuer is entitled to it (R396): the record's first receiver, from the start, a core until escalation; the host
after it. -/
def entitled (s : State) (o : Open) (q : DispReq) : Bool :=
  let first := o.core.isNone && !o.host && pendingTo s o == some q.core
  match q.core with
  | some c => (first || o.core == some c) && !o.esc
  | none => first || o.host || o.esc

/-- The issuer learns the result of a disposition: 0 applied, 1 stale, 2 held, 3 refused (R419, R426); a core that an interrupt took away
no longer waits for it, and a later RESUME write of the host has replaced it. -/
def tellIssuer (q : DispReq) (code : Nat) (s : State) : State := match q.core with
  | some c => { s with cores := upd {} c (fun x =>
      if x.resume = some none && x.resumed = q.id then { x with resume := some (some code) } else x) s.cores }
  | none =>
    if s.host.resumed = q.id then { s with host := { s.host with resumest := BitVec.ofNat 64 (q.fid + code * 2 ^ 32 + 2 ^ 63) } } else s

/-- A settled record closes; under HND 11 the host is owed a copy of what a core disposed of. -/
def closeRec (o : Open) (q : DispReq) (s : State) : State :=
  let s := dropOpen o.fr.fid s
  if q.core.isSome && claimOf s o.fr % 4 = 3 then
    s.modFaults (fun c => { c with copies := c.copies ++ [{ o.fr with disp := some q.disp, stat := o.fr.stat ||| 2 }] })
  else s

def addStale (s : State) : State := s.modFaults (fun c => { c with stale := c.stale + 1 })

/-- One disposition is applied, discarded or held; `none` while it waits. -/
def settle (q : DispReq) (s : State) : Option State :=
  let gone (s : State) : State := s.modFaults (fun c => { c with disps := removeFirst (fun x => x == q) c.disps })
  match openOf s q.fid with
  | none => some (gone (if q.held then addStale s else tellIssuer q 1 (addStale s)))
  | some o =>
    let ok := q.held || (entitled s o q && o.fr.isHold && !s.faults.disps.any (fun x => x.fid == q.fid && x.held))
    if !ok then some (gone (tellIssuer q 1 (addStale s)))
    else if recFrozen s o.fr then
      if q.held then none
      else some (tellIssuer q 2 (s.modFaults (fun c => { c with
        disps := c.disps.map (fun x => if x == q then { x with held := true } else x) })))
    else (applyDisp o.fr q.disp s).map (fun s =>
      let s := gone (closeRec o q s)
      if q.held then s else tellIssuer q 0 s)

/-- The dispositions that can be judged: of each FID the first, and what comes behind one that is held until a restore (R396). -/
def judgeable (qs : List DispReq) : List DispReq :=
  ((qs.zipIdx).filter (fun q => !(qs.take q.2).any (fun p => p.fid == q.1.fid && !p.held))).map (·.1)

/-- R396: the oldest disposition that can be judged now. -/
def execDisposition (s : State) : Result :=
  match firstSome (fun q => settle q s) (judgeable s.faults.disps) with
  | some s' => .next s'.act
  | none => .next s

/-- The disposition of a number; 3 is refused. -/
def dispOf (n : Nat) : Option Disp := match n % 4 with
  | 0 => some .retry
  | 1 => some .skip
  | 2 => some .abort
  | _ => none

/-- R426: the host's RESUME; RESUMEST is valid once the controller has judged it. -/
def execHostResumeWrite (value : BitVec 64) (s : State) : Result :=
  let fid := bits value.toNat 0 32
  let (n, s) := s.newId
  let shown (v : Nat) (s : State) : State := { s with host := { s.host with resumest := BitVec.ofNat 64 v, resumed := n } }
  match dispOf (bits value.toNat 32 2) with
  | none => .next (shown (fid + 3 * 2 ^ 32 + 2 ^ 63) s).act
  | some d => .next ((shown fid s).modFaults (fun c => { c with disps := c.disps ++ [(⟨fid, d, none, false, n⟩ : DispReq)] })).act

end Sys2Proof.Machine
end

