-- ==== Sys2Proof/Machine/Registers.lean ====
section
/-! DEFINITION. Words of control space as a service core or the host reads and writes them (R99, R135, R270, R382, R386, R393, R394, R411, R412, R416,
R423, R435, R437, R441). -/

namespace Sys2Proof.Machine

/-- Change what the host reaches. -/
def State.modHost (s : State) (f : HostSt → HostSt) : State := { s with host := f s.host }

/-! ### Single words -/

/-- TOKSTAT's fields cleared (R179). -/
def AT.clearTok (a : AT) : AT := { a with exd := 0, rlx := 0, mkd := 0 }

/-- RESST's fields cleared (R412), and FAILT reset (R411). -/
def Res.clearSt (r : Res) : Res := { r with drd := false, fail := false, xsc := 0, dpf := 0 }
def Res.resetFailt (r : Res) : Res := { r with failt := BitVec.allOnes 64 }

/-- ERRCNT (R435), and its fields cleared. -/
def Die.errcnt (d : Die) : W64 := BitVec.ofNat 64 (d.mpar * 2 ^ 48 + d.lrep * 2 ^ 32 + d.ue * 2 ^ 16 + d.ce)
def Die.clearErr (d : Die) : Die := { d with mpar := 0, lrep := 0, ue := 0, ce := 0 }

/-- A slew-table word of a die; reserved bits stay 0 (R270). -/
def setSlewWord (d : Die) (crn : Nat) (v : W64) : Die :=
  if crn = 0x40 then { d with up0 := v }
  else if crn = 0x41 then { d with up1 := v &&& 0xFF }
  else if crn = 0x42 then { d with dn0 := v }
  else if crn = 0x43 then { d with dn1 := v &&& 0xFFFFFFFF }
  else { d with lim := v &&& 0xFFFF }

/-- QMASK0 and QMASK1 of a die as one number; a bit can only be set (R437). -/
def setQmask (word : Nat) (v : W64) (d : Die) : Die :=
  if word = 0 then { d with qmask := d.qmask ||| v.toNat } else { d with qmask := d.qmask ||| v.toNat % 2 ^ 56 * 2 ^ 64 }

/-- BCCAP of a die (R135). -/
def setBccap (die : Nat) (v : W64) (s : State) : State := { s with bccap := put die (v.toNat % 2 ^ 16) s.bccap }

/-- DSPST's counters cleared (R386). -/
def clearDspst (s : State) : State := s.modDsp (fun d => { d with wovf := 0, jund := 0, stale := 0 })

/-- WATCHA and WATCHB of a slot (R382). -/
def Watch.wordA (w : Watch) : Nat := w.va
def Watch.wordB (w : Watch) : Nat :=
  w.prio * 2 ^ 37 + w.aff * 2 ^ 35 + (if w.once then 2 ^ 34 else 0) + (if w.en then 2 ^ 33 else 0) + w.queue.length * 2 ^ 24 + w.tmpl * 2 ^ 12
    + w.asid

def Watch.setA (w : Watch) (v : Nat) : Watch := { w with va := bits v 3 53 * 8 }
def Watch.setB (w : Watch) (v : Nat) : Watch :=
  { w with prio := bits v 37 3, aff := bits v 35 2, once := bit v 34, en := bit v 33, tmpl := bits v 12 12, asid := bits v 0 12 }

/-- Eight entries of the claim table (R394). -/
def claimWord (s : State) (word : Nat) : W64 :=
  BitVec.ofNat 64 (leNat ((upto 8).map (fun i => BitVec.ofNat 8 (getD 0 (8 * word + i) s.faults.claim))))

def setClaim (word : Nat) (v : W64) (s : State) : State :=
  if word < 8192 then s.modFaults (fun f => { f with claim := (upto 8).foldl (fun m i => put (8 * word + i) (bits v.toNat (8 * i) 7) m) f.claim })
  else s

/-! ### Tile control registers from a service core (R411) -/

/-- A service core writes a tile control register: what the access column gives; any other number it leaves as it is. -/
def tileWrite (k n : Nat) (v : W64) (s : State) : State :=
  if n = 0x1A then (match (s.at k).res with
    | some h => s.modRes h Res.clearSt
    | none => s)
  else if n = 0x1B then (match (s.at k).res with
    | some h => s.modRes h Res.resetFailt
    | none => s)
  else if n = 0x1C then s.modAt k (fun a => { a with dbgctl := v &&& 1 })
  else if n = 0x22 then s.modAt k AT.clearTok
  else if n = 0x30 then setBccap (keyDie k) v s
  else if 0x40 ≤ n ∧ n ≤ 0x44 then s.modDie (keyDie k) (fun d => setSlewWord d n v)
  else s.modAt k (fun a => crWrite a n v)

/-! ### Control space -/

/-- A word of control space as a core reads it at an address over 8. -/
def ctlRead (s : State) (w : CtlWord) (addr : Nat) : W64 := match w with
  | .tile k n => if k < 1920 ∧ k % 4 < 3 then crRead s k n else 0
  | .errcnt d => (s.die d).errcnt
  | .bccap d => BitVec.ofNat 64 (getD 0x100 d s.bccap)
  | .throt d => BitVec.ofNat 64 (s.die d).throt
  | .qmask d n => BitVec.ofNat 64 (if n = 0 then (s.die d).qmask % 2 ^ 64 else (s.die d).qmask / 2 ^ 64)
  | .dspctl => s.dsp.ctl
  | .dspst => dspst s
  | .watch n b => BitVec.ofNat 64 (if b then (getD {} n s.watch).wordB else (getD {} n s.watch).wordA)
  | .clsmap n => BitVec.ofNat 64 (getD 0 n s.clsmap)
  | .claim n => claimWord s n
  | .claimto => BitVec.ofNat 64 s.faults.claimto
  | .fault n i => match s.faults.table[n]? with
    | some o => BitVec.ofNat 64 (leNat (sliceBytes o.fr.bytes (8 * i) 8))
    | none => 0
  | .root a => BitVec.ofNat 64 (getD 0 a s.roots)
  | .other => Config.ctlOther addr s.cycle

/-- A core writes a word of control space; a word that only the device writes stays as it is. -/
def ctlWrite (w : CtlWord) (v : W64) (s : State) : State := match w with
  | .tile k n => if k < 1920 ∧ k % 4 < 3 then tileWrite k n v s else s
  | .errcnt d => if d < 4 then s.modDie d Die.clearErr else s
  | .bccap d => if d < 4 then setBccap d v s else s
  | .throt d => if d < 4 then s.modDie d (fun x => { x with throt := v.toNat % 8 }) else s
  | .qmask d n => if d < 4 then s.modDie d (setQmask n v) else s
  | .dspctl => s.modDsp (fun d => { d with ctl := v &&& 1 })
  | .dspst => clearDspst s
  | .watch n b => if n < 256 then { s with watch := upd {} n (fun x => if b then x.setB v.toNat else x.setA v.toNat) s.watch } else s
  | .clsmap n => if n < 12 then { s with clsmap := put n (v.toNat &&& 0x9F) s.clsmap } else s
  | .claim n => setClaim n v s
  | .claimto => s.modFaults (fun f => { f with claimto := v.toNat })
  | .root a => if a < 4096 then { s with roots := put a v.toNat s.roots } else s
  | .fault _ _ | .other => s

/-- Address and image of the save area that holds an address (R400). -/
def savedAt (s : State) (a : Nat) : Option (Nat × List Byte × Nat) :=
  firstSome (fun e => let b := (Config.saveArea e.1).toNat
    if b ≤ a ∧ a < b + e.2.length then some (e.1, e.2, a - b) else none) s.saved

/-- The byte of control space at an address: of a save area, of the ready pool, or of a word. -/
def controlByte (s : State) (a : Nat) : Byte := match savedAt s a with
  | some x => x.2.1.getD x.2.2 0
  | none => match poolByte s a with
    | some b => b
    | none => BitVec.ofNat 8 (bits (ctlRead s (Config.ctlWord (a / 8)) (a / 8)).toNat (8 * (a % 8)) 8)

/-- A core stores a byte in control space. The ready pool is the Dispatcher's alone (R377); a word is read, changed and written. -/
def controlStore (a : Nat) (b : Byte) (s : State) : State := match savedAt s a with
  | some x => { s with saved := put x.1 (x.2.1.set x.2.2 b) s.saved }
  | none => match poolByte s a with
    | some _ => s
    | none =>
      let w := Config.ctlWord (a / 8)
      ctlWrite w (BitVec.ofNat 64 (setBits (ctlRead s w (a / 8)).toNat (8 * (a % 8)) 8 b.toNat)) s

end Sys2Proof.Machine
end

