-- ==== Sys2Proof/Machine/Cores.lean ====
section
/-! DEFINITION. Service cores: the Xdmx instructions (R382, R395, R396, R398, R417 to R425), the commands of their ports
(R421) and their completion (R422). -/

namespace Sys2Proof.Machine

/-! ### A core's memory (R417) -/

def State.core (s : State) (c : Nat) : Core := getD {} c s.cores
def State.modCore (s : State) (c : Nat) (f : Core → Core) : State := { s with cores := upd {} c f s.cores }

/-- Whether something stands at a core-physical address: the local SRAM, memory, control space (R417). -/
def coreRam (s : State) (a : Nat) : Bool := decide (a < 0x80000) || (pkind s a).backed || pkind s a == .control
def coreBacked (s : State) (a : Nat) : Bool := coreRam s a

/-- Whether memory stands at both ends of a block, for reading; and for writing. -/
def coreRange (s : State) (a n : Nat) : Bool := n = 0 || (coreBacked s a && coreBacked s (a + n - 1))
def coreRoom (s : State) (a n : Nat) : Bool := n = 0 || (coreRam s a && coreRam s (a + n - 1))

/-- Causes of an access fault: fetch 0, load 1, store 2 (R417, log 5). -/
def accessCause (k : Nat) : Nat := if k = 0 then 1 else if k = 1 then 5 else 7

/-- A block of an Xdmx operand that has nothing at one of its ends: a vacant address is an access fault (log 5). -/
def gapStop (c k a n : Nat) (s : State) : Result :=
  let g := if (if k = 2 then coreRam s a else coreBacked s a) then a + n - 1 else a
  .next (s.modCore c (fun x => x.takeTrap (accessCause k) (BitVec.ofNat 64 g))).act

/-- A byte as a core reads it. -/
def coreByte (s : State) (c a : Nat) : Byte :=
  if a < 0x80000 then readByte (s.core c).sram a
  else if pkind s a = .control then controlByte s a else readByte s.mem a

def coreRead (s : State) (c a : Nat) : Nat → List Byte
  | 0 => []
  | n + 1 => coreByte s c a :: coreRead s c (a + 1) n

def coreWrite (c a : Nat) : List Byte → State → State
  | [], s => s
  | b :: bs, s =>
    coreWrite c (a + 1) bs (if a < 0x80000 then s.modCore c (fun x => { x with sram := writeByte x.sram a b })
      else if pkind s a = .control then controlStore a b s else { s with mem := writeByte s.mem a b })

/-! ### The shape of every Xdmx instruction (R418, R419) -/

/-- An Xdmx instruction retires: its result is written and the pc moves past the word. -/
def retireDmx (c : Nat) (rd : BitVec 5) (v : W64) (s : State) : State :=
  (s.modCore c (fun x => { x.setReg rd.toNat v with pc := x.pc + 4 })).act

/-- Run an Xdmx instruction: an illegal-instruction exception in user mode, else its body on the operands. -/
def dmx (rs1 rs2 : BitVec 5) (body : Nat → W64 → W64 → State → Result) (s : State) : Result :=
  let c := s.focus.core
  let x := s.core c
  if x.mode = 0 then .next (s.illegal c).act else body c (x.reg rs1.toNat) (x.reg rs2.toNat) s

/-! ### Commands (R420 to R422) -/

/-- The id after n: an n32 that skips 0. -/
def nextCmdId (n : Nat) : Nat := if n + 1 ≥ 2 ^ 32 then 1 else n + 1

/-- A finished command's bits ([0] aborted, [1] refused) and value. -/
def finishCmd (c id bits' : Nat) (v : W64) (s : State) : State :=
  s.modCore c (fun x => { x with pending := x.pending.filter (fun q => q.id != id), done := put id (bits', v) x.done })

/-- The running residency at a command's quad, of the command's ASID. -/
def cmdRes (s : State) (q : Cmd) : Option (Nat × Res) :=
  match (s.at (tileKey q.die q.x q.y 0)).res with
  | none => none
  | some h => match runRes s h with
    | some r => if r.asid = q.asid then some (h, r) else none
    | none => none

/-- The active message of a command (R114 to R117): its body words, or its argument in place of the header fields and payload
that a slot's instruction gives; `none` where a field is refused. SB, ARV, FLG, BC and TIME, for which R420's command has no place, are 0
(DESIGN CHOICE, log 30). -/
def cmdMsg (s : State) (c : Nat) (q : Cmd) : Option (Dest × Msg) :=
  match cmdRes s q with
  | none => none
  | some (h, r) =>
    let mt := tileKey q.die q.x q.y 3
    let arg := q.arg.toNat
    let m : Msg := { id := s.nextId, amop := q.op, h := h, asid := q.asid, src := .core c q.id, body := q.body }
    let unit := r.desc.combines.any (fun u => u.qx == relX r mt && u.qy == relY r mt)
    let syn (b : Nat) : Bool := ((r.desc.binds[b]?).map (fun x => x.kind == 2)).getD false
    if q.op = 1 || q.op = 2 || q.op = 5 then some (.engine mt, m)
    else if q.op = 3 || q.op = 4 then
      if q.body.isEmpty then some (.engine mt, { m with snum := arg % 16, count := bits arg 16 16 }) else none
    else if q.op = 0x10 then if unit then some (.combine mt, { m with past := decide (q.body.length < 2) }) else none
    else if q.op = 0x11 then if unit then some (.combine mt, { m with lpay := q.body.flatMap (fun w => leBytes 8 w.toNat) }) else none
    else if q.op = 0x12 then
      if unit then some (.combine mt,
        { m with
          lpay := (q.body.take 2).flatMap (fun w => leBytes 8 w.toNat)
          rpay := (q.body.drop 2).flatMap (fun w => leBytes 8 w.toNat) })
      else none
    else if q.op = 0x13 then if unit && q.body.isEmpty then some (.combine mt, { m with lpay := leBytes 8 arg }) else none
    else if q.op = 0x20 then
      some (.syn (synKey h (bits ((q.body.getD 0 0).toNat) 59 5)), { m with past := decide (q.body.length < 8) })
    else if 0x21 ≤ q.op ∧ q.op ≤ 0x23 then
      if q.body.isEmpty && syn (bits arg 32 5) then
        some (.syn (synKey h (bits arg 32 5)), { m with snum := arg % 2 ^ 32, count := bits arg 48 16 })
      else none
    else if q.op = 0x30 then some (.snapshot, { m with snum := quadNum q.die q.x q.y })
    else none

/-- A launch entry in a command's body (R76, R421): what is wrong with it, or the request. -/
def cmdLaunch (c : Nat) (q : Cmd) : Option LaunchReq :=
  let w0 := (q.body.getD 0 0).toNat
  let e := (q.body.drop 1).flatMap (fun w => leBytes 8 w.toNat)
  let lpri := natAt e 1 1
  let nwt := natAt e 2 1
  let zero (o n : Nat) : Bool := (sliceBytes e o n).all (fun b => b == 0)
  if q.body.length ≠ 21 || bits w0 14 18 ≠ 0 || bits w0 52 12 ≠ 0 || natAt e 0 1 ≠ 1 || (decide (lpri > 6) && lpri ≠ 255)
      || decide (nwt > 8) || !zero 0x94 12 || natAt e 0x90 4 ≥ 2 ^ 20
      || (upto nwt).any (fun i => !zero (0x10 + 16 * i + 5) 3) then none
  else some
    { src := .cmd c q.id, asid := q.asid, tmpl := bits w0 0 12, prio := lpri, aff := bits w0 12 2, epb := bits w0 32 20,
      parent := 0xFFFFFFFF, join := natAt e 4 4, arg := BitVec.ofNat 64 (natAt e 8 8), waits := waitPairs e 0x10 nwt }

/-- The oldest command of an opcode that has not been sent on. -/
def nextCmd (s : State) (c op : Nat) : Option Cmd := (s.core c).pending.find? (fun q => q.op == op)

/-- A command goes on its way; its completion will return v. -/
def sentOn (c id : Nat) (v : W64) (s : State) : State :=
  s.modCore c (fun x => { x with pending := x.pending.map (fun q => if q.id = id then { q with op := 0, arg := v } else q) })

/-- The Dispatcher has applied a command: its completion is on its way. -/
def applied (c id : Nat) (v : W64) (s : State) : State :=
  { sentOn c id v s with cmdDone := s.cmdDone ++ [(c, id, false)] }

/-- The operand fields that R420 reserves, and those out of range. -/
def cmdBad (hdr : Nat) : Bool :=
  bits hdr 32 4 != 0 || bits hdr 0 24 != 0 || decide (bits hdr 38 6 > 24) || decide (bits hdr 28 4 ≥ 12)
    || decide (bits hdr 24 4 ≥ 10)

/-- Issue a command: an active message goes to its unit, a Dispatcher command waits for its step, anything else is refused. -/
def issueCmd (c : Nat) (q : Cmd) (bad : Bool) (s : State) : State :=
  let s := s.modCore c (fun x => { x with nextCmd := nextCmdId q.id, pending := x.pending ++ [q] })
  if bad then finishCmd c q.id 2 0 s
  else if 0x40 ≤ q.op ∧ q.op ≤ 0x45 then s
  else match cmdMsg s c q with
    | none => finishCmd c q.id 2 0 s
    | some (d, m) =>
      let (m, s) := (sentOn c q.id 0 s).numbered m
      { s with nextId := s.nextId + 1 }.deliver d m

/-- R420: issues a command when an entry of the port is free; its id is the result. -/
def execDmxCmd (rd rs1 rs2 : BitVec 5) (s : State) : Result :=
  dmx rs1 rs2 (fun c a b s =>
    let hdr := a.toNat
    let nw := bits hdr 38 6
    let x := s.core c
    if x.pending.length ≥ 32 then .next s
    else if decide (nw ≤ 24) && !coreRange s b.toNat (8 * nw) then gapStop c 1 b.toNat (8 * nw) s
    else
      let body := if nw > 24 then [] else (upto nw).map (fun i => BitVec.ofNat 64 (leNat (coreRead s c (b.toNat + 8 * i) 8)))
      let q : Cmd :=
        { id := x.nextCmd, op := bits hdr 56 8, asid := bits hdr 44 12, die := bits hdr 36 2, x := bits hdr 28 4,
          y := bits hdr 24 4, body := body, arg := if nw = 0 then b else 0 }
      .next (retireDmx c rd (BitVec.ofNat 64 x.nextCmd) (issueCmd c q (cmdBad hdr) s))) s

/-- Whether id k stands at or before id n in issue order; an n that is still to come stands behind all. -/
def issuedBy (next n k : Nat) : Bool :=
  let age (i : Nat) : Nat := (next + 2 ^ 32 - i) % 2 ^ 32
  decide (n ≥ 2 ^ 32) || decide (age n = 0) || decide (age n > 2 ^ 31) || decide (age k ≥ age n)

/-- R422: waits for the named commands, and returns the OR of their bits. -/
def execDmxFence (rd rs1 rs2 : BitVec 5) (s : State) : Result :=
  dmx rs1 rs2 (fun c a _ s =>
    let x := s.core c
    let named (k : Nat) : Bool := a == 0 || issuedBy x.nextCmd a.toNat k
    if x.pending.any (fun q => named q.id) then .next s
    else
      let bs := (x.done.filter (fun e => named e.1)).map (fun e => e.2.1)
      .next (retireDmx c rd (BitVec.ofNat 64 (bs.foldl (fun v b => v ||| b) 0)) s)) s

/-! ### Launch and watch entries of files (R68) -/

/-- Change a file. -/
def State.modFile (s : State) (a : Nat) (f : SkFile → SkFile) : State :=
  { s with files := s.files.map (fun e => if e.1 = a then (e.1, f e.2) else e) }

/-- The next entry that a file asks for and can be served: file, residency index, its template, the entry. An entry waits until
its residency is registered and the launch before it has made its record. -/
def nextAsk (s : State) : Option (Nat × SkFile × Nat × Nat × LaunchEntry) :=
  firstSome (fun (e : Nat × SkFile) => match e.2.asks.head? with
    | none => none
    | some (i, j) =>
      if e.2.busy then none
      else match get? i e.2.tmpls, (e.2.res[i]?).bind (fun d => d.launches[j]?) with
        | some t, some l => some (e.1, e.2, i, t, l)
        | _, _ => none) s.files

/-- The request of a launch entry: a wait pair names the record of the latest earlier launch of its residency (R68, R381). The
affinity, which no entry holds, is the loader's choice (log 27). -/
def askLaunch (a : Nat) (f : SkFile) (i tmpl : Nat) (l : LaunchEntry) : LaunchReq :=
  { src := .ask a i, asid := f.asid, tmpl := tmpl, prio := l.lpri, aff := Config.loaderAff a i % 4, epb := l.epb,
    parent := 0xFFFFFFFF, join := l.jn, arg := BitVec.ofNat 64 l.val,
    waits := l.waits.filterMap (fun w => (get? w.1 f.made).map (fun id => (id, w.2.1, BitVec.ofNat 64 w.2.2))) }

/-- The watch slot that a watch entry takes: the one it names, or the lowest one that is neither enabled nor holds entries. R76 has WSL both
name slots 0 to 255 and say 0xFF for any free one: 0xFF is taken as any, so no entry names slot 255 (DESIGN CHOICE, log 26). -/
def askSlot (s : State) (l : LaunchEntry) : Option Nat :=
  if l.wsl ≠ 255 then some l.wsl
  else (upto 256).find? (fun n => let w := getD {} n s.watch; !w.en && w.queue.isEmpty)

/-- The loader serves an entry: it asks the Dispatcher for a record, or programs a watch slot (R68, R382). -/
def serveAsk (s : State) : State :=
  match nextAsk s with
  | none => s
  | some (a, f, i, tmpl, l) =>
    let rest := f.asks.drop 1
    if l.kind = 1 then
      ((s.modFile a (fun f => { f with asks := rest, busy := true })).modDsp (fun d =>
        { d with launchq := d.launchq ++ [askLaunch a f i tmpl l] })).act
    else match askSlot s l with
      | none => s
      | some n =>
        let w : Watch :=
          { va := bits l.val 3 53 * 8, prio := if l.lpri = 255 then 7 else l.lpri, aff := Config.loaderAff a i % 4,
            once := bit l.jn 0, en := true, tmpl := tmpl, asid := f.asid, queue := (getD {} n s.watch).queue }
        ({ s.modFile a (fun f => { f with asks := rest }) with watch := put n w s.watch }).act

/-- R421: creates a task record. With no command at the port, the core's loader serves the next entry of a loaded file (R68). -/
def execCmdCreateTask (core : Nat) (s : State) : Result :=
  match nextCmd s core 0x40 with
  | none => .next (serveAsk s)
  | some q => match cmdLaunch core q with
    | none => .next (finishCmd core q.id 2 0 s).act
    | some l => .next ((sentOn core q.id 0 s).modDsp (fun d => { d with launchq := d.launchq ++ [l] })).act

/-- A JOIN of a command. -/
def cmdJoin (core : Nat) (set : Bool) (q : Cmd) (s : State) : State :=
  if q.body.isEmpty then
    (sentOn core q.id 0 s).modDsp (fun d =>
      { d with joinq := d.joinq ++ [⟨.cmd core q.id, q.asid, set, q.arg.toNat % 2 ^ 32, bits q.arg.toNat 32 32⟩] })
  else finishCmd core q.id 2 0 s

/-- R421: sets a record's join counter. -/
def execCmdJoinInit (core : Nat) (s : State) : Result :=
  match nextCmd s core 0x41 with
  | none => .next s
  | some q => .next (cmdJoin core true q s).act

/-- R421: decrements a record's join counter. -/
def execCmdJoinDec (core : Nat) (s : State) : Result :=
  match nextCmd s core 0x42 with
  | none => .next s
  | some q => .next (cmdJoin core false q s).act

/-- The residency that a registration names. -/
def cmdTemplate (s : State) (q : Cmd) : Option Desc :=
  let v := q.arg.toNat
  if !q.body.isEmpty || bits v 52 6 ≠ 0 || v % 8 ≠ 0 then none
  else match get? (bits v 0 52) s.files with
    | none => none
    | some f => if f.asid = q.asid then f.res[bits v 58 6]? else none

/-- R378, R421: registers one residency of a checked file; its handle is the completion's value. An ASID without a weight
takes the residency's. -/
def execCmdRegisterTemplate (core : Nat) (s : State) : Result :=
  match nextCmd s core 0x43 with
  | none => .next s
  | some q => match cmdTemplate s q, (upto 4096).find? (fun i => (get? i s.templates).isNone) with
    | some d, some i =>
      let s1 := { s with
        templates := put i ⟨q.asid, d⟩ s.templates
        files := s.files.map (fun e => if e.1 = d.file then (e.1, { e.2 with tmpls := put (bits q.arg.toNat 58 6) i e.2.tmpls }) else e) }
      let s2 := if getD 0 q.asid s.dsp.weights = 0 then s1.modDsp (fun x => { x with weights := put q.asid d.wgt x.weights }) else s1
      .next (applied core q.id (BitVec.ofNat 64 i) s2).act
    | _, _ => .next (finishCmd core q.id 2 0 s).act

/-- R421: drops a template once no record has it. -/
def execCmdDropTemplate (core : Nat) (s : State) : Result :=
  match nextCmd s core 0x44 with
  | none => .next s
  | some q =>
    let i := q.arg.toNat
    match get? i s.templates with
    | none => .next (finishCmd core q.id 2 0 s).act
    | some t =>
      if t.asid ≠ q.asid || !q.body.isEmpty then .next (finishCmd core q.id 2 0 s).act
      else if s.tasks.any (fun e => e.2.state != .free && e.2.tmpl == i) then .next s
      else .next (applied core q.id 0 { s with templates := del i s.templates }).act

/-- R421: sets the weight of the command's ASID. -/
def execCmdSetWeight (core : Nat) (s : State) : Result :=
  match nextCmd s core 0x45 with
  | none => .next s
  | some q =>
    let w := q.arg.toNat
    if w = 0 || decide (w > 255) || !q.body.isEmpty then .next (finishCmd core q.id 2 0 s).act
    else .next (applied core q.id 0 (s.modDsp (fun d => { d with weights := put q.asid w d.weights }))).act

/-- R422: the oldest completion returns to the core's port. -/
def execCommandCompletion (core : Nat) (s : State) : Result :=
  match s.cmdDone.find? (fun e => e.1 == core) with
  | none => .next s
  | some e =>
    let v := (((s.core core).pending.find? (fun q => q.id == e.2.1)).map (·.arg)).getD 0
    .next (finishCmd core e.2.1 (if e.2.2 then 1 else 0) v
      { s with cmdDone := removeFirst (fun x => x == e) s.cmdDone }).act

/-! ### Service tokens (R423 to R425) -/

/-- Head and payload of a taken token (R424). -/
def Take.bytes (t : Take) : List Byte :=
  leBytes 16 t.tok.header ++ leBytes 8 t.handle ++ leBytes 2 t.code ++ leBytes 1 t.cls ++ [0] ++ leBytes 2 t.asid ++ zeros 2
    ++ t.tok.data

/-- R427: the consumer index of a set's host-to-device ring moves past an entry that is taken. -/
def advanceRing (t : Take) (s : State) : State :=
  if t.cls ≠ 13 then s
  else
    let base := bits (getD 0 t.set s.host.mbbase).toNat 14 50 * 2 ^ 14
    { s with host := { s.host with mem := writeNat s.host.mem (base + 12) 4 ((ringCons s base 0 + 1) % 2 ^ 32) } }

/-- R424: takes the oldest token of a class in the mask from the 64 in the queue; `poll` finds none: 0; otherwise it waits. -/
def execDmxTake (rd rs1 rs2 : BitVec 5) (s : State) : Result :=
  dmx rs1 rs2 (fun c a b s =>
    let x := s.core c
    match (x.takeq.take 64).find? (fun t => bit (a.toNat % 2 ^ 16) t.cls) with
    | none => if bit a.toNat 63 then .next (retireDmx c rd 0 s) else .next s
    | some t =>
      if !coreRoom s b.toNat t.bytes.length then gapStop c 2 b.toNat t.bytes.length s
      else
        let s1 := s.modCore c (fun x => { x with takeq := removeFirst (fun y => y == t) x.takeq })
        .next (retireDmx c rd (BitVec.ofNat 64 (t.cls + 16)) (advanceRing t (coreWrite c b.toNat t.bytes s1)))) s

/-- A reply image of another kind, or with a reserved size code (R425). -/
def replyBad (img : List Byte) : Bool :=
  decide (natAt img 1 1 > 5) || (natAt img 0 1 != 0 && natAt img 0 1 != 4)

/-- What a reply sends to the SVC's targets (R423, R425). -/
def replyOuts (img : List Byte) (pay : List Byte) (m : Msg) : List Out :=
  if natAt img 0 1 = 0 then
    let e := Elem.ofCode (natAt img 2 1 % 16)
    [dataOut e m.time pay m.t0, dataOut e m.time pay m.t1]
  else [markerOut 5 m.time m.t0, markerOut 5 m.time m.t1]

/-- Deliver a reply at the targets of its SVC: the MTs of their quads do (R166). -/
def deliverReply (handle : Nat) (v : Svc) (outs : List Out) (s : State) : Option State :=
  match v.msg.src with
  | .slot k _ => (match get? v.msg.h s.res with
    | none => none
    | some r => (mtSend s r k outs).map (fun e =>
        { (e.1.post k (ownPost v.msg (-1) ++ e.2)) with svcs := del handle s.svcs }))
  | .core _ _ => none

/-- R425: delivers a reply once; for a frozen residency it is kept; a stale handle discards it. -/
def execDmxGive (rd rs1 rs2 : BitVec 5) (s : State) : Result :=
  dmx rs1 rs2 (fun c a b s =>
    let done (v : W64) (s : State) : Result := .next (retireDmx c rd v s)
    if !coreRange s b.toNat 16 then gapStop c 1 b.toNat 16 s
    else
      let img := coreRead s c b.toNat 16
      let n := sizeBytes (natAt img 1 1)
      if replyBad img then done 3 s
      else match get? a.toNat s.svcs with
        | none => done 1 s
        | some v =>
          if v.kept.isSome then done 1 s
          else if natAt img 0 1 = 0 && !coreRange s (b.toNat + 16) n then gapStop c 1 (b.toNat + 16) n s
          else
            let outs := replyOuts img (coreRead s c (b.toNat + 16) n) v.msg
            if (runRes s v.msg.h).isNone then done 2 { s with svcs := put a.toNat { v with kept := some outs } s.svcs }
            else match deliverReply a.toNat v outs s with
              | some s1 => done 0 s1
              | none => .next s) s

/-! ### Faults, freezes and watch slots (R382, R395, R396, R398) -/

/-- R396: sends a disposition and returns what the controller makes of it. -/
def execDmxResume (rd rs1 rs2 : BitVec 5) (s : State) : Result :=
  dmx rs1 rs2 (fun c a b s =>
    match (s.core c).resume with
    | some (some code) => .next (retireDmx c rd (BitVec.ofNat 64 code) (s.modCore c (fun x => { x with resume := none })))
    | some none => .next s
    | none => match dispOf b.toNat with
      | none => .next (retireDmx c rd 3 s)
      | some d =>
        let (n, s) := s.newId
        .next ((s.modFaults (fun f => { f with disps := f.disps ++ [(⟨a.toNat, d, some c, false, n⟩ : DispReq)] })).modCore c
          (fun x => { x with resume := some none, resumed := n })).act) s

/-- R398: requests a freeze: 0 accepted, 1 ignored, 2 stale id, 3 bad cause. -/
def execDmxFrz (rd rs1 rs2 : BitVec 5) (s : State) : Result :=
  dmx rs1 rs2 (fun c a b s =>
    let h := idIndex a.toNat
    if b ≠ 1 && b ≠ 3 then .next (retireDmx c rd 3 s)
    else if decide (a.toNat ≥ 2 ^ 32) || staleId s a.toNat then .next (retireDmx c rd 2 s)
    else if !freezeAccepted (s.task h) b.toNat || s.dsp.frzq.any (fun q => q.1 == h) then .next (retireDmx c rd 1 s)
    else .next (retireDmx c rd 0 (s.modDsp (fun d => { d with frzq := d.frzq ++ [(h, b.toNat)] })))) s

/-- R395: claims a record that was delivered to this core and copies it out; a report closes with it. -/
def execDmxClaim (rd rs1 rs2 : BitVec 5) (s : State) : Result :=
  dmx rs1 rs2 (fun c a b s =>
    match openOf s a.toNat with
    | none => .next (retireDmx c rd 1 s)
    | some o =>
      if o.core ≠ some c then .next (retireDmx c rd 1 s)
      else if o.claimed then .next (retireDmx c rd 2 s)
      else if !coreRoom s b.toNat 128 then gapStop c 2 b.toNat 128 s
      else
        let s1 := coreWrite c b.toNat o.fr.bytes s
        let s2 := if o.fr.isHold then modOpen o.fr.fid (fun o => { o with claimed := true }) s1 else dropOpen o.fr.fid s1
        .next (retireDmx c rd 0 s2)) s

/-- R382: writes a watch slot; its launch queue stays. -/
def execDmxWatch (rd rs1 rs2 : BitVec 5) (s : State) : Result :=
  dmx rs1 rs2 (fun c a b s =>
    if a.toNat ≥ 256 then .next (retireDmx c rd 1 s)
    else if !coreRange s b.toNat 16 then gapStop c 1 b.toNat 16 s
    else
      let wa := leNat (coreRead s c b.toNat 8)
      let wb := leNat (coreRead s c (b.toNat + 8) 8)
      let w : Watch :=
        { va := bits wa 3 53 * 8, prio := bits wb 37 3, aff := bits wb 35 2, once := bit wb 34, en := bit wb 33,
          tmpl := bits wb 12 12, asid := bits wb 0 12, queue := (getD {} a.toNat s.watch).queue }
      .next (retireDmx c rd 0 { s with watch := put a.toNat w s.watch })) s

end Sys2Proof.Machine
end

