-- ==== Sys2Proof/Machine/RvFloat.lean ====
section
/-! DEFINITION. Floating point of a service core (R417: RISC-V F and D): one rounding with its exception flags, arithmetic,
comparisons, conversions. The rules are those of the RISC-V unprivileged architecture that R417 names (PRESUMED, log 5). -/

namespace Sys2Proof.Machine

/-- The format of single or double precision. -/
def rvFmt (dbl : Bool) : Fmt := if dbl then ⟨11, 52, 1023, true⟩ else ⟨8, 23, 127, true⟩

/-- Exception flags: NV 16, DZ 8, OF 4, UF 2, NX 1. -/
def joinFlags (a b : Nat) : Nat := Nat.lor a b

/-- Whether a pattern is a signalling NaN. -/
def isSnan (f : Fmt) (v : Nat) : Bool := bits v f.mb f.eb == 2 ^ f.eb - 1 && bits v 0 f.mb != 0 && !bit v (f.mb - 1)

/-- A float register as an operand: a single that is not boxed reads as the canonical NaN. -/
def unbox (dbl : Bool) (w : W64) : Nat :=
  if dbl then w.toNat
  else if bits w.toNat 32 32 = 2 ^ 32 - 1 then w.toNat % 2 ^ 32 else (rvFmt false).nanBits

/-- A result as the register holds it. -/
def box (dbl : Bool) (v : Nat) : W64 := BitVec.ofNat 64 (if dbl then v else v % 2 ^ 32 + (2 ^ 32 - 1) * 2 ^ 32)

/-- Whether a · 2^i is below b · 2^j. -/
def magLt (a : Nat) (i : Int) (b : Nat) (j : Int) : Bool :=
  let e := if i ≤ j then i else j
  decide (a * 2 ^ (i - e).toNat < b * 2 ^ (j - e).toNat)

/-- Round an exact finite value (with sticky, one just above m · 2^e in magnitude): bits and flags; tininess is found after
rounding. -/
def rvRound (f : Fmt) (rm : Nat) (neg : Bool) (m : Nat) (e : Int) (sticky : Bool) : Nat × Nat :=
  let (b, ev) := roundMag f rm false neg m e sticky
  if ev = .inf || ev = .sat then (b, 5)
  else
    let exact := !sticky && (match decodeF f b with
      | .fin _ m' e' => !magLt m e m' e' && !magLt m' e' m e
      | _ => false)
    let wide : Fmt := { f with eb := 15, bias := 16383 }
    let tiny := match decodeF wide (roundMag wide rm false neg m e sticky).1 with
      | .fin _ m' e' => magLt m' e' 1 (1 - (f.bias : Int))
      | _ => false
    (b, if exact then 0 else if tiny then 3 else 1)

/-- Round a value that is exact. -/
def rvEncode (f : Fmt) (rm : Nat) : FVal → Nat × Nat
  | .nan => (f.nanBits, 0)
  | .inf neg => (f.signBit neg + f.infBits, 0)
  | .fin neg m e => rvRound f rm neg m e false

/-- NV where an operand signals, or a NaN comes of numbers. -/
def nvOf (f : Fmt) (ops : List Nat) (v : FVal) : Nat :=
  if ops.any (isSnan f) || (v.isNan && ops.all (fun a => !(decodeF f a).isNan)) then 16 else 0

def rvAdd (f : Fmt) (rm a b : Nat) : Nat × Nat :=
  let v := addV rm (decodeF f a) (decodeF f b)
  let r := rvEncode f rm v
  (r.1, joinFlags r.2 (nvOf f [a, b] v))

/-- The pattern with its sign changed. -/
def flipSign (f : Fmt) (a : Nat) : Nat := Nat.xor (a % 2 ^ f.width) (2 ^ (f.eb + f.mb))

def rvMul (f : Fmt) (rm a b : Nat) : Nat × Nat :=
  let v := mulV (decodeF f a) (decodeF f b)
  let r := rvEncode f rm v
  (r.1, joinFlags r.2 (nvOf f [a, b] v))

/-- a · b + c with one rounding; infinity times zero is invalid whatever c. -/
def rvFma (f : Fmt) (rm a b c : Nat) : Nat × Nat :=
  let p := mulV (decodeF f a) (decodeF f b)
  let v := addV rm p (decodeF f c)
  let r := rvEncode f rm v
  let nv := if (nvOf f [a, b] p) = 16 then 16 else nvOf f [a, b, c] v
  (r.1, joinFlags r.2 nv)

def rvDiv (f : Fmt) (rm a b : Nat) : Nat × Nat :=
  let nan (v : Nat) : Nat × Nat := (f.nanBits, v)
  match decodeF f a, decodeF f b with
  | .nan, _ | _, .nan => nan (nvOf f [a, b] (.fin false 0 0))
  | .inf _, .inf _ => nan 16
  | .inf s, .fin t _ _ => (f.signBit (s != t) + f.infBits, 0)
  | .fin s _ _, .inf t => (f.signBit (s != t), 0)
  | .fin s m e, .fin t n d =>
    if n = 0 then (if m = 0 then nan 16 else (f.signBit (s != t) + f.infBits, 8))
    else if m = 0 then (f.signBit (s != t), 0)
    else
      let k := f.mb + 3 + bigLen n
      let x := m * 2 ^ k
      rvRound f rm (s != t) (x / n) (e - d - k) (x % n != 0)

def rvSqrt (f : Fmt) (rm a : Nat) : Nat × Nat :=
  match decodeF f a with
  | .nan => (f.nanBits, nvOf f [a] (.fin false 0 0))
  | .inf s => if s then (f.nanBits, 16) else (a, 0)
  | .fin s m e =>
    if m = 0 then (a, 0)
    else if s then (f.nanBits, 16)
    else
      let (m, e) := evenExp m e
      let k := f.mb + 3
      let x := m * 4 ^ k
      let r := isqrt (bigLen x) x
      rvRound f rm false r (e / 2 - k) (r * r != x)

/-- FMIN and FMAX: a number beats a NaN, −0 stands below +0. -/
def rvMinMax (f : Fmt) (max : Bool) (a b : Nat) : Nat × Nat :=
  let x := decodeF f a
  let y := decodeF f b
  let nv := if isSnan f a || isSnan f b then 16 else 0
  let v := if x.isNan && y.isNan then f.nanBits
    else if x.isNan then b else if y.isNan then a
    else
      let less := ltV x y || (!ltV y x && x.sign)
      if less != max then a else b
  (v, nv)

/-- FEQ (2, quiet), FLT (1) and FLE (0), which signal on any NaN. -/
def rvCompare (f : Fmt) (k a b : Nat) : Bool × Nat :=
  let x := decodeF f a
  let y := decodeF f b
  if x.isNan || y.isNan then (false, if k ≠ 2 || isSnan f a || isSnan f b then 16 else 0)
  else if k = 2 then (!ltV x y && !ltV y x, 0)
  else if k = 1 then (ltV x y, 0)
  else (!ltV y x, 0)

/-- FCLASS: one of ten bits. -/
def rvClass (f : Fmt) (a : Nat) : Nat := match decodeF f a with
  | .nan => if isSnan f a then 2 ^ 8 else 2 ^ 9
  | .inf s => if s then 1 else 2 ^ 7
  | .fin s m _ =>
    if m = 0 then (if s then 2 ^ 3 else 2 ^ 4)
    else if bits a f.mb f.eb = 0 then (if s then 2 ^ 2 else 2 ^ 5)
    else if s then 2 ^ 1 else 2 ^ 6

/-- A float to an integer of n bits: the value, clamped where it does not fit, and flags. -/
def rvToInt (f : Fmt) (rm n : Nat) (signed : Bool) (a : Nat) : Int × Nat :=
  let hi : Int := if signed then 2 ^ (n - 1) - 1 else 2 ^ n - 1
  let lo : Int := if signed then -(2 ^ (n - 1)) else 0
  match decodeF f a with
  | .nan => (hi, 16)
  | .inf s => (if s then lo else hi, 16)
  | .fin s m e =>
    if e > 64 && m ≠ 0 then (if s then lo else hi, 16)
    else
      let (k, half) := cutAt m e 0 false
      let k := if roundsUp rm s k half then k + 1 else k
      let v : Int := if s then -(k : Int) else k
      if v > hi then (hi, 16) else if v < lo then (lo, 16) else (v, if half = 0 then 0 else 1)

/-- An integer to a float. -/
def rvOfInt (f : Fmt) (rm : Nat) (v : Int) : Nat × Nat := rvRound f rm (decide (v < 0)) v.natAbs 0 false

/-- Between single and double. -/
def rvCast (src dst : Fmt) (rm a : Nat) : Nat × Nat :=
  let r := rvEncode dst rm (decodeF src a)
  (r.1, joinFlags r.2 (if isSnan src a then 16 else 0))

/-- FSGNJ (0), FSGNJN (1), FSGNJX (2). -/
def rvSign (f : Fmt) (k a b : Nat) : Nat :=
  let sb := bit b (f.eb + f.mb)
  let s := if k = 0 then sb else if k = 1 then !sb else sb != bit a (f.eb + f.mb)
  a % 2 ^ (f.eb + f.mb) + f.signBit s

/-! ### The float registers of a core -/

def Core.freg (c : Core) (n : Nat) : W64 := getD 0 n c.fregs

/-- Write a float register; mstatus.FS becomes dirty. -/
def Core.setFreg (c : Core) (n : Nat) (v : W64) : Core :=
  { (c.setCsr 0x300 (setBits (c.csr 0x300) 13 2 3)) with fregs := put n v c.fregs }

/-- Accrue exception flags. -/
def Core.accrue (c : Core) (fl : Nat) : Core :=
  if fl = 0 then c else (c.setCsr 3 (joinFlags (c.csr 3) fl)).setCsr 0x300 (setBits (c.csr 0x300) 13 2 3)

/-- The rounding mode of an instruction: its own, or frm; `none` where reserved. -/
def Core.rounding (c : Core) (rm : Nat) : Option Nat :=
  let r := if rm = 7 then bits (c.csr 3) 5 3 else rm
  if r ≤ 4 then some r else none

/-- One of FADD to FCVT and FMV, by funct7[6:2], rs2 and rm; `none` for a reserved encoding. -/
def Core.farith (c : Core) (f5 : Nat) (dbl : Bool) (rd rs1 rs2 rm : Nat) : Option Core :=
  let f := rvFmt dbl
  let a := unbox dbl (c.freg rs1)
  let b := unbox dbl (c.freg rs2)
  let toF (r : Nat × Nat) : Core := (c.setFreg rd (box dbl r.1)).accrue r.2
  let toX (v : Nat) (fl : Nat) : Core := (c.setReg rd (BitVec.ofNat 64 v)).accrue fl
  match f5 with
  | 0x00 => (c.rounding rm).map (fun m => toF (rvAdd f m a b))
  | 0x01 => (c.rounding rm).map (fun m =>
      toF (if (decodeF f b).isNan then rvAdd f m a b else rvAdd f m a (flipSign f b)))
  | 0x02 => (c.rounding rm).map (fun m => toF (rvMul f m a b))
  | 0x03 => (c.rounding rm).map (fun m => toF (rvDiv f m a b))
  | 0x0B => if rs2 ≠ 0 then none else (c.rounding rm).map (fun m => toF (rvSqrt f m a))
  | 0x04 => if rm > 2 then none else some (toF (rvSign f rm a b, 0))
  | 0x05 => if rm > 1 then none else some (toF (rvMinMax f (rm == 1) a b))
  | 0x08 =>
    if rs2 ≠ (if dbl then 0 else 1) then none
    else (c.rounding rm).map (fun m => toF (rvCast (rvFmt !dbl) f m (unbox (!dbl) (c.freg rs1))))
  | 0x14 => if rm > 2 then none else let r := rvCompare f rm a b; some (toX (if r.1 then 1 else 0) r.2)
  | 0x18 =>
    if rs2 > 3 then none
    else (c.rounding rm).map (fun m =>
      let n := if rs2 < 2 then 32 else 64
      let r := rvToInt f m n (rs2 % 2 == 0) a
      let v := BitVec.ofInt n r.1
      (c.setReg rd (v.signExtend 64)).accrue r.2)
  | 0x1A =>
    if rs2 > 3 then none
    else (c.rounding rm).map (fun m =>
      let n := if rs2 < 2 then 32 else 64
      let w := (c.reg rs1).setWidth n
      toF (rvOfInt f m (if rs2 % 2 = 0 then w.toInt else (w.toNat : Int))))
  | 0x1C =>
    if rs2 ≠ 0 then none
    else if rm = 0 then
      some (c.setReg rd (if dbl then c.freg rs1 else ((c.freg rs1).setWidth 32).signExtend 64))
    else if rm = 1 then some (toX (rvClass f a) 0)
    else none
  | 0x1E => if rs2 ≠ 0 || rm ≠ 0 then none else some (c.setFreg rd (box dbl (c.reg rs1).toNat))
  | _ => none

/-- FMADD 0, FMSUB 1, FNMSUB 2, FNMADD 3. -/
def Core.ffused (c : Core) (op : Nat) (dbl : Bool) (rd rs1 rs2 rs3 rm : Nat) : Option Core :=
  (c.rounding rm).map (fun m =>
    let f := rvFmt dbl
    let neg (x : Nat) : Nat := if (decodeF f x).isNan then x else flipSign f x
    let a := unbox dbl (c.freg rs1)
    let b := unbox dbl (c.freg rs2)
    let d := unbox dbl (c.freg rs3)
    let a := if op = 2 || op = 3 then neg a else a
    let d := if op = 1 || op = 3 then neg d else d
    let r := rvFma f m a b d
    (c.setFreg rd (box dbl r.1)).accrue r.2)

end Sys2Proof.Machine
end

