-- ==== Sys2Proof/Machine/Rv.lean ====
section
/-! DEFINITION. The base instruction set of a service core (R417: RV64I, M, A, F, D, C, Zicsr, Zifencei, the privilege modes, Sv48).
R417 names the RISC-V ratified ISA; encodings and effects are that ISA's (PRESUMED, log 5). -/

namespace Sys2Proof.Machine

/-! ### Decoding -/

/-- A word of the base ISA. Registers by number, immediates sign-extended; `f3` and the like as the encodings have them. -/
inductive Rv where
  | lui (rd : Nat) (imm : W64)
  | auipc (rd : Nat) (imm : W64)
  | jal (rd : Nat) (imm : W64)
  | jalr (rd rs1 : Nat) (imm : W64)
  | branch (f3 rs1 rs2 : Nat) (imm : W64)
  | load (f3 rd rs1 : Nat) (imm : W64)
  | store (f3 rs1 rs2 : Nat) (imm : W64)
  /-- `alt`: SUB, SRA; `w`: on 32 bits; `imm` in place of rs2 where it is there -/
  | alu (f3 : Nat) (alt w : Bool) (rd rs1 rs2 : Nat) (imm : Option W64)
  | mul (f3 : Nat) (w : Bool) (rd rs1 rs2 : Nat)
  | amo (f5 : Nat) (dbl : Bool) (rd rs1 rs2 : Nat)
  | fence
  | csr (f3 rd rs1 num : Nat)
  | ecall
  | ebreak
  | mret
  | sret
  | wfi
  | sfence
  | fload (dbl : Bool) (rd rs1 : Nat) (imm : W64)
  | fstore (dbl : Bool) (rs1 rs2 : Nat) (imm : W64)
  | fused (op : Nat) (dbl : Bool) (rd rs1 rs2 rs3 rm : Nat)
  | farith (f5 : Nat) (dbl : Bool) (rd rs1 rs2 rm : Nat)
  deriving DecidableEq, Repr

/-- Sign-extended from n bits. -/
def sx (n v : Nat) : W64 := (BitVec.ofNat n v).signExtend 64

/-- Immediates of the six formats. -/
def immI (w : Nat) : W64 := sx 12 (bits w 20 12)
def immS (w : Nat) : W64 := sx 12 (bits w 25 7 * 2 ^ 5 + bits w 7 5)
def immB (w : Nat) : W64 := sx 13 (bits w 31 1 * 2 ^ 12 + bits w 7 1 * 2 ^ 11 + bits w 25 6 * 2 ^ 5 + bits w 8 4 * 2)
def immU (w : Nat) : W64 := sx 32 (bits w 12 20 * 2 ^ 12)
def immJ (w : Nat) : W64 := sx 21 (bits w 31 1 * 2 ^ 20 + bits w 12 8 * 2 ^ 12 + bits w 20 1 * 2 ^ 11 + bits w 21 10 * 2)

/-- SYSTEM words with funct3 0. -/
def decodePriv (w : Nat) : Option Rv :=
  if w = 0x00000073 then some .ecall
  else if w = 0x00100073 then some .ebreak
  else if w = 0x30200073 then some .mret
  else if w = 0x10200073 then some .sret
  else if w = 0x10500073 then some .wfi
  else if bits w 25 7 = 9 && bits w 7 5 = 0 then some .sfence
  else none

/-- Register and immediate arithmetic. -/
def decodeAlu (w rd f3 rs1 rs2 : Nat) (imm w32 : Bool) : Option Rv :=
  let f7 := bits w 25 7
  if imm then
    let shift := f3 = 1 || f3 = 5
    let top := if w32 then f7 else f7 / 2
    let alt := top = (if w32 then 0x20 else 0x10)
    if w32 && !(f3 = 0 || shift) then none
    else if shift && !(top = 0 || (alt && f3 = 5)) then none
    else some (.alu f3 (shift && alt) w32 rd rs1 0
      (some (if shift then BitVec.ofNat 64 (bits w 20 (if w32 then 5 else 6)) else immI w)))
  else if f7 = 1 then (if w32 && (f3 = 1 || f3 = 2 || f3 = 3) then none else some (.mul f3 w32 rd rs1 rs2))
  else if f7 = 0 then (if w32 && !(f3 = 0 || f3 = 1 || f3 = 5) then none else some (.alu f3 false w32 rd rs1 rs2 none))
  else if f7 = 0x20 then (if f3 = 0 || f3 = 5 then some (.alu f3 true w32 rd rs1 rs2 none) else none)
  else none

/-- Atomic operations: LR 2, SC 3, SWAP 1, ADD 0, XOR 4, AND 12, OR 8, MIN 16, MAX 20, MINU 24, MAXU 28. -/
def decodeAmo (w rd f3 rs1 rs2 : Nat) : Option Rv :=
  let f5 := bits w 27 5
  if f3 ≠ 2 && f3 ≠ 3 then none
  else if f5 = 2 then (if rs2 = 0 then some (.amo f5 (f3 == 3) rd rs1 rs2) else none)
  else if [0, 1, 3, 4, 8, 12, 16, 20, 24, 28].contains f5 then some (.amo f5 (f3 == 3) rd rs1 rs2)
  else none

/-- A 32-bit word; `none` for a reserved one. -/
def decodeRv (w : Nat) : Option Rv :=
  let rd := bits w 7 5
  let f3 := bits w 12 3
  let rs1 := bits w 15 5
  let rs2 := bits w 20 5
  let dbl := bits w 25 2 = 1
  let flt := bits w 25 2 ≤ 1
  match bits w 0 7 with
  | 0x37 => some (.lui rd (immU w))
  | 0x17 => some (.auipc rd (immU w))
  | 0x6F => some (.jal rd (immJ w))
  | 0x67 => if f3 = 0 then some (.jalr rd rs1 (immI w)) else none
  | 0x63 => if f3 = 2 || f3 = 3 then none else some (.branch f3 rs1 rs2 (immB w))
  | 0x03 => if f3 = 7 then none else some (.load f3 rd rs1 (immI w))
  | 0x23 => if f3 > 3 then none else some (.store f3 rs1 rs2 (immS w))
  | 0x13 => decodeAlu w rd f3 rs1 rs2 true false
  | 0x1B => decodeAlu w rd f3 rs1 rs2 true true
  | 0x33 => decodeAlu w rd f3 rs1 rs2 false false
  | 0x3B => decodeAlu w rd f3 rs1 rs2 false true
  | 0x0F => if f3 ≤ 1 then some .fence else none
  | 0x2F => decodeAmo w rd f3 rs1 rs2
  | 0x73 => if f3 = 0 then decodePriv w else if f3 = 4 then none else some (.csr f3 rd rs1 (bits w 20 12))
  | 0x07 => if f3 = 2 || f3 = 3 then some (.fload (f3 == 3) rd rs1 (immI w)) else none
  | 0x27 => if f3 = 2 || f3 = 3 then some (.fstore (f3 == 3) rs1 rs2 (immS w)) else none
  | 0x43 => if flt then some (.fused 0 dbl rd rs1 rs2 (bits w 27 5) f3) else none
  | 0x47 => if flt then some (.fused 1 dbl rd rs1 rs2 (bits w 27 5) f3) else none
  | 0x4B => if flt then some (.fused 2 dbl rd rs1 rs2 (bits w 27 5) f3) else none
  | 0x4F => if flt then some (.fused 3 dbl rd rs1 rs2 (bits w 27 5) f3) else none
  | 0x53 => if flt then some (.farith (bits w 27 5) dbl rd rs1 rs2 f3) else none
  | _ => none

/-- The immediate-form operation. -/
def addI (rd rs1 : Nat) (imm : W64) (w32 : Bool := false) : Rv := .alu 0 false w32 rd rs1 0 (some imm)

/-- A 16-bit word of quadrant 0. -/
def decodeC0 (v : Nat) : Option Rv :=
  let rd := 8 + bits v 2 3
  let rs1 := 8 + bits v 7 3
  let uw := bits v 5 1 * 2 ^ 6 + bits v 10 3 * 2 ^ 3 + bits v 6 1 * 2 ^ 2
  let ud := bits v 5 2 * 2 ^ 6 + bits v 10 3 * 2 ^ 3
  let n : W64 := BitVec.ofNat 64 (if bits v 13 2 = 2 then uw else ud)
  match bits v 13 3 with
  | 0 =>
    let u := bits v 7 4 * 2 ^ 6 + bits v 11 2 * 2 ^ 4 + bits v 5 1 * 2 ^ 3 + bits v 6 1 * 2 ^ 2
    if u = 0 then none else some (addI rd 2 (BitVec.ofNat 64 u))
  | 1 => some (.fload true rd rs1 n)
  | 2 => some (.load 2 rd rs1 n)
  | 3 => some (.load 3 rd rs1 n)
  | 5 => some (.fstore true rs1 rd n)
  | 6 => some (.store 2 rs1 rd n)
  | 7 => some (.store 3 rs1 rd n)
  | _ => none

/-- A 16-bit word of quadrant 1. -/
def decodeC1 (v : Nat) : Option Rv :=
  let rd := bits v 7 5
  let r := 8 + bits v 7 3
  let r2 := 8 + bits v 2 3
  let u6 := bits v 12 1 * 2 ^ 5 + bits v 2 5
  let imm := sx 6 u6
  let ij := sx 12 (bits v 12 1 * 2 ^ 11 + bits v 8 1 * 2 ^ 10 + bits v 9 2 * 2 ^ 8 + bits v 6 1 * 2 ^ 7 + bits v 7 1 * 2 ^ 6
    + bits v 2 1 * 2 ^ 5 + bits v 11 1 * 2 ^ 4 + bits v 3 3 * 2)
  let ib := sx 9 (bits v 12 1 * 2 ^ 8 + bits v 5 2 * 2 ^ 6 + bits v 2 1 * 2 ^ 5 + bits v 10 2 * 2 ^ 3 + bits v 3 2 * 2)
  match bits v 13 3 with
  | 0 => some (addI rd rd imm)
  | 1 => if rd = 0 then none else some (addI rd rd imm true)
  | 2 => some (addI rd 0 imm)
  | 3 =>
    if u6 = 0 then none
    else if rd = 2 then
      some (addI 2 2 (sx 10 (bits v 12 1 * 2 ^ 9 + bits v 3 2 * 2 ^ 7 + bits v 5 1 * 2 ^ 6 + bits v 2 1 * 2 ^ 5 + bits v 6 1 * 2 ^ 4)))
    else some (.lui rd (sx 18 (u6 * 2 ^ 12)))
  | 4 => match bits v 10 2 with
    | 0 => some (.alu 5 false false r r 0 (some (BitVec.ofNat 64 u6)))
    | 1 => some (.alu 5 true false r r 0 (some (BitVec.ofNat 64 u6)))
    | 2 => some (.alu 7 false false r r 0 (some imm))
    | _ => match bits v 12 1, bits v 5 2 with
      | 0, 0 => some (.alu 0 true false r r r2 none)
      | 0, 1 => some (.alu 4 false false r r r2 none)
      | 0, 2 => some (.alu 6 false false r r r2 none)
      | 0, _ => some (.alu 7 false false r r r2 none)
      | _, 0 => some (.alu 0 true true r r r2 none)
      | _, 1 => some (.alu 0 false true r r r2 none)
      | _, _ => none
  | 5 => some (.jal 0 ij)
  | 6 => some (.branch 0 r 0 ib)
  | _ => some (.branch 1 r 0 ib)

/-- A 16-bit word of quadrant 2. -/
def decodeC2 (v : Nat) : Option Rv :=
  let rd := bits v 7 5
  let rs2 := bits v 2 5
  let lw : W64 := BitVec.ofNat 64 (bits v 2 2 * 2 ^ 6 + bits v 12 1 * 2 ^ 5 + bits v 4 3 * 2 ^ 2)
  let ld : W64 := BitVec.ofNat 64 (bits v 2 3 * 2 ^ 6 + bits v 12 1 * 2 ^ 5 + bits v 5 2 * 2 ^ 3)
  let sw : W64 := BitVec.ofNat 64 (bits v 7 2 * 2 ^ 6 + bits v 9 4 * 2 ^ 2)
  let sd : W64 := BitVec.ofNat 64 (bits v 7 3 * 2 ^ 6 + bits v 10 3 * 2 ^ 3)
  match bits v 13 3 with
  | 0 => some (.alu 1 false false rd rd 0 (some (BitVec.ofNat 64 (bits v 12 1 * 2 ^ 5 + bits v 2 5))))
  | 1 => some (.fload true rd 2 ld)
  | 2 => if rd = 0 then none else some (.load 2 rd 2 lw)
  | 3 => if rd = 0 then none else some (.load 3 rd 2 ld)
  | 4 =>
    if bits v 12 1 = 0 then
      (if rs2 = 0 then (if rd = 0 then none else some (.jalr 0 rd 0)) else some (.alu 0 false false rd 0 rs2 none))
    else if rs2 = 0 then (if rd = 0 then some .ebreak else some (.jalr 1 rd 0))
    else some (.alu 0 false false rd rd rs2 none)
  | 5 => some (.fstore true 2 rs2 sd)
  | 6 => some (.store 2 2 rs2 sw)
  | _ => some (.store 3 2 rs2 sd)

/-- The bytes at the pc: 16 bits where the low two are not 11, else 32. -/
def decodeBase (bs : List Byte) : Option Rv :=
  let v := leNat (bs.take 2)
  match v % 4 with
  | 0 => decodeC0 v
  | 1 => decodeC1 v
  | 2 => decodeC2 v
  | _ => decodeRv (leNat (bs.take 4))

/-! ### Integer operations -/

/-- The ALU on n bits: shift amounts are taken modulo the width. -/
def aluOp {n : Nat} (f3 : Nat) (alt : Bool) (a b : BitVec n) : BitVec n :=
  let sh := b.toNat % n
  match f3 with
  | 0 => if alt then a - b else a + b
  | 1 => a <<< sh
  | 2 => if a.slt b then 1 else 0
  | 3 => if a.ult b then 1 else 0
  | 4 => a ^^^ b
  | 5 => if alt then a.sshiftRight sh else a >>> sh
  | 6 => a ||| b
  | _ => a &&& b

/-- MUL to REMU on n bits; division by zero and overflow as the M extension defines them. -/
def mulOp {n : Nat} (f3 : Nat) (a b : BitVec n) : BitVec n :=
  let hi (v : Int) : BitVec n := BitVec.ofInt n (v / 2 ^ n)
  match f3 with
  | 0 => a * b
  | 1 => hi (a.toInt * b.toInt)
  | 2 => hi (a.toInt * b.toNat)
  | 3 => hi ((a.toNat : Int) * b.toNat)
  | 4 => if b = 0 then BitVec.allOnes n else BitVec.ofInt n (a.toInt.tdiv b.toInt)
  | 5 => if b = 0 then BitVec.allOnes n else BitVec.ofNat n (a.toNat / b.toNat)
  | 6 => if b = 0 then a else BitVec.ofInt n (a.toInt.tmod b.toInt)
  | _ => if b = 0 then a else BitVec.ofNat n (a.toNat % b.toNat)

/-- On 64 bits, or on the low 32 with the result sign-extended. -/
def onWidth (w32 : Bool) (f : {n : Nat} → BitVec n → BitVec n → BitVec n) (a b : W64) : W64 :=
  if w32 then (f (a.setWidth 32) (b.setWidth 32)).signExtend 64 else f a b

/-- BEQ, BNE, BLT, BGE, BLTU, BGEU. -/
def branchTaken (f3 : Nat) (a b : W64) : Bool :=
  let c := match f3 / 2 with
    | 0 => a == b
    | 2 => a.slt b
    | _ => a.ult b
  c != (f3 % 2 == 1)

/-- What an atomic operation stores. -/
def amoOp {n : Nat} (f5 : Nat) (old v : BitVec n) : BitVec n := match f5 with
  | 0 => old + v
  | 4 => old ^^^ v
  | 8 => old ||| v
  | 12 => old &&& v
  | 16 => if old.slt v then old else v
  | 20 => if old.slt v then v else old
  | 24 => if old.ult v then old else v
  | 28 => if old.ult v then v else old
  | _ => v

/-! ### Data addresses (Sv48) -/

/-- Kinds of access: fetch 0, load 1, store 2. Causes of their page faults. -/
def pageCause (k : Nat) : Nat := if k = 0 then 12 else if k = 1 then 13 else 15

/-- Whether a leaf allows an access: V, A, and D for a store; X, or R (with MXR also X), or W; U as the mode and SUM ask. A leaf whose A
or D bit is clear faults. -/
def leafAllows (k mode status pte : Nat) : Bool :=
  let kind := match k with
    | 0 => bit pte 3
    | 1 => bit pte 1 || (bit status 19 && bit pte 3)
    | _ => bit pte 2 && bit pte 7
  let user := if bit pte 4 then mode = 0 || (mode = 1 && k ≠ 0 && bit status 18) else mode ≠ 0
  bit pte 0 && bit pte 6 && bits pte 54 10 = 0 && kind && user

/-- The Sv48 walk from a level down: the physical address, or the cause of a page fault, or of an access fault where an entry stands at a
vacant address. -/
def sv48 (s : State) (c k mode status va : Nat) : Nat → Nat → Except Nat Nat
  | 0, _ => .error (pageCause k)
  | l + 1, table =>
    let at' := table + 8 * bits va (12 + 9 * l) 9
    if !coreRange s at' 8 then .error (accessCause k)
    else
      let pte := leNat (coreRead s c at' 8)
      let page := bits pte 10 44 * 4096
      let span := 2 ^ (12 + 9 * l)
      if !bit pte 0 || (bit pte 2 && !bit pte 1) || bits pte 54 10 ≠ 0 then .error (pageCause k)
      else if bit pte 1 || bit pte 3 then
        if leafAllows k mode status pte && page % span = 0 then .ok (page + va % span) else .error (pageCause k)
      else sv48 s c k mode status va l page

/-- Core-physical address of an access, or the cause of the fault it meets: bare in machine mode and without a translation mode, else Sv48.
Loads and stores in machine mode take the previous mode under MPRV. -/
def corePa (s : State) (c k va : Nat) : Except Nat Nat :=
  let x := s.core c
  let status := x.csr 0x300
  let mode := if k ≠ 0 && x.mode = 3 && bit status 17 then bits status 11 2 else x.mode
  let satp := x.csr 0x180
  if mode = 3 || bits satp 60 4 ≠ 9 then .ok va
  else if va / 2 ^ 47 ≠ 0 && va / 2 ^ 47 ≠ 2 ^ 17 - 1 then .error (pageCause k)
  else sv48 s c k mode status va 4 (bits satp 0 44 * 4096)

/-- What an access meets: a trap with its cause and value. -/
inductive Stop where
  | trap (cause : Nat) (tval : W64)
  deriving DecidableEq, Repr

/-- Which of n bytes that a core reads meets a bad word of its local SRAM: the step's bad byte, counted from 8 (R433). -/
def badByte (s : State) (n : Nat) : Option Nat := match s.focus.bad with
  | some b => if 8 ≤ b then some ((b - 8) % n) else none
  | none => none

/-- Core-physical addresses of n bytes, each byte translated; a vacant address is an access fault, and so is a load's bad word of the local
SRAM (log 5). -/
def dataPas (s : State) (c k : Nat) (va : W64) (n : Nat) : Except Stop (List Nat) :=
  (upto n).mapM (fun i =>
    let v := (va.toNat + i) % 2 ^ 64
    match corePa s c k v with
    | .error cause => .error (.trap cause va)
    | .ok a =>
      if !(if k = 2 then coreRam s a else coreBacked s a) || (k == 1 && decide (a < 0x80000) && badByte s n == some i) then
        .error (.trap (accessCause k) va)
      else .ok a)

/-- A store of core c breaks reservations: at device addresses those of every core, in the local SRAM its own. -/
def breakResv (c : Nat) (as : List Nat) (s : State) : State :=
  let own := as.filter (fun a => decide (a < 0x80000))
  let s := as.foldl (fun s a => if a < 0x80000 then s else dropResv a 1 s) s
  if own.isEmpty then s else s.modCore c (fun x => if x.resv.any (fun g => own.any (fun a => a / 64 == g)) then { x with resv := none } else x)

/-- Store bytes at physical addresses. -/
def storePas (c : Nat) (as : List Nat) (bs : List Byte) (s : State) : State :=
  (as.zip bs).foldl (fun s x => coreWrite c x.1 [x.2] s) (breakResv c as s)

/-- Load bytes from physical addresses. -/
def loadPas (s : State) (c : Nat) (as : List Nat) : Nat := leNat (as.map (fun a => coreByte s c a))

/-! ### Control and status registers -/

/-- Bits of mstatus that software writes; those of sstatus. -/
def mstatusMask : Nat := 0x7E79AA
def sstatusMask : Nat := 0xC6122
def sie : Nat := 0x222

/-- A read of mstatus: UXL and SXL are 64 bits, SD where FS is dirty. -/
def statusRead (v : Nat) : Nat := v + 2 * 2 ^ 32 + 2 * 2 ^ 34 + (if bits v 13 2 = 3 then 2 ^ 63 else 0)

/-- misa: RV64, A, C, D, F, I, M, S, U, and X for Xdmx. -/
def misa : Nat := 2 * 2 ^ 62 + 2 ^ 0 + 2 ^ 2 + 2 ^ 3 + 2 ^ 5 + 2 ^ 8 + 2 ^ 12 + 2 ^ 18 + 2 ^ 20 + 2 ^ 23

/-- Whether a counter may be read in a mode: mcounteren, and scounteren in user mode. -/
def counterOk (x : Core) (n : Nat) : Bool :=
  (x.mode = 3 || bit (x.csr 0x306) (n % 32)) && (x.mode ≠ 0 || bit (x.csr 0x106) (n % 32))

/-- Reads of a CSR: `none` for one that is not there or that the mode may not reach. Counters: cycle counts fabric cycles, instret the
base words retired; other events count nothing (DESIGN CHOICE, log 5); `free` is the wall clock, which nothing gives. -/
def csrRead (s : State) (c : Nat) (free : W64) (n : Nat) : Option Nat :=
  let x := s.core c
  let v := x.csr n
  let masked (m : Nat) : Nat := (BitVec.ofNat 64 v &&& BitVec.ofNat 64 m).toNat
  let sub (k : Nat) : Nat := (BitVec.ofNat 64 (x.csr k) &&& BitVec.ofNat 64 (x.csr 0x303) &&& BitVec.ofNat 64 sie).toNat
  if bits n 8 2 > x.mode then none
  else if n ≤ 3 then
    (if n = 0 || bits (x.csr 0x300) 13 2 = 0 then none
    else some (let f := x.csr 3 % 256; if n = 1 then f % 32 else if n = 2 then f / 32 else f))
  else if n = 0x300 then some (statusRead v)
  else if n = 0x100 then some (statusRead ((BitVec.ofNat 64 (x.csr 0x300) &&& BitVec.ofNat 64 sstatusMask).toNat) - 2 * 2 ^ 34)
  else if n = 0x301 then some misa
  else if n = 0x104 then some (sub 0x304)
  else if n = 0x144 then some (sub 0x344)
  else if n = 0x180 then (if x.mode = 1 && bit (x.csr 0x300) 20 then none else some v)
  else if n = 0xF14 then some c
  else if n = 0xC00 then (if counterOk x n then some ((s.cycle + x.csr 0xB00) % 2 ^ 64) else none)
  else if n = 0xB00 then some ((s.cycle + v) % 2 ^ 64)
  else if n = 0xC01 then (if counterOk x n then some free.toNat else none)
  else if n = 0xC02 then (if counterOk x n then some (x.csr 0xB02) else none)
  else if 0xC03 ≤ n ∧ n ≤ 0xC1F then (if counterOk x n then some 0 else none)
  else if [0x302, 0x303, 0x304, 0x305, 0x306, 0x340, 0x341, 0x342, 0x343, 0x344, 0x105, 0x106, 0x140, 0x141, 0x142, 0x143, 0xB02].contains n
    then some (masked (2 ^ 64 - 1))
  else if [0xF11, 0xF12, 0xF13, 0xF15, 0x30A, 0x10A, 0x320, 0x3A0, 0x3A2, 0x3A4, 0x3A6, 0x3A8, 0x3AA, 0x3AC, 0x3AE].contains n
      || (decide (0xB03 ≤ n) && decide (n ≤ 0xB1F)) || (decide (0x323 ≤ n) && decide (n ≤ 0x33F)) || (decide (0x3B0 ≤ n) && decide (n ≤ 0x3EF))
    then some 0
  else none

/-- Bits of the old value outside a mask, and of the new one inside it. -/
def blend (mask old new : Nat) : Nat :=
  (BitVec.ofNat 64 old &&& ~~~(BitVec.ofNat 64 mask) ||| BitVec.ofNat 64 new &&& BitVec.ofNat 64 mask).toNat

/-- Write mstatus under a mask; MPP keeps its value where 2 is written. -/
def writeStatus (x : Core) (mask v : Nat) : Core :=
  let old := x.csr 0x300
  let w := blend mask old v
  x.setCsr 0x300 (if bits w 11 2 = 2 then setBits w 11 2 (bits old 11 2) else w)

/-- Writes of a CSR: fields that are not writable keep their values. -/
def csrWrite (s : State) (c n v : Nat) : Core :=
  let x := s.core c
  let old := x.csr n
  let fcsr (f : Nat) : Core := { x.setCsr 3 f with csrs := put 0x300 (BitVec.ofNat 64 (setBits (x.csr 0x300) 13 2 3)) (x.setCsr 3 f).csrs }
  match n with
  | 1 => fcsr (setBits (x.csr 3) 0 5 v)
  | 2 => fcsr (setBits (x.csr 3) 5 3 v)
  | 3 => fcsr (v % 256)
  | 0x300 => writeStatus x mstatusMask v
  | 0x100 => writeStatus x sstatusMask v
  | 0x302 => x.setCsr n (blend 0xB3FF 0 v)
  | 0x303 => x.setCsr n (blend sie 0 v)
  | 0x304 => x.setCsr n (blend 0xAAA 0 v)
  | 0x344 => x.setCsr n (blend sie old v)
  | 0x104 => x.setCsr 0x304 (blend (blend sie 0 (x.csr 0x303)) (x.csr 0x304) v)
  | 0x144 => x.setCsr 0x344 (blend (blend 2 0 (x.csr 0x303)) (x.csr 0x344) v)
  | 0x305 | 0x105 => x.setCsr n (if v % 4 ≤ 1 then v else setBits v 0 2 (old % 4))
  | 0x306 | 0x106 => x.setCsr n (v % 2 ^ 32)
  | 0x341 | 0x141 => x.setCsr n (v / 2 * 2)
  | 0x180 => if bits v 60 4 = 0 || bits v 60 4 = 9 then x.setCsr n v else x
  | 0xB00 => x.setCsr n ((v + 2 ^ 64 - s.cycle % 2 ^ 64) % 2 ^ 64)
  | 0x340 | 0x342 | 0x343 | 0x140 | 0x142 | 0x143 | 0xB02 => x.setCsr n v
  | _ => x

/-! ### Interrupts -/

/-- The interrupt to take, with whether machine mode takes it: pending, enabled, and not masked by the mode; in the order of priority
of the ISA. -/
def pendingIrq (x : Core) : Option (Nat × Bool) :=
  let st := x.csr 0x300
  let on (i : Nat) : Bool := bit (x.csr 0x344) i && bit (x.csr 0x304) i
  let deleg (i : Nat) : Bool := bit (x.csr 0x303) i
  let m := [11, 3, 7, 9, 1, 5].find? (fun i => on i && !deleg i)
  let sv := [9, 1, 5].find? (fun i => on i && deleg i)
  match m, sv with
  | some i, _ => if x.mode < 3 || bit st 3 then some (i, true)
      else none
  | none, some i => if x.mode = 0 || (x.mode = 1 && bit st 1) then some (i, false) else none
  | none, none => none

/-- Take an interrupt: as an exception, with the top bit of the cause set, and to the vector of its number in vectored mode. -/
def Core.takeIrq (x : Core) (i : Nat) (machine : Bool) : Core :=
  let x := { x with resume := none }
  let tvec := x.csr (if machine then 0x305 else 0x105)
  let x1 := if machine then { x with csrs := put 0x302 0 x.csrs } else { x with csrs := put 0x302 (BitVec.ofNat 64 (2 ^ i)) x.csrs }
  let x2 := (x1.takeTrap i 0).setCsr 0x302 (x.csr 0x302)
  { x2.setCsr (if machine then 0x342 else 0x142) (2 ^ 63 + i) with
    pc := BitVec.ofNat 64 (tvec / 4 * 4 + if tvec % 4 = 1 then 4 * i else 0) }

/-! ### Execution -/

/-- What an instruction leaves: the state before the pc moves on, with the next pc where it is not the next word, or what stops it. -/
abbrev RvRes := Except Stop (State × Option W64)

/-- An illegal instruction. -/
def rvIllegal (s : State) : RvRes := .error (.trap 2 (Config.trapValue s.free))

/-- A change of the core's registers. -/
def onCore (c : Nat) (f : Core → Core) (s : State) : RvRes := .ok (s.modCore c f, none)

/-- Loads: LB, LH, LW, LD, LBU, LHU, LWU. -/
def rvLoad (c f3 rd : Nat) (va : W64) (s : State) : RvRes := do
  let n := 2 ^ (f3 % 4)
  let as ← dataPas s c 1 va n
  let v := loadPas s c as
  onCore c (fun x => x.setReg rd (if f3 < 4 then sx (8 * n) v else BitVec.ofNat 64 v)) s

/-- Stores of n bytes. -/
def rvStore (c n : Nat) (va v : W64) (s : State) : RvRes := do
  let as ← dataPas s c 2 va n
  pure (storePas c as (leBytes n v.toNat) s, none)

/-- LR, SC and the atomic operations; their addresses are aligned, or they trap. -/
def rvAmo (c f5 : Nat) (dbl : Bool) (rd : Nat) (va v : W64) (s : State) : RvRes := do
  let n := if dbl then 8 else 4
  let ext (x : Nat) : W64 := sx (8 * n) x
  if va.toNat % n ≠ 0 then throw (.trap (if f5 = 2 then 4 else 6) va)
  let as ← dataPas s c (if f5 = 2 then 1 else 2) va n
  let old := loadPas s c as
  let granule := as.headD 0 / 64
  if f5 = 2 then onCore c (fun x => { x.setReg rd (ext old) with resv := some granule }) s
  else if f5 = 3 then
    if (s.core c).resv = some granule then
      onCore c (fun x => { x.setReg rd 0 with resv := none }) (storePas c as (leBytes n v.toNat) s)
    else onCore c (fun x => { x.setReg rd 1 with resv := none }) s
  else
    let new := if dbl then (amoOp f5 (BitVec.ofNat 64 old) v).toNat else (amoOp f5 (BitVec.ofNat 32 old) (v.setWidth 32)).toNat
    onCore c (fun x => x.setReg rd (ext old)) (storePas c as (leBytes n new) s)

/-- CSRRW, CSRRS, CSRRC and their immediate forms: a write is made by RW always, by the others where rs1 is not 0; read-only numbers
refuse it. -/
def rvCsr (c f3 rd rs1 n : Nat) (s : State) : RvRes :=
  let (k, s1) := if n = 0xC01 then s.draw else (s.free, s)
  match csrRead s c (Config.wallClock k) n with
  | none => rvIllegal s
  | some old =>
    let src := if f3 ≥ 4 then rs1 else ((s.core c).reg rs1).toNat
    let writes := f3 % 4 = 1 || rs1 ≠ 0
    if writes && n / 2 ^ 10 = 3 then rvIllegal s
    else
      let v := match f3 % 4 with
        | 1 => src
        | 2 => Nat.lor old src
        | _ => blend src old 0
      let x := if writes then csrWrite s1 c n v else s1.core c
      .ok (s1.modCore c (fun _ => x.setReg rd (BitVec.ofNat 64 old)), none)

/-- Run a decoded word at the pc of core c; `len` is its length in bytes. -/
def execRv (i : Rv) (c len : Nat) (s : State) : RvRes :=
  let x := s.core c
  let status := x.csr 0x300
  let fpOff := bits status 13 2 = 0
  let rounded (o : Option Core) : RvRes := if fpOff then rvIllegal s else match o with
    | none => rvIllegal s
    | some y => onCore c (fun _ => y) s
  match i with
  | .lui rd imm => onCore c (fun x => x.setReg rd imm) s
  | .auipc rd imm => onCore c (fun x => x.setReg rd (x.pc + imm)) s
  | .jal rd imm => .ok (s.modCore c (fun x => x.setReg rd (x.pc + BitVec.ofNat 64 len)), some (x.pc + imm))
  | .jalr rd rs1 imm =>
    .ok (s.modCore c (fun x => x.setReg rd (x.pc + BitVec.ofNat 64 len)), some ((x.reg rs1 + imm) &&& ~~~(1 : W64)))
  | .branch f3 rs1 rs2 imm => .ok (s, if branchTaken f3 (x.reg rs1) (x.reg rs2) then some (x.pc + imm) else none)
  | .load f3 rd rs1 imm => rvLoad c f3 rd (x.reg rs1 + imm) s
  | .store f3 rs1 rs2 imm => rvStore c (2 ^ f3) (x.reg rs1 + imm) (x.reg rs2) s
  | .alu f3 alt w rd rs1 rs2 imm =>
    onCore c (fun x => x.setReg rd (onWidth w (fun a b => aluOp f3 alt a b) (x.reg rs1) (imm.getD (x.reg rs2)))) s
  | .mul f3 w rd rs1 rs2 => onCore c (fun x => x.setReg rd (onWidth w (fun a b => mulOp f3 a b) (x.reg rs1) (x.reg rs2))) s
  | .amo f5 dbl rd rs1 rs2 => rvAmo c f5 dbl rd (x.reg rs1) (x.reg rs2) s
  | .fence => .ok (s, none)
  | .csr f3 rd rs1 n => rvCsr c f3 rd rs1 n s
  | .ecall => .error (.trap (if x.mode = 3 then 11 else 8 + x.mode) 0)
  | .ebreak => .error (.trap 3 x.pc)
  | .mret =>
    if x.mode ≠ 3 then rvIllegal s else let y := x.returnTrap true; .ok (s.modCore c (fun _ => { y with resv := none }), some y.pc)
  | .sret =>
    if x.mode = 0 || (x.mode = 1 && bit status 22) then rvIllegal s
    else let y := x.returnTrap false; .ok (s.modCore c (fun _ => { y with resv := none }), some y.pc)
  | .wfi => if x.mode < 3 && bit status 21 then rvIllegal s else .ok (s, none)
  | .sfence => if x.mode = 0 || (x.mode = 1 && bit status 20) then rvIllegal s else .ok (s, none)
  | .fload dbl rd rs1 imm =>
    if fpOff then rvIllegal s
    else do
      let as ← dataPas s c 1 (x.reg rs1 + imm) (if dbl then 8 else 4)
      onCore c (fun x => x.setFreg rd (box dbl (loadPas s c as))) s
  | .fstore dbl rs1 rs2 imm => if fpOff then rvIllegal s else rvStore c (if dbl then 8 else 4) (x.reg rs1 + imm) (x.freg rs2) s
  | .fused op dbl rd rs1 rs2 rs3 rm => rounded (x.ffused op dbl rd rs1 rs2 rs3 rm)
  | .farith f5 dbl rd rs1 rs2 rm => rounded (x.farith f5 dbl rd rs1 rs2 rm)

/-- Whether a word writes minstret, which then holds what it wrote. -/
def writesInstret : Rv → Bool
  | .csr f3 _ rs1 n => n == 0xB02 && (f3 % 4 == 1 || rs1 != 0)
  | _ => false

/-- A base word retires: the pc moves on and instret counts it, but where the word wrote it. -/
def retireRv (c len : Nat) (wrote : Bool) (next : Option W64) (s : State) : State :=
  s.modCore c (fun x => { (if wrote then x else x.setCsr 0xB02 (x.csr 0xB02 + 1)) with pc := next.getD (x.pc + BitVec.ofNat 64 len) })

/-- R417: a word of the base ISA runs, or traps. -/
def runBase (c : Nat) (bs : List Byte) (s : State) : Result :=
  match decodeBase bs with
  | none => .next (s.illegal c).act
  | some i => match execRv i c bs.length s with
    | .ok (s', next) => .next (retireRv c bs.length (writesInstret i) next s').act
    | .error (.trap 2 _) => .next (s.illegal c).act
    | .error (.trap cause v) =>
      .next ((if cause = 5 && (badByte s 8).isSome then noteUe (c / 8) s else s).modCore c (fun x => x.takeTrap cause v)).act

end Sys2Proof.Machine
end

