-- ==== Sys2Proof/Machine/Board.lean ====
section
/-! DEFINITION. Writes to registers that need no instruction, the host's windows and mailboxes (R426 to R429), links, errors,
repair, security and power (R433 to R441). -/

namespace Sys2Proof.Machine

/-- Whether a name is one of an arithmetic tile. -/
def atId (i : TileId) : Bool := decide (i.die < 4) && decide (i.x < 12) && decide (i.y < 10) && decide (i.t < 3)

/-- Change an arithmetic tile by its name. -/
def onTile (i : TileId) (f : AT → AT) (s : State) : Result := if atId i then .next (s.modAt i.key f).act else .next s

/-- Change the words of a die. -/
def onDie (d : Nat) (f : Die → Die) (s : State) : Result := if d < 4 then .next (s.modDie d f).act else .next s

/-- Change a residency. -/
def onRes (h : Nat) (f : Res → Res) (s : State) : Result := match get? h s.res with
  | none => .next s
  | some r => .next ({ s with res := put h (f r) s.res }).act

/-! ### Cleared words and words of a die (R179, R411, R412, R416, R435, R270, R441, R437, R135) -/

/-- R179. -/
def execTokstatClear (tile : TileId) (s : State) : Result := onTile tile AT.clearTok s

/-- R412. -/
def execResstClear (res : Nat) (s : State) : Result := onRes res Res.clearSt s

/-- R411. -/
def execFailtReset (res : Nat) (s : State) : Result := onRes res Res.resetFailt s

/-- R435. -/
def execErrcntClear (die : Nat) (s : State) : Result := onDie die Die.clearErr s

/-- R416. -/
def execPerfselWrite (tile : TileId) (k : Nat) (value : W64) (s : State) : Result :=
  if k < 4 then onTile tile (fun a => setPerfsel a k value) s else .next s

/-- R135. -/
def execBccapWrite (die : Nat) (value : W64) (s : State) : Result :=
  if die < 4 then .next (setBccap die value s).act else .next s

/-- R270: the slew domains load the word at their next tick. -/
def execSlewTableWrite (die crn : Nat) (value : W64) (s : State) : Result :=
  if 0x40 ≤ crn ∧ crn ≤ 0x44 then onDie die (fun d => setSlewWord d crn value) s else .next s

/-- R441: the slew domains take the level at their next tick. -/
def execThrotWrite (die : Nat) (value : W64) (s : State) : Result := onDie die (fun d => { d with throt := value.toNat % 8 }) s

/-- R441. -/
def execOvercurrentAlert (die : Nat) (s : State) : Result := onDie die (fun d => { d with throt := 7 }) s

/-- R437: QMASK0 and QMASK1 of a die as one number; a bit can only be set. -/
def execQmaskSet (die word : Nat) (value : W64) (s : State) : Result :=
  if word < 2 then onDie die (setQmask word value) s else .next s

/-! ### Idle self-test (R437) -/

/-- R437: claim a free quad as a placement does, give it back, or quarantine it. -/
def execIdleSelfTest (die quad : Nat) (act : SelfTest) (s : State) : Result :=
  let q := die * 120 + quad
  if die ≥ 4 ∨ quad ≥ 120 then .next s
  else match act with
    | .claim =>
      if quadBarred s 8192 die (quad % 12) (quad / 12) || !(quadUsers s die (quad % 12) (quad / 12)).isEmpty then .next s
      else .next ({ s with testing := s.testing ++ [q] }).act
    | .giveBack =>
      if s.testing.contains q then .next (quadFreed { s with testing := s.testing.filter (fun n => n != q) }).act else .next s
    | .quarantine =>
      if s.testing.contains q then
        .next ({ s with testing := s.testing.filter (fun n => n != q) }.modDie die (fun d => { d with qmask := d.qmask ||| 2 ^ quad })).act
      else .next s

/-! ### Registers without a behaviour of their own -/

/-- Bring-up ends for good when the first residency is placed or the first file is checked (R83, R93, R429). -/
def inBringUp (s : State) : Bool := !s.broughtUp

/-- Tier-2 extents: expanders in ascending port number, in 256 MiB units (R429). -/
def tierExtents (ports : SMap PortRole) : List Nat → Nat → List Extent
  | [], _ => []
  | n :: ns, base => match getD .off n ports with
    | .expander u => ⟨base, u * 2 ^ 28, n, true⟩ :: tierExtents ports ns (base + u * 2 ^ 28)
    | _ => tierExtents ports ns base

/-- The roles keep R429: at most two host ports, on different dies, and at most 32,768 GB of tier-2. Ports 4d to 4d + 3 stand
on die d. -/
def portsOk (ports : SMap PortRole) : Bool :=
  let hosts := ports.filter (fun p => p.2 == .host)
  let dies := dedup (hosts.map (fun p => p.1 / 4))
  let units : Nat := (ports.map (fun (p : Nat × PortRole) => match p.2 with | .expander u => u | _ => 0)).sum
  decide (hosts.length ≤ 2) && decide (dies.length = hosts.length) && decide (units * 268435456 ≤ 32768000000000)

/-- A host window can be set: inside its range, one per host port, apart from the others (R91). -/
def windowOk (s : State) (base size : Nat) : Bool :=
  decide (2 ^ 47 ≤ base) && decide (0 < size) && decide (base + size ≤ 2 ^ 51)
    && decide (s.hostWins.length < (s.host.ports.filter (fun p => p.2 == .host)).length)
    && s.hostWins.all (fun w => decide (base + size ≤ w.1) || decide (w.1 + w.2 ≤ base))

/-- MBBASE: reserved bits stay 0; another value starts the set anew (R426, R427). -/
def setMbbase (i : Nat) (v : W64) (s : State) : State :=
  let v := v &&& 0xFFFFFFFFFFFFC001
  if getD 0 i s.host.mbbase = v then s
  else s.modHost (fun h => { h with mbbase := put i v h.mbbase, mbseen := del i h.mbseen, mbver := del i h.mbver, outq := del i h.outq })

/-- WIN2BASE: a multiple of 1 GiB (R426). -/
def setWin2base (v : W64) (s : State) : State := s.modHost (fun h => { h with win2base := v.toNat / 2 ^ 30 * 2 ^ 30 })

/-- MBPOLL: 100 to 1,000,000 (R426). -/
def setMbpoll (v : W64) (s : State) : Result :=
  if 100 ≤ v.toNat ∧ v.toNat ≤ 1000000 then .next (s.modHost (fun h => { h with mbpoll := v.toNat })).act else .next s

/-! ### BAR0 (R426) -/

/-- DEVID: 0 once the boot ROM refused the firmware (R426, R439). -/
def devid (s : State) : W64 := if s.boot.state = 2 then 0 else 0x00019612

/-- BAR0 takes aligned accesses of 8 bytes alone (R426). -/
def bar0Ok (offset size : Nat) : Bool := size == 8 && offset % 8 == 0

/-- What the host reads from BAR0 (R426). The watch window and RESUME are write only. -/
def bar0Read (s : State) (offset size : Nat) : W64 :=
  if !bar0Ok offset size then 0
  else if offset = 0 then devid s
  else if offset = 8 then BitVec.ofNat 64 s.host.podid
  else if offset = 0x10 then featr s
  else if 0x100 ≤ offset ∧ offset ≤ 0x138 then getD 0 ((offset - 0x100) / 8) s.host.mbbase
  else if offset = 0x200 then BitVec.ofNat 64 s.host.win2base
  else if offset = 0x208 then BitVec.ofNat 64 s.host.mbpoll
  else if offset = 0x11008 then s.host.resumest
  else if 0x20000 ≤ offset ∧ offset < 0x30000 then
    claimWord s ((offset - 0x20000) / 8)
  else 0

/-- What the host writes to BAR0: every other write is discarded (R426). -/
def bar0Write (offset size : Nat) (value : W64) (s : State) : Result :=
  if !bar0Ok offset size then .next s
  else if 0x100 ≤ offset ∧ offset ≤ 0x138 then .next (setMbbase ((offset - 0x100) / 8) value s).act
  else if offset = 0x200 then .next (setWin2base value s).act
  else if offset = 0x208 then setMbpoll value s
  else if 0x10000 ≤ offset ∧ offset ≤ 0x107F8 then .next (watchStore ((offset - 0x10000) / 8) value s).act
  else if offset = 0x11000 then execHostResumeWrite value s
  else if 0x20000 ≤ offset ∧ offset < 0x30000 then .next (setClaim ((offset - 0x20000) / 8) value s).act
  else .next s

/-- A BAR0 access: a read completes with its bytes, those of another size being 0. -/
def bar0Access (offset size : Nat) (write : Bool) (value : W64) (s : State) : Result :=
  if offset + size > 2 ^ 20 then .next s
  else if write then bar0Write offset size value s
  else .next (s.modHost (fun h => { h with resp := h.resp ++ [⟨true, leBytes size (bar0Read s offset size).toNat⟩] })).act

/-- R93, R99, R386, R394, R411, R423, R426, R429: a register takes a value; reserved bits ignore it, and a value that the rule
does not allow leaves it as it is. -/
def execRegisterWrite (reg : RegName) (value : W64) (s : State) : Result :=
  let v := value.toNat
  let done (b : Bool) (t : State) : Result := if b then .next t.act else .next s
  match reg with
  | .interleave => done (inBringUp s && decide (v ≤ 74) && !s.shareSet) { s with share := v, shareSet := true }
  | .asidRoot asid => done (decide (asid < 4096)) { s with roots := put asid v s.roots }
  | .dspctl => done true (s.modDsp (fun d => { d with ctl := value &&& 1 }))
  | .claim asid cls => done (decide (asid < 4096) && decide (cls < 16))
      (s.modFaults (fun f => { f with claim := put (16 * asid + cls) (v % 128) f.claim }))
  | .claimto => done true (s.modFaults (fun f => { f with claimto := v }))
  | .clsmap cls => done (decide (cls < 12)) { s with clsmap := put cls (v &&& 0x9F) s.clsmap }
  | .mbbase i => done (decide (i < 8)) (setMbbase i value s)
  | .win2base => done true (setWin2base value s)
  | .mbpoll => setMbpoll value s
  | .mbCore set => done (decide (set < 8) && decide (v < 32)) (s.modHost (fun h => { h with mbcore := put set v h.mbcore }))
  | .podid => done true (s.modHost (fun h => { h with podid := v % 1024 }))
  | .port n role =>
    let ports := put n role s.host.ports
    done (inBringUp s && decide (n < 16) && portsOk ports)
      { s.modHost (fun h => { h with ports := ports }) with extents := tierExtents ports (upto 16) 0x100000000000 }
  | .hostWindow base size => done (inBringUp s && windowOk s base size) { s with hostWins := s.hostWins ++ [(base, size)] }
  | .dbgctl tile => onTile tile (fun a => { a with dbgctl := value &&& 1 }) s
  | .detseed tile => onTile tile (fun a => crWrite a 0x10 value) s
  | .user tile k => if k < 16 then onTile tile (fun a => crWrite a (0x80 + k) value) s else .next s
  | .driftLimit tile => onTile tile (fun a => crWrite a 0x38 value) s
  | .driftCost tile => onTile tile (fun a => crWrite a 0x39 value) s
  | .bar0 offset size write => bar0Access offset size write value s

/-! ### The host's window onto memory (R426) -/

/-- Whether memory stands at every byte of a range: n bytes from a. -/
def allBacked (s : State) (a : Nat) : Nat → Bool
  | 0 => true
  | n + 1 => (pkind s a).backed && allBacked s (a + 1) n

/-- R426: a read or an untimed write through the window of 64 GiB; Unsupported Request at a gap or control space. -/
def execBar2Access (offset size : Nat) (data : Option (List (BitVec 8))) (s : State) : Result :=
  let a := s.host.win2base + offset
  let reply (ok : Bool) (bs : List Byte) (s : State) : Result :=
    .next (s.modHost (fun h => { h with resp := h.resp ++ [⟨ok, bs⟩] })).act
  if offset + size > 2 ^ 36 then .next s
  else if !allBacked s a size then reply false [] s
  else match data with
    | none => reply true (readBytes s.mem a size) s
    | some bs => reply true [] (dropResv a size { s with mem := writeBytes s.mem a (bs.take size) })

/-! ### Mailboxes (R427, R428) -/

/-- The host address of an enabled mailbox set. -/
def setBase (s : State) (set : Nat) : Option Nat :=
  let v := getD 0 set s.host.mbbase
  if decide (set < 8) && bit v.toNat 0 then some (bits v.toNat 14 50 * 2 ^ 14) else none

/-- A host message as a class-13 token; what the spec does not give of it is free (R424, R427). -/
def hostTake (n set : Nat) (entry : List Byte) : Take :=
  let v := (Config.queueToken n).toNat
  { cls := 13, code := bits v 28 16, asid := bits v 44 12, handle := bits v 64 64, set := set,
    tok := ⟨BitVec.ofNat 12 v, BitVec.ofNat 16 (bits v 12 16), .data, .b64, BitVec.ofNat 64 (bits v 128 64), entry, false, []⟩ }

/-- Deliver n entries of a set's host-to-device ring from index i. -/
def deliverEntries (base set core : Nat) : Nat → Nat → State → State
  | 0, _, s => s
  | n + 1, i, s =>
    let (k, s) := s.draw
    let entry := readBytes s.host.mem (base + 64 + 64 * (i % 63)) 64
    deliverEntries base set core n ((i + 1) % 2 ^ 32) (s.giveCore core (hostTake k set entry))

/-- Entries join a set's device-to-host ring, each before the producer index; what finds the ring full waits (R427). -/
def pushRing (base set : Nat) : List (List Byte) → State → State
  | [], s => s.modHost (fun h => { h with outq := del set h.outq })
  | e :: es, s =>
    let p := ringProd s base 1
    if (p + 2 ^ 32 - ringCons s base 1) % 2 ^ 32 ≥ 64 then s.modHost (fun h => { h with outq := put set (e :: es) h.outq })
    else
      let m := writeBytes s.host.mem (base + 0x1000 + 64 * (p % 64)) (fitBytes 64 e)
      pushRing base set es { s with host := { s.host with mem := writeNat m (base + 16) 4 ((p + 1) % 2 ^ 32) } }

/-- R427: what waits for the device-to-host ring goes on. -/
def ringRetry (base set : Nat) (s : State) : State :=
  match getD [] set s.host.outq with
  | [] => s
  | es => (pushRing base set es s).act

/-- R427: each entry between those delivered and the producer index goes to the core that firmware bound to the set. -/
def execMailboxPoll (set : Nat) (s : State) : Result :=
  match setBase s set, get? set s.host.mbcore with
  | some base, none => .next (ringRetry base set s)
  | some base, some core =>
    let s := ringRetry base set s
    let seen := getD (ringCons s base 0) set s.host.mbseen
    let prod := ringProd s base 0
    let n := min 63 ((prod + 2 ^ 32 - seen) % 2 ^ 32)
    if n = 0 then .next s
    else .next ((deliverEntries base set core n seen s).modHost
      (fun h => { h with mbseen := put set ((seen + n) % 2 ^ 32) h.mbseen })).act
  | _, _ => .next s

/-- R428: the core writes its version: 1.0, or 0xFFFF where the host's major differs. -/
def execMailboxStart (set core : Nat) (s : State) : Result :=
  match setBase s set with
  | none => .next s
  | some base =>
    if get? set s.host.mbcore ≠ some core || !(s.core core).started then .next s
    else
      let v := if bits (readNat s.host.mem (base + 4) 2) 8 8 = 1 then 0x0100 else 0xFFFF
      .next (s.modHost (fun h => { h with mem := writeNat h.mem (base + 6) 2 v, mbver := put set v h.mbver })).act

/-! ### Errors and links (R429, R433, R438) -/

/-- The youngest token of a channel has its error kept (R433). -/
def spoilLast (a : AT) (chan : Nat) : AT :=
  let ts := getD [] chan a.chan
  if ts.isEmpty then a else { a with chan := put chan (ts.dropLast ++ (ts.drop (ts.length - 1)).map (fun t => { t with bad := true })) a.chan }

/-- R433: a replay is counted, at a die that the saddle joins; a mesh flit whose error is kept spoils its token. -/
def execFlitReplay (flit : Flit) (kept : Bool) (s : State) : Result :=
  let mesh (d : Die) : Die := { d with mpar := count16 d.mpar, ue := if kept then count16 d.ue else d.ue }
  let link (d : Die) : Die := { d with lrep := count16 d.lrep }
  match flit with
  | .token tile chan =>
    if atId tile then .next ((if kept then s.modAt tile.key (fun a => spoilLast a chan) else s).modDie tile.die mesh).act else .next s
  | .service die => onDie die mesh s
  | .saddle die n => if saddleAt n die then onDie die link s else .next s
  | .sorpen die _ => onDie die link s

/-- R433: a lane is retrained; where it fails again a spare replaces it. No traffic is lost. -/
def execLaneRetrain (link : Nat) (failsAgain : Bool) (s : State) : Result :=
  if link < 40 then
    .next ({ s with links := upd {} link (fun l => if failsAgain then { l with spares := l.spares + 1 } else l) s.links }).act
  else .next s

/-- R430, R438: link version 1.0 with a peer of major 1; else the link stays down and the port reports it. -/
def execLinkTraining (link : Nat) (peer : List (Nat × Nat)) (s : State) : Result :=
  if link < 4 ∨ 40 ≤ link then .next s
  else if peer.any (fun v => v.1 == 1) then
    .next ({ s with links := upd {} link (fun l => { l with up := true, version := some (1, 0) }) s.links }).act
  else
    let s := { s with links := upd {} link (fun l => { l with up := false, version := none }) s.links }
    .next (s.modDie ((link - 4) / 9) (fun d => { d with ue := count16 d.ue })).act

/-- R429: the tier-2 bytes of the port become a gap. -/
def execCxlLinkFailure (port : Nat) (s : State) : Result :=
  .next ({ s with extents := s.extents.map (fun (e : Extent) => if e.port = port then { e with up := false } else e) }).act

/-! ### Reset, boot, attestation (R436, R437, R439, R440) -/

/-- Bits of a quad column in QMASK. -/
def columnBits (x : Nat) : List Nat := (upto 10).map (fun y => 12 * y + x)

/-- The lowest column that has a quarantined quad. -/
def failingColumn (qmask : Nat) : Option Nat := (upto 12).find? (fun x => (columnBits x).any (bit qmask))

/-- The settings that the fuses of a die can hold: one spare for each row and pseudo-channel, within the spares there are (R436). -/
def Repair.read (r : Repair) : Repair :=
  { column := r.column.filter (fun c => decide (c < 13))
    lt := r.lt.filter (fun n => decide (n < 31))
    rows := r.rows.filter (fun e => decide (e.2 < 8))
    chans := r.chans.filter (fun e => decide (e.1 < 256) && decide (e.2 < 4)) }

/-- Where the 12 logical quad columns stand on the 13 physical ones (R10, R436). -/
def Repair.physColumn (r : Repair) (x : Nat) : Nat := match r.column with
  | some c => if x < c then x else x + 1
  | none => x

/-- The row that stands for a row of a scratchpad bank: 1024 to 1031 are the spare ones (R436). -/
def Repair.physRow (r : Repair) (bank row : Nat) : Nat := match get? (1024 * bank + row) r.rows with
  | some k => 1024 + k
  | none => row

/-- The pseudo-channel that stands for one of a stack: 64 to 67 are the spare ones (R436); the owner mapping of R92 stays as it is. -/
def Repair.physChan (r : Repair) (stack chan : Nat) : Nat := match get? (64 * stack + chan) r.chans with
  | some k => 64 + k
  | none => chan

/-- The tile that does the work of link tile n: the spare one, 31, for the one it is substituted for (R8, R436). -/
def Repair.physLt (r : Repair) (n : Nat) : Nat := if r.lt = some n then 31 else n

/-- R437: at a reset the spare column, where it is unused, takes the place of a failing one. -/
def burnColumn (d : Die) (r : Repair) : Repair :=
  match r.column with
  | some _ => r
  | none => { r with column := failingColumn d.qmask }

/-- The words of a die after the reset that read its fuses: a quad that fails outside the column now replaced stays quarantined (R437);
`r` are the fuses before. -/
def repairDie (d : Die) (r : Repair) : Die :=
  let kept := match r.column, failingColumn d.qmask with
    | none, some x => (upto 120).filter (fun i => bit d.qmask i && !(columnBits x).contains i)
    | _, _ => (upto 120).filter (bit d.qmask)
  { qmask := kept.foldl (fun m i => m + 2 ^ i) 0, spare := (burnColumn d r).column.isSome, ltSub := r.read.lt }

/-- Dies of which something is held. -/
def diesHeld (s : State) : List Nat := (upto 4).filter (fun d => (get? d s.dies).isSome || (get? d s.fuses).isSome)

/-- R436: the device as after reset but for what fuses and repair keep; what stands outside it keeps its bytes. -/
def execReset (s : State) : Result :=
  let fuses := (diesHeld s).map (fun d => (d, burnColumn (getD {} d s.dies) (getD {} d s.fuses)))
  .next
    { State.reset with
      agenda := s.agenda
      acted := true
      free := s.free
      nextId := s.nextId
      mem := s.mem.filter (fun c => decide (0x100000000000 ≤ c.1))
      dies := (diesHeld s).map (fun d => (d, repairDie (getD {} d s.dies) (getD {} d s.fuses)))
      fuses := fuses
      repair := fuses.map (fun e => (e.1, e.2.read))
      links := s.links.map (fun e => (e.1, ({ spares := e.2.spares } : LinkSt)))
      host := { mem := s.host.mem }
      boot := { secFuse := s.boot.secFuse } }

/-- Both signatures over the firmware's digest verify, and its security version is no older than the fuse counter (R439). -/
def firmwareOk (s : State) (i : BootImage) : Bool :=
  Config.sigValid 1 0 i.digest i.rsa && Config.sigValid 2 0 i.digest i.slh && decide (s.boot.secFuse ≤ i.secVer.toNat)

/-- R439: service cores start only with firmware that verifies. -/
def execFirmwareVerify (image : BootImage) (s : State) : Result :=
  if s.boot.state ≠ 0 then .next s
  else if firmwareOk s image then
    let s := { s with boot := { s.boot with state := 1, secVer := image.secVer.toNat, digest := image.digest } }
    .next ((upto 32).foldl (fun s c => s.modCore c (fun x => { x with started := true })) s).act
  else .next ({ s with boot := { s.boot with state := 2 } }).act

/-- Digests of the loaded templates in handle order. -/
def templateDigests (s : State) : List (List Byte) :=
  s.templates.map (fun e =>
    Config.templateDigest e.2.asid e.2.desc.file
      (((get? e.2.desc.file s.files).map (fun f => f.res.findIdx (fun d => d == e.2.desc))).getD 0))

/-- The bytes that a report's signatures cover. -/
def Report.message (r : Report) : List Byte :=
  leBytes 8 r.devid.toNat ++ leBytes 2 r.podid ++ r.rom ++ r.fw ++ r.tmpls.flatten ++ leBytes 4 r.secVer
    ++ leBytes 8 r.featr.toNat ++ r.nonce

/-- The entries that carry a report through the mailbox: what is signed, then the signatures, 64 bytes an entry (DESIGN CHOICE, log 10). -/
def Report.entries (r : Report) : List (List Byte) :=
  let bs := r.message ++ r.rsa ++ r.slh
  (upto ((bs.length + 63) / 64)).map (fun i => sliceBytes bs (64 * i) 64)

/-- R440: a report for the requester's nonce, signed with both identity keys, through an enabled mailbox set that is served (R428): it joins
the set's device-to-host ring behind what waits there. -/
def execAttestationRequest (set : Nat) (nonce : List (BitVec 8)) (s : State) : Result :=
  match setBase s set with
  | none => .next s
  | some base =>
  if s.host.silent set || decide (nonce.length ≠ 32) || decide (s.boot.state ≠ 1) then .next s
  else
    let r : Report :=
      { set := set, devid := devid s, podid := s.host.podid, rom := Config.romDigest, fw := s.boot.digest,
        tmpls := templateDigests s, secVer := s.boot.secVer, featr := featr s, nonce := nonce, rsa := [], slh := [] }
    let r := { r with rsa := Config.reportSig 1 r.message, slh := Config.reportSig 2 r.message }
    .next (pushRing base set (getD [] set s.host.outq ++ r.entries) (s.modHost (fun h => { h with reports := h.reports ++ [r] }))).act

end Sys2Proof.Machine
end

