-- ==== Sys2Proof/Machine/Convert.lean ====
section
/-! DEFINITION. The conversion instructions (R240 to R245). -/

namespace Sys2Proof.Machine

/-- `.st` of a conversion (R240). -/
def Hd.st (h : Hd) : Bool := decide (h.md.toNat ≥ 8)

/-- Fire a conversion: the outputs and the events of the elements produced; with `.st` the slot's counters take the
events, and a marker sends and clears them on the statistics channel (R245). -/
def fireConv (i : Instr) (h : Hd) (f : Ctx → List Out × List StEvent) (s : State) : Result :=
  fireOwn i (fun c s =>
    let st := (c.a.slot c.slot).st
    if c.toks.any (fun e => e.2.isMarker) then
      match markerRule i c.time c s with
      | .fired eat outs posts s' =>
        if Hd.st h then
          .fired eat (outs ++ [⟨.chan (BitVec.ofNat 6 c.a.active.stc), .count, .n32, c.time, packLanes 4 st⟩]) posts
            (s'.modAt c.key (fun a => a.modSlot c.slot (fun x => { x with st := [0, 0, 0, 0] })))
        else .fired eat outs posts s'
      | r => r
    else
      let (outs, evs) := f c
      c.send outs (if Hd.st h then
        s.modAt c.key (fun a => a.modSlot c.slot (fun x => { x with st := stAdd x.st evs })) else s)) s

/-- Convert a list of elements (R241). -/
def convAll (h : Hd) (src : Elem) (l : List Nat) : List Nat × List StEvent :=
  let r := l.map (convert src h.sh (Hd.mode h) (Hd.sat h))
  (r.map (·.1), r.map (·.2))

/-- Elements per 256-byte token of SH. -/
def partSize (h : Hd) : Nat := 256 / h.sh.width

/-- R241: part p of the elements. -/
def execCvt (h : Hd) (imm : BitVec 30) (s : State) : Result :=
  fireConv (.cvt h imm) h (fun c =>
    let src := convSrc imm
    let g := partSize h
    let (r, ev) := convAll h src (((lanes src.width c.l.data).drop (immBits imm 4 2 * g)).take g)
    (both h (dataOut h.sh c.time (fitToken (packLanes h.sh.width r))), ev)) s

/-- R242: stochastic rounding with the fields of R. -/
def execCvts (h : Hd) (imm : BitVec 30) (s : State) : Result :=
  fireConv (.cvts h imm) h (fun c =>
    let src := convSrc imm
    let l := lanes src.width c.l.data
    let r := (upto l.length).map (fun i =>
      stochastic h.sh (Hd.sat h && !Elem.widensTo src h.sh) (natAt c.rt.data (2 * i) 2) (valueOf src (elemAt l i)))
    (both h (dataOut h.sh c.time (fitToken (packLanes h.sh.width (r.map (·.1))))), r.map (·.2))) s

/-- Blocks of 32 values, the last filled with zeros (R243). -/
def blocksOf : Nat → List FVal → List (List FVal)
  | 0, _ => []
  | n + 1, l => if l.isEmpty then [] else
    let b := l.take 32
    (b ++ List.replicate (32 - b.length) (.fin false 0 0)) :: blocksOf n (l.drop 32)

/-- The 256-byte e2m1 token of up to eight blocks (R203). -/
def groupBytes (bs : List QBlock) : List Byte :=
  let nib (b : QBlock) : List Byte :=
    (upto 16).map (fun k => BitVec.ofNat 8 (b.codes.getD (2 * k) 0 + 16 * b.codes.getD (2 * k + 1) 0))
  fitBytes 128 (bs.flatMap nib) ++ fitBytes 8 (bs.map (fun b => BitVec.ofNat 8 b.scale)) ++
    fitBytes 120 (bs.map (fun b => BitVec.ofNat 8 b.special))

/-- R243, R204: quantisation to one e2m1 token. -/
def execQnt (h : Hd) (imm : BitVec 30) (s : State) : Result :=
  fireConv (.qnt h imm) h (fun c =>
    let src := convSrc imm
    let bs := (blocksOf 8 ((lanes src.width c.l.data).map (valueOf src))).map quantise
    (both h (dataOut .e2m1 c.time (groupBytes bs)), bs.flatMap (fun b => b.evs))) s

/-- R243: part p of the 256 decoded elements, in a 256-byte token; an element the group does not have is a free value
(log 2). -/
def execDqnt (h : Hd) (imm : BitVec 30) (s : State) : Result :=
  fireConv (.dqnt h imm) h (fun c =>
    let g := partSize h
    let p := immBits imm 4 2
    let r := (upto g).map (fun k => if p * g + k < 256 then
      encodeF (fmtOf h.sh) (Hd.mode h) (Hd.sat h) (e2m1Elem c.l.data (p * g + k)) else ((Sys2Proof.Config.beyondGroup h.sh.code (p * g + k)).toNat % 2 ^ h.sh.nbits, .none))
    (both h (dataOut h.sh c.time (packLanes h.sh.width (r.map (·.1)))), r.map (·.2))) s

/-- R244, R217: the elements of L, then those of R, at most 256 bytes. -/
def execPack (h : Hd) (imm : BitVec 30) (s : State) : Result :=
  fireConv (.pack h imm) h (fun c =>
    let src := convSrc imm
    let n := max c.l.data.length c.rt.data.length
    let l := (widen src.width n c.l.data ++ widen src.width n c.rt.data).take (partSize h)
    let (r, ev) := convAll h src l
    (both h (dataOut h.sh c.time (fitToken (packLanes h.sh.width r))), ev)) s

/-- R244: the lower half of the elements to T0, the upper to T1. -/
def execUnpk (h : Hd) (imm : BitVec 30) (s : State) : Result :=
  fireConv (.unpk h imm) h (fun c =>
    let src := convSrc imm
    let l := lanes src.width c.l.data
    let half := (l.length + 1) / 2
    let (lo, e1) := convAll h src (l.take half)
    let (hi, e2) := convAll h src (l.drop half)
    ([dataOut h.sh c.time (fitToken (packLanes h.sh.width lo)) h.t0,
      dataOut h.sh c.time (fitToken (packLanes h.sh.width hi)) h.t1], e1 ++ e2)) s

end Sys2Proof.Machine
end

