-- ==== Sys2Proof/Machine/Slew.lean ====
section
/-! DEFINITION. The slew limiter and the throttle (R268 to R270, R441). -/

namespace Sys2Proof.Machine

/-- Key of a die's domain. -/
def slewKey (die dom : Nat) : Nat := die * 8 + dom

/-- ATs of a domain by domain index (R268). -/
def domainTiles (die dom : Nat) : List Nat :=
  (upto 15).flatMap (fun n => (upto 3).map (fun t => (die * 120 + dom * 15 + n) * 4 + t))

/-- An entry of a slew table: 0 acts as 1, above 45 as 45 (R270). -/
def slewEntry (lo hi : W64) (i : Nat) : Nat :=
  let v := if i < 8 then bits lo.toNat (8 * i) 8 else bits hi.toNat (8 * (i - 8)) 8
  if v = 0 then 1 else min v 45

/-- CAP[L] (R441). -/
def throttleCap (l : Nat) : Nat := [45, 39, 33, 28, 22, 16, 11, 5].getD l 5

/-- SLEW_UP[i], SLEW_DN[i] and SLEW_IDLE in force; SLEW_UP[8] is held for every step beyond. -/
def Slew.up (x : Slew) (i : Nat) : Nat := slewEntry x.up0 x.up1 (min i 8)
def Slew.dn (x : Slew) (i : Nat) : Nat := slewEntry x.dn0 x.dn1 (min i 11)
def Slew.idleLimit (x : Slew) : Nat := max 1 (x.lim.toNat % 2 ^ 16)

/-- min(SLEW_UP[s], CAP[L]). -/
def Slew.allowance (x : Slew) : Nat := min (x.up x.s) (throttleCap x.level)

/-- A row of data is ready. -/
def dataReady (s : State) (k : Nat) : Bool := (rowsReady s k).any (fun x => !x.2.2)

/-- The row firing that the pipe takes next is a row of data: the first in the pipe's order that has the port it needs (R177, R251). -/
def firesData (s : State) (k : Nat) : Bool :=
  (((rowOrder s k).find? (fun x => match rowPort s k x with
    | some d => rowTurn s k d
    | none => true)).map (fun x => !x.2.2)).getD false

def granted (s : State) (k : Nat) : Bool := (s.at k).node.grant

/-- Demand D. -/
def demand (s : State) (ks : List Nat) : Nat := (ks.filter (fun k => granted s k || dataReady s k)).length

def modNodeOf (k : Nat) (f : Node → Node) (s : State) : State := s.modAt k (fun a => { a with node := f a.node })

/-- Grants in ascending domain index while the granted count is below the allowance. -/
def grantNodes (limit : Nat) : List Nat → State → Nat → State
  | [], s, _ => s
  | k :: ks, s, n =>
    if decide (n < limit) && !granted s k && dataReady s k then
      grantNodes limit ks (modNodeOf k (fun x => { x with grant := true, filling := none }) s) (n + 1)
    else grantNodes limit ks s n

/-- R269 step 4 at one node: a granted node that fires no row of data fills; what a performance counter sees (R416). -/
def fillNode (k : Nat) (s : State) : State :=
  let ready := dataReady s k
  if granted s k then
    if firesData s k then modNodeOf k (fun x => { x with filling := none }) s
    else (modNodeOf k (fun x => { x with filling := some (x.filling.getD s.cycle) }) s).modAt k (fun a => a.perf 5 1)
  else if ready then s.modAt k (fun a => a.perf 6 1)
  else s

/-- R269: once in a cycle, after a tick: grants, fillers and the idle count. -/
def execSlewCycle (die dom : Nat) (s : State) : Result :=
  let key := slewKey die dom
  let x := getD {} key s.slews
  if x.done = s.cycle + 1 || (s.cycle % 4 = 0 && x.tick ≠ s.cycle + 1) || decide (die ≥ 4) || decide (dom ≥ 8) then .next s
  else
    let ks := domainTiles die dom
    let idle := decide (demand s ks = 0)
    let s1 := grantNodes x.allowance ks s (ks.filter (granted s)).length
    let s2 := ks.foldl (fun s k => fillNode k s) s1
    let x := { x with done := s.cycle + 1, idle := if idle then x.idle + 1 else 0 }
    .next ({ s2 with slews := put key x s2.slews }).act

/-- Filling nodes in the order in which they began, lowest domain index first. -/
def fillingNodes (s : State) (ks : List Nat) : List Nat :=
  let fs := ks.filterMap (fun k => (s.at k).node.filling.map (fun c => (c, k)))
  (sortBy (fun (a b : Nat × Nat) => decide (a.1 < b.1)) fs).map (·.2)

/-- R269, R270, R441: a tick. The tables and the level of the die come into force; the up-step rises; filling nodes stop. -/
def execSlewTick (die dom : Nat) (s : State) : Result :=
  let key := slewKey die dom
  let x := getD {} key s.slews
  if s.cycle % 4 ≠ 0 || x.tick = s.cycle + 1 || x.done = s.cycle + 1 || decide (die ≥ 4) || decide (dom ≥ 8) then .next s
  else
    let d : Die := getD {} die s.dies
    let x := { x with up0 := d.up0, up1 := d.up1, dn0 := d.dn0, dn1 := d.dn1, lim := d.lim, level := d.throt, tick := s.cycle + 1 }
    let ks := domainTiles die dom
    let up := decide (demand s ks > x.allowance) && decide (x.s < 8) && decide (x.up x.s < throttleCap x.level)
    let fs := fillingNodes s ks
    let s1 := (fs.take (x.dn x.j)).foldl (fun s k => modNodeOf k (fun n => { n with grant := false, filling := none }) s) s
    let x := { x with s := if up then x.s + 1 else x.s, j := if fs.isEmpty then 0 else min (x.j + 1) 11 }
    .next ({ s1 with slews := put key x s1.slews }).act

/-- R269: the idle count has reached SLEW_IDLE: the up-step returns to 0. -/
def execSlewIdleExpiry (die dom : Nat) (s : State) : Result :=
  let key := slewKey die dom
  let x := getD {} key s.slews
  if decide (x.idle ≥ x.idleLimit) && decide (x.s > 0) then
    .next ({ s with slews := put key { x with s := 0 } s.slews }).act
  else .next s

end Sys2Proof.Machine
end

