-- ==== Sys2Proof/Machine/Video.lean ====
section
/-! DEFINITION. The coefficient and mode instructions (R299 to R308). -/

namespace Sys2Proof.Machine

/-- Fields of a block record that the instructions read (R292). -/
structure Record where
  lw    : Nat
  lh    : Nat
  plane : Nat
  kind  : Nat
  ref   : List Nat
  mv    : List Int
  deriving DecidableEq, Repr, Inhabited

/-- Two's complement of 16 bits. -/
def s16 (v : Nat) : Int := if v % 2 ^ 16 ≥ 2 ^ 15 then (v % 2 ^ 16 : Nat) - (2 ^ 16 : Int) else (v % 2 ^ 16 : Nat)

def recordOf (d : List Byte) : Record :=
  let w := natAt d 0 4
  ⟨bits w 24 3, bits w 27 3, bits w 30 2, bits (natAt d 4 1) 0 2, [natAt d 5 1, natAt d 6 1],
   (upto 4).map (fun i => s16 (natAt d (8 + 2 * i) 2))⟩

/-- R300: a block record to a weight-set index. -/
def execBmod (h : Hd) (x : VidX) (s : State) : Result :=
  fire (.bmod h x) (fun c s =>
    let r := recordOf c.l.data
    let m := x.mode.toNat
    if r.lw < 2 || decide (r.lw > 6) || decide (r.lh < 2) || decide (r.lh > 6) || r.kind = 3 || r.plane = 3 then
      c.holdWith (.bmod h x) .range descFlag 0 [] [] s
    else
      let sz := if bit m 0 then (r.lw - 2) * 5 + (r.lh - 2) else 0
      let kd := if bit m 1 then r.kind else 0
      let pl := if bit m 2 then r.plane else 0
      let v := x.wset.toNat + (sz * 3 + kd) * 3 + pl
      c.send [dataOut .n32 c.time (leBytes 8 v) h.t0,
        dataOut .n64 c.time (leBytes 8 (v * 2 ^ (x.log2.toNat + 8) + 64 * x.woff.toNat)) h.t1] s) s

/-- Width of a transform block's coded region. -/
def codedWidth (log2 : Nat) : Nat := 2 ^ min log2 5

/-- Stored groups of window w: for group g of 8w to 8w + 7, its index among the stored ones, or none. -/
def storedIdx (mask w : Nat) : List (Option Nat) × Nat :=
  (upto 8).foldl (fun acc i =>
    let g := 8 * w + i
    if g < 64 && !bit mask g then (acc.1 ++ [some acc.2], acc.2 + 1) else (acc.1 ++ [none], acc.2)) ([], 0)

/-- R301: stored coefficient groups to a dense row. -/
def execCgex (h : Hd) (x : VidX) (s : State) : Result :=
  fire (.cgex h x) (fun c s =>
    let mask := natAt c.l.data 0 8
    let w := natAt c.l.data 8 2
    let tw := codedWidth x.log2.toNat
    let gw := tw / 4
    let (ix, j) := storedIdx mask w
    let elem (g e : Nat) : Nat :=
      if g < 8 * w || decide (g ≥ 8 * w + 8) then 0
      else match (ix[g - 8 * w]?).getD none with
        | some k => natAt c.rt.data (32 * k + 2 * e) 2
        | none => 0
    let out := (upto 128).map (fun i =>
      if h.md = 0 then
        let r := 128 * w + i
        let v := r / tw
        let u := r % tw
        elem (v / 4 * gw + u / 4) (4 * (v % 4) + u % 4)
      else elem (8 * w + i / 16) (i % 16))
    c.send [dataOut .s16 c.time (packLanes 2 out) h.t0, dataOut .n32 c.time (leBytes 8 j) h.t1] s) s

/-- Negation of CFLP: saturating on integers, FNEG on floats. -/
def flipNeg (h : Hd) (v : Nat) : Nat :=
  if Elem.isFlt h.sh then fneg h v else rawOf h.sh (clampInt h.sh (-(intOf h.sh v)))

/-- R302: negates the coefficients of odd frequency on an axis. -/
def execCflp (h : Hd) (x : VidX) (s : State) : Result :=
  fire (.cflp h x) (fun c s =>
    let tw := codedWidth x.log2.toNat
    let l := lanes h.sh.width c.l.data
    let out := (l.zipIdx).map (fun e =>
      let i := e.2
      let ou := i % 2 == 1
      let ov := if h.md = 0 then i / tw % 2 == 1 else i % 16 / 4 % 2 == 1
      let neg := if x.ax = 0 then ou else if x.ax = 1 then ov else ou != ov
      if neg then flipNeg h e.1 else e.1)
    c.send (both h (dataOut h.sh c.time (fitBytes c.l.data.length (packLanes h.sh.width out)))) s) s

/-- R303: transposes a block, or each group of 16. -/
def execCtrn (h : Hd) (x : VidX) (s : State) : Result :=
  fire (.ctrn h x) (fun c s =>
    let l := lanes h.sh.width c.l.data
    let n := 2 ^ x.log2.toNat
    let el (i : Nat) : Nat := l.getD i 0
    let out := (upto l.length).map (fun i =>
      if h.md = 0 then (if i < n * n then el (i % n * n + i / n) else el i)
      else el (i / 16 * 16 + i % 4 * 4 + i % 16 / 4))
    c.send (both h (dataOut h.sh c.time (fitBytes c.l.data.length (packLanes h.sh.width out)))) s) s

/-! ### Warping and drift (R307, R308) -/

/-- A coordinate clamped to [0, n - 1]; a plane without cells leaves it open. -/
def clampCell (i : Int) (n : Nat) : Nat :=
  if n = 0 then (Config.emptyClamp i).toNat else if i < 0 then 0 else if i ≥ n then n - 1 else i.toNat

/-- R307: the warp cells, weights and phase of a feature cell. -/
def execBlkw (h : Hd) (x : VidX) (s : State) : Result :=
  fire (.blkw h x) (fun c s =>
    let r := recordOf c.l.data
    let q (i : Nat) : Nat := natAt c.rt.data (2 * i) 2
    let li := h.md.toNat
    let cx := q 0
    let cy := q 1
    let vx : Int := 64 * (cx : Int) + r.mv.getD (2 * li) 0
    let vy : Int := 64 * (cy : Int) + r.mv.getD (2 * li + 1) 0
    let fx := (vx % 64).toNat
    let fy := (vy % 64).toNat
    let ix := vx / 64
    let iy := vy / 64
    let raw : List (Int × Int) := [(ix, iy), (ix + 1, iy), (ix, iy + 1), (ix + 1, iy + 1)]
    let cl := raw.map (fun p => (clampCell p.1 (q 2), clampCell p.2 (q 3)))
    let moved := (List.zipWith (fun (p : Int × Int) (k : Nat × Nat) => p.1 != (k.1 : Int) || p.2 != (k.2 : Int)) raw cl).any id
    let intra := r.kind == 0
    let ref := r.ref.getD li 0
    let noref := ref == 0xFF
    let cells := if intra then List.replicate 4 (cx, cy) else cl
    let ws := if intra || noref then [0, 0, 0, 0]
      else [(64 - fx) * (64 - fy), fx * (64 - fy), (64 - fx) * fy, fx * fy]
    let ph := if intra then 0 else fx / 16 * 4 + fy / 16
    let fl := (if moved && !intra then 1 else 0) + (if intra then 2 else 0) + (if noref then 4 else 0)
      + (if ref = 0xFE then 8 else 0)
    let out := cells.flatMap (fun k => leBytes 2 k.1 ++ leBytes 2 k.2) ++ packLanes 2 ws ++ leBytes 1 ref ++ leBytes 1 li
      ++ leBytes 1 ph ++ leBytes 1 fl ++ zeros 4
    c.send (both h (dataOut .n16 c.time out)) s) s

/-- R308: a cell's drift and its refresh predicate. -/
def execDrift (h : Hd) (x : VidX) (s : State) : Result :=
  fire (.drift h x) (fun c s =>
    let fl := natAt c.rt.data 27 1
    let ph := natAt c.rt.data 26 1
    let vs := ((upto 4).filter (fun k => natAt c.rt.data (16 + 2 * k) 2 != 0)).map (fun k => natAt c.l.data k 1)
    let d :=
      if bit fl 1 then (if h.md = 0 then 0 else 255)
      else if bit fl 2 then 255
      else if vs.isEmpty || decide (ph > 15) then
        (Config.driftOpen (BitVec.ofNat 32 (natAt c.l.data 0 4)) (BitVec.ofNat 64 (natAt c.rt.data 16 8))).toNat
      else min 255 (vs.foldl max 0 + bits c.a.driftCost.toNat (4 * ph) 4 + 1)
    c.send [dataOut .n8 c.time (leBytes 8 d) h.t0,
      dataOut .n8 c.time (leBytes 8 (if d > c.a.driftLim.toNat % 256 then 1 else 0)) h.t1] s) s

end Sys2Proof.Machine
end

