-- ==== Sys2Proof/Machine/Dispatch.lean ====
section
/-! DEFINITION. The meaning of every instruction, event and command: one arm per constructor of Instr. -/

namespace Sys2Proof.Machine

def exec (i : Instr) (s : State) : Host.Outcome State Fault Refusal :=
  match i with
  | .nop h x => Sys2Proof.Machine.execNop h x s
  | .exit h x => Sys2Proof.Machine.execExit h x s
  | .mov h => Sys2Proof.Machine.execMov h s
  | .const h imm => Sys2Proof.Machine.execConst h imm s
  | .consth h imm => Sys2Proof.Machine.execConsth h imm s
  | .fan h x => Sys2Proof.Machine.execFan h x s
  | .sink h => Sys2Proof.Machine.execSink h s
  | .route h => Sys2Proof.Machine.execRoute h s
  | .merge h => Sys2Proof.Machine.execMerge h s
  | .select h => Sys2Proof.Machine.execSelect h s
  | .gate h => Sys2Proof.Machine.execGate h s
  | .enter h => Sys2Proof.Machine.execEnter h s
  | .step h imm => Sys2Proof.Machine.execStep h imm s
  | .leave h => Sys2Proof.Machine.execLeave h s
  | .epoch h imm => Sys2Proof.Machine.execEpoch h imm s
  | .timeof h => Sys2Proof.Machine.execTimeof h s
  | .cnt h => Sys2Proof.Machine.execCnt h s
  | .repeat h => Sys2Proof.Machine.execRepeat h s
  | .eos h => Sys2Proof.Machine.execEos h s
  | .iseos h => Sys2Proof.Machine.execIseos h s
  | .hold h x => Sys2Proof.Machine.execHold h x s
  | .release h x => Sys2Proof.Machine.execRelease h x s
  | .resize h imm => Sys2Proof.Machine.execResize h imm s
  | .add h imm => Sys2Proof.Machine.execAdd h imm s
  | .sub h imm => Sys2Proof.Machine.execSub h imm s
  | .mul h imm => Sys2Proof.Machine.execMul h imm s
  | .mulh h imm => Sys2Proof.Machine.execMulh h imm s
  | .mad h imm => Sys2Proof.Machine.execMad h imm s
  | .div h imm => Sys2Proof.Machine.execDiv h imm s
  | .rem h imm => Sys2Proof.Machine.execRem h imm s
  | .neg h imm => Sys2Proof.Machine.execNeg h imm s
  | .abs h imm => Sys2Proof.Machine.execAbs h imm s
  | .min h imm => Sys2Proof.Machine.execMin h imm s
  | .max h imm => Sys2Proof.Machine.execMax h imm s
  | .adds h imm => Sys2Proof.Machine.execAdds h imm s
  | .subs h imm => Sys2Proof.Machine.execSubs h imm s
  | .and h imm => Sys2Proof.Machine.execAnd h imm s
  | .or h imm => Sys2Proof.Machine.execOr h imm s
  | .xor h imm => Sys2Proof.Machine.execXor h imm s
  | .andn h imm => Sys2Proof.Machine.execAndn h imm s
  | .shl h imm => Sys2Proof.Machine.execShl h imm s
  | .shr h imm => Sys2Proof.Machine.execShr h imm s
  | .rotl h imm => Sys2Proof.Machine.execRotl h imm s
  | .clz h imm => Sys2Proof.Machine.execClz h imm s
  | .popc h imm => Sys2Proof.Machine.execPopc h imm s
  | .bfx h imm => Sys2Proof.Machine.execBfx h imm s
  | .bfi h imm => Sys2Proof.Machine.execBfi h imm s
  | .cmp h imm => Sys2Proof.Machine.execCmp h imm s
  | .hash h imm => Sys2Proof.Machine.execHash h imm s
  | .fadd h imm => Sys2Proof.Machine.execFadd h imm s
  | .fsub h imm => Sys2Proof.Machine.execFsub h imm s
  | .fmul h imm => Sys2Proof.Machine.execFmul h imm s
  | .ffma h imm => Sys2Proof.Machine.execFfma h imm s
  | .fmin h imm => Sys2Proof.Machine.execFmin h imm s
  | .fmax h imm => Sys2Proof.Machine.execFmax h imm s
  | .fcmp h imm => Sys2Proof.Machine.execFcmp h imm s
  | .fabs h imm => Sys2Proof.Machine.execFabs h imm s
  | .fneg h imm => Sys2Proof.Machine.execFneg h imm s
  | .frcp h imm => Sys2Proof.Machine.execFrcp h imm s
  | .frsq h imm => Sys2Proof.Machine.execFrsq h imm s
  | .fsqrt h imm => Sys2Proof.Machine.execFsqrt h imm s
  | .fexp2 h imm => Sys2Proof.Machine.execFexp2 h imm s
  | .flog2 h imm => Sys2Proof.Machine.execFlog2 h imm s
  | .fsin h imm => Sys2Proof.Machine.execFsin h imm s
  | .fcos h imm => Sys2Proof.Machine.execFcos h imm s
  | .ftanh h imm => Sys2Proof.Machine.execFtanh h imm s
  | .ferf h imm => Sys2Proof.Machine.execFerf h imm s
  | .fscale h imm => Sys2Proof.Machine.execFscale h imm s
  | .frnd h imm => Sys2Proof.Machine.execFrnd h imm s
  | .fclass h imm => Sys2Proof.Machine.execFclass h imm s
  | .rsum h imm => Sys2Proof.Machine.execRsum h imm s
  | .rmax h imm => Sys2Proof.Machine.execRmax h imm s
  | .rmin h imm => Sys2Proof.Machine.execRmin h imm s
  | .scan h imm => Sys2Proof.Machine.execScan h imm s
  | .perm h imm => Sys2Proof.Machine.execPerm h imm s
  | .bcast h imm => Sys2Proof.Machine.execBcast h imm s
  | .slice h imm => Sys2Proof.Machine.execSlice h imm s
  | .cat h imm => Sys2Proof.Machine.execCat h imm s
  | .split h imm => Sys2Proof.Machine.execSplit h imm s
  | .compr h imm => Sys2Proof.Machine.execCompr h imm s
  | .expd h imm => Sys2Proof.Machine.execExpd h imm s
  | .argmax h imm => Sys2Proof.Machine.execArgmax h imm s
  | .topk h imm => Sys2Proof.Machine.execTopk h imm s
  | .maxrs h imm => Sys2Proof.Machine.execMaxrs h imm s
  | .cvt h imm => Sys2Proof.Machine.execCvt h imm s
  | .cvts h imm => Sys2Proof.Machine.execCvts h imm s
  | .qnt h imm => Sys2Proof.Machine.execQnt h imm s
  | .dqnt h imm => Sys2Proof.Machine.execDqnt h imm s
  | .pack h imm => Sys2Proof.Machine.execPack h imm s
  | .unpk h imm => Sys2Proof.Machine.execUnpk h imm s
  | .mcfg h x => Sys2Proof.Machine.execMcfg h x s
  | .mldb h x => Sys2Proof.Machine.execMldb h x s
  | .mswp h x => Sys2Proof.Machine.execMswp h x s
  | .mrow h x => Sys2Proof.Machine.execMrow h x s
  | .mrowa h x => Sys2Proof.Machine.execMrowa h x s
  | .mblk h x => Sys2Proof.Machine.execMblk h x s
  | .msca h x => Sys2Proof.Machine.execMsca h x s
  | .mzero h x => Sys2Proof.Machine.execMzero h x s
  | .mdrn h x => Sys2Proof.Machine.execMdrn h x s
  | .ldt h x => Sys2Proof.Machine.execLdt h x s
  | .stt h x => Sys2Proof.Machine.execStt h x s
  | .lds h x => Sys2Proof.Machine.execLds h x s
  | .sts h x => Sys2Proof.Machine.execSts h x s
  | .agen h x => Sys2Proof.Machine.execAgen h x s
  | .gath h x => Sys2Proof.Machine.execGath h x s
  | .scat h x => Sys2Proof.Machine.execScat h x s
  | .waita h x => Sys2Proof.Machine.execWaita h x s
  | .arrv h x => Sys2Proof.Machine.execArrv h x s
  | .fence h x => Sys2Proof.Machine.execFence h x s
  | .xfence h x => Sys2Proof.Machine.execXfence h x s
  | .ldv h x => Sys2Proof.Machine.execLdv h x s
  | .stv h x => Sys2Proof.Machine.execStv h x s
  | .ldvs h x => Sys2Proof.Machine.execLdvs h x s
  | .stvs h x => Sys2Proof.Machine.execStvs h x s
  | .pfv h x => Sys2Proof.Machine.execPfv h x s
  | .amo h x => Sys2Proof.Machine.execAmo h x s
  | .amor h x => Sys2Proof.Machine.execAmor h x s
  | .red h x => Sys2Proof.Machine.execRed h x s
  | .bin h x => Sys2Proof.Machine.execBin h x s
  | .binf h x => Sys2Proof.Machine.execBinf h x s
  | .send h x => Sys2Proof.Machine.execSend h x s
  | .cpy h x => Sys2Proof.Machine.execCpy h x s
  | .cpys h x => Sys2Proof.Machine.execCpys h x s
  | .cpyf h x => Sys2Proof.Machine.execCpyf h x s
  | .cpyc h x => Sys2Proof.Machine.execCpyc h x s
  | .sbw h x => Sys2Proof.Machine.execSbw h x s
  | .snap h x => Sys2Proof.Machine.execSnap h x s
  | .cmbc h x => Sys2Proof.Machine.execCmbc h x s
  | .cmba h x => Sys2Proof.Machine.execCmba h x s
  | .cmbi h x => Sys2Proof.Machine.execCmbi h x s
  | .cmbr h x => Sys2Proof.Machine.execCmbr h x s
  | .syno h x => Sys2Proof.Machine.execSyno h x s
  | .synq h x => Sys2Proof.Machine.execSynq h x s
  | .bmod h x => Sys2Proof.Machine.execBmod h x s
  | .cgex h x => Sys2Proof.Machine.execCgex h x s
  | .cflp h x => Sys2Proof.Machine.execCflp h x s
  | .ctrn h x => Sys2Proof.Machine.execCtrn h x s
  | .blkw h x => Sys2Proof.Machine.execBlkw h x s
  | .drift h x => Sys2Proof.Machine.execDrift h x s
  | .cdmc h x => Sys2Proof.Machine.execCdmc h x s
  | .cdip h x => Sys2Proof.Machine.execCdip h x s
  | .waitf h x => Sys2Proof.Machine.execWaitf h x s
  | .front h x => Sys2Proof.Machine.execFront h x s
  | .launch h imm => Sys2Proof.Machine.execLaunch h imm s
  | .join h imm => Sys2Proof.Machine.execJoin h imm s
  | .isect h imm => Sys2Proof.Machine.execIsect h imm s
  | .union h imm => Sys2Proof.Machine.execUnion h imm s
  | .part h imm => Sys2Proof.Machine.execPart h imm s
  | .trap h x => Sys2Proof.Machine.execTrap h x s
  | .brk h x => Sys2Proof.Machine.execBrk h x s
  | .rdcr h x => Sys2Proof.Machine.execRdcr h x s
  | .wrcr h x => Sys2Proof.Machine.execWrcr h x s
  | .perf h x => Sys2Proof.Machine.execPerf h x s
  | .svc h x => Sys2Proof.Machine.execSvc h x s
  | .dmxCmd rd rs1 rs2 => Sys2Proof.Machine.execDmxCmd rd rs1 rs2 s
  | .dmxFence rd rs1 rs2 => Sys2Proof.Machine.execDmxFence rd rs1 rs2 s
  | .dmxTake rd rs1 rs2 => Sys2Proof.Machine.execDmxTake rd rs1 rs2 s
  | .dmxGive rd rs1 rs2 => Sys2Proof.Machine.execDmxGive rd rs1 rs2 s
  | .dmxResume rd rs1 rs2 => Sys2Proof.Machine.execDmxResume rd rs1 rs2 s
  | .dmxFrz rd rs1 rs2 => Sys2Proof.Machine.execDmxFrz rd rs1 rs2 s
  | .dmxClaim rd rs1 rs2 => Sys2Proof.Machine.execDmxClaim rd rs1 rs2 s
  | .dmxWatch rd rs1 rs2 => Sys2Proof.Machine.execDmxWatch rd rs1 rs2 s
  | .cmdCreateTask core => Sys2Proof.Machine.execCmdCreateTask core s
  | .cmdJoinInit core => Sys2Proof.Machine.execCmdJoinInit core s
  | .cmdJoinDec core => Sys2Proof.Machine.execCmdJoinDec core s
  | .cmdRegisterTemplate core => Sys2Proof.Machine.execCmdRegisterTemplate core s
  | .cmdDropTemplate core => Sys2Proof.Machine.execCmdDropTemplate core s
  | .cmdSetWeight core => Sys2Proof.Machine.execCmdSetWeight core s
  | .commandCompletion core => Sys2Proof.Machine.execCommandCompletion core s
  | .copy mt => Sys2Proof.Machine.execCopy mt s
  | .sopen mt => Sys2Proof.Machine.execSopen mt s
  | .sfree mt => Sys2Proof.Machine.execSfree mt s
  | .sclose mt => Sys2Proof.Machine.execSclose mt s
  | .fill mt => Sys2Proof.Machine.execFill mt s
  | .mgen mt => Sys2Proof.Machine.execMgen mt s
  | .setAsideStart mt strm => Sys2Proof.Machine.execSetAsideStart mt strm s
  | .arrivalSubtraction work => Sys2Proof.Machine.execArrivalSubtraction work s
  | .copyCompletion mt ctx => Sys2Proof.Machine.execCopyCompletion mt ctx s
  | .streamTileDone mt ctx => Sys2Proof.Machine.execStreamTileDone mt ctx s
  | .streamClose mt ctx => Sys2Proof.Machine.execStreamClose mt ctx s
  | .matrixGenDone mt ctx => Sys2Proof.Machine.execMatrixGenDone mt ctx s
  | .ccfg mt => Sys2Proof.Machine.execCcfg mt s
  | .ccfgApply mt => Sys2Proof.Machine.execCcfgApply mt s
  | .calloc mt => Sys2Proof.Machine.execCalloc mt s
  | .callocResume mt => Sys2Proof.Machine.execCallocResume mt s
  | .cins mt => Sys2Proof.Machine.execCins mt s
  | .crecv mt => Sys2Proof.Machine.execCrecv mt s
  | .combineFrontierSubst mt slot => Sys2Proof.Machine.execCombineFrontierSubst mt slot s
  | .combineTimeout mt slot => Sys2Proof.Machine.execCombineTimeout mt slot s
  | .combineRelease mt => Sys2Proof.Machine.execCombineRelease mt s
  | .combineMarkerRelease mt => Sys2Proof.Machine.execCombineMarkerRelease mt s
  | .vopen res bind => Sys2Proof.Machine.execVopen res bind s
  | .vqry res bind => Sys2Proof.Machine.execVqry res bind s
  | .vfree res bind => Sys2Proof.Machine.execVfree res bind s
  | .vclose res bind => Sys2Proof.Machine.execVclose res bind s
  | .streamParseStart res bind sigma => Sys2Proof.Machine.execStreamParseStart res bind sigma s
  | .pictureDelivery res bind => Sys2Proof.Machine.execPictureDelivery res bind s
  | .syntaxStreamEnd res bind sigma => Sys2Proof.Machine.execSyntaxStreamEnd res bind sigma s
  | .snapshotRequest => Sys2Proof.Machine.execSnapshotRequest s
  | .snapshotMarked => Sys2Proof.Machine.execSnapshotMarked s
  | .snapshotCut => Sys2Proof.Machine.execSnapshotCut s
  | .snapshotPageCopied page => Sys2Proof.Machine.execSnapshotPageCopied page s
  | .ingressTranslate req elem => Sys2Proof.Machine.execIngressTranslate req elem s
  | .rangeTableFetch req elem => Sys2Proof.Machine.execRangeTableFetch req elem s
  | .pageWalkRead req elem => Sys2Proof.Machine.execPageWalkRead req elem s
  | .atsCompletion req elem grant => Sys2Proof.Machine.execAtsCompletion req elem grant s
  | .atsInvalidateRequest asid va len => Sys2Proof.Machine.execAtsInvalidateRequest asid va len s
  | .hostRangeTruncate asid va newEnd => Sys2Proof.Machine.execHostRangeTruncate asid va newEnd s
  | .invalidateCompletion index => Sys2Proof.Machine.execInvalidateCompletion index s
  | .migrationRewalk asid va len => Sys2Proof.Machine.execMigrationRewalk asid va len s
  | .migratingDelivery fid => Sys2Proof.Machine.execMigratingDelivery fid s
  | .homeAccess req elem bad => Sys2Proof.Machine.execHomeAccess req elem bad s
  | .responseDelivery req => Sys2Proof.Machine.execResponseDelivery req s
  | .ownerUpdate req elem bad => Sys2Proof.Machine.execOwnerUpdate req elem bad s
  | .tcCommit mt => Sys2Proof.Machine.execTcCommit mt s
  | .detCommit home res => Sys2Proof.Machine.execDetCommit home res s
  | .endToEndTimeout req => Sys2Proof.Machine.execEndToEndTimeout req s
  | .markOnlyPacket home port => Sys2Proof.Machine.execMarkOnlyPacket home port s
  | .tokenAdmission tile chan => Sys2Proof.Machine.execTokenAdmission tile chan s
  | .backqMove tile chan => Sys2Proof.Machine.execBackqMove tile chan s
  | .slotAged tile slot => Sys2Proof.Machine.execSlotAged tile slot s
  | .cntEmission tile slot => Sys2Proof.Machine.execCntEmission tile slot s
  | .repeatEmission tile slot => Sys2Proof.Machine.execRepeatEmission tile slot s
  | .agenEmission tile ctx => Sys2Proof.Machine.execAgenEmission tile ctx s
  | .resizeEffect tile index => Sys2Proof.Machine.execResizeEffect tile index s
  | .rowResult tile index => Sys2Proof.Machine.execRowResult tile index s
  | .mscaResult tile index => Sys2Proof.Machine.execMscaResult tile index s
  | .mldbLoadDone tile index => Sys2Proof.Machine.execMldbLoadDone tile index s
  | .mblkSetValid tile set => Sys2Proof.Machine.execMblkSetValid tile set s
  | .slewCycle die dom => Sys2Proof.Machine.execSlewCycle die dom s
  | .slewTick die dom => Sys2Proof.Machine.execSlewTick die dom s
  | .slewIdleExpiry die dom => Sys2Proof.Machine.execSlewIdleExpiry die dom s
  | .trackerBatch trk input => Sys2Proof.Machine.execTrackerBatch trk input s
  | .waitfRegister trk => Sys2Proof.Machine.execWaitfRegister trk s
  | .frontierRelease trk index => Sys2Proof.Machine.execFrontierRelease trk index s
  | .frontQuery trk => Sys2Proof.Machine.execFrontQuery trk s
  | .taskCreate => Sys2Proof.Machine.execTaskCreate s
  | .joinApply => Sys2Proof.Machine.execJoinApply s
  | .waitReevaluate rec => Sys2Proof.Machine.execWaitReevaluate rec s
  | .taskSelect => Sys2Proof.Machine.execTaskSelect s
  | .priorityAging rec => Sys2Proof.Machine.execPriorityAging rec s
  | .blockLoad rec => Sys2Proof.Machine.execBlockLoad rec s
  | .activation rec => Sys2Proof.Machine.execActivation rec s
  | .enterDraining rec => Sys2Proof.Machine.execEnterDraining rec s
  | .retire rec => Sys2Proof.Machine.execRetire rec s
  | .drainLimitExpiry rec => Sys2Proof.Machine.execDrainLimitExpiry rec s
  | .watchedStore => Sys2Proof.Machine.execWatchedStore s
  | .freezeRequest rec cause => Sys2Proof.Machine.execFreezeRequest rec cause s
  | .scanOut rec => Sys2Proof.Machine.execScanOut rec s
  | .faultRecordEntry => Sys2Proof.Machine.execFaultRecordEntry s
  | .faultDelivery fid => Sys2Proof.Machine.execFaultDelivery fid s
  | .claimEscalation fid => Sys2Proof.Machine.execClaimEscalation fid s
  | .disposition => Sys2Proof.Machine.execDisposition s
  | .hostResumeWrite value => Sys2Proof.Machine.execHostResumeWrite value s
  | .watchWindowWrite slot value => Sys2Proof.Machine.execWatchWindowWrite slot value s
  | .bar2Access offset size data => Sys2Proof.Machine.execBar2Access offset size data s
  | .mailboxPoll set => Sys2Proof.Machine.execMailboxPoll set s
  | .mailboxStart set core => Sys2Proof.Machine.execMailboxStart set core s
  | .skeinFileLoad addr asid => Sys2Proof.Machine.execSkeinFileLoad addr asid s
  | .tokstatClear tile => Sys2Proof.Machine.execTokstatClear tile s
  | .dspstClear => Sys2Proof.Machine.execDspstClear s
  | .resstClear res => Sys2Proof.Machine.execResstClear res s
  | .failtReset res => Sys2Proof.Machine.execFailtReset res s
  | .errcntClear die => Sys2Proof.Machine.execErrcntClear die s
  | .perfselWrite tile k value => Sys2Proof.Machine.execPerfselWrite tile k value s
  | .bccapWrite die value => Sys2Proof.Machine.execBccapWrite die value s
  | .slewTableWrite die crn value => Sys2Proof.Machine.execSlewTableWrite die crn value s
  | .throtWrite die value => Sys2Proof.Machine.execThrotWrite die value s
  | .qmaskSet die word value => Sys2Proof.Machine.execQmaskSet die word value s
  | .registerWrite reg value => Sys2Proof.Machine.execRegisterWrite reg value s
  | .overcurrentAlert die => Sys2Proof.Machine.execOvercurrentAlert die s
  | .flitReplay flit kept => Sys2Proof.Machine.execFlitReplay flit kept s
  | .laneRetrain link failsAgain => Sys2Proof.Machine.execLaneRetrain link failsAgain s
  | .linkTraining link peer => Sys2Proof.Machine.execLinkTraining link peer s
  | .cxlLinkFailure port => Sys2Proof.Machine.execCxlLinkFailure port s
  | .reset => Sys2Proof.Machine.execReset s
  | .firmwareVerify image => Sys2Proof.Machine.execFirmwareVerify image s
  | .attestationRequest set nonce => Sys2Proof.Machine.execAttestationRequest set nonce s
  | .mzeroDone tile index => Sys2Proof.Machine.execMzeroDone tile index s
  | .pageInvalidation asid va len => Sys2Proof.Machine.execPageInvalidation asid va len s
  | .idleSelfTest die quad act => Sys2Proof.Machine.execIdleSelfTest die quad act s

end Sys2Proof.Machine
end

