-- ==== Sys2Proof/Machine/Select.lean ====
section
/-! DEFINITION. Which instruction a pipe of a tile fires (R175 to R177) and what a service core fetches. -/

namespace Sys2Proof.Machine

/-- What a pipe may fire: slot, time, and the instruction or the emission of a generator (R177). -/
structure Cand where
  slot : Nat
  time : Time
  ins  : Instr
  deriving DecidableEq, Repr, Inhabited

/-- Times for which a slot may match: those of its L tokens, and of R for L|R. -/
def slotTimes (a : AT) (slot : Nat) (i : Instr) : List Nat :=
  let ts := (a.posNow slot .l).map (fun k => k.time.toNat)
  let rs := if eitherFires i then (a.posNow slot .r).map (fun k => k.time.toNat) else []
  dedup (ts ++ rs)

/-- Whether the instruction does something at a slot and time (R175). -/
def readyAt (s : State) (k : Nat) (c : Cand) : Bool :=
  match exec c.ins { s with focus := { tile := k, slot := c.slot, time := c.time }, acted := false } with
  | .next s' => s'.acted
  | _ => true

/-- Tile identity from its key. -/
def tileOf (k : Nat) : TileId := ⟨keyDie k, keyX k, keyY k, keyT k⟩

/-- Candidates of one slot for a pipe; an emission counts at the emitted token's time. -/
def slotCands (s : State) (k : Nat) (p : Pipe) (slot : Nat) : List Cand :=
  let a := s.at k
  match a.active.instr slot with
  | none => []
  | some i =>
    if pipeOf i ≠ p then []
    else match (a.slot slot).gen with
      | some t => match i with
        | .repeat _ => [⟨slot, genTime s k slot t, .repeatEmission (tileOf k) slot⟩]
        | _ => [⟨slot, genTime s k slot t, .cntEmission (tileOf k) slot⟩]
      | none => (slotTimes a slot i).map (fun t => ⟨slot, BitVec.ofNat 64 t, i⟩)

/-- The earlier of two candidates: smaller time, then lower slot (R177). -/
def Cand.before (x y : Cand) : Bool :=
  decide (x.time.toNat < y.time.toNat) || (x.time == y.time && decide (x.slot < y.slot))

/-- The pairs of a pipe. -/
def pipeCands (s : State) (k : Nat) (p : Pipe) : List Cand := (upto (s.at k).active.icnt).flatMap (slotCands s k p)

/-- The ready pairs of a pipe. -/
def readyCands (s : State) (k : Nat) (p : Pipe) : List Cand := (pipeCands s k p).filter (readyAt s k)

/-- The pair a pipe fires (R177): aged slots first, lowest index; else smallest time, lowest slot. -/
def choose (s : State) (k : Nat) (rs : List Cand) : Option Cand :=
  let aged := rs.filter (fun c => ((s.at k).slot c.slot).isAged)
  if aged.isEmpty then (sortBy Cand.before rs).head?
  else (sortBy (fun x y => decide (x.slot < y.slot) || (x.slot == y.slot && x.before y)) aged).head?

/-- Aging counts after the pipe fired slot `f`, or nothing (R177). -/
def ageSlots (a : AT) (p : Pipe) (rs : List Cand) (f : Option Nat) : AT :=
  (upto a.active.icnt).foldl (fun a k =>
    match a.active.instr k with
    | none => a
    | some i =>
      let x := a.slot k
      if pipeOf i ≠ p then a
      else if f = some k || !(rs.any (fun c => c.slot == k)) then
        if x.aging = 0 && !x.aged then a else a.modSlot k (fun x => { x with aging := 0, aged := false })
      else if f.isNone then a
      else a.modSlot k (fun x => { x with aging := x.aging + 1 })) a

/-- One firing of a pipe of a tile: the chosen pair's instruction runs; nothing fires when none is ready. -/
def firePipe (k : Nat) (p : Pipe) (s : State) : Result :=
  let rs := readyCands s k p
  let s := countRefused ((pipeCands s k p).map (fun c s => readyAt s k c)) s
  match choose s k rs with
  | none => .next (s.modAt k (fun a => ageSlots a p rs none))
  | some c =>
    exec c.ins { (s.modAt k (fun a => ageSlots a p rs (some c.slot))) with
      focus := { tile := k, slot := c.slot, time := c.time, bad := s.focus.bad } }

/-- Rows of the table that no pipe and no service core fetches. -/
def isEvent (i : Instr) : Bool := (encodeWord i).isNone && (encodeCore i).isNone

/-- An event that R174 alone keeps back is counted (R416, event 7); the admission of a token from a channel counts its own. -/
def noteRefused (i : Instr) (s : State) : State := match i with
  | .tokenAdmission _ _ => s
  | _ => countRefused [fun s => match exec i s with | .next t => t.acted | _ => true] s

end Sys2Proof.Machine
end

