-- ==== Sys2Proof/Machine/Cycle.lean ====
section
/-! DEFINITION. What a fabric cycle brings without a step of its own, what a service core fetches and runs (R417, R418), and
the state in which a given word is the next to run. -/

namespace Sys2Proof.Machine

/-! ### A cycle passes -/

/-- Whether a slot of tile k is held: by a hold of its own, by an active message, by a walk of its pointers, or by a memory request. -/
def anyHeld (s : State) (k : Nat) (a : AT) : Bool :=
  a.slots.any (fun e => e.2.hold.isSome || !e.2.msgs.isEmpty) || a.agens.any (fun e => e.2.held)
    || s.reqs.any (fun e => (match e.2.org with | .slot k' _ => k' == k | _ => false)
      && e.2.elts.any (fun x => match x.st with | .held _ => true | _ => false))

/-- Counters of active cycles and of cycles with a held slot, while the residency is active (R416). -/
def cycleTile (s : State) (k : Nat) (a : AT) : AT :=
  match a.res with
  | none => a
  | some h => if (runRes s h).isNone then a else
    let a := a.perf 1 1
    if a.counts 9 && anyHeld s k a then a.perf 9 1 else a

/-- REMC of the open slots of an active residency falls (R321). -/
def cycleMt (s : State) (k : Nat) (m : MT) : MT :=
  match m.cmb with
  | none => m
  | some u => if (mtRunning s k).isNone then m else { m with cmb := some { u with live := u.live.map (fun e => (e.1, e.2 - 1)) } }

/-- A reply kept for a frozen residency is delivered once it runs again (R425). -/
def deliverKept (handle : Nat) (v : Svc) (s : State) : State :=
  match v.kept with
  | none => s
  | some outs => if (runRes s v.msg.h).isNone then s else (deliverReply handle v outs s).getD s

/-- One fabric cycle: results still owed go out, what came to the tiles stands (R173), and each tile's batch is sent (R327); CYCLE
rises as an n64 (R411); then answers to updates come back (R370), the syntax lanes read and parse on (R278), the mesh brings requests to their
banks (R146), backing queues write their entries (R150) and the units see which requests of the behind-compute class wait (R135). -/
def tick (s : State) : State :=
  let s1 := sendBatches (owedCycle (s.svcs.foldl (fun s e => deliverKept e.1 e.2 s) s))
  bcCycle (spillCycle (meshStep (synCycle (ackCycle { s1 with
    cycle := (s1.cycle + 1) % 2 ^ 64
    ats := s1.ats.map (fun e => (e.1, (cycleTile s1 e.1 e.2).settle))
    mts := s1.mts.map (fun e => (e.1, cycleMt s1 e.1 e.2)) }))))

/-! ### Fetch of a service core (R417, R418) -/

/-- A parcel of 16 bits at an address, or its cause: 12 a page fault, 1 a vacant address, 0 control space, from which the spec lets no core
fetch. -/
def fetchParcel (s : State) (c va : Nat) : Except (Nat × Nat) (List Byte) :=
  match corePa s c 0 va with
  | .error cause => .error (va, cause)
  | .ok a =>
    if pkind s a = .control ∧ 0x80000 ≤ a then .error (a, 0)
    else if coreRange s a 2 then .ok (coreRead s c a 2) else .error (va, 1)

/-- The bytes at the pc: one parcel, or two where the first's low bits are 11 (R417: C). -/
def fetchCore (s : State) (c : Nat) : Except (Nat × Nat) (List Byte) :=
  let pc := (s.core c).pc.toNat
  match fetchParcel s c pc with
  | .error e => .error e
  | .ok a =>
    if leNat a % 4 ≠ 3 then .ok a
    else match fetchParcel s c ((pc + 2) % 2 ^ 64) with
      | .error e => .error e
      | .ok b => .ok (a ++ b)

/-- Whether an Xdmx instruction reads its operand's block. -/
def readsBlock (x : Core) : Instr → Bool
  | .dmxCmd _ rs1 _ => decide (bits (x.reg rs1.toNat).toNat 38 6 > 0)
  | .dmxGive _ _ _ | .dmxWatch _ _ _ => true
  | _ => false

/-- A bad word of the local SRAM that a core meets: an access fault, and UE counts it (R433, log 5). -/
def badSram (c cause : Nat) (v : W64) (s : State) : State := (noteUe (c / 8) s).modCore c (fun x => x.takeTrap cause v)

/-- One instruction of a started core: an interrupt is taken first; an Xdmx word or a word of the base ISA runs; an illegal Xdmx word, a
page fault and an access fault trap (R417, R418, log 5). A bad byte below 8 lies in the word fetched, another in what it reads of the local
SRAM. -/
def runCore (c : Nat) (s : State) : Result :=
  let x := s.core c
  if !x.started then .next s
  else match pendingIrq x with
    | some (i, m) => .next (s.modCore c (fun x => x.takeIrq i m)).act
    | none => match fetchCore s c with
      | .error (a, 0) => .fault (.fetchGap a)
      | .error (a, cause) => .next (s.modCore c (fun x => x.takeTrap cause (BitVec.ofNat 64 a))).act
      | .ok bs =>
        if s.focus.bad.any (fun b => decide (b < 8)) then .next (badSram c 1 x.pc s).act
        else match decodeCoreBytes bs with
          | .xdmx i =>
            if s.focus.bad.isSome && x.mode != 0 && readsBlock x i then .next (badSram c 5 (x.reg (rs2Of i)) s).act
            else exec i { s with focus := { s.focus with core := c } }
          | .illegal => .next (s.illegal c).act
          | .base => runBase c bs s
where
  rs2Of : Instr → Nat
    | .dmxCmd _ _ rs2 | .dmxGive _ _ rs2 | .dmxWatch _ _ rs2 => rs2.toNat
    | _ => 0

/-! ### A word placed to run next (log 12) -/

/-- The words of a block image with one instruction: version, one slot, no channel, and depth 2 in each position (R37, R38). -/
def oneWordBank (w : W64) : Bank :=
  let hdr := 1 * 2 ^ 124 + 1 * 2 ^ 113 + 3 * 2 ^ 100 + 3 * 2 ^ 91 + 127 * 2 ^ 84
  { valid := true, words := [BitVec.ofNat 64 hdr, BitVec.ofNat 64 (hdr / 2 ^ 64), w, BitVec.ofNat 64 0x020202] }

/-- A residency of one quad whose tiles may fire: handle 0, at quad (0, 0) of die 0. -/
def oneQuad : Res :=
  { desc := { (default : Desc) with w := 1, h := 1 }, asid := 0, tmpl := 0, rid := 0, die := 0, x0 := 0, y0 := 0, epb := 0, larg := 0,
    running := true }

/-- A data token of 8 zero bytes at time 0. -/
def zeroToken : Token := ⟨0, 0, .data, .b64, 0, zeros 8, false, []⟩

/-- A tile with the word in slot 0, a token in each position that it uses, and the node's grant. -/
def oneWordTile (w : W64) : AT :=
  let b := oneWordBank w
  let ps := match b.instr 0 with
    | some i => uses i
    | none => []
  { (default : AT) with
    active := b
    res := some 0
    pos := ([Pos.l, Pos.r, Pos.p].filter (fun q => ps.contains q)).map (fun q => (posEdge 0 q, [zeroToken]))
    node := { (default : Node) with grant := true } }

/-- Load a fabric word: the state in which tile 0 fires it next. -/
def placeWord (w : W64) (s : State) : State :=
  let p := match decodeWord w with
    | .ok i => pipeOf i
    | .error _ => .vec
  { s with
    ats := put 0 (oneWordTile w) s.ats
    res := put 0 oneQuad s.res
    tasks := put 0 { (default : Task) with state := .active } s.tasks
    agenda := [.fire 0 p] }

/-- Load a service core's word: the state in which core 0 runs it next. -/
def placeCoreWord (w : Nat) (s : State) : State :=
  let x := s.core 0
  { s with
    cores := put 0 { x with started := true, sram := writeBytes x.sram x.pc.toNat (leBytes 4 w) } s.cores
    agenda := [.core 0] }

end Sys2Proof.Machine
end

