-- ==== Sys2Proof/Machine/Plan.lean ====
section
/-! DEFINITION. Which steps a fabric cycle brings (log 1): with an empty agenda the machine lists, for what stands in its state,
every step that its own units could take. A listed step that cannot take place changes nothing (R193). Steps that the outside
causes (the host, firmware, links, errors) are not listed: they stand in an agenda that holds them. -/

namespace Sys2Proof.Machine

/-- Numbers below n, highest first: what one step removes does not renumber those still to come. -/
def downFrom (n : Nat) : List Nat := (upto n).reverse

/-- A tile whose residency runs. -/
def runsHere (s : State) (a : AT) : Bool := match a.res with
  | some h => (runRes s h).isSome
  | none => false

/-- What the node of a tile has under way, which a freeze lets finish (R272). -/
def planNode (tile : TileId) (n : Node) : List Instr :=
  let owed : List Instr := if n.outq.isEmpty then [] else [.rowResult tile n.flight.length]
  owed ++ (n.sets.filter (fun e => e.2.filling)).map (fun e => .mblkSetValid tile e.1)
    ++ (downFrom n.flight.length).flatMap (fun i => [.rowResult tile i, .mscaResult tile i, .mzeroDone tile i])
    ++ (downFrom n.loads.length).map (fun i => .mldbLoadDone tile i)

/-- SPORT in which the oldest token of a channel enters its position (R166). -/
def admitSport (s : State) (k c : Nat) : Nat :=
  match chanOf s k c, (s.at k).chanNow c with
  | some (r, w), tok :: _ => (match chanDest s r w with
    | some (d, _, _) => (ingressToken s r w d tok).sport.toNat
    | none => 0)
  | _, _ => 0

/-- Firings and admissions of a tile, with the SPORT of what they send. -/
def planFires (s : State) (k : Nat) (a : AT) : List (Nat × Act) :=
  match a.res.bind (runRes s) with
  | none => []
  | some r =>
    [Pipe.vec, .mem, .row, .oth].map (fun p => ((sportOf r k p.port).toNat, Act.fire k p))
      ++ (a.active.chans.filter (fun w => a.chanNow w.ch != [])).map (fun w =>
        (admitSport s k w.ch, Act.event (.tokenAdmission (tileOf k) w.ch)))

/-- Firings and admissions of a cycle in ascending SPORT, so that of tokens that compete for an entry the lowest comes first (R173). -/
def planTokens (s : State) : List Act :=
  (sortBy (fun x y => decide (x.1 < y.1)) (s.ats.flatMap (fun e => planFires s e.1 e.2))).map (·.2)

/-- What the slots, generators and the node of a tile have under way. -/
def planTile (s : State) (k : Nat) (a : AT) : List Act :=
  let tile := tileOf k
  let node := if a.res.isSome then planNode tile a.node else []
  (if !runsHere s a then node
  else
    let moves := (a.active.chans.filter (fun w => w.bq != 63)).map (fun w => Instr.backqMove tile w.ch)
    let slots := (a.slots.filter (fun e => decide (e.2.aging ≥ 64) && !e.2.aged)).map (fun (e : Nat × Slot) => Instr.slotAged tile e.1)
    slots ++ a.agens.map (fun (e : Nat × Agen) => Instr.agenEmission tile e.1) ++ node
      ++ (downFrom a.resizing.length).map (fun i => Instr.resizeEffect tile i) ++ moves).map Act.event

/-- Whether a die's slew tables or its throttle level await a tick of a domain (R270, R441). -/
def slewStale (d : Die) (x : Slew) : Bool :=
  !(x.up0 == d.up0 && x.up1 == d.up1 && x.dn0 == d.dn0 && x.dn1 == d.dn1 && x.lim == d.lim && x.level == d.throt)

/-- Slew domains with a running tile, with state of their own, or with a written table that no tick has taken. -/
def planSlew (s : State) : List Act :=
  let used := (s.ats.filter (fun e => runsHere s e.2)).map (fun e => e.1 / 480 * 8 + e.1 / 4 % 120 / 15)
  let stale := s.dies.flatMap (fun (e : Nat × Die) =>
    ((upto 8).map (fun n => 8 * e.1 + n)).filter (fun d => slewStale e.2 (getD {} d s.slews)))
  (dedup (used ++ s.slews.map (·.1) ++ stale)).flatMap (fun d =>
    [Act.event (.slewTick (d / 8) (d % 8)), .event (.slewCycle (d / 8) (d % 8)), .event (.slewIdleExpiry (d / 8) (d % 8))])

/-- What an element of a request waits for. -/
def planElt (id i : Nat) (e : Elt) : List Instr := match e.st with
  | .new => [.ingressTranslate id i]
  | .fetch => [.rangeTableFetch id i]
  | .walk _ _ => [.pageWalkRead id i]
  | .home => (upto e.nwords).flatMap (fun w => [.homeAccess id (4 * i + w) false, .ownerUpdate id (4 * i + w) false])
  | _ => []

def planReq (s : State) (id : Nat) (q : Req) : List Act :=
  ((q.elts.zipIdx).flatMap (fun (e : Elt × Nat) => planElt id e.2 e.1) ++ [Instr.responseDelivery id]
    ++ (if q.since + 65536 ≤ s.cycle then [Instr.endToEndTimeout id] else [])).map Act.event

/-- Deterministic updates that a home has accepted, by residency. -/
def planDet (home : Nat) (cs : List CEnt) : List Instr :=
  (dedup ((cs.filter (fun c => c.upd.isSome)).map (·.h))).map (fun h => Instr.detCommit home h)

/-- The engines of a memory tile. -/
def planMt (k : Nat) (m : MT) : List Act :=
  let mt := tileOf k
  let inbox : List Instr := (if m.inbox = [] then [] else [.copy mt, .fill mt, .sopen mt, .sfree mt, .mgen mt])
    ++ (if m.inbox = [] && m.closed = [] then [] else [.sclose mt])
  let aside : List Instr :=
    (if m.asideC = [] then [] else [.setAsideStart mt false]) ++ (if m.asideS = [] then [] else [.setAsideStart mt true])
  let unit : List Instr := match m.cmb with
    | none => []
    | some u => [.ccfg mt, .ccfgApply mt, .callocResume mt, .calloc mt, .cins mt, .crecv mt]
        ++ u.order.flatMap (fun i => [.combineFrontierSubst mt i, .combineTimeout mt i]) ++ [.combineRelease mt, .combineMarkerRelease mt]
  (aside ++ inbox ++ m.cctx.flatMap (fun e => [Instr.copyCompletion mt e.1, .matrixGenDone mt e.1])
    ++ m.sctx.flatMap (fun e => [Instr.streamTileDone mt e.1, .streamClose mt e.1]) ++ unit ++ [Instr.tcCommit mt] ++ planDet k m.commit).map Act.event

/-- The syntax binding of a key. -/
def planSyn (key : Nat) (y : Syn) : List Act :=
  let h := key / 64
  let b := key % 64
  ((if y.queue = [] then [] else [Instr.vopen h b, .vqry h b, .vfree h b, .vclose h b])
    ++ y.streams.flatMap (fun (e : Nat × VStream) => (if e.2.state = 0 then [Instr.streamParseStart h b e.1] else [])
        ++ (if e.2.state = 2 || (e.2.state = 0 && !e.2.closing) then [] else [Instr.syntaxStreamEnd h b e.1]))
    ++ [Instr.pictureDelivery h b]).map Act.event

/-- Trackers: batches, registrations, releases, queries. -/
def planTracker (k : Nat) (t : Tracker) : List Act :=
  (t.inq.flatMap (fun (e : Nat × List (List Post)) => e.2.map (fun _ => Instr.trackerBatch k e.1)) ++ t.regq.map (fun _ => Instr.waitfRegister k)
    ++ (downFrom t.waiters.length).map (fun i => Instr.frontierRelease k i) ++ t.queries.map (fun _ => Instr.frontQuery k)).map Act.event

/-- The snapshot controller. -/
def planSnap (s : State) : List Act :=
  ((if s.snapq = [] then [] else [Instr.snapshotRequest]) ++ (match s.snap with
    | none => []
    | some n => [.snapshotMarked, .snapshotCut] ++ ((n.pages.zipIdx).filter (fun p => p.1.copying)).map (fun p => .snapshotPageCopied p.2))).map Act.event

/-- A task record. -/
def planTask (h : Nat) (t : Task) : List Instr :=
  (match t.freezing with | some _ => [.scanOut h] | none => []) ++ match t.state with
    | .free => []
    | .waiting => [.waitReevaluate h]
    | .ready => [.priorityAging h]
    | .frozen => [.priorityAging h]
    | .loading => [.blockLoad h, .activation h]
    | .active => [.enterDraining h, .drainLimitExpiry h]
    | .draining => [.retire h, .drainLimitExpiry h]

/-- The Dispatcher. -/
def planDsp (s : State) : List Act :=
  (s.watchq.map (fun _ => Instr.watchedStore) ++ s.dsp.frzq.map (fun (e : Nat × Nat) => Instr.freezeRequest e.1 e.2)
    ++ (if s.dsp.launchq = [] && s.watch.all (fun w => w.2.queue.isEmpty) then [] else [Instr.taskCreate])
    ++ (if s.dsp.joinq = [] then [] else [Instr.joinApply]) ++ s.tasks.flatMap (fun (e : Nat × Task) => planTask e.1 e.2) ++ [Instr.taskSelect]).map Act.event

/-- The fault controller. -/
def planFaults (s : State) : List Act :=
  (s.faults.incoming.map (fun _ => Instr.faultRecordEntry) ++ s.faults.copies.map (fun (f : FRec) => Instr.faultDelivery f.fid)
    ++ s.faults.table.flatMap (fun (o : Open) => [Instr.faultDelivery o.fr.fid, .migratingDelivery o.fr.fid, .claimEscalation o.fr.fid])
    ++ (if s.faults.disps = [] then [] else [Instr.disposition])).map Act.event

/-- The command port of a service core, and the core's next instruction. -/
def planCore (s : State) (c : Nat) (x : Core) : List Act :=
  (if x.pending = [] then [] else [Instr.cmdCreateTask c, .cmdJoinInit c, .cmdJoinDec c, .cmdRegisterTemplate c, .cmdDropTemplate c,
      .cmdSetWeight c].map Act.event)
    ++ (s.cmdDone.filter (fun e => e.1 == c)).map (fun _ => Act.event (.commandCompletion c))
    ++ (if x.started then [Act.core c] else [])

/-- The loader's own work where no service core runs firmware: entries of files that can be served (R68). -/
def planAsks (s : State) : List Act :=
  if (nextAsk s).isNone || s.cores.any (fun e => e.2.started) then [] else [.event (.cmdCreateTask 0)]

/-- R427: whether a poll falls into this cycle: every MBPOLL ns of a clock of 1.7 GHz (R4). -/
def pollDue (s : State) : Bool := s.cycle * 10 / (17 * s.host.mbpoll) != (s.cycle - 1) * 10 / (17 * s.host.mbpoll)

/-- The steps of one cycle, in one order. -/
def plan (s : State) : List Act :=
  planSlew s ++ planTokens s ++ s.ats.flatMap (fun e => planTile s e.1 e.2) ++ s.reqs.flatMap (fun e => planReq s e.1 e.2)
    ++ s.subs.map (fun e => .event (.arrivalSubtraction e.1)) ++ s.mts.flatMap (fun e => planMt e.1 e.2)
    ++ s.homes.flatMap (fun e => (planDet e.1 e.2.det ++ (e.2.windows.filter (fun w => (unanswered s w.1 e.1).isEmpty)).map (fun w =>
      Instr.markOnlyPacket e.1 w.1)).map Act.event)
    ++ s.syns.flatMap (fun e => planSyn e.1 e.2) ++ s.trackers.flatMap (fun e => planTracker e.1 e.2) ++ planSnap s
    ++ (downFrom s.revoked.length).map (fun i => .event (.invalidateCompletion i)) ++ planDsp s ++ planFaults s
    ++ s.cores.flatMap (fun e => planCore s e.1 e.2) ++ planAsks s
    ++ (if pollDue s then s.host.mbbase.map (fun e => .event (.mailboxPoll e.1)) else [])

/-- A cycle passes, and brings the steps of the next. -/
def nextCycle (s : State) : State :=
  let t := tick s
  { t with agenda := plan t }

end Sys2Proof.Machine
end

