-- ==== Sys2Proof/Machine/Step.lean ====
section
/-! DEFINITION. One step, and the state in which the next step runs a given word. -/

namespace Sys2Proof.Machine

/-- The byte of its reads at which an entry's step finds an uncorrectable word (R397, R433). -/
def Act.bad : Act → Option Nat
  | .badFire _ _ b | .badCore _ b | .badEvent _ b => some b
  | _ => none

/-- R175, R193 and log 1: the next entry of the agenda runs: a pipe of a tile fires, a service core runs an instruction, a
step of the table that no pipe and no core fetches takes place. With nothing due a fabric cycle passes and brings its own steps. -/
def step (s : State) : Host.Outcome State Fault Refusal :=
  match s.agenda with
  | [] => .next (nextCycle s)
  | a :: rest =>
    let s := { s with agenda := rest, acted := false, focus := { s.focus with bad := a.bad } }
    match a with
    | .fire k p | .badFire k p _ => firePipe k p s
    | .core c | .badCore c _ => runCore c s
    | .event i | .badEvent i _ => if isEvent i then exec i (noteRefused i s) else .next s
    | .lostAnswer req elem => .next (loseAnswer req elem s)
    | .corrected d => .next (noteCe d s)

/-- Log 12: a word of up to 32 bits stands at core 0's pc; a longer one is the bank word of slot 0 of a running tile with a
token in each position it uses. -/
def State.withFetchWord (s : State) (nbits w : Nat) : State :=
  if nbits ≤ 32 then placeCoreWord w s else placeWord (BitVec.ofNat 64 w) s

end Sys2Proof.Machine
end

