-- ==== Sys2Proof/Safety.lean ====
section
/-! DEFINITION. What claims are stated in: when a slot fires, what a firing that sends these tokens leaves, canonical
memory, the registers that a step keeps in range, and which instructions leave which parts of the state alone. -/

namespace Sys2Proof.Safety

open Sys2Proof.Machine

/-! ### Firings (R175, R176, R178) -/

/-- The slot and time in focus match the tokens of `c` for instruction `i`, none of them a marker and none with a payload
that failed its parity check, and no word that the firing reads is uncorrectable (R397). -/
def Fires (i : Instr) (s : State) (c : Ctx) : Prop :=
  (ctxOf i s = some c ∧ s.focus.bad = none) ∧ ∀ e ∈ c.toks, e.2.bad = false ∧ e.2.isMarker = false

/-- The same with markers among the tokens, for an instruction that defines its own marker behaviour. -/
def Matches (i : Instr) (s : State) (c : Ctx) : Prop :=
  (ctxOf i s = some c ∧ s.focus.bad = none) ∧ ∀ e ∈ c.toks, e.2.bad = false

/-- The tokens of one firing, in target order, from the port of its pipe and with the port's sequence number. -/
def sending (i : Instr) (c : Ctx) (outs : List Out) (s : State) : Option (State × List Post) :=
  sendAll s c.key (sportOf c.r c.key (pipeOf i).port) (c.a.seqOf (pipeOf i)) outs c.gens

/-- The tile after it has consumed the oldest token of the firing's time from each of these positions. -/
def eaten (c : Ctx) (eat : List Pos) (s : State) : AT × List Post := consume (s.at c.key) c.slot c.time eat

/-- What a firing leaves once its tokens are sent: its operands are consumed, its pipe has fired in this cycle, its
port's sequence number has advanced, and the changes of count are posted in one batch. -/
def left (i : Instr) (c : Ctx) (eat : List Pos) (posts : List Post) (cycle : Nat) (s : State) (ps : List Post) : State :=
  ((s.setAt c.key ((eaten c eat s).1.markFired (pipeOf i) cycle)).post c.key ((eaten c eat s).2 ++ ps ++ posts)).act

/-- Where the targets take these tokens, executing `j` answers the next state of a firing of `i`: from `s0` (what is
written beside the tokens) the tokens are sent, `eat` is consumed and `posts` are the further changes of count. -/
def Answers (j i : Instr) (s : State) (c : Ctx) (eat : List Pos) (outs : List Out) (posts : List Post) (s0 : State) : Prop :=
  ∀ s1 ps, sending i c outs s0 = some (s1, ps) → exec j s = .next (left i c eat posts s.cycle s1 ps)

/-- The same where the instruction itself fires. -/
def Completes (i : Instr) (s : State) (c : Ctx) (eat : List Pos) (outs : List Out) (posts : List Post) (s0 : State) : Prop :=
  Answers i i s c eat outs posts s0

/-- Everything matched is consumed, and something is written beside the tokens. -/
def Writes (i : Instr) (s : State) (c : Ctx) (outs : List Out) (s0 : State) : Prop :=
  Completes i s c (c.toks.map (·.1)) outs [] s0

/-- The common case: everything matched is consumed, and nothing is written beside the tokens. -/
def Sends (i : Instr) (s : State) (c : Ctx) (outs : List Out) : Prop := Writes i s c outs s

/-- The change of count by which an operation that is still to be answered keeps its time at the slot's L position
(R324). -/
def stays (c : Ctx) : List Post := postAt c.a (posEdge c.slot .l) c.time 1

/-- Instructions that do not follow the end-marker rule at the time of their operands (R178): those with a marker behaviour
of their own, and the conversions, which under `.st` add a token to it (R245). -/
def ownMarkers : Instr → Bool
  | .merge _ | .enter _ | .step _ _ | .leave _ | .epoch _ _ | .repeat _ | .eos _ | .iseos _ => true
  | .cvt h _ | .cvts h _ | .qnt h _ | .dqnt h _ | .pack h _ | .unpk h _ => decide (8 ≤ h.md.toNat)
  | .mcfg _ _ | .mrow _ _ | .mrowa _ _ | .mblk _ _ | .mdrn _ _ | .cmbr _ _ | .isect _ _ | .union _ _ | .part _ _
  | .waitf _ _ => true
  | _ => false

/-- Memory instructions: their markers keep their place among the answers of the slot (R148, R178). -/
def streamed : Instr → Bool
  | .ldt _ _ | .stt _ _ | .lds _ _ | .sts _ _ | .gath _ _ | .scat _ _ | .arrv _ _ | .ldv _ _ | .stv _ _ | .ldvs _ _
  | .stvs _ _ | .pfv _ _ | .amo _ _ | .amor _ _ | .red _ _ | .bin _ _ | .binf _ _ | .fence _ _ | .xfence _ _ => true
  | _ => false

/-- Instructions of the node whose markers go behind what their slot has under way there. -/
def behindNode : Instr → Bool
  | .mldb _ _ | .msca _ _ | .mzero _ _ => true
  | _ => false

/-- Whether a marker that `i` consumes goes behind results of its slot that are still due. -/
def markerWaits (i : Instr) (s : State) (c : Ctx) : Bool :=
  (streamed i && streamBusy s c.key c.slot) || (behindNode i && nodeBusy c.a c.slot)

/-- The highest rank among the matched tokens (R178). -/
def topRank (c : Ctx) : Nat := (c.toks.map (fun e => e.2.rank)).foldl max 0

/-- How many of the matched tokens are no markers (R178). -/
def markedAway (c : Ctx) : Nat := (c.toks.filter (fun e => !e.2.isMarker)).length

/-! ### Memory requests (R109, R156) -/

/-- The request that a firing issues. -/
def requestOf (i : Instr) (h : Hd) (c : Ctx) (op : ROp) (size : Nat) (elts : List Elt) : Req :=
  { h := c.h, org := .slot c.key c.slot, op := op, type := h.sh, time := c.time, pipe := pipeOf i,
    seq := c.a.seqOf (pipeOf i), size := size, t0 := h.t0, t1 := h.t1, elts := elts,
    loc := c.a.loc (posEdge c.slot .l), gen := c.gens, lanes := laned i }

/-- The state in which a request stands issued: numbered, its sound elements on their way, the others held. -/
def issued (r : Req) (s : State) : State := (s.newReq r).2

/-- `i` completes by issuing a request, where the tile's outgoing queue has room for one that names the scratchpad (R147):
everything matched is consumed, nothing is sent yet. -/
def Issues (i : Instr) (s : State) (c : Ctx) (r : Req) : Prop :=
  ((∃ e ∈ r.elts, e.space = .scr) → meshFree s c.key = true) → Completes i s c (c.toks.map (·.1)) [] (stays c) (issued r s)

/-! ### Messages (R114, R116) -/

/-- The state in which a message has been sent: it has its sender's next sequence number and stands in the unit's queue. -/
def posted (c : Ctx) (d : Dest) (m : Msg) (s : State) : State :=
  ({ (s.numbered m).2 with nextId := s.nextId + 1 }.modAt c.key (fun a => a.perf 12 1)).deliver d (s.numbered m).1

/-- `i` completes by sending a message to a unit: everything matched is consumed, nothing is sent to its targets yet. -/
def Posts (i : Instr) (s : State) (c : Ctx) (d : Dest) (m : Msg) : Prop :=
  Completes i s c (c.toks.map (·.1)) [] (stays c) (posted c d m s)

/-! ### Steps of a combine unit (R146, R317 to R322) -/

/-- Where no word that it reads is bad and `go` can be done, step `i` of a combine unit does `go` once the turn of its words has come in
their banks, and takes its places in the banks' queues before. -/
def AtTurn (i : Instr) (x : CU) (op : Nat) (areas : List (Nat × Nat)) (s : State) (go : State → Option State) : Prop :=
  let words := areas.map fun a => (x.u.base + a.1, a.2)
  s.focus.bad = none → (go s).isSome = true →
  (unitTurn s x.r (.cmb x.mt op) words = true →
    ∀ s', go (unitTake x.r (.cmb x.mt op) words s) = some s' → exec i s = .next s') ∧
  (unitTurn s x.r (.cmb x.mt op) words = false → exec i s = .next (unitWait x.r (.cmb x.mt op) words s))

/-! ### The whole machine -/

/-- What every step keeps: both byte memories in canonical form, the interleaving within its range (R93), the boot state
legal (R439), the throttle level and the quarantine mask within their bits (R437, R441), BCCAP within 16 bits (R135), no
reserved bit of DSPCTL set (R386), and every service core in a legal privilege mode with canonical SRAM (R417). -/
structure Inv (s : State) : Prop where
  mem : s.mem.wf = true
  hostMem : s.host.mem.wf = true
  share : s.share ≤ 74
  boot : s.boot.state ≤ 2
  die : ∀ d, (s.die d).throt ≤ 7 ∧ (s.die d).qmask < 2 ^ 120
  bccap : ∀ d, getD 0x100 d s.bccap < 2 ^ 16
  dspctl : s.dsp.ctl &&& 1 = s.dsp.ctl
  core : ∀ c, ((s.core c).mode = 0 ∨ (s.core c).mode = 1 ∨ (s.core c).mode = 3) ∧ (s.core c).sram.wf = true

/-- The table rows that may change device memory: accesses performed at their homes, what a service core writes, the host's
window, and reset. -/
def writesMemory : Instr → Bool
  | .homeAccess _ _ _ | .ownerUpdate _ _ _ | .detCommit _ _ | .dmxTake _ _ _ | .dmxClaim _ _ _ | .bar2Access _ _ _
  | .reset => true
  | _ => false

/-- What no firing of a fabric instruction touches: memory and translation, the tables of the Dispatcher, the boards'
registers, the host, and of the service cores everything but their take queues. The count of uncorrectable errors may rise (R435). -/
structure Untouched (s t : State) : Prop where
  agenda : t.agenda = s.agenda
  cycle : t.cycle = s.cycle
  mem : t.mem = s.mem
  pts : t.pts = s.pts
  homes : t.homes = s.homes
  revoked : t.revoked = s.revoked
  window : (t.share, t.hostWins, t.extents) = (s.share, s.hostWins, s.extents)
  bccap : t.bccap = s.bccap
  roots : t.roots = s.roots
  subs : t.subs = s.subs
  watch : (t.watch, t.watchq) = (s.watch, s.watchq)
  snap : t.snap = s.snap
  templates : t.templates = s.templates
  images : (t.images, t.saved, t.files) = (s.images, s.saved, s.files)
  clsmap : t.clsmap = s.clsmap
  dies : ∀ d, { t.die d with ue := 0 } = { s.die d with ue := 0 }
  boards : (t.fuses, t.repair, t.slews, t.links, t.testing) = (s.fuses, s.repair, s.slews, s.links, s.testing)
  host : (t.host, t.boot) = (s.host, s.boot)
  core : ∀ c, { t.core c with takeq := [] } = { s.core c with takeq := [] }

/-- The words of a tile that only instructions naming them write: its typed buffers, its configuration and its registers
(R142, R411). -/
structure TileUntouched (a b : AT) : Prop where
  buffers : (b.w, b.a, b.q) = (a.w, a.a, a.q)
  banks : (b.active, b.inactive, b.res, b.next) = (a.active, a.inactive, a.res, a.next)
  faultRegs : (b.faultst, b.faultad) = (a.faultst, a.faultad)
  debug : b.dbgctl = a.dbgctl

/-- The registers that WRCR may write. -/
structure UserRegs (a b : AT) : Prop where
  detseed : b.detseed = a.detseed
  perfsel : b.perfsel = a.perfsel
  drift : (b.driftLim, b.driftCost) = (a.driftLim, a.driftCost)
  user : b.user = a.user

end Sys2Proof.Safety
end

