-- ==== Sys2Proof/Certificates/Slice0/Obligations.lean ====
section
/-! DEFINITION. Statements about the machine: what each instruction and each step of the table does, and what holds of the
whole machine. -/

open Sys2Proof Sys2Proof.Machine Sys2Proof.Safety

/-- R181: NOP and SINK consume their L token and send nothing; MOV sends it with TYPE set to SH, whatever its kind; FAN
sends it unchanged to T0 to T4. R183: ROUTE sends L to T0 or T1 by P, SELECT sends L or R by P, GATE sends L to T0 and P to
T1. R185: TIMEOF sends the time as n64; ENTER leaves the time as it is; STEP adds IMM to the counter of the firing's depth
where it fits; LEAVE clears that counter; EPOCH adds IMM to the epoch where it fits and clears every counter. R186: STEP
past its counter's width and EPOCH past 2^20 - 1 hold TIMEWRAP: the slot is held, its tokens stay, and a record with the
level in GEN0 goes to the fault controller. -/
def Obligations.MovesAndLoopTimes : Prop :=
(∀ (s : State) (c : Ctx) (h : Hd),
  (∀ x, Fires (.nop h x) s c → Sends (.nop h x) s c []) ∧
  (Fires (.sink h) s c → Sends (.sink h) s c []) ∧
  (Fires (.mov h) s c → Sends (.mov h) s c
    [⟨h.t0, c.l.kind, h.sh, c.l.time, c.l.data⟩, ⟨h.t1, c.l.kind, h.sh, c.l.time, c.l.data⟩]) ∧
  (∀ x, Fires (.fan h x) s c → Sends (.fan h x) s c ([h.t0, h.t1, x.t2, x.t3, x.t4].map c.l.to)) ∧
  (Fires (.route h) s c → Sends (.route h) s c
    [if natAt c.p.data 0 1 = 0 then c.l.to h.t1 else c.l.to h.t0]) ∧
  (Fires (.select h) s c → Sends (.select h) s c
    (both h (if natAt c.p.data 0 1 = 0 then c.rt else c.l).to)) ∧
  (Fires (.gate h) s c → Sends (.gate h) s c [c.l.to h.t0, c.p.to h.t1])) ∧
(∀ (s : State) (c : Ctx) (h : Hd),
  (Fires (.timeof h) s c → Sends (.timeof h) s c (both h (dataOut .n64 c.time (leBytes 8 c.time.toNat)))) ∧
  (Fires (.enter h) s c → Sends (.enter h) s c (both h c.l.to)) ∧
  (∀ imm, ctr c.shape c.time c.depth + imm.toNat < 2 ^ levelWidth c.shape c.depth → Fires (.step h imm) s c →
    Sends (.step h imm) s c (both h fun t =>
      { c.l.to t with time := setCtr c.shape c.time c.depth (ctr c.shape c.time c.depth + imm.toNat) })) ∧
  (Fires (.leave h) s c → Sends (.leave h) s c (both h fun t =>
      { c.l.to t with time := setCtr c.shape c.time c.depth 0 })) ∧
  (∀ imm, epochOf c.time + imm.toNat < 2 ^ 20 → Fires (.epoch h imm) s c →
    Sends (.epoch h imm) s c (both h fun t =>
      { c.l.to t with time := BitVec.ofNat 64 ((epochOf c.time + imm.toNat) * 2 ^ 44) }))) ∧
(∀ (s : State) (c : Ctx) (h : Hd) (imm : BitVec 30),
  let hd (i : Instr) : SlotHold :=
    { cls := .timewrap, time := c.time, onAbort := (targetsOf i).map (markerOut 5 c.time) }
  let held (i : Instr) (level : Nat) : State :=
    ((s.modAt c.key (fun a => a.modSlot c.slot (fun x => { x with hold := some (hd i) }))).raise
      (slotRec c.r (ridOf s c.h) c.key c.slot .timewrap c.time 0 [level])).act
  (Matches (.step h imm) s c → 2 ^ levelWidth c.shape c.depth ≤ ctr c.shape c.time c.depth + imm.toNat →
    exec (.step h imm) s = .next (held (.step h imm) c.depth)) ∧
  (Matches (.epoch h imm) s c → 2 ^ 20 ≤ epochOf c.time + imm.toNat →
    exec (.epoch h imm) s = .next (held (.epoch h imm) 0)))

/-- R182: CONST sends the immediate at SH's width, repeated to fill 8 bytes; CONSTH joins bits [29:0] of L, IMM and MD, so
that CONST.n64 and CONSTH.n64 build every 64-bit constant. -/
def Obligations.ConstantsAreBuilt : Prop := ∀ (s : State) (c : Ctx) (h : Hd) (imm : BitVec 30),
  (Fires (.const h imm) s c → Sends (.const h imm) s c
    (both h (dataOut h.sh c.time (packLanes h.sh.width (List.replicate (8 / h.sh.width) (immElem h.sh imm)))))) ∧
  (Fires (.consth h imm) s c → Sends (.consth h imm) s c
    (both h (dataOut h.sh c.time
      (leBytes 8 (natAt c.l.data 0 8 % 2 ^ 30 + imm.toNat * 2 ^ 30 + h.md.toNat * 2 ^ 60))))) ∧
  (∀ v : Nat, v < 2 ^ 64 →
    let low := natAt (packLanes 8 [immElem .n64 (BitVec.ofNat 30 v)]) 0 8
    low % 2 ^ 30 + (BitVec.ofNat 30 (v / 2 ^ 30)).toNat * 2 ^ 30 + (BitVec.ofNat 4 (v / 2 ^ 60)).toNat * 2 ^ 60 = v)

/-- R216, R217, R222, R224: with R an operand, the lanes of L and R, the shorter widened to the longer, are combined one by
one; the result has SH's type, CMP's the unsigned type of its width. R27, R217, R222, R224: in the immediate form the
second operand is the immediate, broadcast to the lanes of L. R222, R223, R225: one operand, lane by lane, and MAD's three. -/
def Obligations.IntegerLanes : Prop :=
(∀ (s : State) (c : Ctx) (h : Hd) (imm : BitVec 30),
  let e := h.sh
  let n := max c.l.data.length c.rt.data.length
  let row (f : Nat → Nat → Nat) : List Byte := packLanes e.width (zip2 f (widen e.width n c.l.data) (widen e.width n c.rt.data))
  h.md.toNat < 8 →
  (Fires (.add h imm) s c → ¬(c.l.kind = .count ∧ c.rt.kind = .count) → Sends (.add h imm) s c
    (both h (dataOut e c.time (row fun a b => rawOf e (intOf e a + intOf e b))))) ∧
  (Fires (.add h imm) s c → c.l.kind = .count → c.rt.kind = .count → Sends (.add h imm) s c
    (both h fun t => ⟨t, .count, .n32, c.time, countAdd c.l.data c.rt.data⟩)) ∧
  (∀ p ∈ [(Instr.sub h imm, fun a b => rawOf e (intOf e a - intOf e b)),
      (.mul h imm, fun a b => rawOf e (intOf e a * intOf e b)),
      (.mulh h imm, fun a b => rawOf e ((intOf e a * intOf e b) / (2 ^ e.nbits : Int))),
      (.div h imm, idiv e), (.rem h imm, irem e),
      (.min h imm, fun a b => if intOf e b < intOf e a then b else a),
      (.max h imm, fun a b => if intOf e a < intOf e b then b else a),
      (.adds h imm, fun a b => rawOf e (clampInt e (intOf e a + intOf e b))),
      (.subs h imm, fun a b => rawOf e (clampInt e (intOf e a - intOf e b))),
      (.and h imm, fun a b => a &&& b), (.or h imm, fun a b => a ||| b), (.xor h imm, fun a b => a ^^^ b),
      (.andn h imm, iandn e), (.shl h imm, ishl e), (.shr h imm, ishr e), (.rotl h imm, irotl e)],
    Fires p.1 s c → Sends p.1 s c (both h (dataOut e c.time (row p.2)))) ∧
  (Fires (.cmp h imm) s c → Sends (.cmp h imm) s c (both h (dataOut (unsignedOf e) c.time
    (row fun a b => if intCond (h.md.toNat % 8) (intOf e a) (intOf e b) then 1 else 0)))) ∧
  (Fires (.bfi h imm) s c → Sends (.bfi h imm) s c
    (both h (dataOut e c.time (row (ibfi (immBits imm 0 6) (immBits imm 6 7))))))) ∧
(∀ (s : State) (c : Ctx) (h : Hd) (imm : BitVec 30),
  let e := h.sh
  let l := lanes e.width c.l.data
  let row (f : Nat → Nat → Nat) : List Byte := packLanes e.width (l.map fun a => f a (immElem e imm))
  8 ≤ h.md.toNat →
  (∀ p ∈ [(Instr.add h imm, fun a b => rawOf e (intOf e a + intOf e b)),
      (.sub h imm, fun a b => rawOf e (intOf e a - intOf e b)),
      (.mul h imm, fun a b => rawOf e (intOf e a * intOf e b)),
      (.mulh h imm, fun a b => rawOf e ((intOf e a * intOf e b) / (2 ^ e.nbits : Int))),
      (.div h imm, idiv e), (.rem h imm, irem e),
      (.min h imm, fun a b => if intOf e b < intOf e a then b else a),
      (.max h imm, fun a b => if intOf e a < intOf e b then b else a),
      (.adds h imm, fun a b => rawOf e (clampInt e (intOf e a + intOf e b))),
      (.subs h imm, fun a b => rawOf e (clampInt e (intOf e a - intOf e b))),
      (.and h imm, fun a b => a &&& b), (.or h imm, fun a b => a ||| b), (.xor h imm, fun a b => a ^^^ b),
      (.andn h imm, iandn e), (.shl h imm, ishl e), (.shr h imm, ishr e), (.rotl h imm, irotl e)],
    Fires p.1 s c → Sends p.1 s c (both h (dataOut e c.time (row p.2)))) ∧
  (Fires (.cmp h imm) s c → Sends (.cmp h imm) s c (both h (dataOut (unsignedOf e) c.time
    (row fun a b => if intCond (h.md.toNat % 8) (intOf e a) (intOf e b) then 1 else 0))))) ∧
(∀ (s : State) (c : Ctx) (h : Hd) (imm : BitVec 30),
  let e := h.sh
  (∀ p ∈ [(Instr.neg h imm, fun a => rawOf e (-(intOf e a))),
      (.abs h imm, fun a => if intOf e a < 0 then rawOf e (-(intOf e a)) else a),
      (.clz h imm, iclz e), (.popc h imm, ipopc e),
      (.bfx h imm, ibfx e (immBits imm 0 6) (immBits imm 6 7)),
      (.hash h imm, hash32 c.a.detseed)],
    Fires p.1 s c → Sends p.1 s c (both h (dataOut e c.time (packLanes e.width ((lanes e.width c.l.data).map p.2))))) ∧
  (Fires (.mad h imm) s c → Sends (.mad h imm) s c
    (let n := max c.l.data.length (max c.rt.data.length c.p.data.length)
     both h (dataOut e c.time (packLanes e.width (zip3 (fun a b d => rawOf e (intOf e a * intOf e b + intOf e d))
       (widen e.width n c.l.data) (widen e.width n c.rt.data) (widen e.width n c.p.data)))))))

/-- R229 to R232: the float instructions lane by lane, each result rounded once by the word's mode and saturate bit; FCMP
and FCLASS answer with the unsigned type of SH's width; FSCALE's second operand is an integer. -/
def Obligations.FloatLanes : Prop := ∀ (s : State) (c : Ctx) (h : Hd) (imm : BitVec 30),
  let w := h.sh.width
  let two (im : Nat) (f : Nat → Nat → Nat) : List Byte :=
    packLanes w (zip2 f (operands2 h im c).1 (operands2 h im c).2)
  (∀ p ∈ [(Instr.fadd h imm, fun a b => enc h (addV (Hd.mode h) (val h a) (val h b))),
      (.fsub h imm, fun a b => enc h (addV (Hd.mode h) (val h a) (val h b).neg)),
      (.fmul h imm, fun a b => enc h (mulV (val h a) (val h b))),
      (.fmin h imm, fun a b => enc h (minV (val h a) (val h b))),
      (.fmax h imm, fun a b => enc h (maxV (val h a) (val h b)))],
    Fires p.1 s c → Sends p.1 s c (both h (dataOut h.sh c.time (two (immElem h.sh imm) p.2)))) ∧
  (Fires (.fcmp h imm) s c → Sends (.fcmp h imm) s c (both h (dataOut (unsignedOf h.sh) c.time
    (two (immElem h.sh imm) fun a b => if fcond (h.md.toNat % 8) (val h a) (val h b) then 1 else 0)))) ∧
  (Fires (.fscale h imm) s c → Sends (.fscale h imm) s c (both h (dataOut h.sh c.time
    (two (immElem (if h.sh = .f32 then .s32 else .s16) imm) (fscale h))))) ∧
  (∀ p ∈ [(Instr.fabs h imm, fabs h), (.fneg h imm, fneg h), (.frcp h imm, frcp h), (.frsq h imm, frsq h),
      (.fsqrt h imm, fsqrt h), (.fexp2 h imm, fexp2 h), (.flog2 h imm, flog2 h), (.fsin h imm, fsin h),
      (.fcos h imm, fcos h), (.ftanh h imm, ftanh h), (.ferf h imm, ferf h), (.frnd h imm, frnd h)],
    Fires p.1 s c → Sends p.1 s c (both h (dataOut h.sh c.time (packLanes w ((lanes w c.l.data).map p.2))))) ∧
  (Fires (.fclass h imm) s c → Sends (.fclass h imm) s c
    (both h (dataOut (unsignedOf h.sh) c.time (packLanes w ((lanes w c.l.data).map (fclass h)))))) ∧
  (Fires (.ffma h imm) s c → Sends (.ffma h imm) s c
    (both h (dataOut h.sh c.time (packLanes w (zip3 (fun a b d => enc h (addV (Hd.mode h) (mulV (val h a) (val h b)) (val h d)))
      (operands3 h c).1 (operands3 h c).2.1 (operands3 h c).2.2)))))

/-- R234, R235, R238, R239: the reductions send 8 bytes of the repeated value; SCAN the running values; ARGMAX the index
and bits of the highest-ranked element; TOPK the k highest values and their indices; MAXRS one step of the running softmax.
R236, R237: PERM, BCAST, SLICE, CAT and SPLIT move elements; COMPR packs the elements whose mask byte is true, EXPD spreads
elements to the true places, and both count the true mask bytes on T1. -/
def Obligations.RowInstructions : Prop :=
(∀ (s : State) (c : Ctx) (h : Hd) (imm : BitVec 30),
  let l := lanes h.sh.width c.l.data
  (Fires (.rsum h imm) s c → Sends (.rsum h imm) s c (both h
    (if Elem.isFlt h.sh then dataOut .f32 c.time (fillWith 4 (sumFloat h.sh h.md.toNat l) 8)
     else dataOut (if h.sh.signed then .s64 else .n64) c.time (leBytes 8 (sumInt h.sh h.md.toNat l))))) ∧
  (Fires (.rmax h imm) s c → Sends (.rmax h imm) s c
    (both h (dataOut h.sh c.time (fillWith h.sh.width (extreme h.sh true (h.md == 1) l) 8)))) ∧
  (Fires (.rmin h imm) s c → Sends (.rmin h imm) s c
    (both h (dataOut h.sh c.time (fillWith h.sh.width (extreme h.sh false (h.md == 1) l) 8)))) ∧
  (Fires (.scan h imm) s c → Sends (.scan h imm) s c
    (both h (dataOut h.sh c.time (packLanes h.sh.width (scanRow h.sh h.md.toNat l))))) ∧
  (Fires (.argmax h imm) s c → Sends (.argmax h imm) s c
    (let i := (ranked h.sh (h.md == 1) c.a.detseed l).headD 0
     both h (dataOut h.sh c.time (leBytes 4 i ++ leBytes 4 (canonElem h.sh (l.getD i 0)))))) ∧
  (Fires (.topk h imm) s c → Sends (.topk h imm) s c
    (let r := ranked h.sh (h.md == 1) c.a.detseed l
     [dataOut h.sh c.time (fitToken (packLanes h.sh.width ((upto (immBits imm 0 7)).map fun j =>
        match r[j]? with | some i => canonElem h.sh (l.getD i 0) | none => 0))) h.t0,
      dataOut .n32 c.time (fitToken (packLanes 4 ((upto (immBits imm 0 7)).map fun j => r.getD j 0xFFFFFFFF))) h.t1])) ∧
  (Fires (.maxrs h imm) s c → Sends (.maxrs h imm) s c
    (let m := maxrsStep h.sh l (natAt c.rt.data 0 4)
     [dataOut h.sh c.time (packLanes h.sh.width m.1) h.t0,
      dataOut .f32 c.time (leBytes 4 m.2.1 ++ leBytes 4 m.2.2) h.t1]))) ∧
(∀ (s : State) (c : Ctx) (h : Hd) (imm : BitVec 30),
  let w := h.sh.width
  let l := lanes w c.l.data
  let m := (upto l.length).map fun i => natAt c.p.data i 1 != 0
  (Fires (.perm h imm) s c → Sends (.perm h imm) s c (both h (dataOut h.sh c.time (packLanes w
    ((upto l.length).map fun i => l.getD (permIdx h imm c.rt.data l.length i) 0))))) ∧
  (Fires (.bcast h imm) s c → Sends (.bcast h imm) s c (both h (dataOut h.sh c.time
    (fillWith w (l.getD (immBits imm 0 8) 0) (8 * 2 ^ immBits imm 8 3))))) ∧
  (Fires (.slice h imm) s c → Sends (.slice h imm) s c (both h (dataOut h.sh c.time
    (fitToken (packLanes w ((upto (immBits imm 9 9)).map fun k => l.getD (immBits imm 0 9 + k) 0)))))) ∧
  (Fires (.cat h imm) s c → Sends (.cat h imm) s c
    (both h (dataOut h.sh c.time (fitToken (c.l.data ++ c.rt.data))))) ∧
  (Fires (.split h imm) s c → 16 ≤ c.l.data.length → Sends (.split h imm) s c
    [dataOut h.sh c.time (c.l.data.take (c.l.data.length / 2)) h.t0,
     dataOut h.sh c.time (c.l.data.drop (c.l.data.length / 2)) h.t1]) ∧
  (Fires (.split h imm) s c → c.l.data.length < 16 → Sends (.split h imm) s c
    [dataOut h.sh c.time c.l.data h.t0, dataOut h.sh c.time (zeros 8) h.t1]) ∧
  (Fires (.compr h imm) s c → Sends (.compr h imm) s c
    [dataOut h.sh c.time (fitBytes c.l.data.length (packLanes w (kept l m))) h.t0,
     dataOut .n32 c.time (leBytes 8 (m.filter id).length) h.t1]) ∧
  (Fires (.expd h imm) s c → Sends (.expd h imm) s c
    [dataOut h.sh c.time (fitBytes c.l.data.length (packLanes w (spread l m))) h.t0,
     dataOut .n32 c.time (leBytes 8 (m.filter id).length) h.t1]))

/-- R240 to R245: the conversions send the converted elements (R209: the saturate bit has no effect where the target holds
every value of the source); under `.st` the slot's four counters take the events of the elements produced, and without it
nothing but the tokens changes. -/
def Obligations.Conversions : Prop := ∀ (s : State) (c : Ctx) (h : Hd) (imm : BitVec 30),
  let src := convSrc imm
  let l := lanes src.width c.l.data
  let g := 256 / h.sh.width
  let sat := Hd.sat h && !Elem.widensTo src h.sh
  let st (evs : List StEvent) : State :=
    if h.md.toNat < 8 then s
    else s.modAt c.key (fun a => a.modSlot c.slot (fun x => { x with st := stAdd x.st evs }))
  let conv (v : Nat) : Nat × StEvent := convert src h.sh (Hd.mode h) (Hd.sat h) v
  let row (r : List (Nat × StEvent)) : List Byte := packLanes h.sh.width (r.map (·.1))
  (Fires (.cvt h imm) s c → Writes (.cvt h imm) s c
    (both h (dataOut h.sh c.time (fitToken (row (((l.drop (immBits imm 4 2 * g)).take g).map conv)))))
    (st ((((l.drop (immBits imm 4 2 * g)).take g).map conv).map (·.2)))) ∧
  (Fires (.cvts h imm) s c → Writes (.cvts h imm) s c
    (both h (dataOut h.sh c.time (fitToken (row ((upto l.length).map fun i =>
      stochastic h.sh sat (natAt c.rt.data (2 * i) 2) (valueOf src (l.getD i 0)))))))
    (st (((upto l.length).map fun i =>
      stochastic h.sh sat (natAt c.rt.data (2 * i) 2) (valueOf src (l.getD i 0))).map (·.2)))) ∧
  (Fires (.qnt h imm) s c → Writes (.qnt h imm) s c
    (both h (dataOut .e2m1 c.time (groupBytes ((blocksOf 8 (l.map (valueOf src))).map quantise))))
    (st (((blocksOf 8 (l.map (valueOf src))).map quantise).flatMap fun b => b.evs))) ∧
  (Fires (.dqnt h imm) s c → ∃ r : List (Nat × StEvent), r.length = g ∧
    (∀ k, k < g → immBits imm 4 2 * g + k < 256 →
      r[k]? = some (encodeF (fmtOf h.sh) (Hd.mode h) (Hd.sat h) (e2m1Elem c.l.data (immBits imm 4 2 * g + k)))) ∧
    Writes (.dqnt h imm) s c (both h (dataOut h.sh c.time (row r))) (st (r.map (·.2)))) ∧
  (Fires (.pack h imm) s c → Writes (.pack h imm) s c
    (let n := max c.l.data.length c.rt.data.length
     both h (dataOut h.sh c.time (fitToken (row
      (((widen src.width n c.l.data ++ widen src.width n c.rt.data).take g).map conv)))))
    (let n := max c.l.data.length c.rt.data.length
     st ((((widen src.width n c.l.data ++ widen src.width n c.rt.data).take g).map conv).map (·.2)))) ∧
  (Fires (.unpk h imm) s c → Writes (.unpk h imm) s c
    [dataOut h.sh c.time (fitToken (row ((l.take ((l.length + 1) / 2)).map conv))) h.t0,
     dataOut h.sh c.time (fitToken (row ((l.drop ((l.length + 1) / 2)).map conv))) h.t1]
    (st (((l.take ((l.length + 1) / 2)).map conv).map (·.2) ++ ((l.drop ((l.length + 1) / 2)).map conv).map (·.2))))

/-- R178: a marker among the matched tokens: nothing is computed, everything matched is consumed, the highest-ranked marker
goes to every target, and the tokens that were no markers count in MKD. Where results of the slot are still due, the marker
of a memory instruction takes its place behind them in the stream (R148), and that of MLDB, MSCA and MZERO goes behind them
too (log 16). R185, R189: the loop instructions send a marker on at the time they give; EOS turns any token into
end-of-stream; ISEOS sends the class of any token as a predicate, and the token itself. R245: under `.st` a conversion that
consumes a marker also sends its counters on the statistics channel and clears them. R184 outside deterministic mode: a
data token of the firing's time is taken from L, else from R; two markers are consumed together and the higher-ranked one
is sent. -/
def Obligations.MarkerRules : Prop :=
(∀ (i : Instr) (s : State) (c : Ctx),
  let s' := s.modAt c.key (fun a => (a.addMkd (markedAway c)).perf 8 (markedAway c))
  let outs := (targetsOf i).map (markerOut (topRank c) c.time)
  let behind : MLoad :=
    { slot := c.slot, time := c.time, seq := c.a.seqOf .oth, dest := [], bank := 0, sp := false, bytes := [], outs := outs }
  ownMarkers i = false → Matches i s c → (∃ e ∈ c.toks, e.2.isMarker = true) →
  (markerWaits i s c = false → Writes i s c outs s') ∧
  (∀ h, instrHd i = some h → streamed i = true → streamBusy s c.key c.slot = true →
    Completes i s c (c.toks.map (·.1)) [] (stays c) (issued (requestOf i h c (.mark (topRank c)) 8 []) s')) ∧
  (∀ h x, i = .mldb h x → nodeBusy c.a c.slot = true →
    Completes i s c (c.toks.map (·.1)) [] (stays c) (s'.modNode c.key (fun n =>
      { n with loads := n.loads ++ [behind] }))) ∧
  (∀ h x, i = .msca h x ∨ i = .mzero h x → nodeBusy c.a c.slot = true →
    Completes i s c (c.toks.map (·.1)) [] (stays c) (s'.modNode c.key (fun n =>
      n.push { slot := c.slot, time := c.time, pipe := .oth, seq := c.a.seqOf .oth, op := .pass, mark := true, outs := outs })))) ∧
(∀ (s : State) (c : Ctx) (h : Hd),
  (Matches (.enter h) s c → c.l.isMarker = true →
    Sends (.enter h) s c (both h (markerOut c.l.rank c.time))) ∧
  (∀ imm, Matches (.step h imm) s c → c.l.isMarker = true →
    ctr c.shape c.time c.depth + imm.toNat < 2 ^ levelWidth c.shape c.depth →
    Sends (.step h imm) s c (both h (markerOut c.l.rank
      (setCtr c.shape c.time c.depth (ctr c.shape c.time c.depth + imm.toNat))))) ∧
  (Matches (.leave h) s c → c.l.isMarker = true →
    Sends (.leave h) s c (both h (markerOut c.l.rank (setCtr c.shape c.time c.depth 0)))) ∧
  (∀ imm, Matches (.epoch h imm) s c → c.l.isMarker = true → epochOf c.time + imm.toNat < 2 ^ 20 →
    Sends (.epoch h imm) s c (both h (markerOut c.l.rank
      (BitVec.ofNat 64 ((epochOf c.time + imm.toNat) * 2 ^ 44))))) ∧
  (Matches (.eos h) s c → Sends (.eos h) s c (both h (markerOut 5 c.time))) ∧
  (Matches (.iseos h) s c → Sends (.iseos h) s c
    [dataOut .n8 c.time (leBytes 8 c.l.rank) h.t0, c.l.to h.t1]) ∧
  (∀ imm, 8 ≤ h.md.toNat →
    ∀ i ∈ [Instr.cvt h imm, .cvts h imm, .qnt h imm, .dqnt h imm, .pack h imm, .unpk h imm],
    Matches i s c → (∃ e ∈ c.toks, e.2.isMarker = true) →
    Writes i s c (both h (markerOut (topRank c) c.time) ++
        [⟨.chan (BitVec.ofNat 6 c.a.active.stc), .count, .n32, c.time, packLanes 4 (c.a.slot c.slot).st⟩])
      ((s.modAt c.key (fun a => (a.addMkd (markedAway c)).perf 8 (markedAway c))).modAt c.key
        (fun a => a.modSlot c.slot (fun x => { x with st := [0, 0, 0, 0] }))))) ∧
(∀ (s : State) (c : Ctx) (h : Hd),
  Matches (.merge h) s c → c.a.active.det = false →
  (∀ k, c.a.head c.slot .l c.time = some k → k.isMarker = false →
    Completes (.merge h) s c [.l] (both h k.to) [] s) ∧
  (∀ k, c.a.head c.slot .r c.time = some k → k.isMarker = false →
    (∀ l, c.a.head c.slot .l c.time = some l → l.isMarker = true) →
    Completes (.merge h) s c [.r] (both h k.to) [] s) ∧
  (∀ l r, c.a.head c.slot .l c.time = some l → c.a.head c.slot .r c.time = some r → l.isMarker = true → r.isMarker = true →
    Completes (.merge h) s c [.l, .r] (both h (markerOut (max l.rank r.rank) c.time)) [] s))

/-- R187, R188: CNT and REPEAT with a count of 0 send the pulse only; otherwise they send index 0, or the first token of
pass 0, and their generator starts; each emission sends the next index or token while it fits the pushed counter, and the
last consumes what stayed and sends the pulse. -/
def Obligations.GeneratorsEmit : Prop := ∀ (s : State) (c : Ctx) (h : Hd),
  let gen (i j : Nat) (x : Slot) : Slot := { x with gen := some c.time, index := i, tokIdx := j }
  (Fires (.cnt h) s c → natAt c.l.data 0 4 = 0 → Sends (.cnt h) s c [pulseOut c.time h.t1]) ∧
  (Fires (.cnt h) s c → natAt c.l.data 0 4 ≠ 0 →
    Completes (.cnt h) s c [] [dataOut .n64 (setCtr c.shape c.time (c.depth + 1) 0) (leBytes 8 0) h.t0] []
      (s.modAt c.key (fun a => a.modSlot c.slot (fun x => { x with gen := some c.time, index := 1 })))) ∧
  (∀ ks, Matches (.repeat h) s c → c.a.stream c.slot c.time = some ks → c.rt.isMarker = false → natAt c.rt.data 0 4 = 0 →
    Completes (.repeat h) s c (List.replicate ks.length .l ++ [.r]) [pulseOut c.time h.t1] [] s) ∧
  (∀ k ks, Matches (.repeat h) s c → c.a.stream c.slot c.time = some (k :: ks) → c.rt.isMarker = false →
    natAt c.rt.data 0 4 ≠ 0 →
    Completes (.repeat h) s c [] [{ k.to h.t0 with time := setCtr c.shape c.time (c.depth + 1) 0 }] []
      (s.modAt c.key (fun a => a.modSlot c.slot (gen (if ks = [] then 1 else 0) (if ks = [] then 0 else 1))))) ∧
  (∀ tile slot, genCtx s tile.key slot = some (.cnt h, c) →
    let i := (c.a.slot slot).index
    (i < natAt c.l.data 0 4 → i < 2 ^ levelWidth c.shape (c.depth + 1) →
      Answers (.cntEmission tile slot) (.cnt h) s c []
        [dataOut .n64 (setCtr c.shape c.time (c.depth + 1) i) (leBytes 8 i) h.t0] [] (setGen c (some (i + 1, 0)) s)) ∧
    (natAt c.l.data 0 4 ≤ i →
      Answers (.cntEmission tile slot) (.cnt h) s c [.l] [pulseOut c.time h.t1] [] (setGen c none s))) ∧
  (∀ tile slot ks, genCtx s tile.key slot = some (.repeat h, c) → c.a.stream slot c.time = some ks →
    let p := (c.a.slot slot).index
    let j := (c.a.slot slot).tokIdx
    (∀ k, p < natAt c.rt.data 0 4 → p < 2 ^ levelWidth c.shape (c.depth + 1) → ks[j]? = some k →
      Answers (.repeatEmission tile slot) (.repeat h) s c []
        [{ k.to h.t0 with time := setCtr c.shape c.time (c.depth + 1) p }] []
        (setGen c (some (if ks.length ≤ j + 1 then (p + 1, 0) else (p, j + 1))) s)) ∧
    (natAt c.rt.data 0 4 ≤ p →
      Answers (.repeatEmission tile slot) (.repeat h) s c (List.replicate ks.length .l ++ [.r])
        [pulseOut c.time h.t1] [] (setGen c none s)))

/-- R190: HOLD fires while the table is not full and the count of (LOC, t) is below 65,535: it adds 1 to that entry, passes
L on and posts the change; otherwise it does not fire. RELEASE takes 1 off and posts that; one that finds no entry posts
nothing, counts in RLX and passes L on. R190: the capability table keeps one count for each (LOC, t): after an entry is set
it reads the new count, every other reads as before, and an entry at 0 takes no place in the table. -/
def Obligations.Capabilities : Prop :=
(∀ (s s1 : State) (c : Ctx) (h : Hd) (x : PrbX) (ps : List Post),
  let n := capCount c.a.caps x.loc.toNat c.time
  let table (m : Nat) : State := s.modAt c.key fun a => { a with caps := capSet a.caps x.loc.toNat c.time m }
  (Fires (.hold h x) s c → c.a.caps.length < 32 → n < 65535 → sending (.hold h x) c (both h c.l.to) (table (n + 1)) = some (s1, ps) →
    exec (.hold h x) s = .next (left (.hold h x) c [.l] [⟨c.h, x.loc.toNat, c.time, 1⟩] s.cycle s1 ps)) ∧
  (Fires (.hold h x) s c → 32 ≤ c.a.caps.length ∨ n = 65535 → exec (.hold h x) s = .next s) ∧
  (Fires (.release h x) s c → 0 < n → sending (.release h x) c (both h c.l.to) (table (n - 1)) = some (s1, ps) →
    exec (.release h x) s = .next (left (.release h x) c [.l] [⟨c.h, x.loc.toNat, c.time, -1⟩] s.cycle s1 ps)) ∧
  (Fires (.release h x) s c → n = 0 →
    sending (.release h x) c (both h c.l.to) (s.modAt c.key fun a => a.addRlx 1) = some (s1, ps) →
    exec (.release h x) s = .next (left (.release h x) c (c.toks.map (·.1)) [] s.cycle s1 ps))) ∧
(∀ (cs : List Cap) (loc : Nat) (t : Time) (n : Nat),
  capCount (capSet cs loc t n) loc t = n ∧
  (∀ loc' t', ¬(loc' = loc ∧ t' = t) → capCount (capSet cs loc t n) loc' t' = capCount cs loc' t') ∧
  (∀ x ∈ capSet cs loc t 0, ¬(x.loc = loc ∧ x.time = t)))

/-- R191: EXIT finishes the tile: its positions, channel buffers and capabilities are empty, every discarded token counts
in EXD, and from then on nothing of the block fires. R192: RESIZE stops admission on its edge and keeps its time until the
pulses are sent. Once the edge was empty at the start of the cycle (R173), the new depth stands and admission resumes,
whether or not the targets can take the pulses, which go out when they can. -/
def Obligations.ExitAndResize : Prop :=
(∀ (s : State) (c : Ctx) (h : Hd) (x : SysX),
  Fires (.exit h x) s c →
  ∃ t, exec (.exit h x) s = .next t ∧ (t.at c.key).exited = true ∧ (t.at c.key).pos = [] ∧ (t.at c.key).chan = [] ∧
    (t.at c.key).caps = [] ∧
    (t.at c.key).exd = satAdd (2 ^ 16 - 1) c.a.exd (consume c.a c.slot c.time [.l]).1.tokensHeld ∧
    (∀ (i : Instr) (f : Focus), ctxOf i { t with focus := { f with tile := c.key } } = none)) ∧
(∀ (s : State) (h : Hd) (imm : BitVec 30),
  (∀ c, Fires (.resize h imm) s c → c.a.closed (resizeEdge imm) = false →
    Completes (.resize h imm) s c [.l] [] (stays c)
      (s.modAt c.key (fun a => { a with resizing := a.resizing ++
        [⟨resizeEdge imm, immBits imm 0 8, c.slot, c.time, c.a.seqOf .vec, false⟩] }))) ∧
  (∀ (tile : TileId) (index hd : Nat) (x : Resizing) (r : Res) (i : Instr),
    let a := s.at tile.key
    let stands : AT := if x.done then a
      else { a with resizing := a.resizing.set index { x with done := true }, depth := put x.edge x.depth a.depth }
    let pulses := sendAll (s.setAt tile.key { stands with resizing := stands.resizing.eraseIdx index })
      tile.key (sportOf r tile.key 0) x.seq ((targetsOf i).map (pulseOut x.time))
    a.resizing[index]? = some x → a.res = some hd → get? hd s.res = some r → a.active.instr x.slot = some i →
    r.running = true → x.done = true ∨ edgeEmpty r a x.edge = true →
    (∀ s2 ps, pulses = some (s2, ps) → exec (.resizeEffect tile index) s =
      .next ((s2.post tile.key (postAt a (posEdge x.slot .l) x.time (-1) ++ ps)).act)) ∧
    (pulses = none → x.done = false → exec (.resizeEffect tile index) s = .next (s.setAt tile.key stands).act)))

/-- R247, R248: ISECT and UNION with a marker at each head consume both and send the higher-ranked; otherwise the walk over
the heads' lanes sends the coordinates it found to T0 and T1 and consumes the side or sides it used up. -/
def Obligations.CoordinateStreams : Prop := ∀ (s : State) (c : Ctx) (h : Hd) (imm : BitVec 30),
  ∀ p ∈ [(Instr.isect h imm, false), (.union h imm, true)],
  (Matches p.1 s c → c.l.isMarker = true → c.rt.isMarker = true →
    Completes p.1 s c [.l, .r] (both h (markerOut (max c.l.rank c.rt.rank) c.time)) []
      (s.modAt c.key (fun a => a.modSlot c.slot (fun x => { x with curL := 0, curR := 0, lastL := none, lastR := none })))) ∧
  (Fires p.1 s c →
    let x := c.a.slot c.slot
    let ls := lanes 8 c.l.data
    let rs := lanes 8 c.rt.data
    let w := walk p.2 ls rs false false 65 ⟨x.curL, x.curR, x.lastL, x.lastR, [], [], none⟩
    w.bad = none → (ls.length ≤ w.cl ∨ rs.length ≤ w.cr) →
    Completes p.1 s c ((if ls.length ≤ w.cl then [.l] else []) ++ (if rs.length ≤ w.cr then [.r] else []))
      (if w.outL = [] then [] else [coordOut h.sh c.time w.outL h.t0, coordOut h.sh c.time w.outR h.t1]) []
      (s.modAt c.key (fun a => a.modSlot c.slot (fun x => { x with
        curL := if ls.length ≤ w.cl then 0 else w.cl
        curR := if rs.length ≤ w.cr then 0 else w.cr
        lastL := w.ll
        lastR := w.lr }))))

/-- R249: PART buffers its pointers; at an end-of-fibre, where every target takes its token, it fires once: it sends the
first part's rows, and owes the further ranges and then the marker and the total of the weights, all with the firing's
sequence number (R166), its time staying until the last is sent; an end-of-stream discards the buffer. That what is owed
goes out one firing's worth in a cycle is the model's choice (log 1). -/
def Obligations.PartSendsRanges : Prop := ∀ (s : State) (c : Ctx) (h : Hd) (imm : BitVec 30),
  let x := c.a.slot c.slot
  let clear := s.modAt c.key (fun a => a.modSlot c.slot (fun x => { x with part := [], pskip := [], pbad := false }))
  let np := imm.toNat % 256
  let wt := weights x.part x.pskip
  let range (j : Nat) : List Out := [dataOut .n64 c.time (leBytes 4 (partRange wt np j).1 ++ leBytes 4 (partRange wt np j).2) h.t0]
  let total : List Out := [markerOut c.l.rank c.time h.t0, dataOut .n64 c.time (leBytes 8 wt.sum) h.t1]
  (Matches (.part h imm) s c →
    (c.l.kind = .eos → Completes (.part h imm) s c [.l] (both h (markerOut 5 c.time)) [] clear) ∧
    (c.l.isMarker = false → x.pbad = false → (x.part ++ lanes 4 c.l.data).length ≤ 4097 →
      Completes (.part h imm) s c [.l] [] []
        (s.modAt c.key (fun a => a.modSlot c.slot (fun y => { y with part := x.part ++ lanes 4 c.l.data })))) ∧
    (c.l.kind = .eof → x.pbad = false → raggedRow x.part x.pskip = none → np ≠ 0 →
      (sendAll s c.key (sportOf c.r c.key 0) (c.a.seqOf .vec) total).isSome = true →
      Completes (.part h imm) s c [.l] (range 0) (stays c) (clear.modAt c.key fun a => a.modSlot c.slot fun x => { x with
        owed := ((upto np).map range ++ [total]).drop 1
        owedSeq := c.a.seqOf .vec }))) ∧
  (∀ (k slot hd : Nat) (o : Out) (os : List Out) (rest : List (List Out)) (r : Res) (s1 : State) (ps : List Post),
    ((s.at k).slot slot).owed = (o :: os) :: rest → (s.at k).res = some hd → get? hd s.res = some r →
    sendAll (s.modAt k fun a => a.modSlot slot fun x => { x with owed := rest }) k (sportOf r k 0) ((s.at k).slot slot).owedSeq
      (o :: os) = some (s1, ps) →
    owedSend k slot s = some (s1.post k (ps ++ if rest = [] then postAt (s.at k) (posEdge slot .l) o.time (-1) else [])))

/-- R257, R262, R266, R267: MCFG opens a configuration, or completes at once for M 0; MSWP exchanges the banks; MZERO
enters its rows into the node, or pulses at once for a count of 0; MDRN passes L once no row, MSCA or MZERO is outstanding,
markers (R261) and rows of partial sets apart, and no row's answer is still owed. R255, R256: MLDB begins a load into the
bank of every named node, where no load into that bank is in progress, no node has a row in its pipeline whose current bank
it names, and the source lies in the W buffer; the load has all its bytes still to read. That a load reads 256 bytes at
each of its turns at the port is log 16. -/
def Obligations.MatrixControlAndLoads : Prop :=
(∀ (s : State) (c : Ctx) (h : Hd) (x : MatX),
  let w := cfgWord (natAt c.l.data 0 8)
  let v := natAt c.l.data 0 8
  (Fires (.mcfg h x) s c → c.a.node.cfg = none → w.bad h.sh = false → w.m = 0 →
    Sends (.mcfg h x) s c [pulseOut c.time h.t0, if w.eofl = 0 then pulseOut c.time h.t1 else markerOut w.eofl c.time h.t1]) ∧
  (Fires (.mcfg h x) s c → c.a.node.cfg = none → w.bad h.sh = false → w.m ≠ 0 →
    Completes (.mcfg h x) s c [.l] [] (stays c) (s.modNode c.key (fun n =>
      { n with cfg := some ⟨c.slot, h.sh, c.time, c.a.seqOf .oth, cfgDone h c.time w.eofl, w.qinc, w.eofl, w.k, w.n, w.m,
          0, 0⟩ }))) ∧
  (Fires (.mswp h x) s c → loadsAt s c.key = [] →
    Writes (.mswp h x) s c (both h (pulseOut c.time)) (s.modNode c.key (fun n => { n with cur := !n.cur }))) ∧
  (Fires (.mzero h x) s c → bits v 9 55 = 0 → bits v 0 9 = 0 → Sends (.mzero h x) s c (both h (pulseOut c.time))) ∧
  (Fires (.mzero h x) s c → bits v 9 55 = 0 → bits v 0 9 ≠ 0 →
    Completes (.mzero h x) s c [.l] [] (stays c) (s.modNode c.key (fun nd =>
      nd.push { slot := c.slot, time := c.time, pipe := .oth, seq := c.a.seqOf .oth,
                op := .zero x.qrow.toNat (min (bits v 0 9) (256 - x.qrow.toNat)), outs := both h (pulseOut c.time) }))) ∧
  (Fires (.mdrn h x) s c →
    (∀ f ∈ c.a.node.flight, f.mark = true ∨ ∃ set p, f.op = .blk set p) → (∀ o ∈ c.a.node.outq, o.data = false) →
    Sends (.mdrn h x) s c (both h c.l.to))) ∧
(∀ (s : State) (c : Ctx) (h : Hd) (x : MatX),
  let dest := if x.mcst = 0 then [c.key] else ((upto 3).filter (fun t => bit x.mcst.toNat t)).map (fun t => c.key / 4 * 4 + t)
  let n := if h.md = 1 then 512 else 8192
  let load : MLoad :=
    { slot := c.slot, time := c.time, seq := c.a.seqOf .oth, dest := dest, bank := x.bank.toNat, sp := h.md == 1, bytes := []
      outs := both h (pulseOut c.time), src := c.key / 4 * 4 + x.src.toNat, off := 16 * x.woff.toNat, left := n, sh := h.sh
      trn := x.trn, sword := none }
  Fires (.mldb h x) s c →
  (∀ d ∈ dest, ∀ l ∈ loadsAt s d, (l.bank == 1) ≠ (x.bank == 1)) →
  (∀ d ∈ dest, (s.at d).node.cur = (x.bank == 1) → ∀ f ∈ (s.at d).node.flight, f.row = false) →
  16 * x.woff.toNat + n ≤ 0x18000 → c.substs = false →
  Completes (.mldb h x) s c [.l] [] (stays c) (s.modNode c.key (fun nd => { nd with loads := nd.loads ++ [load] })))

/-- R258 to R261, R264: with a grant, no load into the current bank and room at its targets for the row's token, MROW and
MROWA take their row, a 128-byte A row, into the node's pipeline and answer at the result; MROWA reads at its node's turn
at the A buffer's read port (R143, R144, R251; whose turn comes first is log 1); MBLK takes the lowest free partial set and
sends its token at once; a marker goes into the pipeline behind the rows fired before it. R265: MSCA applies the block
scales to a valid set, frees it, and answers at its result. -/
def Obligations.MatrixRowsAndSets : Prop :=
(∀ (s : State) (c : Ctx) (h : Hd) (x : MatX),
  let off := natAt c.l.data 0 4 + 16 * x.woff.toNat
  let src := c.key / 4 * 4 + x.src.toNat
  let room (outs : List Out) : Prop := (sendAll s c.key (sportOf c.r c.key 2) (c.a.seqOf .row) outs).isSome = true
  let rows (i : Instr) (row : List Byte) (after : State → State) : Prop :=
    let k := (rowCounts c.a.node h.sh).1
    let n := (rowCounts c.a.node h.sh).2.1
    let q := (x.qrow.toNat + (rowCounts c.a.node h.sh).2.2.1) % 256
    let bank := c.a.node.bank c.a.node.cur
    let enter (op : NodeOp) (outs : List Out) : Prop :=
      Completes i s c [.l] [] (stays c) (after (s.modNode c.key (fun nd =>
        nd.push { slot := c.slot, time := c.time, pipe := .row, seq := c.a.seqOf .row, op := op, outs := outs,
                  cfg := (rowCounts c.a.node h.sh).2.2.2, row := true })))
    let v := (upto 64).map (fun j => if j < n then rowLane h row bank k j else none)
    let iv := (upto 64).map (fun j => if j < n then rowInt row bank k j else none)
    let pulses := both h (pulseOut c.time)
    (x.acc = true → h.sh ≠ .s16 → room pulses → enter (.acc q v) pulses) ∧
    (x.acc = true → h.sh = .s16 → room pulses → enter (.iacc q iv) pulses) ∧
    (x.acc = false →
      let outs := both h (if h.sh = .s16
        then dataOut .s32 c.time (lanePayload (iv.map (fun o => o.map clampS32)))
        else dataOut .f32 c.time (lanePayload v))
      room outs → enter .pass (if n = 0 then [] else outs))
  (Fires (.mrow h x) s c → c.a.node.grant = true → rowsStopped s c.key = false → c.substs = false →
    rows (.mrow h x) (fitBytes 128 c.l.data) id) ∧
  (Fires (.mrowa h x) s c → c.a.node.grant = true → rowsStopped s c.key = false → c.substs = false →
    off + 128 ≤ 0x18000 → off % 16 = 0 → rowTurn s c.key src = true →
    rows (.mrowa h x) (readBytes ((s.at src).seen s.cycle 1 3) off 128) fun s' => s'.modAt src fun a =>
      { a.usePort s.cycle 2 256 with aLast := c.key % 4 }) ∧
  (∀ set, Fires (.mblk h x) s c → c.a.node.grant = true → rowsStopped s c.key = false →
    (upto 4).find? (fun i => !(getD {} i c.a.node.sets).valid && !(getD {} i c.a.node.sets).filling) = some set →
    let k := (rowCounts c.a.node h.sh).1
    let n := (rowCounts c.a.node h.sh).2.1
    let bank := c.a.node.bank c.a.node.cur
    let sp := c.a.node.sp c.a.node.cur
    let p := (upto (if h.sh = .e2m1 then 8 else 4)).flatMap (fun b => (upto 64).map (fun j =>
      if j < n then blkSum h (fitBytes 256 c.l.data) bank sp k b j else none))
    Completes (.mblk h x) s c [.l]
      (both h (dataOut .e8m0 c.time (blkScales h.sh (fitBytes 256 c.l.data) ++ leBytes 8 set))) (stays c)
      (s.modNode c.key (fun nd =>
        { nd.push { slot := c.slot, time := c.time, pipe := .row, seq := c.a.seqOf .row, op := .blk set p, outs := [],
                    cfg := (rowCounts c.a.node h.sh).2.2.2, row := true } with
          sets := put set { valid := false, filling := true, time := c.time, p := [] } nd.sets }))) ∧
  (∀ i ∈ [Instr.mrow h x, .mrowa h x, .mblk h x], Matches i s c → c.l.isMarker = true → rowsStopped s c.key = false →
    room ((targetsOf i).map (markerOut c.l.rank c.time)) →
    Completes i s c [.l] [] (stays c) (s.modNode c.key (fun n =>
      n.push { slot := c.slot, time := c.time, pipe := .row, seq := c.a.seqOf .row, op := .pass, row := true, mark := true,
               outs := (targetsOf i).map (markerOut c.l.rank c.time) })))) ∧
(∀ (s : State) (c : Ctx) (h : Hd) (x : MatX),
  let set := natAt c.l.data 8 8
  let ps := getD {} set c.a.node.sets
  let sc := (upto (if h.sh = .e2m1 then 8 else 4)).map (fun b =>
    (natAt c.l.data b 1, if b < c.rt.data.length then natAt c.rt.data b 1 else 0x7F))
  Fires (.msca h x) s c → set ≤ 3 → ps.filling = false → ps.valid = true →
  Completes (.msca h x) s c [.l, .r] [] (stays c) (s.modNode c.key (fun nd =>
    { nd.push { slot := c.slot, time := c.time, pipe := .oth, seq := c.a.seqOf .oth,
                outs := if x.acc then both h (pulseOut c.time)
                  else both h (dataOut .f32 c.time (lanePayload ((upto 64).map (fun n => scaLane none (scaTerms sc ps.p n))))),
                op := .sca (if x.acc then some x.qrow.toNat else none) sc ps.p } with
      sets := put set { ps with valid := false } nd.sets })))

/-- R109 to R111, R156 to R160, R363, R365: the memory instructions complete by issuing their request, one that names the
scratchpad while the tile's outgoing queue has room (R147), and a load that needs a response-buffer entry while one of the
32 is free. The block's address is the first 8 bytes of L plus OFF, modulo 2^64 in virtual space. -/
def Obligations.MemoryRequestsIssue : Prop := ∀ (s : State) (c : Ctx) (h : Hd) (x : MemX),
  let n := 8 * 2 ^ x.lsz.toNat
  let w := h.sh.width
  let addr (sp : Space) (lane : Nat) : Nat := effAddr sp (natAt c.l.data (8 * lane) 8) x.off.toNat
  let block (sp : Space) (d : List Byte) : List Elt := [{ space := sp, addr := addr sp 0, n := n, data := d }]
  let k := min (c.l.data.length / 8) (n / w)
  let gather (sp : Space) (d : Nat → List Byte) : List Elt := (upto k).map (fun i =>
    { lane := i, space := sp, addr := addr sp i, n := w, data := d i })
  (∀ v off, effAddr .virt v off = (v + off) % 2 ^ 64 ∧ effAddr .scr v off = v + off) ∧
  (∀ p ∈ [(Instr.ldt h x, ROp.load, n, block (.buf c.key (bufOf h)) []),
      (.stt h x, .store, n, block (.buf c.key (bufOf h)) (fitBytes n c.rt.data)),
      (.sts h x, if x.tc then .storeTc else .store, n, block .scr (fitBytes n c.rt.data)),
      (.stv h x, .store, n, block .virt (fitBytes n c.rt.data)),
      (.stvs h x, .store, n, gather .virt (fun i => sliceBytes c.rt.data (i * w) w)),
      (.pfv h x, .prefetch, 8, [{ space := .virt, addr := addr .virt 0, n := 1 }]),
      (.amo h x, .amo (h.md.toNat % 8), n, block (if 8 ≤ h.md.toNat then .scr else .virt) (c.rt.data.take n)),
      (.red h x, .amo h.md.toNat, n, block .virt (c.rt.data.take n)),
      (.scat h x, .scat (scatOp h.md), 8, (upto (c.l.data.length / 8)).map (fun i =>
        { lane := i, space := .scr, addr := natAt c.l.data (8 * i) 4 + x.off.toNat, n := w,
          data := sliceBytes c.l.data (8 * i + 4) w }))],
    Fires p.1 s c → Issues p.1 s c (requestOf p.1 h c p.2.1 p.2.2.1 p.2.2.2)) ∧
  (respCount s c.key < 32 →
    ∀ p ∈ [(Instr.lds h x, if x.tc then ROp.loadTc else .load, block .scr []),
      (.gath h x, .load, gather (if h.md = 1 then .buf c.key 1 else .scr) (fun _ => [])),
      (.ldv h x, .load, block .virt []),
      (.ldvs h x, .load, gather .virt (fun _ => []))],
    Fires p.1 s c → Issues p.1 s c (requestOf p.1 h c p.2.1 n p.2.2)) ∧
  (Fires (.arrv h x) s c → (h.md = 0 → natAt c.l.data 4 4 ≤ 2 ^ 30 - 1) →
    Issues (.arrv h x) s c (requestOf (.arrv h x) h c (.arrv (h.md == 1)) 8
      [{ space := .scr, addr := natAt c.l.data 0 4 + x.off.toNat, n := 8, data := leBytes 8 (natAt c.l.data 4 4) }]))

/-- R161, R365, R368, R369: AMOR's request also carries P's element; WAITA goes to its word's owner while that has room
among its 64 waiters, or where its word fails its check and holds; BIN and BINF name the count word of a bin of a good
descriptor. R141, R162, R163: FENCE and XFENCE fire and hold their L token in a place among the tile's requests, for the
accesses of classes 010 and 111, or of class CLA, that the tile issued before them; from there L goes out, kind, type and
payload as they were, once those are performed, while a request with a later number keeps no fence back; SBW passes L once
the scoreboards that it names are 0. R143, R151, R154: at the tile's turn at the read port of A, AGEN takes a free one of
its two contexts, the lower of two (log 39), and starts the walk that a good descriptor gives. -/
def Obligations.UpdatesFencesAndWalks : Prop :=
(∀ (s : State) (c : Ctx) (h : Hd) (x : MemX),
  let w := h.sh.width
  let b := binSet s c.r x.off.toNat w
  let off := natAt c.l.data 0 4 + x.off.toNat
  let e : Elt := { space := .scr, addr := off, n := 8 }
  let amsp : Space := if 8 ≤ h.md.toNat then .scr else .virt
  let ar := requestOf (.amor h x) h c (.amor (h.md.toNat % 4)) 8
    [{ space := amsp, addr := effAddr amsp (natAt c.l.data 0 8) x.off.toNat, n := w,
       data := fitBytes w c.rt.data }]
  (∀ q, Fires (.amor h x) s c → respCount s c.key < 32 → (8 ≤ h.md.toNat → meshFree s c.key = true) → get? s.nextId (issued ar s).reqs = some q →
    Completes (.amor h x) s c (c.toks.map (·.1)) [] (stays c)
      ((issued ar s).setReq s.nextId { q with cmp := fitBytes w c.p.data })) ∧
  (Fires (.waita h x) s c → checkElt s c.r (.waita (h.md == 1)) 8 e ≠ none ∨ waitersAt s (c.r.scrHome off).1 < 64 →
    Issues (.waita h x) s c (requestOf (.waita h x) h c (.waita (h.md == 1)) 8 [e])) ∧
  (Fires (.bin h x) s c → b.bad = none →
    Issues (.bin h x) s c (requestOf (.bin h x) h c .bin 8
      ((upto (min (c.l.data.length / 4) (c.rt.data.length / w))).filterMap (fun i =>
        let ix := natAt c.l.data (4 * i) 4
        let n := ix / 2 ^ b.bsh
        if ix = 0xFFFFFFFF then none
        else some { lane := i, space := .scr, addr := b.coff + 4 * n, n := 4,
                    data := leBytes 4 ix ++ fitBytes 4 (sliceBytes c.rt.data (w * i) w),
                    aux := [b.qoff + 8 * b.qcap * n, b.qcap, n, b.nbin] })))) ∧
  (Fires (.binf h x) s c → b.bad = none →
    Issues (.binf h x) s c (requestOf (.binf h x) h c .binf 8
      [{ space := .scr, addr := b.coff + 4 * natAt c.l.data 0 4, n := 4,
         aux := [b.qoff + 8 * b.qcap * natAt c.l.data 0 4, b.qcap, natAt c.l.data 0 4, b.tbase] }]))) ∧
(∀ (s : State) (c : Ctx) (h : Hd) (x : MemX) (y : EngX),
  let cls := if x.cla = 2 ∨ x.cla = 7 then [x.cla.toNat] else []
  let place (i : Instr) (classes : List Nat) (tl : Bool) : Prop :=
    let r := requestOf i h c (.fence classes tl c.l.kind) c.l.data.length []
    ∀ q, Fires i s c → get? s.nextId (issued r s).reqs = some q →
      Completes i s c (c.toks.map (·.1)) [] (stays c) ((issued r s).setReq s.nextId { q with type := c.l.type, cmp := c.l.data })
  place (.fence h x) [2, 7] (x.scp == 1) ∧ place (.xfence h x) cls false ∧
  (∀ (q : Req) k classes tl kind, q.op = .fence classes tl kind → q.org = .slot k c.slot → q.dead = false →
    q.outs = [⟨q.t0, kind, q.type, q.time, q.cmp⟩, ⟨q.t1, kind, q.type, q.time, q.cmp⟩] ∧
    ∀ req, (∀ e ∈ s.reqs, e.1 < req → ∀ z ∈ e.2.elts, z.performed = true) → fenceWaits s req q = false) ∧
  (Fires (.sbw h y) s c → (∀ k < 8, bit y.dsc.toNat k = true → getD 0 k c.a.sb = 0) →
    Sends (.sbw h y) s c (both h c.l.to))) ∧
(∀ (s : State) (c : Ctx) (h : Hd) (x : MemX) (g : Nat),
  let o := x.off.toNat
  let m := c.descRead o s
  let ws := readWords m o (agenLen (agenWord (BitVec.ofNat 64 (readNat m o 8))))
  let a := agenWord (ws.getD 0 0)
  let ix : List Nat := if a.mode = 0 then List.replicate a.ndim 0 else []
  let start : Agen :=
    { slot := c.slot, time := c.time, base := natAt c.l.data 0 8, off := o, words := ws, idx := ix, seq := c.a.seqOf .mem }
  Fires (.agen h x) s c → (upto 2).find? (fun i => (get? i c.a.agens).isNone) = some g → agenBad o ws = none → pipeTurn s c.key = true →
  Completes (.agen h x) s c [.l] [] (stays c)
    ((clearSubst c s).modAt c.key (fun t => { t.usePort s.cycle 2 256 with agens := put g start t.agens })))

/-- R114 to R118, R139, R140, R297, R298, R311, R316 to R319, R322, R406: with an outgoing buffer free, the instructions
that send an active message complete by sending it to the unit their word or payload names, those that read a descriptor at
the tile's turn at the read port of A (R143); CDMC and CDIP do so while none of the tile is generating. -/
def Obligations.MessagesGoOut : Prop := ∀ (s : State) (c : Ctx) (h : Hd) (x : EngX) (y : VidX),
  let mt := resTile c.r x.eqx.toNat x.eqy.toNat 3
  let v := natAt c.l.data 0 8
  let msg (i : Instr) : Msg := engFields x (c.msg i h s.nextId)
  let m := c.descRead (8 * x.dsc.toNat) s
  let reads (i : Instr) (d : Dest) : Prop := Fires i s c → pipeTurn s c.key = true →
    Completes i s c (c.toks.map (·.1)) [] (stays c) (posted c d (loadDesc i m (msg i))
      ((clearSubst c s).modAt c.key (fun a => a.usePort s.cycle 2 256)))
  outgoing s c.key < 4 →
  (∀ i ∈ [Instr.send h x, .cpy h x, .cpys h x], reads i (.engine mt)) ∧
  (Fires (.cpyf h x) s c → Posts (.cpyf h x) s c (.engine mt)
    { c.msg (.cpyf h x) h s.nextId with amop := 3, snum := v % 16, count := bits v 16 16 }) ∧
  (Fires (.cpyc h x) s c → Posts (.cpyc h x) s c (.engine mt)
    { c.msg (.cpyc h x) h s.nextId with amop := 4, snum := v % 16 }) ∧
  reads (.snap h x) .snapshot ∧ reads (.cmbc h x) (.combine mt) ∧
  (Fires (.cmba h x) s c → Posts (.cmba h x) s c (.combine mt)
    { c.msg (.cmba h x) h s.nextId with amop := 0x11, count := h.md.toNat, snum := h.sh.code.toNat }) ∧
  (Fires (.cmbi h x) s c → Posts (.cmbi h x) s c (.combine mt)
    { c.msg (.cmbi h x) h s.nextId with amop := 0x12, count := h.md.toNat, rpay := c.rt.data }) ∧
  (Matches (.cmbr h x) s c → Posts (.cmbr h x) s c (.combine mt)
    { c.msg (.cmbr h x) h s.nextId with amop := 0x13, snum := c.l.rank }) ∧
  reads (.syno h x) (.syn (synKey c.h (bits (firstWord m (8 * x.dsc.toNat)) 59 5))) ∧
  (Fires (.synq h x) s c → Posts (.synq h x) s c (.syn (synKey c.h (bits v 32 5)))
    { c.msg (.synq h x) h s.nextId with amop := 0x21 + h.md.toNat, snum := v % 2 ^ 32, count := bits v 48 16 }) ∧
  (generating s c.key = false → ∀ i ∈ [Instr.cdmc h y, .cdip h y], Fires i s c →
    Posts i s c (.engine (c.key / 4 * 4 + 3)) { c.msg i h s.nextId with
      amop := 6, body := [(encodeWord i).getD 0, BitVec.ofNat 64 v, BitVec.ofNat 64 (c.key % 4), 0] })

/-- R300 to R303: BMOD sends the weight-set index and offset of a block record; CGEX the dense row of window w and the
count of stored groups; CFLP negates the elements of odd frequency on the axis AX names; CTRN transposes the block or each
group of 16. R307: BLKW of an inter block: the cell moved by the vector of list LI, its four neighbours clamped to the
plane, their weights and phase. R308: DRIFT of a cell of neither flag: the largest drift among the weighted neighbours plus
the phase's cost plus 1, at most 255, and whether it passes the limit. -/
def Obligations.VideoWalkers : Prop :=
(∀ (s : State) (c : Ctx) (h : Hd) (x : VidX),
  let r := recordOf c.l.data
  let m := x.mode.toNat
  let v := x.wset.toNat + ((if bit m 0 then (r.lw - 2) * 5 + (r.lh - 2) else 0) * 3 + (if bit m 1 then r.kind else 0)) * 3
    + (if bit m 2 then r.plane else 0)
  let tw := 2 ^ min x.log2.toNat 5
  let w := natAt c.l.data 8 2
  let st := storedIdx (natAt c.l.data 0 8) w
  let elem (g e : Nat) : Nat :=
    if g < 8 * w || decide (8 * w + 8 ≤ g) then 0
    else match (st.1[g - 8 * w]?).getD none with
      | some k => natAt c.rt.data (32 * k + 2 * e) 2
      | none => 0
  let l := lanes h.sh.width c.l.data
  let n := 2 ^ x.log2.toNat
  (Fires (.bmod h x) s c → 2 ≤ r.lw → r.lw ≤ 6 → 2 ≤ r.lh → r.lh ≤ 6 → r.kind ≠ 3 → r.plane ≠ 3 →
    Sends (.bmod h x) s c [dataOut .n32 c.time (leBytes 8 v) h.t0,
      dataOut .n64 c.time (leBytes 8 (v * 2 ^ (x.log2.toNat + 8) + 64 * x.woff.toNat)) h.t1]) ∧
  (Fires (.cgex h x) s c → Sends (.cgex h x) s c
    [dataOut .s16 c.time (packLanes 2 ((upto 128).map fun i =>
      if h.md = 0 then
        let r := 128 * w + i
        elem (r / tw / 4 * (tw / 4) + r % tw / 4) (4 * (r / tw % 4) + r % tw % 4)
      else elem (8 * w + i / 16) (i % 16))) h.t0,
     dataOut .n32 c.time (leBytes 8 st.2) h.t1]) ∧
  (Fires (.cflp h x) s c → Sends (.cflp h x) s c (both h (dataOut h.sh c.time
    (fitBytes c.l.data.length (packLanes h.sh.width ((l.zipIdx).map fun e =>
      let ou := e.2 % 2 == 1
      let ov := if h.md = 0 then e.2 / tw % 2 == 1 else e.2 % 16 / 4 % 2 == 1
      if (if x.ax = 0 then ou else if x.ax = 1 then ov else ou != ov) then flipNeg h e.1 else e.1)))))) ∧
  (Fires (.ctrn h x) s c → Sends (.ctrn h x) s c (both h (dataOut h.sh c.time
    (fitBytes c.l.data.length (packLanes h.sh.width ((upto l.length).map fun i =>
      if h.md = 0 then (if i < n * n then l.getD (i % n * n + i / n) 0 else l.getD i 0)
      else l.getD (i / 16 * 16 + i % 4 * 4 + i % 16 / 4) 0))))))) ∧
(∀ (s : State) (c : Ctx) (h : Hd) (x : VidX),
  let r := recordOf c.l.data
  let li := h.md.toNat
  let vx : Int := 64 * (natAt c.rt.data 0 2 : Int) + r.mv.getD (2 * li) 0
  let vy : Int := 64 * (natAt c.rt.data 2 2 : Int) + r.mv.getD (2 * li + 1) 0
  let fx := (vx % 64).toNat
  let fy := (vy % 64).toNat
  let cx (i : Int) : Nat := clampCell i (natAt c.rt.data 4 2)
  let cy (i : Int) : Nat := clampCell i (natAt c.rt.data 6 2)
  let cells : List (Int × Int) :=
    [(vx / 64, vy / 64), (vx / 64 + 1, vy / 64), (vx / 64, vy / 64 + 1), (vx / 64 + 1, vy / 64 + 1)]
  let ph := natAt c.rt.data 26 1
  let vs := ((upto 4).filter (fun k => natAt c.rt.data (16 + 2 * k) 2 != 0)).map (fun k => natAt c.l.data k 1)
  let d := min 255 (vs.foldl max 0 + bits c.a.driftCost.toNat (4 * ph) 4 + 1)
  (Fires (.blkw h x) s c → r.kind ≠ 0 → r.ref.getD li 0 < 0xFE →
    (∀ p ∈ cells, p.1 = (cx p.1 : Int) ∧ p.2 = (cy p.2 : Int)) →
    Sends (.blkw h x) s c (both h (dataOut .n16 c.time
      (cells.flatMap (fun p => leBytes 2 (cx p.1) ++ leBytes 2 (cy p.2))
        ++ packLanes 2 [(64 - fx) * (64 - fy), fx * (64 - fy), (64 - fx) * fy, fx * fy]
        ++ leBytes 1 (r.ref.getD li 0) ++ leBytes 1 li ++ leBytes 1 (fx / 16 * 4 + fy / 16) ++ leBytes 1 0 ++ zeros 4)))) ∧
  (Fires (.drift h x) s c → bit (natAt c.rt.data 27 1) 1 = false → bit (natAt c.rt.data 27 1) 2 = false → vs ≠ [] → ph ≤ 15 →
    Sends (.drift h x) s c [dataOut .n8 c.time (leBytes 8 d) h.t0,
      dataOut .n8 c.time (leBytes 8 (if c.a.driftLim.toNat % 256 < d then 1 else 0)) h.t1]))

/-- R341, R173: the least time that stood at a WAITF when the cycle began registers at the tracker of its scope; once
released, its tokens that the frontier has passed go out one a firing, and the last of them ends the registration. R342:
FRONT sends its query to the tracker. -/
def Obligations.ProgressInstructions : Prop := ∀ (s : State) (c : Ctx) (h : Hd) (x : PrbX),
  let trk := scopeTracker x.scp.toNat (c.key / 4)
  let t := getD {} trk s.trackers
  let setWait (w : Option WaitF) (s : State) : State :=
    s.modAt c.key (fun a => a.modSlot c.slot (fun y => { y with wait := w }))
  (Matches (.waitf h x) s c → (c.a.slot c.slot).wait = none →
    leastTime (c.a.posNow c.slot .l) = some c.time.toNat →
    exec (.waitf h x) s = .next ({ setWait (some { time := c.time, prb := x.prb.toNat, scp := x.scp.toNat }) s with
      trackers := put trk { t with regq := t.regq ++ [(⟨c.h, c.key, c.slot, c.time, x.prb.toNat⟩ : Waiter)] } s.trackers }).act) ∧
  (∀ w f k ks, Matches (.waitf h x) s c → (c.a.slot c.slot).wait = some w → w.freed = some f →
    (c.a.posNow c.slot .l).filter (fun k => passes (f.map BitVec.toNat) k.time.toNat) = k :: ks → k.time = c.time →
    Writes (.waitf h x) s c (both h c.l.to) (if ks = [] then setWait none s else s)) ∧
  (Fires (.front h x) s c → Completes (.front h x) s c [.l] [] (stays c) { s with
    nextId := s.nextId + 1
    trackers := put trk { t with queries := t.queries ++ [{ c.msg (.front h x) h s.nextId with snum := x.prb.toNat }] }
      s.trackers })

/-- R389, R390, R423: with an outgoing buffer free, LAUNCH sends a launch request, JOIN a change of a join counter to the
Dispatcher, and SVC of a valid class its request to the take queue of the class's core. -/
def Obligations.RequestsToDispatcherAndCores : Prop := ∀ (s : State) (c : Ctx) (h : Hd) (imm : BitVec 30) (x : SysX),
  let v := imm.toNat
  let d := c.l.data
  let q : LaunchReq :=
    { src := .msg (c.msg (.launch h imm) h s.nextId), asid := c.r.asid, tmpl := bits v 0 12,
      prio := if bits v 12 3 = 7 then 255 else bits v 12 3, aff := keyDie c.key, epb := epochOf c.time,
      parent := natAt d 8 4, join := natAt d 12 4, arg := BitVec.ofNat 64 (natAt d 0 8),
      waits := (upto (bits v 15 4)).map (fun i =>
        (natAt d (16 + 16 * i) 4, natAt d (16 + 16 * i + 4) 1, BitVec.ofNat 64 (natAt d (16 + 16 * i + 8) 8))) }
  let j : JoinReq :=
    { src := .msg (c.msg (.join h imm) h s.nextId), asid := c.r.asid, set := h.md == 0, id := natAt d 0 4,
      n := if h.md = 0 then natAt d 4 4 else bits v 0 16 }
  let e := getD 0 x.sel.toNat s.clsmap
  let k : Take := { cls := x.sel.toNat, code := x.code.toNat, asid := c.r.asid, handle := s.nextId, tok := c.l }
  outgoing s c.key < 4 →
  (Fires (.launch h imm) s c → Completes (.launch h imm) s c [.l] [] (stays c)
    { s with nextId := s.nextId + 1, dsp := { s.dsp with launchq := s.dsp.launchq ++ [q] } }) ∧
  (Fires (.join h imm) s c → Completes (.join h imm) s c [.l] [] (stays c)
    { s with nextId := s.nextId + 1, dsp := { s.dsp with joinq := s.dsp.joinq ++ [j] } }) ∧
  (Fires (.svc h x) s c → bit e 7 = true → Completes (.svc h x) s c [.l] [] (stays c)
    { s with
      nextId := s.nextId + 1
      svcs := put s.nextId ⟨c.msg (.svc h x) h s.nextId, c.l, e % 32, none⟩ s.svcs
      cores := upd {} (e % 32) (fun y => { y with takeq := y.takeq ++ [k] }) s.cores })

/-- R411 to R416: RDCR sends the register CRN names, WRCR writes it where residencies may, PERF sends a counter or CYCLE
and under `rdz` zeroes the counter; TRAP, and BRK where BRKEN is 1, hold their slot with CODE and the L payload in the
record, BRK under `f` requesting a freeze; a BRK with BRKEN 0 acts as MOV (R181). -/
def Obligations.SystemInstructions : Prop := ∀ (s : State) (c : Ctx) (h : Hd) (x : SysX),
  let hd (cls : FClass) : SlotHold :=
    { cls := cls, time := c.time, onRetry := some (both h c.l.to), onAbort := both h (markerOut 5 c.time) }
  let held (cls : FClass) (s : State) : State :=
    ((s.modAt c.key (fun a => a.modSlot c.slot (fun y => { y with hold := some (hd cls) }))).raise
      (slotRec c.r (ridOf s c.h) c.key c.slot cls c.time (BitVec.ofNat 64 (natAt c.l.data 0 8))
        (x.code.toNat :: (upto 8).map (fun i => natAt c.l.data (8 + 4 * i) 4)))).act
  (Fires (.rdcr h x) s c → Sends (.rdcr h x) s c
    (both h (dataOut .n64 c.time (leBytes 8 (crRead s c.key x.crn.toNat).toNat)))) ∧
  (Fires (.wrcr h x) s c → Writes (.wrcr h x) s c (both h (pulseOut c.time))
    (s.modAt c.key (fun a => crWrite a x.crn.toNat (BitVec.ofNat 64 (natAt c.l.data 0 8))))) ∧
  (Fires (.perf h x) s c → Writes (.perf h x) s c
    (both h (dataOut .n64 c.time (leBytes 8
      (if x.sel.toNat = 4 then BitVec.ofNat 64 s.cycle else getD 0 x.sel.toNat c.a.perfcnt).toNat)))
    (if h.md = 1 then s.modAt c.key (fun a => { a with perfcnt := put x.sel.toNat 0 a.perfcnt }) else s)) ∧
  (Fires (.trap h x) s c → exec (.trap h x) s = .next (held .softtrap s)) ∧
  (Fires (.brk h x) s c → bit c.a.dbgctl.toNat 0 = false → Sends (.brk h x) s c (both h fun t => { c.l.to t with type := h.sh })) ∧
  (Fires (.brk h x) s c → bit c.a.dbgctl.toNat 0 = true → exec (.brk h x) s = .next (held .brk
    (if h.md = 1 then { s with dsp := { s.dsp with frzq := s.dsp.frzq ++ [(c.h, 3)] } } else s)))

/-- R418: an Xdmx instruction that executes in user mode raises an illegal-instruction exception. Log 5 gives the entry:
the pc goes to mepc, 2 to mcause, the mode to MPP and MIE to MPIE; the core enters machine mode at mtvec. Only the core's
pc, mode and these CSRs change, and mtval takes a free value. Where a block that a service core names has an end with
nothing behind it, the core takes an access fault there (log 5: the base ISA's, PRESUMED). Where the whole block lies in
the core's control space, which it reads and writes (R411, R417), none is taken. -/
def Obligations.CoreExceptions : Prop :=
(∀ (s : State) (rd rs1 rs2 : BitVec 5),
  let c := s.focus.core
  let x := s.core c
  let st := x.csr 0x300
  let st' := setBits (setBits (setBits st 11 2 0) 7 1 (bits st 3 1)) 3 1 0
  x.mode = 0 → bit (x.csr 0x302) 2 = false →
  ∀ i ∈ [Instr.dmxCmd rd rs1 rs2, .dmxFence rd rs1 rs2, .dmxTake rd rs1 rs2, .dmxGive rd rs1 rs2, .dmxResume rd rs1 rs2,
      .dmxFrz rd rs1 rs2, .dmxClaim rd rs1 rs2, .dmxWatch rd rs1 rs2],
    exec i s = .next { s with
      free := s.free + 1
      acted := true
      cores := put c { x with
        mode := 3
        pc := BitVec.ofNat 64 (x.csr 0x305 / 4 * 4)
        csrs := put 0x343 (BitVec.ofNat 64 (Config.trapValue s.free).toNat) (put 0x342 2
          (put 0x341 (BitVec.ofNat 64 x.pc.toNat) (put 0x300 (BitVec.ofNat 64 st') x.csrs))) } s.cores }) ∧
(∀ (s : State) (rd rs1 rs2 : BitVec 5),
  let c := s.focus.core
  let x := s.core c
  let a := (x.reg rs1.toNat).toNat
  let b := (x.reg rs2.toNat).toNat
  let stops (cause : Nat) (held : Nat → Bool) (n : Nat) : Host.Outcome State Fault Refusal :=
    let g := if held b then b + n - 1 else b
    .next (s.modCore c fun x => x.takeTrap cause (BitVec.ofNat 64 g)).act
  (∀ g, pkind s g = .control → coreRam s g = true ∧ coreBacked s g = true) ∧
  (x.mode ≠ 0 →
  (x.pending.length < 32 → a / 2 ^ 38 % 64 ≤ 24 → coreRange s b (8 * (a / 2 ^ 38 % 64)) = false →
    exec (.dmxCmd rd rs1 rs2) s = stops 5 (coreBacked s) (8 * (a / 2 ^ 38 % 64))) ∧
  (∀ t, (x.takeq.take 64).find? (fun t => bit (a % 2 ^ 16) t.cls) = some t → coreRoom s b t.bytes.length = false →
    exec (.dmxTake rd rs1 rs2) s = stops 7 (coreRam s) t.bytes.length) ∧
  (coreRange s b 16 = false → exec (.dmxGive rd rs1 rs2) s = stops 5 (coreBacked s) 16) ∧
  (∀ o, openOf s a = some o → o.core = some c → o.claimed = false → coreRoom s b 128 = false →
    exec (.dmxClaim rd rs1 rs2) s = stops 7 (coreRam s) 128) ∧
  (a < 256 → coreRange s b 16 = false → exec (.dmxWatch rd rs1 rs2) s = stops 5 (coreBacked s) 16)))

/-- R420, R422: outside user mode dmx.cmd builds its command from rs1 and the NW words at rs2 (rs2 itself where NW is 0),
issues it and returns its id: one of the Dispatcher's waits for its step, any other goes as a message to the unit it names;
with 32 outstanding it waits, and a reserved or out-of-range field completes it at once with bit 1. dmx.fence waits for the
named commands and returns the OR of their bits. -/
def Obligations.PortCommands : Prop := ∀ (s : State) (rd rs1 rs2 : BitVec 5),
  let c := s.focus.core
  let x := s.core c
  let hdr := (x.reg rs1.toNat).toNat
  let a := (x.reg rs2.toNat).toNat
  let nw := hdr / 2 ^ 38 % 64
  let q : Cmd :=
    { id := x.nextCmd, op := hdr / 2 ^ 56 % 256, asid := hdr / 2 ^ 44 % 4096, die := hdr / 2 ^ 36 % 4, x := hdr / 2 ^ 28 % 16,
      y := hdr / 2 ^ 24 % 16, arg := if nw = 0 then x.reg rs2.toNat else 0
      body := if nw > 24 then [] else (upto nw).map fun i => BitVec.ofNat 64 (leNat (coreRead s c (a + 8 * i) 8)) }
  let bad := cmdBad hdr
  let taken : State := s.modCore c fun y => { y with nextCmd := nextCmdId q.id, pending := y.pending ++ [q] }
  let named (k : Nat) : Bool := x.reg rs1.toNat == 0 || issuedBy x.nextCmd hdr k
  x.mode ≠ 0 →
  (x.pending.length ≥ 32 → exec (.dmxCmd rd rs1 rs2) s = .next s) ∧
  (x.pending.length < 32 → (nw ≤ 24 → coreRange s a (8 * nw) = true) →
    exec (.dmxCmd rd rs1 rs2) s = .next (retireDmx c rd (BitVec.ofNat 64 x.nextCmd) (issueCmd c q bad s)) ∧
    (bad = true → issueCmd c q bad s = finishCmd c q.id 2 0 taken) ∧
    (bad = false → 0x40 ≤ q.op → q.op ≤ 0x45 → issueCmd c q bad s = taken) ∧
    (bad = false → q.op < 0x40 ∨ 0x45 < q.op →
      (cmdMsg taken c q = none → issueCmd c q bad s = finishCmd c q.id 2 0 taken) ∧
      (∀ d m, cmdMsg taken c q = some (d, m) → issueCmd c q bad s =
        ({ ((sentOn c q.id 0 taken).numbered m).2 with nextId := s.nextId + 1 } : State).deliver d
          ((sentOn c q.id 0 taken).numbered m).1))) ∧
  (x.pending.all (fun q => !named q.id) = true →
    exec (.dmxFence rd rs1 rs2) s = .next (retireDmx c rd
      (BitVec.ofNat 64 (((x.done.filter fun e => named e.1).map fun e => e.2.1).foldl (fun v b => v ||| b) 0)) s)) ∧
  (x.pending.any (fun q => named q.id) = true → exec (.dmxFence rd rs1 rs2) s = .next s)

/-- R424: dmx.take gives the oldest of the 64 queued tokens whose class stands in the mask: its head and payload go to rs2
and its class plus 16 to rd; with none, a polling take returns 0 and another waits. R425: dmx.give returns 3 for an image
that is no reply, 1 for a stale handle, and delivers a data or end-of-stream token to the SVC's targets once. R396:
dmx.resume sends a disposition, under a number that its answer must name, and waits; once answered it returns the answer;
an undefined code is 3. R398: dmx.frz queues a freeze of a running residency's record. R395: dmx.claim copies out a record
delivered to this core that nobody has claimed. R382: dmx.watch writes a watch slot from the 16 bytes at rs2 and keeps its
launch queue. -/
def Obligations.CoreServices : Prop :=
(∀ (s : State) (rd rs1 rs2 : BitVec 5),
  let c := s.focus.core
  let x := s.core c
  let a := x.reg rs1.toNat
  let b := (x.reg rs2.toNat).toNat
  let found := (x.takeq.take 64).find? fun t => bit (a.toNat % 2 ^ 16) t.cls
  let img := coreRead s c b 16
  x.mode ≠ 0 →
  (found = none → exec (.dmxTake rd rs1 rs2) s = .next (if bit a.toNat 63 then retireDmx c rd 0 s else s)) ∧
  (∀ t, found = some t → coreRoom s b t.bytes.length = true →
    exec (.dmxTake rd rs1 rs2) s = .next (retireDmx c rd (BitVec.ofNat 64 (t.cls + 16)) (advanceRing t (coreWrite c b t.bytes
      (s.modCore c fun y => { y with takeq := removeFirst (fun z => z == t) y.takeq }))))) ∧
  (coreRange s b 16 = true → replyBad img = true → exec (.dmxGive rd rs1 rs2) s = .next (retireDmx c rd 3 s)) ∧
  (coreRange s b 16 = true → replyBad img = false → get? a.toNat s.svcs = none →
    exec (.dmxGive rd rs1 rs2) s = .next (retireDmx c rd 1 s)) ∧
  (∀ (v : Svc) (s' : State) outs, coreRange s b 16 = true → replyBad img = false →
    get? a.toNat s.svcs = some v → v.kept = none → (runRes s v.msg.h).isSome = true →
    (natAt img 0 1 = 0 → coreRange s (b + 16) (sizeBytes (natAt img 1 1)) = true) →
    outs = [v.msg.t0, v.msg.t1].map (if natAt img 0 1 = 0 then
        dataOut (Elem.ofCode (natAt img 2 1 % 16)) v.msg.time (coreRead s c (b + 16) (sizeBytes (natAt img 1 1)))
      else markerOut 5 v.msg.time) →
    deliverReply a.toNat v outs s = some s' → exec (.dmxGive rd rs1 rs2) s = .next (retireDmx c rd 0 s'))) ∧
(∀ (s : State) (rd rs1 rs2 : BitVec 5),
  let c := s.focus.core
  let x := s.core c
  let a := (x.reg rs1.toNat).toNat
  let b := x.reg rs2.toNat
  let done (v : W64) (s : State) : Host.Outcome State Fault Refusal := .next (retireDmx c rd v s)
  let wa := leNat (coreRead s c b.toNat 8)
  let wb := leNat (coreRead s c (b.toNat + 8) 8)
  let slot : Watch :=
    { va := bits wa 3 53 * 8, prio := bits wb 37 3, aff := bits wb 35 2, once := bit wb 34, en := bit wb 33,
      tmpl := bits wb 12 12, asid := bits wb 0 12, queue := (getD {} a s.watch).queue }
  x.mode ≠ 0 →
  (∀ code, x.resume = some (some code) →
    exec (.dmxResume rd rs1 rs2) s = done (BitVec.ofNat 64 code) (s.modCore c fun y => { y with resume := none })) ∧
  (x.resume = none → dispOf b.toNat = none → exec (.dmxResume rd rs1 rs2) s = done 3 s) ∧
  (∀ d, x.resume = none → dispOf b.toNat = some d →
    exec (.dmxResume rd rs1 rs2) s = .next (({ s with nextId := s.nextId + 1 }.modFaults fun f =>
      { f with disps := f.disps ++ [(⟨a, d, some c, false, s.nextId⟩ : DispReq)] }).modCore c fun y =>
        { y with resume := some none, resumed := s.nextId }).act) ∧
  (b ≠ 1 → b ≠ 3 → exec (.dmxFrz rd rs1 rs2) s = done 3 s) ∧
  (b = 1 ∨ b = 3 → a ≥ 2 ^ 32 ∨ staleId s a = true → exec (.dmxFrz rd rs1 rs2) s = done 2 s) ∧
  (b = 1 ∨ b = 3 → a < 2 ^ 32 → staleId s a = false → freezeAccepted (s.task (idIndex a)) b.toNat = true →
    s.dsp.frzq.any (fun q => q.1 == idIndex a) = false →
    exec (.dmxFrz rd rs1 rs2) s = done 0 (s.modDsp fun d => { d with frzq := d.frzq ++ [(idIndex a, b.toNat)] })) ∧
  (openOf s a = none → exec (.dmxClaim rd rs1 rs2) s = done 1 s) ∧
  (∀ o, openOf s a = some o → o.core = some c → o.claimed = true → exec (.dmxClaim rd rs1 rs2) s = done 2 s) ∧
  (∀ o, openOf s a = some o → o.core = some c → o.claimed = false → coreRoom s b.toNat 128 = true →
    exec (.dmxClaim rd rs1 rs2) s = done 0 (if o.fr.isHold
      then modOpen o.fr.fid (fun o => { o with claimed := true }) (coreWrite c b.toNat o.fr.bytes s)
      else dropOpen o.fr.fid (coreWrite c b.toNat o.fr.bytes s))) ∧
  (a ≥ 256 → exec (.dmxWatch rd rs1 rs2) s = done 1 s) ∧
  (a < 256 → coreRange s b.toNat 16 = true →
    exec (.dmxWatch rd rs1 rs2) s = done 0 { s with watch := put a slot s.watch }))

/-- R68, R421, R422: each Dispatcher command is carried out in its own step: a launch or a join joins the Dispatcher's
queue, where no command waits a loaded file's launch entry does (that this step serves it is the model's choice, log 27), a
residency of a checked file becomes a free template, the lowest (log 26, DEDUCED: R421 says only that a handle is
returned), a template that no record uses is dropped, a weight of 1 to 255 is set; a refused one completes with bit 1. A
completion returns to the port with the command's value. -/
def Obligations.DispatcherCommands : Prop := ∀ (s : State) (core : Nat) (q : Cmd),
  let refused := finishCmd core q.id 2 0 s
  let done (v : Nat) (s : State) : State :=
    { sentOn core q.id (BitVec.ofNat 64 v) s with cmdDone := s.cmdDone ++ [(core, q.id, false)] }
  let joinReq (set : Bool) : JoinReq := ⟨.cmd core q.id, q.asid, set, q.arg.toNat % 2 ^ 32, bits q.arg.toNat 32 32⟩
  let queued (set : Bool) : State :=
    (sentOn core q.id 0 s).modDsp fun d => { d with joinq := d.joinq ++ [joinReq set] }
  let set (op : Nat) : Prop := nextCmd s core op = some q
  let t := q.arg.toNat
  (set 0x40 → cmdLaunch core q = none → exec (.cmdCreateTask core) s = .next refused.act) ∧
  (∀ l, set 0x40 → cmdLaunch core q = some l → exec (.cmdCreateTask core) s =
    .next ((sentOn core q.id 0 s).modDsp fun d => { d with launchq := d.launchq ++ [l] }).act) ∧
  (∀ a f i tmpl l, nextCmd s core 0x40 = none → nextAsk s = some (a, f, i, tmpl, l) → l.kind = 1 →
    exec (.cmdCreateTask core) s = .next ((s.modFile a fun f' => { f' with asks := f.asks.drop 1, busy := true }).modDsp fun d =>
      { d with launchq := d.launchq ++ [askLaunch a f i tmpl l] }).act) ∧
  (set 0x41 → exec (.cmdJoinInit core) s = .next (if q.body = [] then queued true else refused).act) ∧
  (set 0x42 → exec (.cmdJoinDec core) s = .next (if q.body = [] then queued false else refused).act) ∧
  (set 0x43 → cmdTemplate s q = none → exec (.cmdRegisterTemplate core) s = .next refused.act) ∧
  (∀ d i, set 0x43 → cmdTemplate s q = some d → (upto 4096).find? (fun i => (get? i s.templates).isNone) = some i →
    exec (.cmdRegisterTemplate core) s = .next (done i { s with
      templates := put i ⟨q.asid, d⟩ s.templates
      files := (s.modFile d.file fun f => { f with tmpls := put (bits t 58 6) i f.tmpls }).files
      dsp := if getD 0 q.asid s.dsp.weights = 0 then { s.dsp with weights := put q.asid d.wgt s.dsp.weights } else s.dsp }).act) ∧
  (∀ e, set 0x44 → get? t s.templates = some e → e.asid = q.asid → q.body = [] →
    exec (.cmdDropTemplate core) s = .next (if s.tasks.any (fun e => e.2.state != .free && e.2.tmpl == t) then s
      else (done 0 { s with templates := del t s.templates }).act)) ∧
  (set 0x44 → get? t s.templates = none → exec (.cmdDropTemplate core) s = .next refused.act) ∧
  (set 0x45 → exec (.cmdSetWeight core) s = .next (if 1 ≤ t ∧ t ≤ 255 ∧ q.body = []
    then done 0 (s.modDsp fun d => { d with weights := put q.asid t d.weights }) else refused).act) ∧
  (∀ id aborted, s.cmdDone.find? (fun e => e.1 == core) = some (core, id, aborted) →
    exec (.commandCompletion core) s = .next (finishCmd core id (if aborted then 1 else 0)
      ((((s.core core).pending.find? fun q => q.id == id).map (·.arg)).getD 0)
      { s with cmdDone := removeFirst (fun x => x == (core, id, aborted)) s.cmdDone }).act)

/-- R172, R174: a channel's oldest token, of those that stood there when the cycle began, enters its destination position
when that admits it, and its count moves with it; a token that the last-entry rule refuses is counted there; a binding's
token takes the SPORT and the sequence number of the receiving quad's MT (R166). R150: a backing queue's head moves, as its
entry's words hold it, into a freed buffer slot at the entry's turn in its banks, and after the last entry a token that
waited at the source; of a finished tile it is discarded (R191). R177: a slot whose count is 64 is aged. R151, R152: an
address generator walks on, its next pointer word read at its turn at the port or the bank, and sends its next token, one
in a cycle for the tile; the last one ends it and its count at L. -/
def Obligations.TokensMoveOn : Prop := ∀ (s : State) (tile : TileId) (chan slot ctx : Nat),
  let k := tile.key
  let a := s.at k
  (∀ r w tok rest d p q, chanOf s k chan = some (r, w) → a.chanNow chan = tok :: rest → chanDest s r w = some (d, p, q) →
    (w.cls ≠ 2 → (d, p, q) = (resTile r w.dqx w.dqy w.dt, w.dslot, posOf w.dpos)) ∧
    ((s.at d).canTake p q tok.time = true →
      let s1 := (s.modAt k fun a => a.popChan chan ((a.chanToks chan).drop 1) tok.time).modAt d fun b =>
        b.takeToken p q (if w.cls = 2 then ingressToken s r w d tok else tok)
      exec (.tokenAdmission tile chan) s = .next (((if w.cls = 2 then s1.modMt (d / 4 * 4 + 3) MT.nextSeq else s1).post d
        (postAt a (chanEdge chan) tok.time (-1)
          ++ if (s.at d).exited then [] else postAt (s.at d) (posEdge p q) tok.time 1)).act)) ∧
    ((s.at d).canTake p q tok.time = false → exec (.tokenAdmission tile chan) s =
      .next (if (s.at d).room p q then s.modAt d fun a => a.perf 7 1 else s))) ∧
  (∀ h r w d, chanOf s k chan = some (r, w) → a.res = some h → w.bq ≠ 63 → r.desc.backqs[w.bq]? = some d →
    a.exited = true ∨ a.chanRoom w = true →
    let b := getD {} w.bq r.backq
    let into (tok : Token) (b : BackQ) (s : State) : State :=
      let s := s.modRes h fun x => { x with backq := put w.bq b x.backq }
      (if a.exited then (s.setAt k (a.addExd 1)).post k (postAt a (chanEdge chan) tok.time (-1)) else s.setAt k (a.pushChan chan tok)).act
    (∀ tok rest, b.toks = tok :: rest → 0 < b.stored →
      let words := [(d.off + 256 * b.head, tok.data.length), (d.off + 256 * d.tokens + 16 * b.head, 16)]
      (unitTurn s r (.backq h w.bq true) words = true → exec (.backqMove tile chan) s = .next (into (entryToken s r d b.head tok)
        { b with head := (b.head + 1) % d.tokens, toks := rest, stored := b.stored - 1 } (unitTake r (.backq h w.bq true) words s))) ∧
      (unitTurn s r (.backq h w.bq true) words = false →
        exec (.backqMove tile chan) s = .next (unitWait r (.backq h w.bq true) words s))) ∧
    (∀ tok, b.toks = [] → b.src = some tok → exec (.backqMove tile chan) s = .next (into tok { b with src := none } s))) ∧
  (64 ≤ (a.slot slot).aging → (a.slot slot).aged = false →
    exec (.slotAged tile slot) s = .next (s.modAt k fun a => a.modSlot slot fun x => { x with aged := true }).act) ∧
  (∀ g g' hd r h o os (s' : State) ps, get? ctx a.agens = some g → a.res = some hd → get? hd s.res = some r →
    (a.active.instr g.slot).bind instrHd = some h → r.running = true → g.held = false →
    (g.needs = true → ptrTurn s r k ctx g = true) →
    let read := if g.needs then ptrTake r k ctx g s else s
    agenWalk read r k h 80 g = .ok g' → g'.outq = o :: os → agenTurn s r k ctx = true →
    let last := os.isEmpty && g'.walked
    sendAll ((read.modAt k fun a => { a with agens := put ctx g' a.agens }).modAt k fun a =>
      { a with
        agens := if last then del ctx a.agens else put ctx { g' with outq := os } a.agens
        agenAt := s.cycle + 1
        agenLast := ctx })
      k (sportOf r k 1) g'.seq [o.1] o.2 = some (s', ps) →
    exec (.agenEmission tile ctx) s =
      .next (s'.post k (ps ++ if last then postAt a (posEdge g'.slot .l) g'.time (-1) else [])).act)

/-- R260, R265, R266: once no operation before it stands in the way, a result of a row, of MSCA or of MZERO is applied to
Q, the operation leaves the node, and its answer is owed; R264: a partial set becomes valid with its result; R143, R255: a
B load reads 256 bytes at each turn at the port of its W buffer, and with the last fills every named node's bank and owes
its pulse. R261, R262: what is owed goes out, with the end of its count, when no answer of an earlier row or of its slot
stands before it and its targets take it. That an answer is owed by the node once its result is applied, the order in which
owed answers leave, and the 256 bytes of a turn are log 16. -/
def Obligations.NodeResults : Prop := ∀ (s : State) (tile : TileId) (index : Nat) (f : InFlight),
  let k := tile.key
  let nd := (s.at k).node
  let answered (s0 : State) : Host.Outcome State Fault Refusal :=
    .next (finishOp k { slot := f.slot, time := f.time, pipe := f.pipe, seq := f.seq, outs := f.outs, row := f.row && !f.outs.isEmpty,
                        cfg := f.cfg, data := !f.mark && !f.op.writesQ && !f.outs.isEmpty }
      (s0.modAt k fun a => { applyOp a s.cycle f.op with
        node := { (applyOp a s.cycle f.op).node with flight := (applyOp a s.cycle f.op).node.flight.eraseIdx index } })).act
  (nd.flight[index]? = some f → opBlocked nd.flight index f = false →
    (f.row = true → (∀ i p, f.op ≠ .blk i p) → exec (.rowResult tile index) s = answered s) ∧
    (∀ r sc p, f.op = .sca r sc p → exec (.mscaResult tile index) s = answered s) ∧
    (f.row = false → f.op = .pass → exec (.mscaResult tile index) s = answered s) ∧
    (∀ r c, f.op = .zero r c → exec (.mzeroDone tile index) s = answered s) ∧
    (∀ i p, f.op = .blk i p →
      nd.flight.findIdx? (fillsSet i) = some index →
      exec (.mblkSetValid tile i) s = answered (s.modNode k fun n =>
        { n with sets := put i { valid := true, filling := false, time := f.time, p := p } n.sets }))) ∧
  (∀ l, nd.loads[index]? = some l → 0 < l.left → loadTurn s k index l = true →
    let n := min 256 l.left
    exec (.mldbLoadDone tile index) s = .next ((s.modNode k fun nd => { nd with loads := nd.loads.set index { l with
        bytes := l.bytes ++ readBytes ((s.at l.src).seen s.cycle 0 3) (l.off + l.bytes.length) n
        left := l.left - n } }).modAt l.src fun a => { a.usePort s.cycle 0 256 with wLast := k % 4 }).act) ∧
  (∀ l, nd.loads[index]? = some l → l.left = 0 → (nd.loads.take index).any (fun g => g.slot == l.slot) = false →
    exec (.mldbLoadDone tile index) s = .next (finishOp k { slot := l.slot, time := l.time, pipe := .oth, seq := l.seq, outs := l.outs }
      ((l.dest.foldl (fun (s : State) d => s.modNode d fun n =>
        if l.sp then n.setSp (l.bank == 1) (writeBytes (n.sp (l.bank == 1)) 0 (zeroWord l.sword l.bytes))
        else n.setBank (l.bank == 1) (writeBytes (n.bank (l.bank == 1)) 0 (loadB l.sh l.trn (zeroWord l.sword l.bytes)))) s).modNode k fun n =>
          { n with loads := n.loads.eraseIdx index })).act) ∧
  (nd.flight[index]? = none → ((sendAllOwed k s).at k).node.outq.length ≠ nd.outq.length →
    exec (.rowResult tile index) s = .next (sendAllOwed k s).act) ∧
  (∀ o s', nd.outq[index]? = some o → (nd.outq.take index).any (fun g => (o.row && g.row) || g.slot == o.slot) = false →
    deliver (s.modNode k fun n => n.sent index o) k o.slot o.time o.pipe o.seq o.outs = some s' → sendOwed k index s = s')

/-- R269: in each cycle a domain grants its data-ready nodes up to the allowance, lowest index first, and counts idle
cycles; at a tick the die's tables (R270) and level (R441) come into force, before anything else of the tick as log 31
reads the two rules, the up-step rises by one where demand passes the allowance, and SLEW_DN[j] filling nodes stop; when
the idle count has reached SLEW_IDLE the up-step returns to 0. -/
def Obligations.SlewSteps : Prop := ∀ (s : State) (die dom : Nat),
  let key := die * 8 + dom
  let x := getD {} key s.slews
  let ks := domainTiles die dom
  let d := getD {} die s.dies
  let y : Slew := { x with
    up0 := d.up0, up1 := d.up1, dn0 := d.dn0, dn1 := d.dn1, lim := d.lim, level := d.throt, tick := s.cycle + 1 }
  let fs := fillingNodes s ks
  die < 4 → dom < 8 →
  (x.done ≠ s.cycle + 1 → (s.cycle % 4 = 0 → x.tick = s.cycle + 1) →
    exec (.slewCycle die dom) s =
      .next ({ ks.foldl (fun s k => fillNode k s) (grantNodes x.allowance ks s (ks.filter (granted s)).length) with
        slews := put key { x with done := s.cycle + 1, idle := if demand s ks = 0 then x.idle + 1 else 0 }
          (ks.foldl (fun s k => fillNode k s) (grantNodes x.allowance ks s (ks.filter (granted s)).length)).slews }).act) ∧
  (s.cycle % 4 = 0 → x.tick ≠ s.cycle + 1 → x.done ≠ s.cycle + 1 →
    let s1 := (fs.take (y.dn y.j)).foldl (fun s k => modNodeOf k (fun n => { n with grant := false, filling := none }) s) s
    exec (.slewTick die dom) s = .next ({ s1 with slews := put key { y with
      s := if y.allowance < demand s ks ∧ y.s < 8 ∧ y.up y.s < throttleCap y.level then y.s + 1 else y.s
      j := if fs = [] then 0 else min (y.j + 1) 11 } s1.slews }).act) ∧
  (x.idleLimit ≤ x.idle → 0 < x.s →
    exec (.slewIdleExpiry die dom) s = .next ({ s with slews := put key { x with s := 0 } s.slews }).act)

/-- R328: a tracker applies an input's oldest batch, increments first, and passes it up; R341: a WAITF's registration waits
at its tracker while a waiter is free, and is released with the frontier once that has passed its time; R342: the oldest
FRONT query whose residency runs and whose targets take the answer is answered with the frontier that the tracker holds. -/
def Obligations.TrackerSteps : Prop := ∀ (s : State) (trk input : Nat),
  let t := getD {} trk s.trackers
  (∀ b rest t', getD [] input t.inq = b :: rest →
    applyBatch s trk b { t with inq := if rest = [] then del input t.inq else put input rest t.inq } = some t' →
    exec (.trackerBatch trk input) s = .next (
      let s' := { s with trackers := put trk t' s.trackers }
      if trk < 480 then s'.enqueue (480 + trk / 120) (trk % 120) b
      else if trk < 484 then s'.enqueue 484 (trk - 480) b else s').act) ∧
  (∀ w rest, t.regq = w :: rest → t.waiters.length < waiterCap trk →
    exec (.waitfRegister trk) s =
      .next ({ s with trackers := put trk { t with regq := rest, waiters := t.waiters ++ [w] } s.trackers }).act) ∧
  (∀ w, t.waiters[input]? = some w → passes (frontier s trk w.res w.prb) w.time.toNat = true →
    let s1 : State := { s with trackers := put trk { t with waiters := t.waiters.eraseIdx input } s.trackers }
    let free (v : WaitF) : WaitF := { v with freed := some ((frontier s trk w.res w.prb).map (BitVec.ofNat 64)) }
    exec (.frontierRelease trk input) s = .next
      (s1.modAt w.tile fun a => a.modSlot w.slot fun y => { y with wait := y.wait.map free }).act) ∧
  (∀ (m : Msg) before rest k slot s', t.queries = before ++ m :: rest → (∀ x ∈ before, answerQuery trk s x = none) → m.src = .slot k slot →
    (runRes s m.h).isSome = true →
    answer k m ([m.t0, m.t1].map (dataOut .n64 m.time (match frontier s trk m.h m.snum with
      | some v => leBytes 8 v ++ zeros 8
      | none => List.replicate 8 0xFF ++ leBytes 8 1)))
      { s with trackers := put trk { t with queries := removeFirst (fun x => x == m) t.queries } s.trackers } = some s' →
    exec (.frontQuery trk) s = .next s'.act)

/-- R115, R116, R120, R123, R132, R311: with no message of its kind set aside and a context free, a COPY or FILL at the
head of its engine's inbox starts: scoreboard, T0's pulse, the reads and writes of its descriptor, its count from L to the
engine; a stream opens with S credits; a matrix generation writes its lines into W. A set-aside message starts likewise.
R116, R128: where no context is free a message is set aside, up to 16 of its kind; one whose descriptor fails its check is
held with RANGE, the failing word's number in the record, and the slot that sent it fires no more until the record is
settled; a SEND of an unknown operation fails at word 0. -/
def Obligations.EngineMessages : Prop :=
( ∀ (s : State) (mt : TileId) (h : Nat) (r : Res) (m : Msg) (rest : List Msg) (i : Nat) (s1 : State) (ps : List Post),
  let k := mt.key
  let d := copyDesc m.body
  let s0 := s.modMt k fun t => { t with inbox := rest }
  let sb := sbTile r k m
  let onEngine := ownPost m (-1) ++ enginePost r (copyLoc r k) m 1
  let part (role : Nat) (op : ROp) (es : List Elt) : Req := engineReq m k i false 0 role op d.size es
  let started (rs ws : List Elt) : State :=
    let a := s1.newReq (part 0 .load rs)
    let b := a.2.newReq (part 1 .store ws)
    ((b.2.putCopy k i { msg := m, sbt := sb, rd := some a.1, wr := some b.1 }).post k (onEngine ++ ps)).act
  mtRunning s k = some (h, r) → m.skip = false →
  ((s.mt k).inbox = m :: rest → (s.mt k).asideC = [] → freeCtx (s.mt k).cctx = some i →
    (sbFull sb m.sb s0 = false → reply m [pulseOut m.time m.t0] (sbAdd sb m.sb true s0) = some (s1, ps) →
      (m.amop = 1 → descBad r k m 0 = none → exec (.copy mt) s = .next (started
        (d.reads (d.srcSpace r) (indices (d.dims.map (·.ext)))) (d.writes (d.dstSpace r) (d.dims.map (·.ext)) [] []))) ∧
      (m.amop = 5 → descBad r k m 1 = none →
        exec (.fill mt) s = .next (started [] (d.writes (d.dstSpace r) (d.dims.map (·.ext)) [] d.pattern)))) ∧
    (m.amop = 6 → genBad m = none →
      let a := s0.newReq (engineReq m k i false 0 1 .store 64
        (lineElts (.buf (mt.key / 4 * 4 + (m.body.getD 2 0).toNat % 4) 0) (genBase m) (genBytes m)))
      exec (.mgen mt) s = .next ((a.2.putCopy k i { msg := m, mgen := true, wr := some a.1 }).post k onEngine).act)) ∧
  ((s.mt k).inbox = m :: rest → (s.mt k).asideS = [] → m.amop = 2 → descBad r k m 2 = none → findStrm s k d.snum = none →
    freeCtx (s.mt k).sctx = some i →
    exec (.sopen mt) s = .next (startTiles r k i (ringSlots m) { msg := m, credits := ringSlots m } (s0.post k onEngine)).act) ∧
  (∀ strm, (if strm then (s.mt k).asideS else (s.mt k).asideC) = m :: rest →
    startMsg r k m (if m.amop = 2 then startStream else if m.amop = 6 then startGen else startCopy)
      (s.modMt k fun t => if strm then { t with asideS := rest } else { t with asideC := rest }) = some s1 →
    exec (.setAsideStart mt strm) s = .next s1)) ∧
(∀ (s : State) (mt : TileId) (h : Nat) (r : Res) (m : Msg) (rest : List Msg),
  let k := mt.key
  let s0 := s.modMt k fun t => { t with inbox := rest }
  let held (w : Nat) : State := ((markSlot m (· ++ [m.id]) { s0 with held := put m.id ⟨m, k⟩ s.held }).raise (msgRec s0 r k m .range (descGen w))).act
  mtRunning s k = some (h, r) → m.skip = false → (s.mt k).inbox = m :: rest →
  (m.amop = 0 → exec (.copy mt) s = .next (held 0)) ∧
  (∀ w, m.amop = 1 → descBad r k m 0 = some w → exec (.copy mt) s = .next (held w)) ∧
  (∀ w, m.amop = 5 → descBad r k m 1 = some w → exec (.fill mt) s = .next (held w)) ∧
  (∀ w, m.amop = 2 → descBad r k m 2 = some w → exec (.sopen mt) s = .next (held w)) ∧
  (∀ w, m.amop = 6 → genBad m = some w → exec (.mgen mt) s = .next (held w)) ∧
  (freeCtx (s.mt k).cctx = none → (s.mt k).asideC.length < 16 →
    let aside := (s0.modMt k fun t => { t with asideC := t.asideC ++ [m] }).act
    (m.amop = 1 → descBad r k m 0 = none → exec (.copy mt) s = .next aside) ∧
    (m.amop = 5 → descBad r k m 1 = none → exec (.fill mt) s = .next aside) ∧
    (m.amop = 6 → genBad m = none → exec (.mgen mt) s = .next aside)))

/-- R125, R311: when its reads, writes and subtractions are done a copy writes its flag if it has one, then decrements its
scoreboard, then pulses T1 and frees its context; a matrix generation is answered. After an abort the targets have
end-of-stream. R126, R146: an owner applies a burst's subtraction to the arrival word, at the word's turn in its bank, and
wakes its waiters. R133, R134: credits return to a stream up to S and further tiles start; a close stops further tiles; a
performed tile, in order, sends its number and ring slot at the tile's time; the stream's end sends end-of-fibre and its
close pulse and frees its context. Where the tile's time overflows the stream is held with TIMEWRAP. The closes that waited
at an ended stream are pulsed one by one. -/
def Obligations.EngineCompletions : Prop :=
(∀ (s : State) (mt : TileId) (ctx h work : Nat) (r : Res) (c : Copy) (s' : State),
  let k := mt.key
  let m := c.msg
  let needsFlag := m.flg && !c.flagged && !(m.skip && flagBad r (copyDesc m.body).w4)
  (mtRunning s k = some (h, r) → get? ctx (s.mt k).cctx = some c →
    (c.mgen = false → reqDone s c.rd = true → reqDone s c.wr = true → reqDone s c.fl = true → subsDone s k ctx false 0 = true →
      (c.failed = false → needsFlag = true →
        let a := s.newReq (engineReq m k ctx false 0 2 .store 8 [flagElt m])
        exec (.copyCompletion mt ctx) s = .next (a.2.putCopy k ctx { c with fl := some a.1, flagged := true }).act) ∧
      (c.failed = true ∨ needsFlag = false → c.dec = false →
        exec (.copyCompletion mt ctx) s = .next (sbAdd c.sbt m.sb false (s.putCopy k ctx { c with dec := true })).act) ∧
      (c.failed = true ∨ needsFlag = false → c.dec = true →
        endCopy r k ctx c [if c.failed then markerOut 5 m.time m.t1 else pulseOut m.time m.t1] s = some s' →
        exec (.copyCompletion mt ctx) s = .next s')) ∧
    (c.mgen = true → reqDone s c.wr = true →
      endCopy r k ctx c (if c.failed then [markerOut 5 m.time m.t0, markerOut 5 m.time m.t1] else genOuts m) s = some s' →
      exec (.matrixGenDone mt ctx) s = .next s')) ∧
  (∀ b r, get? work s.subs = some b → get? b.h s.res = some r →
    let t := unitTake r (.sub work) [(b.off, 8)] s
    let s1 : State := { t with subs := del work t.subs }
    let v := leNat (scrRead r s1 b.off 8)
    (unitTurn s r (.sub work) [(b.off, 8)] = true →
      exec (.arrivalSubtraction work) s = .next (wake b.h b.off (scrPut r s1 b.off (leBytes 8 (arrSub v b.n)))).act) ∧
    (unitTurn s r (.sub work) [(b.off, 8)] = false →
      exec (.arrivalSubtraction work) s = .next (unitWait r (.sub work) [(b.off, 8)] s)))) ∧
( ∀ (s : State) (mt : TileId) (ctx h : Nat) (r : Res) (c : Strm) (m : Msg) (rest : List Msg) (s' : State) (ps : List Post),
  let k := mt.key
  let s0 := s.modMt k fun t => { t with inbox := rest }
  let n := ringSlots c.msg
  let sum := c.credits + m.count
  let tiles := c.tiles.filter fun e => e.1 != c.sent
  mtRunning s k = some (h, r) →
  ((s.mt k).inbox = m :: rest → m.amop = 3 → findStrm s k m.snum = some (ctx, c) → sum ≤ n →
    answer k m [pulseOut m.time m.t0] (startTiles r k ctx sum { c with credits := sum } s0) = some s' →
    exec (.sfree mt) s = .next s'.act) ∧
  (∀ m before after, (s.mt k).closed = before ++ m :: after → (∀ x ∈ before, answer k x [pulseOut x.time x.t0] s = none) →
    answer k m [pulseOut m.time m.t0] s = some s' →
    exec (.sclose mt) s = .next (s'.modMt k fun t => { t with closed := removeFirst (fun x => x == m) t.closed }).act) ∧
  (answerClosed k s = none → (s.mt k).inbox = m :: rest → m.amop = 4 → findStrm s k m.snum = some (ctx, c) →
    exec (.sclose mt) s = .next (s0.putStrm k ctx { c with closing := true, closers := c.closers ++ [m] }).act) ∧
  (get? ctx (s.mt k).sctx = some c → c.held = false → c.failed = false →
    (∀ a b, c.tiles.find? (fun e => e.1 == c.sent) = some (c.sent, a, b) → reqDone s (some a) = true →
      reqDone s (some b) = true → subsDone s k ctx true c.sent = true →
      (∀ t, tileTime s r c.msg c.sent = some t →
        engineSend r k c.msg [dataOut .n64 t (leBytes 8 (c.sent + c.sent % n * 2 ^ 32)) c.msg.t0]
          ((dropReq (some b) (dropReq (some a) s)).putStrm k ctx { c with sent := c.sent + 1, tiles := tiles }) = some (s', ps) →
        exec (.streamTileDone mt ctx) s = .next (s'.post k ps).act) ∧
      (tileTime s r c.msg c.sent = none → exec (.streamTileDone mt ctx) s =
        .next ((s.putStrm k ctx { c with held := true }).raise (strmRec s r k ctx c.msg c.sent)).act)) ∧
    (∀ t, c.tiles = [] → c.closing = true ∨ streamTiles c.msg ≤ c.next → strmSubsDone s k ctx = true → tileTime s r c.msg c.sent = some t →
      engineSend r k c.msg [markerOut 1 t c.msg.t0, pulseOut c.msg.time c.msg.t1]
        (s.modMt k fun t => { t with sctx := del ctx t.sctx, closed := t.closed ++ c.closers }) = some (s', ps) →
      exec (.streamClose mt ctx) s =
        .next (coreDone c.msg c.failed (s'.post k (enginePost r (copyLoc r k) c.msg (-1) ++ ps))).act)))

/-- R317 to R319: a combine unit's configuration is checked and waits until every slot is free, and then takes its place in
the head; an allocation takes a free slot or waits; a delivery is written, late or double, and answered with that status; a
bad message is held with RANGE. What reads and writes the scratchpad does so at the turn of its words in the banks (R146).
R321, R322: an open slot whose time the return frontier has passed, or whose REMC is 0, is substituted under the policy;
the first receive message registers the receiver and credit is added; a complete or substituted slot goes out chunk by
chunk, its status last; a release under way goes on in a freeze (R323); the oldest marker goes out whose slots, those at or
before its time, are all released and whose targets take it. -/
def Obligations.CombineUnits : Prop :=
( ∀ (s : State) (mt : TileId) (x : CU) (m : Msg) (s1 : State) (i : Nat),
  let first (ops : List Nat) : Prop := takeCin s mt.key ops = some (m, s1)
  let word (i : Nat) : Nat := (m.body.getD i 0).toNat
  let cfg := cmbCfg (word 0) (word 1)
  let heads (t : State) := freeHeads { x with c := cfg } cfg.n (wrn x 0x1C 4 0 (wrn x 0x28 8 (word 1) (wrn x 0x20 8 (word 0) t)))
  let head := (0, 64)
  let slot (i : Nat) := (slotOff x i, 192)
  let delivered (st : Nat) (areas : List (Nat × Nat)) (f : State → State) : Prop :=
    AtTurn (.cins mt) x 2 areas s fun t => (takeCin t x.mt [0x12]).bind fun e =>
      (answer x.mt m [pulseOut m.time m.t0, dataOut .n8 m.time (leBytes 8 st) m.t1] (f e.2)).map State.act
  unitOf s mt.key = some x →
  (first [0x10, 0x11] → x.u.waiting = none →
    (m.amop = 0x10 → exec (.ccfg mt) s = .next (match ccfgBad x m with
      | some w => (holdMsg x.r x.mt m w s1).act
      | none => (modCmb x.mt (fun u => { u with waiting := some m }) s1).act)) ∧
    (m.amop = 0x11 → (m.skip = true ∨ expertsBad x (expertList s x m) = false) →
      (x.u.allocq = [] → slotFor s x = some i → AtTurn (.calloc mt) x 1 [head, slot i] s fun t =>
        (takeCin t x.mt [0x10, 0x11]).bind fun e => allocate x m i e.2) ∧
      (x.u.allocq.length < 16 → (x.u.allocq ≠ [] ∨ slotFor s x = none) →
        exec (.calloc mt) s = .next (modCmb x.mt (fun u => { u with allocq := u.allocq ++ [m] }) s1).act))) ∧
  (x.u.waiting = some m → allFree s x = true → x.u.allocq = [] →
    AtTurn (.ccfgApply mt) x 0 [head] s fun t => (answer x.mt m [pulseOut m.time m.t0, pulseOut m.time m.t1] (modCmb x.mt (fun u =>
      { u with waiting := none, order := [], ready := [], live := [], got := [] }) (heads t))).map State.act) ∧
  (∀ rest, x.u.allocq = m :: rest → slotFor s x = some i →
    AtTurn (.callocResume mt) x 1 [head, slot i] s fun t => allocate x m i (modCmb x.mt (fun u => { u with allocq := rest }) t)) ∧
  (first [0x12] →
    (judge s x m = .bad → exec (.cins mt) s = .next (holdMsg x.r x.mt m 0 s1).act) ∧
    (judge s x m = .late → delivered 1 [head] (headAdd x 0x10 1)) ∧
    (judge s x m = .dup → delivered 2 [head] (headAdd x 0x14 1)) ∧
    (∀ j, judge s x m = .write j → delivered 0 (chunkAreas s x m j) (writeChunk x m j)))) ∧
( ∀ (s : State) (mt : TileId) (x : CU) (m : Msg) (s1 s' : State) (i ch : Nat),
  let head := (0, 64)
  let slot := (slotOff x i, 192)
  let acc := accArea x i
  let reg (t : State) : State := match m.src, x.u.recv with
    | .slot k slot, none => modCmb x.mt (fun u => { u with recv := some (k, slot, m.t0, m.t1) }) t
    | _, _ => t
  (unitAt s mt.key = some x → x.u.rel = some (i, ch) →
    AtTurn (.combineRelease mt) x 5 (if ch < x.c.chunks then [(accOff x i + 256 * ch * 4 / x.c.es, 1024 / x.c.es)] else [head, slot]) s
      (releaseStep x i ch)) ∧
  (unitOf s mt.key = some x →
  (i < x.c.n → slotState s x i = 1 → deliveryFirst s x i = false →
    (frontierPassed s x i = true →
      AtTurn (.combineFrontierSubst mt i) x 3 [head, slot, acc] s fun t => some (substitute x i 0 0x08 t).act) ∧
    (frontierPassed s x i = false → x.c.tmo ≠ 0 → get? i x.u.live = some 0 →
      AtTurn (.combineTimeout mt i) x 3 [head, slot, acc] s fun t => some (substitute x i 1 0x0C t).act)) ∧
  (takeCin s mt.key [0x13] = some (m, s1) →
    (m.snum = 0 → AtTurn (.crecv mt) x 4 [head] s fun t => (takeCin t x.mt [0x13]).map fun e =>
      ((coreDone m false (headAdd x 0x18 (natAt m.lpay 0 4) (reg e.2))).post x.mt (ownPost m (-1))).act) ∧
    (m.snum ≠ 0 → exec (.crecv mt) s = .next (modCmb x.mt (fun u => { u with markers := u.markers ++ [m] }) (reg s1)).act)) ∧
  (x.u.rel = none → releasable s x = some i → x.u.recv ≠ none →
    AtTurn (.combineRelease mt) x 5 [slot] s fun t => some (modCmb x.mt (fun u => { u with rel := some (i, 0) }) (wrHead x i 8 1 4 t)).act) ∧
  (∀ before rest, x.u.markers = before ++ m :: rest → (∀ y ∈ before, releaseMarker x s y = none) →
    (∀ i < x.c.n, slotState s x i = 0 ∨ m.time.toNat < slotTime s x i) →
    answer x.mt m [markerOut m.snum m.time m.t0, markerOut m.snum m.time m.t1]
      (modCmb x.mt (fun u => { u with markers := removeFirst (fun y => y == m) u.markers }) s) = some s' →
    exec (.combineMarkerRelease mt) s = .next s'.act)))

/-- R296 to R298: at the head of its binding's queue a VOPEN that passes its check opens a stream with the next sequence
number and SLOTS credits; a VQRY sends the stream's state, or 3 where there is none; a VFREE returns credits up to SLOTS; a
VCLOSE waits at its stream, or is answered at once where that has ended or never was. R278: a free lane of its binding
takes the lowest waiting stream. R280: with a credit held a picture that has its place in the output store is written into
ring slot sent mod SLOTS, up to 256 bytes in a cycle and each at the turn of its place (R143, R146; the cut into parts is
log 23), and after the last its number and slot are sent at the picture's time; one whose tensor passes SLOTSZ gives the
stream status 5. R281: a stream that has ended, the current one of its binding, sends end-of-fibre and its status and
count, and its closers wait at the queue's head (log 22, DEDUCED: the rule says that a close pulses once its stream has
ended, not in which place). -/
def Obligations.SyntaxUnits : Prop :=
(∀ (s : State) (res bind : Nat) (r : Res) (m : Msg) (s1 s' : State),
  let k := synKey res bind
  let y := s1.syn k
  let first (op : Nat) : Prop := synHead s res bind op = some (r, m, s1)
  let answered (outs : List Out) (s : State) : Prop := synAnswer r bind m outs s = some s'
  let v? := get? m.snum (s.syn k).streams
  let state (b : List Byte) : List Out := [m.t0, m.t1].map (dataOut .n64 m.time b)
  (first 0x20 → vopenBad r m = none → exec (.vopen res bind) s =
    .next ((s1.setSyn k { y with
      next := y.next + 1
      streams := put y.next { msg := m, credits := (vdesc m).slots } y.streams }).post (synMt r bind)
        (ownPost m (-1) ++ synPost r bind m 1)).act) ∧
  (∀ w, first 0x20 → vopenBad r m = some w → exec (.vopen res bind) s = .next (holdMsg r (synMt r bind) m w s1).act) ∧
  (first 0x21 → v? = none → answered (state (leBytes 8 3 ++ zeros 8)) s1 → exec (.vqry res bind) s = .next s'.act) ∧
  (∀ v, first 0x21 → v? = some v →
    answered (state (leBytes 8 (v.state + (if v.state = 2 then v.status.getD 0 else 0) * 2 ^ 8 + v.sent % 2 ^ 32 * 2 ^ 16
      + v.credits % 2 ^ 16 * 2 ^ 48) ++ leBytes 8 (v.off + v.got.length))) s1 → exec (.vqry res bind) s = .next s'.act) ∧
  (∀ v, first 0x22 → v? = some v → v.state ≠ 2 → v.credits + m.count ≤ (vdesc v.msg).slots →
    answered (synqOuts m) (s1.setStream k m.snum { v with credits := v.credits + m.count }) →
    exec (.vfree res bind) s = .next s'.act) ∧
  (first 0x22 → v? = none → answered (synqOuts m) (s1.modRes res fun r => { r with xsc := satAdd (2 ^ 16 - 1) r.xsc 1 }) →
    exec (.vfree res bind) s = .next s'.act) ∧
  (∀ v, first 0x23 → v? = some v → v.state ≠ 2 → exec (.vclose res bind) s =
    .next (s1.setStream k m.snum { v with closing := true, closers := v.closers ++ [m] }).act) ∧
  (first 0x23 → (∀ v, v? = some v → v.state = 2) → answered (synqOuts m) s1 → exec (.vclose res bind) s = .next s'.act)) ∧
(∀ (s : State) (res bind sigma lane : Nat) (rest : List Nat) (r : Res) (v : VStream) (s' : State)
    (ps : List Post),
  let k := synKey res bind
  let y := s.syn k
  runRes s res = some r →
  (get? sigma y.streams = some v → v.state = 0 → v.closing = false → freeLanes y = lane :: rest →
    y.streams.any (fun e => e.1 < sigma && e.2.state == 0 && !e.2.closing) = false →
    exec (.streamParseStart res bind sigma) s =
      .next (readMore res bind sigma { v with state := 1, lanes := [lane], engine := lane / 16 } s).act) ∧
  (∀ a, current y = some (sigma, v) → ringAlloc ((get? res s.res).getD default) bind = some a → v.state = 1 → v.held = false →
    v.failed = false → v.closing = false → v.status = none → v.credits ≠ 0 → atLimit v = false → v.sent < v.kept →
    let d := vdesc v.msg
    let n := v.sent % d.slots
    match pictureBytes sigma v (parsed v).1 v.sent with
    | none => exec (.pictureDelivery res bind) s = .next s
    | some bs => if d.slotsz < bs.length then
        exec (.pictureDelivery res bind) s = .next (s.setStream k sigma { v with status := some 5, lanes := [] }).act
      else ∀ t, tileTime s r v.msg v.sent = some t →
        let part := imagePart (a.off + (d.ring + n * d.slotsz)) v.put bs
        let off := d.ring + n * d.slotsz + v.put
        (allocTurn r k a off part.length s = false →
          exec (.pictureDelivery res bind) s = .next (allocWait r k a off part.length s)) ∧
        (allocTurn r k a off part.length s = true → v.put + part.length < bs.length → exec (.pictureDelivery res bind) s =
          .next ((writeAlloc r k a off part s).setStream k sigma { v with put := v.put + part.length }).act) ∧
        (allocTurn r k a off part.length s = true → bs.length ≤ v.put + part.length →
          synSend r v.msg [dataOut .n64 t (leBytes 8 (v.sent % 2 ^ 32 + n * 2 ^ 32)) v.msg.t0]
            ((writeAlloc r k a off part s).setStream k sigma
              { v with credits := v.credits - 1, sent := v.sent + 1, put := 0 }) = some (s', ps) →
          exec (.pictureDelivery res bind) s = .next (s'.post (synMt r bind) ps).act)) ∧
  (∀ st t, current y = some (sigma, v) → v.held = false → v.failed = false → endStatus v = some st →
    tileTime s r v.msg v.sent = some t →
    synSend r v.msg [markerOut 1 t v.msg.t0,
      dataOut .n64 v.msg.time (leBytes 8 (st + v.sent % 2 ^ 32 * 2 ^ 32)) v.msg.t1] (endStream k sigma st v s) = some (s', ps) →
    exec (.syntaxStreamEnd res bind sigma) s =
      .next (coreDone v.msg v.failed (s'.post (synMt r bind) (synPost r bind v.msg (-1) ++ ps))).act))

/-- R407: with no snapshot in hand the oldest request that passes its check begins; once the pages are marked T0 is pulsed;
once the probe's frontier passes the cut, the first page's copy begins; when the last page's copy is performed T1 is pulsed
and the snapshot ends. -/
def Obligations.SnapshotSteps : Prop := ∀ (s : State) (m : Msg) (rest : List Msg) (n : Snap) (s' : State) (ps : List Post) (page : Nat),
  (∀ r, s.snap = none → s.snapq = m :: rest → runRes s m.h = some r →
    (∀ w, snapBad r m = some w → exec .snapshotRequest s = .next (holdSnap r m w { s with snapq := rest }).act) ∧
    (snapBad r m = none → exec .snapshotRequest s = .next
      { s with
        acted := true
        snapq := rest
        snap := some
          { msg := m, cut := m.body.getD 2 0, prb := snapProbe m, scp := snapScope m,
            pages := snapPages m (snapRanges m) 0 0 } })) ∧
  (∀ k slot, s.snap = some n → n.marked = false → (runRes s n.msg.h).isSome = true → n.msg.src = .slot k slot →
    reply n.msg [pulseOut n.msg.time n.msg.t0] { s with snap := some { n with marked := true } } = some (s', ps) →
    exec .snapshotMarked s = .next (s'.post k ps).act) ∧
  (s.snap = some n → n.marked = true → n.passed = false →
    passes (frontier s (cutTracker s n) n.msg.h n.prb) n.cut.toNat = true →
    (∀ p, nextPage s n.pages = some p → exec .snapshotCut s = .next (startPage { n with passed := true } p s).act) ∧
    (nextPage s n.pages = none → exec .snapshotCut s = .next { s with acted := true, snap := some { n with passed := true } })) ∧
  (∀ g a w, s.snap = some n → n.pages[page]? = some g → snapCopy s page 1 = some (a, w) → g.copying = true →
    w.elts.all (fun e => e.st == .done) = true →
    let pages := n.pages.set page { g with pending := false, copying := false }
    let s1 := releasePage g.src (dropSnapReqs s)
    (∀ p, nextPage s1 pages = some p →
      exec (.snapshotPageCopied page) s = .next (startPage { n with pages := pages } p s1).act) ∧
    (nextPage s1 pages = none → (runRes s n.msg.h).isSome = true →
      endSnap { n with pages := pages } [pulseOut n.msg.time n.msg.t1] false s1 = some s' →
      exec (.snapshotPageCopied page) s = .next s'.act))

/-- R96 to R101, R109: a virtual element not behind a hold of its stream is translated at its ingress PT: one at or past
2^56 holds RANGE, a misaligned one ALIGN; with its range cached, a permitted access goes to its home in a direct range,
through a cached leaf in a paged one, else begins a walk from the root, and in a host range uses a cached translation or
asks the host. A miss fetches the covering range into the cache. A walk's read of a sound entry goes on at the next level
or ends in a leaf, which is cached but for a discarding one (log 23, DESIGN CHOICE; R103 gives what the access does); a
migrating leaf holds MIGRATING, an absent or bad entry NOTPRESENT, a bad one with the walk-error bit. An ATS completion is
cached, ends a cut there (log 23, DEDUCED from R104), and is used: the access goes to its home in device memory (R109). -/
def Obligations.TranslationGoesOn : Prop := ∀ (s : State) (req elem : Nat) (q : Req) (e : Elt) (r : Res) (g : Range),
  let p := ingressPt (q.org.tile s)
  let pt := getD {} p s.pts
  let goes (st : ESt) : State := s.setReq req (q.setElt elem { e with st := st })
  let cached (s : State) (t : Trans) : State := s.modPt p fun x => { x with trans := cacheIn 256 x.trans t }
  let leaf (t : Trans) : Bool :=
    t.asid == r.asid && t.h == q.h && !t.host && decide (t.va ≤ e.addr) && decide (e.addr < t.va + t.size)
  let hostHit (t : Trans) : Bool := t.asid == r.asid && t.h == q.h && t.host
    && decide (t.va ≤ e.addr) && decide (e.addr < t.va + t.size) && !(t.ro && q.op.writeClass)
  let mayUse : Prop := cutOff s r.asid e.addr = false ∨ e.again = true
  get? req s.reqs = some q → q.elts[elem]? = some e → get? q.h s.res = some r → behindHeld s req q = false →
  (e.st = .new → e.space = .virt → mayIssue s q e = true → bcGrant s p q = true →
    (2 ^ 56 ≤ e.addr → exec (.ingressTranslate req elem) s = failElt req elem p q .range 0 s) ∧
    (e.addr < 2 ^ 56 → e.addr % alignOf q e ≠ 0 → exec (.ingressTranslate req elem) s = failElt req elem p q .align 0 s) ∧
    (e.addr < 2 ^ 56 → e.addr % alignOf q e = 0 →
      pt.ranges.find? (fun x => x.1 == r.asid && x.2.1 == q.h && x.2.2.covers e.addr) = none →
      exec (.ingressTranslate req elem) s = .next (goes .fetch).act) ∧
    (e.addr < 2 ^ 56 → e.addr % alignOf q e = 0 →
      pt.ranges.find? (fun x => x.1 == r.asid && x.2.1 == q.h && x.2.2.covers e.addr) = some (r.asid, q.h, g) →
      (bit g.perm (permBit q) = false → exec (.ingressTranslate req elem) s = failElt req elem p q .perm 0 s) ∧
      (bit g.perm (permBit q) = true →
        (g.kind = .direct → exec (.ingressTranslate req elem) s = toHome req elem p q e (g.pa + (e.addr - g.va)) 0 s) ∧
        (∀ t, g.kind = .paged → pt.trans.find? leaf = some t → exec (.ingressTranslate req elem) s =
          useLeaf req elem p q e (t.pa + (e.addr - t.va)) t.ro t.disc s) ∧
        (g.kind = .paged → pt.trans.find? leaf = none → rootOk s (getD 0 r.asid s.roots) = true →
          exec (.ingressTranslate req elem) s = .next (goes (.walk 0 (getD 0 r.asid s.roots))).act) ∧
        (g.kind = .host → cutOff s r.asid e.addr = true → e.again = false →
          exec (.ingressTranslate req elem) s = failElt req elem p q .revoked 0 s) ∧
        (∀ t, g.kind = .host → mayUse → pt.trans.find? hostHit = some t →
          exec (.ingressTranslate req elem) s = toHome req elem p q e (t.pa + (e.addr - t.va)) 0 s) ∧
        (g.kind = .host → mayUse → pt.trans.find? hostHit = none →
          exec (.ingressTranslate req elem) s = .next (goes .ats).act)))) ∧
  (e.st = .fetch → r.desc.ranges.find? (fun g => g.covers e.addr) = some g → exec (.rangeTableFetch req elem) s =
    .next ((goes .new).modPt p fun t => { t with ranges := cacheIn 1024 t.ranges (r.asid, q.h, g) }).act) ∧
  (∀ level table, e.st = .walk level table → s.focus.bad = none →
    let pte := readPte s level (readNat s.mem (table + 8 * pteIndex level e.addr) 8)
    (∀ t, pte = .table t → exec (.pageWalkRead req elem) s = .next (goes (.walk (level + 1) t)).act) ∧
    (∀ pa size ro, pte = .leaf pa size false false ro → exec (.pageWalkRead req elem) s =
      useLeaf req elem p q { e with st := .new } (pa + (e.addr - e.addr / size * size)) ro false
        (cached (goes .new) ⟨r.asid, q.h, e.addr / size * size, size, pa, ro, false, false⟩)) ∧
    (∀ pa size ro, pte = .leaf pa size false true ro → exec (.pageWalkRead req elem) s =
      useLeaf req elem p q { e with st := .new } (pa + (e.addr - e.addr / size * size)) ro true (goes .new)) ∧
    (∀ pa size disc ro, pte = .leaf pa size true disc ro → exec (.pageWalkRead req elem) s = failElt req elem p q .migrating 0 s) ∧
    (pte = .bad → exec (.pageWalkRead req elem) s = failElt req elem p q .notpresent 1 s) ∧
    (pte = .absent → exec (.pageWalkRead req elem) s = failElt req elem p q .notpresent 0 s)) ∧
  (∀ a : AtsGrant, e.st = .ats → a.size ≠ 0 → (q.op.writeClass = true → a.write = true) →
    exec (.atsCompletion req elem (some a)) s =
      toHome req elem p q { e with st := .new } (a.pa + (e.addr - e.addr / a.size * a.size)) 0
        (cached (endCut r.asid e.addr (goes .new)) ⟨r.asid, q.h, e.addr / a.size * a.size, a.size, a.pa, !a.write, false, true⟩))

/-- R102, R104: an invalidation drops what the PTs cached of its bytes; one of a host range also ends waiting elements of
it and is owed an answer, given once no request of it is on its way, a truncation staying in force; a second page
invalidation walks again for an element held MIGRATING there, which goes on unless its leaf is still migrating. -/
def Obligations.Invalidations : Prop := ∀ (s : State) (asid va len index : Nat) (v : Revoked),
  let gone (host : Bool) (va len : Nat) : State := dropTrans asid va len host s
  let owe (va len : Nat) (cut : Bool) : State :=
    let s := revokeWaiting asid va len (gone true va len)
    { s with acted := true, revoked := s.revoked ++ [(⟨asid, va, len, cut, true⟩ : Revoked)] }
  (exec (.pageInvalidation asid va len) s = .next (gone false va len).act) ∧
  (exec (.atsInvalidateRequest asid va len) s = .next (owe va len false)) ∧
  (exec (.hostRangeTruncate asid va len) s = .next (owe len (hostEnd s asid va - len) true)) ∧
  (s.revoked[index]? = some v → v.owed = true → inFlight s v = false →
    exec (.invalidateCompletion index) s = .next { s with
      acted := true
      revoked := if v.cut then s.revoked.set index { v with owed := false } else s.revoked.eraseIdx index }) ∧
  (s.reqs = [] → exec (.migrationRewalk asid va len) s = .next (gone false va len).act) ∧
  (∀ id q e r, s.reqs = [(id, q)] → q.elts = [e] → get? q.h s.res = some r → r.asid = asid → e.st = .held .migrating →
    va ≤ e.addr → e.addr < va + len →
    let s0 := gone false va len
    exec (.migrationRewalk asid va len) s = .next (match walkAll s0 e.addr 5 0 (getD 0 asid s.roots) with
      | .leaf _ _ true _ _ => s0
      | _ => closeElt id 0 true (s0.setReq id (q.setElt 0 { e with st := .new }))).act)

/-- R109, R145, R146, R156: a word of an element, when it is that word's turn at its bank, port and home, is read whole
into the answer or written whole; a committed store joins the commit buffer while that has an entry, a committed load is
accepted. An uncorrectable word read holds the element with UNCORR; a WAITA joins the waiters of the word's owner and is
satisfied at once where the word already reads complete or overrun (R161). R148: when every element is done and no answer
of it was lost, no earlier request of its slot is outstanding, and no access that a fence waits for, a request's answer
goes to its targets and its count ends. -/
def Obligations.HomesPerformAccesses : Prop := ∀ (s : State) (req i w : Nat) (q : Req) (e : Elt),
  let o := e.wordOff w
  let n := e.wordLen w
  let did (e : Elt) (s : State) : State := s.setReq req (q.setElt i (e.didWord w))
  let served (s : State) : State := (serveWord req q e w s).act
  get? req s.reqs = some q →
  (q.elts[i]? = some e → w < 4 → wordTurn s req q i e w = true →
    (q.op = .load →
      exec (.homeAccess req (4 * i + w) false) s =
        .next (served (did { e with data := spliceBytes (fitBytes e.n e.data) o (eltRead s q e o n) } s)) ∧
      exec (.homeAccess req (4 * i + w) true) s =
        .next (served (holdElt req i .uncorr 0 (homeHolder s q e) (some [o]) (ueAt q e true s)))) ∧
    (∀ bad, q.op = .loadTc → exec (.homeAccess req (4 * i + w) bad) s =
      .next (served ((ueAt q e bad s).setReq req (q.setElt i (acceptLoad e w bad))))) ∧
    (∀ clr mt, q.op = .waita clr → eltHome s q e = some mt → exec (.homeAccess req (4 * i + w) false) s =
      .next (served (observe req ((s.setReq req (q.setElt i { e with st := .wait })).modMt mt fun m =>
        { m with waiters := m.waiters ++ [req] })))) ∧
    (∀ bad k slot d, q.op = .store → q.org = .slot k slot → storeBytes s q e = some d →
      (e.space = .virt → snapHolds s q.h q.timed e.addr = false) →
      exec (.homeAccess req (4 * i + w) bad) s =
        .next (served (notifyWatch e w (did e (eltWrite s q e o (sliceBytes d o n)))))) ∧
    (∀ bad k slot r, q.op = .storeTc → q.org = .slot k slot → get? q.h s.res = some r →
      commitRoom s (r.scrHome e.addr).1 q.h q.time = true →
      let c : CEnt :=
        { h := q.h, time := q.time, sport := sportOf r k q.pipe.port, slot := slot, seq := q.seq, lane := w, off := e.addr + o,
          data := sliceBytes e.data o n }
      exec (.homeAccess req (4 * i + w) bad) s =
        .next (served ((did e s).modMt (r.scrHome e.addr).1 fun m => { m with commit := m.commit ++ [c] })))) ∧
  (∀ k slot r (s' : State) ps, q.org = .slot k slot → get? q.h s.res = some r → r.running = true →
    q.elts.all (fun e => e.st == .done && !e.lost) = true → fenceWaits s req q = false → (q.op.isUpdate = true → detOwed s q = false) →
    (q.ordered = true → s.reqs.any (fun x => decide (x.1 < req) && x.2.stream == q.stream) = false) →
    sendAll { s with reqs := del req s.reqs } k (sportOf r k q.pipe.port) q.seq q.outs = some (s', ps) →
    exec (.responseDelivery req) s = .next (s'.post k ((match q.loc with
      | some l => [⟨q.h, l, q.time, -1⟩]
      | none => []) ++ ps)).act)

/-- R360 to R366, R370: an owner takes one update a cycle and applies a word of it once: a sequence that its window holds
is answered with what was recorded, another is applied and recorded, a deterministic one is accepted to be applied in
order. R346, R355: a home processes the least time that the frontier has passed, loads before stores; R374: the
deterministic updates of the least passed time one by one in their order. R370, R371: a request without an answer after
65,536 cycles goes out again, after the fifth attempt it holds with TIMEOUT, a prefetch (R111) is dropped; a mark frees a
window. -/
def Obligations.OwnersApplyOnce : Prop := ∀ (s : State) (req i w home port res : Nat) (mt : TileId) (q : Req),
  get? req s.reqs = some q →
  (∀ (e : Elt) win seq (s1 : State) q1, q.elts[i]? = some e → q.op.isUpdate = true → w < 4 → wordTurn s req q i e w = true →
    eltHome s q e = some home → ownerTurn s q e home = true → (e.space = .virt → snapHolds s q.h q.timed e.addr = false) →
    windowOf s home q.port = some win → takeSeq s req i q e home = some (seq, s1) → get? req s1.reqs = some q1 →
    let e1 := q1.elts.getD i e
    let served (s : State) : State := useOwner home (serveWord req q e w s)
    (∀ old, win.twice seq = some old → exec (.ownerUpdate req (4 * i + w) false) s = .next (served (s1.setReq req (q1.setElt i
      { e1 with st := .done, data := match q.op with | .amor _ => old | _ => e1.data }))).act) ∧
    (win.twice seq = none → windowFull s q.port home win seq = false →
      (detUpdate s q i = true → detRoom s home q.h q.time = true →
        exec (.ownerUpdate req (4 * i + w) false) s =
          .next (served (noteApplied home q.port win seq req i (acceptDet s1 req i w home q1 e1)))) ∧
      (∀ s2, detUpdate s q i = false → applyWord s1 req i w = .ok s2 →
        exec (.ownerUpdate req (4 * i + w) false) s = .next (served (noteApplied home q.port win seq req i s2)).act)) ∧
    exec (.ownerUpdate req (4 * i + w) true) s =
      .next (served (holdElt req i .uncorr 0 (homeHolder s q e) (some [e.wordOff w]) (ueAt q e true s))).act) ∧
  (∀ h t, mtRes s mt.key = some h → minNat? (eligibleTimes s mt.key h (tcFrontier s mt.key h)) = some t →
    exec (.tcCommit mt) s = .next (commitStores mt.key h t (commitLoads mt.key h t s)).act) ∧
  (∀ t c cs, minNat? ((detEntries s home res).map fun c => c.time.toNat) = some t → passes (issueFrontier s home res) t = true →
    (getD {} home s.homes).upAt ≠ s.cycle + 1 →
    sortBy CEnt.before ((detEntries s home res).filter fun c => c.time.toNat == t) = c :: cs →
    (∃ r, get? res s.res = some r ∧ r.running = true) →
    let go (s : State) : State := (useOwner home (applyDet home c s.focus.bad s)).act
    exec (.detCommit home res) s = .next (match detBytes s c with
      | some (r, words) => if unitTurn s r (.det home) words = true then go (unitTake r (.det home) words s)
        else unitWait r (.det home) words s
      | none => go s)) ∧
  (q.since + 65536 ≤ s.cycle → timerRuns s req q = true →
    (q.tries < 5 → exec (.endToEndTimeout req) s = .next (s.setReq req { q with
      tries := q.tries + 1
      since := s.cycle
      elts := q.elts.map q.resent }).act) ∧
    (5 ≤ q.tries → q.op = .prefetch → exec (.endToEndTimeout req) s =
      .next ((upto q.elts.length).foldl (fun s i => dropPrefetch req i q.h s) s).act) ∧
    (∀ x, 5 ≤ q.tries → q.op ≠ .prefetch → q.elts.zipIdx.find? (fun x => expires s req q x.2 x.1) = some x →
      let held := { q with
        elts := q.elts.zipIdx.map fun x => if expires s req q x.2 x.1 then { x.1 with st := .held .timeout } else x.1 }
      exec (.endToEndTimeout req) s = .next ((queueBehind req held (s.setReq req held)).raise { issuerRec s q .timeout with
        addr := BitVec.ofNat 64 x.1.addr
        gen := recGen s q [q.tries]
        desc := reqDesc s q
        link := .request req }).act)) ∧
  (∀ win, get? port (getD {} home s.homes).windows = some win → unanswered s port home = [] →
    exec (.markOnlyPacket home port) s = .next (s.modHome home fun x => { x with windows := del port x.windows }).act)

/-- R380, R381, R390: a launch request that passes its checks makes a free record, the lowest (log 26, DEDUCED: R381 does
not say which), answered with its id; one that does not is held. A JOIN sets or lowers a waiting record's counter, clamped
at 0; a stale one answers 0xFFFFFFFF. A waiting record whose counter is 0 and whose pairs hold is ready. R382: a store to
an enabled watch slot joins its queue. -/
def Obligations.DispatcherRequests : Prop := ∀ (s : State) (h slot : Nat) (v : W64) (s' : State),
  let t := s.task h
  let w := getD {} slot s.watch
  let idOut (i : Nat) (m : Msg) : List Out :=
    [m.t0, m.t1].map (dataOut .n64 m.time (leBytes 8 (i + (s.task i).gen * 2 ^ 13)))
  (∀ q, s.dsp.launchq.find? (fun q => awake s q.src) = some q →
    let s0 := s.modDsp fun d => { d with launchq := removeFirst (fun x => x == q) d.launchq }
    (∀ cls fflg, launchBad s0 q = some (cls, fflg) →
      exec .taskCreate s = .next (holdReq (.launch q) q.src q.asid cls fflg s0).act) ∧
    (∀ i, launchBad s0 q = none → freeRecord s0 = some i →
      answerSrc q.src (idOut i) false (noteMade q (i + (s.task i).gen * 2 ^ 13) (newRecord s0 i (q.placed s0))) = some s' →
      exec .taskCreate s = .next s'.act)) ∧
  (∀ x, s.dsp.launchq.find? (fun q => awake s q.src) = none → dueWatch s = some (slot, x) → createWatch slot x s = some s' →
    exec .taskCreate s = .next s'.act) ∧
  (∀ j, s.dsp.joinq.find? (fun j => awake s j.src) = some j →
    let s0 := s.modDsp fun d => { d with joinq := removeFirst (fun x => x == j) d.joinq }
    let k := s0.task (idIndex j.id)
    let n := if j.set then j.n else k.join - j.n
    (staleId s0 j.id = true ∨ k.state ≠ .waiting → answerSrc j.src (joinOuts 0xFFFFFFFF) false (s0.modDsp Dsp.addStale) = some s' →
      exec .joinApply s = .next s'.act) ∧
    (staleId s0 j.id = false → k.state = .waiting → k.asid = j.asid → (j.set = true ∨ j.n ≤ k.join) →
      answerSrc j.src (joinOuts n) false (s0.modTask (idIndex j.id) fun t => { t with join := n }) = some s' →
      exec .joinApply s = .next s'.act)) ∧
  (t.state = .waiting → t.join = 0 → t.waits.all (waitSat s) = true →
    exec (.waitReevaluate h) s = .next (s.modTask h fun t => { t with state := .ready, ready := s.cycle }).act) ∧
  (let stored : State := if !w.en then s else if 64 ≤ w.queue.length then launchovf slot 0 w.asid v s
    else { s with watch := put slot { w with queue := w.queue ++ [(v, w.tmpl, w.prio, w.aff, w.asid)], en := !w.once } s.watch }
   slot < 256 → exec (.watchWindowWrite slot v) s = .next stored.act) ∧
  (∀ rest, s.watchq = (slot, v) :: rest → exec .watchedStore s = .next (watchStore slot v { s with watchq := rest }).act)

/-- R384, R385: the record that the credits select claims the first region that takes it; where none does it waits, and
with pre-emption enabled a victim's freeze is asked for. A record is raised one level for every 2^20 cycles in ready or
frozen. R387, R388: with at most eight loads in progress a block enters its tile's inactive bank; a residency whose output
probes are empty drains; a quiet draining region is retired; where the drain limit passes first, counted from activation
where it has no outputs, it is frozen with cause 2. -/
def Obligations.DispatcherRegions : Prop := ∀ (s : State) (h : Nat) (r : Res),
  let t := s.task h
  (∀ k x dsp d die px py, selectRecord s = some (k, x, dsp) → taskDesc { s with dsp := dsp } k = some d →
    place { s with dsp := dsp } k x d = some (die, px, py) →
    exec .taskSelect s = .next ({ s with dsp := dsp, broughtUp := true }.modTask k fun t =>
      { t with state := .loading, die := die, rx := px, ry := py, pinned := false, loaded := 0 }).act) ∧
  (∀ k x dsp d, selectRecord s = some (k, x, dsp) → taskDesc { s with dsp := dsp } k = some d →
    place { s with dsp := dsp } k x d = none →
    let waits (t : Task) : Task :=
      { t with skips := satAdd 255 t.skips 1, pinned := t.pinned || decide (satAdd 255 t.skips 1 ≥ 16), unplaced := true }
    (bit dsp.ctl.toNat 0 = false ∨ victimFor { s with dsp := dsp } k x d = none →
      exec .taskSelect s = .next ({ s with dsp := dsp }.modTask k waits).act) ∧
    (∀ v die px py, bit dsp.ctl.toNat 0 = true → victimFor { s with dsp := dsp } k x d = some (v, die, px, py) →
      exec .taskSelect s = .next ({ s with dsp := { dsp with
        frzq := dsp.frzq ++ [(v, 1)]
        preempt := dsp.preempt ++ [(v, k, die, px, py)] } }.modTask k waits).act)) ∧
  (t.state = .ready ∨ t.state = .frozen → t.prio < 6 → t.ready + 2 ^ 20 ≤ s.cycle →
    exec (.priorityAging h) s = .next (s.modTask h fun t => { t with prio := t.prio + 1, ready := s.cycle }).act) ∧
  (∀ d b, taskDesc s h = some d → t.state = .loading → t.freezing = none → loadRoom s h = true → d.blocks[t.loaded]? = some b →
    blockErr d t.loaded b = none → (t.loaded + 1 = d.blocks.length → residencyErr d = none) →
    exec (.blockLoad h) s = .next ((s.modAt (tileKey t.die (t.rx + b.qx) (t.ry + b.qy) b.t) fun a =>
      { a with inactive := b.bank, next := some h }).modTask h fun t => { t with loaded := t.loaded + 1 }).act) ∧
  (∀ d b err, taskDesc s h = some d → t.state = .loading → t.freezing = none → loadRoom s h = true → d.blocks[t.loaded]? = some b →
    blockErr d t.loaded b = some err → exec (.blockLoad h) s = .next (failLoad h d err s).act) ∧
  (get? h s.res = some r → t.freezing = none →
    (t.state = .active →
      (if r.desc.outputs = [] then regionQuiet s h r = true else ∀ p ∈ r.desc.outputs, frontier s 484 h p.num = none) →
      exec (.enterDraining h) s = .next ((s.modTask h fun t => { t with state := .draining }).modRes h fun r =>
        { r with since := s.cycle }).act) ∧
    (t.state = .draining → regionQuiet s h r = true → exec (.retire h) s = .next (retireRes h (vacate r s)).act) ∧
    ((t.state = .draining ∨ (t.state = .active ∧ r.desc.outputs = [])) → regionQuiet s h r = false → r.since + r.desc.drain ≤ s.cycle → s.dsp.frzq.contains (h, 2) = false →
      exec (.drainLimitExpiry h) s = .next (s.modDsp fun d => { d with frzq := d.frzq ++ [(h, 2)] }).act))

/-- R398 to R403: a freeze request that is accepted stops every tile of its region; a load in progress is abandoned. Once
the region is settled it is scanned out: its image is kept and its subrecords are laid out in its save area (R86, R401),
its counts stay at the package root, its record is frozen (a load's image names the tiles whose load had begun, and a
restore frozen before it was active keeps the image it had: log 28, DEDUCED, since R403 gives only kind-10 subrecords); by
the drain limit it is retired with a report. R387, R404: with every block loaded and the region quiet the residency starts,
or its image is restored if its save area is still a file that a restore takes. -/
def Obligations.FreezeAndActivation : Prop := ∀ (s : State) (h cause : Nat) (d : Desc) (r : Res) (s' : State),
  let t := s.task h
  let s0 := s.modDsp fun d => { d with frzq := removeFirst (fun e => e == (h, cause)) d.frzq }
  let active (s : State) : State := (s.modTask h fun t => { t with state := .active, image := false }).act
  (s.dsp.frzq.contains (h, cause) = true →
    (freezeAccepted t cause = true →
      let s1 := s0.modTask h fun t => { t with freezing := some cause }
      exec (.freezeRequest h cause) s = .next (if t.state == .loading then dropLoads h s1
        else s1.modRes h fun r => { r with running := false }).act) ∧
    (freezeAccepted t cause = false → exec (.freezeRequest h cause) s =
      .next (if t.freezing.isSome then s0.act else (s0.modDsp fun d => { d with preempt := d.preempt.filter fun p => p.1 != h }).act))) ∧
  (t.freezing = some cause →
    (t.state = .loading → (get? h s.images).isSome = true → exec (.scanOut h) s = .next (freezeTask h s).act) ∧
    (t.state = .loading → get? h s.images = none → taskDesc s h = some d → exec (.scanOut h) s =
      .next (freezeTask h { (saveLoad h d cause s) with images := put h { cause := cause, loading := true, loaded := t.loaded,
                                                                          die := t.die, x0 := t.rx, y0 := t.ry } s.images }).act) ∧
    (t.state ≠ .loading → get? h s.res = some r → settled s h r = true →
      let ms := mtsOf r.desc r.die r.x0 r.y0
      let s3 := saveImage h r cause (freezeStreams h (ms.foldl (fun s k => saveRemc k s) s))
      let im : Image :=
        { cause := cause, die := r.die, x0 := r.x0, y0 := r.y0
          ats := (atsOf r.desc r.die r.x0 r.y0).foldl (fun m k => put k (s3.at k).frozen m) []
          mts := ms.foldl (fun m k => put k (s3.mt k) m) [] }
      let s1 := dropWaiters h (dropCounts h 0 483 (vacate r s3))
      let s2 : State := { s1 with
        images := put h im s1.images
        reqs := s1.reqs.map fun e => if e.2.h = h && !e.2.ofSnap then (e.1, { e.2 with elts := e.2.elts.map Elt.frozen }) else e }
      exec (.scanOut h) s = .next (claimAfter h (if cause = 2 then retireRes h (s2.raise (undrained s2 h))
        else freezeTask h s2)).act)) ∧
  (taskDesc s h = some d → t.state = .loading → t.freezing = none → t.loaded = d.blocks.length → regionReady s h t d = true →
    (∀ im, get? h s.images = some im → get? h s.res = some r →
      (saveRefused s h d = true → exec (.activation h) s = .next (failLoad h d { sec := 0x10 } s).act) ∧
      (saveRefused s h d = false → restoreRes h r im s = some s' → exec (.activation h) s = .next (active s'))) ∧
    (get? h s.images = none →
      (∀ e, pairErr s t.asid d = some e → exec (.activation h) s = .next (failLoad h d e s).act) ∧
      (pairErr s t.asid d = none → startRes h d s = some s' →
        exec (.activation h) s = .next (active { (pairAll h d t.asid s') with images := del h s'.images }))))

/-- R393 to R396, R426: the oldest record on its way enters the table under a FID that no open record has, the next free
one (log 3), and shows in FAULTST and FAULTAD of its AT; the first open record of a receiver reaches it; without a
disposition by the end of cycle c + CLAIMTO a core's record escalates; of the dispositions that are first for their FID the
first that can be settled is (log 29, DEDUCED: R396 orders no two FIDs); the host's RESUME joins the dispositions. -/
def Obligations.FaultRecords : Prop := ∀ (s : State) (f : FRec) (rest : List FRec) (fid : Nat) (o : Open) (v : BitVec 64) (s' : State),
  let n := freeFid s.faults.table 1025 s.faults.nextFid
  let e : FRec := { f with fid := n }
  let entered := s.modFaults fun c => { c with
    incoming := rest
    table := c.table ++ [({ fr := e, since := s.cycle } : Open)]
    nextFid := (n + 1) % 2 ^ 32
    migrating := if e.cls == .migrating then c.migrating + 1 else c.migrating }
  (s.faults.incoming = f :: rest → s.faults.table.length < 1024 →
    (recTile s e = none → exec .faultRecordEntry s = .next entered.act) ∧
    (∀ k, recTile s e = some k → exec .faultRecordEntry s = .next (entered.modAt k fun a => { a with
      faultst := BitVec.ofNat 64 (e.cls.code * 2 ^ 48 + e.slot * 2 ^ 40 + n), faultad := e.addr }).act)) ∧
  (s.faults.copies = [] → openOf s fid = some o → o.fr.cls ≠ .migrating → deliverOpen o s = some s' →
    exec (.faultDelivery fid) s = .next s'.act) ∧
  (openOf s fid = some o → o.fr.cls = .migrating → o.core = none → o.host = false → o.since + s.faults.claimto < s.cycle →
    deliverOpen o s = some s' → exec (.migratingDelivery fid) s = .next s'.act) ∧
  (∀ c, openOf s fid = some o → o.core = some c → o.esc = false → o.fr.isHold = true → o.since + s.faults.claimto < s.cycle →
    s.faults.disps.any (fun q => q.fid == fid && q.core == o.core) = false →
    exec (.claimEscalation fid) s =
      .next (modOpen fid (fun o => { o with esc := true, fr := { o.fr with stat := o.fr.stat ||| 1 } }) s).act) ∧
  (firstSome (fun q => settle q s) (judgeable s.faults.disps) = some s' → exec .disposition s = .next s'.act) ∧
  (let fid := bits v.toNat 0 32
   let shown (w : Nat) : State := { s with
     nextId := s.nextId + 1
     host := { s.host with resumest := BitVec.ofNat 64 w, resumed := s.nextId } }
   exec (.hostResumeWrite v) s = .next (match dispOf (bits v.toNat 32 2) with
     | none => (shown (fid + 3 * 2 ^ 32 + 2 ^ 63)).act
     | some d => ((shown fid).modFaults fun c => { c with disps := c.disps ++ [(⟨fid, d, none, false, s.nextId⟩ : DispReq)] }).act))

/-- R84, R426 to R428, R440: a file that passes the loader's checks can be registered, another is reported LOADCHK; an
access of the host through BAR2 reads or writes memory and is Unsupported at a gap; BAR0 answers an aligned access of 8
bytes with its register, any other with 0, and discards any other write; a poll writes what waits into the device-to-host
ring and gives the core of a mailbox set every new entry; its core settles the set's version (the version word's form is
log 33); an attestation report for a 32-byte nonce goes out through the ring of an enabled set whose version is settled, in
entries of 64 bytes (the report's layout and key index 0 are log 10, the ring's place in page 1 log 33). R439: with both
signatures valid and a security version no older than the fuse counter the service cores start; otherwise none does and
DEVID reads 0. R436: reset applies the repair settings that the fuses of each die hold. What else reset keeps is log 35
(DEDUCED; no rule says it): it gives the state that follows reset, but that tier-2 and host bytes, fuses, repaired columns
and spare lanes are kept (and, of the model itself, the step plan, the free values and the numbering; log 1, 2). -/
def Obligations.HostBootAndReset : Prop :=
(∀ (s : State) (addr asid offset size set core base : Nat) (nonce : List (BitVec 8)),
  let a := s.host.win2base + offset
  let answered (ok : Bool) (bs : List Byte) (s : State) : State :=
    (s.modHost fun h => { h with resp := h.resp ++ [⟨ok, bs⟩] }).act
  (exec (.skeinFileLoad addr asid) s = .next (match readFile s addr asid with
    | .ok ds => { s with acted := true, broughtUp := true, files := put addr { asid := asid, res := ds, asks := fileAsks ds } s.files }
    | .error e => (({ s with broughtUp := true } : State).raise { cls := .loadchk, asid := asid, place := .loader, gen := [e.sec, e.rec'] }).act)) ∧
  (offset + size ≤ 2 ^ 36 →
    (∀ data, allBacked s a size = false → exec (.bar2Access offset size data) s = .next (answered false [] s)) ∧
    (allBacked s a size = true → exec (.bar2Access offset size none) s = .next (answered true (readBytes s.mem a size) s)) ∧
    (∀ bs, allBacked s a size = true → exec (.bar2Access offset size (some bs)) s =
      .next (answered true [] (dropResv a size { s with mem := writeBytes s.mem a (bs.take size) })))) ∧
  (∀ w : W64, offset + size ≤ 2 ^ 20 →
    let register := size = 8 ∧ offset % 8 = 0
    exec (.registerWrite (.bar0 offset size false) w) s =
      .next ((s.modHost fun h => { h with resp := h.resp ++ [⟨true, leBytes size (bar0Read s offset size).toNat⟩] }).act) ∧
    (¬register → bar0Read s offset size = 0 ∧ exec (.registerWrite (.bar0 offset size true) w) s = .next s) ∧
    (register → offset = 0x208 → exec (.registerWrite (.bar0 offset size true) w) s = setMbpoll w s) ∧
    (register → offset = 0x11000 → exec (.registerWrite (.bar0 offset size true) w) s = exec (.hostResumeWrite w) s) ∧
    (register → 0x20000 ≤ offset → offset < 0x30000 → exec (.registerWrite (.bar0 offset size true) w) s =
      .next (setClaim ((offset - 0x20000) / 8) w s).act)) ∧
  (setBase s set = some base → get? set s.host.mbcore = none → exec (.mailboxPoll set) s = .next (ringRetry base set s)) ∧
  (setBase s set = some base → get? set s.host.mbcore = some core →
    (let s0 := ringRetry base set s
     let seen := getD (ringCons s0 base 0) set s0.host.mbseen
     let n := min 63 ((ringProd s0 base 0 + 2 ^ 32 - seen) % 2 ^ 32)
     n ≠ 0 → exec (.mailboxPoll set) s = .next ((deliverEntries base set core n seen s0).modHost fun h =>
      { h with mbseen := put set ((seen + n) % 2 ^ 32) h.mbseen }).act) ∧
    ((s.core core).started = true →
      let v := if bits (readNat s.host.mem (base + 4) 2) 8 8 = 1 then 0x0100 else 0xFFFF
      exec (.mailboxStart set core) s = .next (s.modHost fun h =>
        { h with mem := writeNat h.mem (base + 6) 2 v, mbver := put set v h.mbver }).act)) ∧
  (setBase s set = some base → s.host.silent set = false → nonce.length = 32 → s.boot.state = 1 →
    let r : Report :=
      { set := set, devid := 0x00019612, podid := s.host.podid, rom := Config.romDigest, fw := s.boot.digest
        tmpls := templateDigests s, secVer := s.boot.secVer, featr := featr s, nonce := nonce, rsa := [], slh := [] }
    let r := { r with rsa := Config.reportSig 1 r.message, slh := Config.reportSig 2 r.message }
    exec (.attestationRequest set nonce) s = .next (pushRing base set (getD [] set s.host.outq ++ r.entries)
      (s.modHost fun h => { h with reports := h.reports ++ [r] })).act)) ∧
(∀ (s : State) (image : BootImage),
  (s.boot.state = 0 →
    let good := Config.sigValid 1 0 image.digest image.rsa && Config.sigValid 2 0 image.digest image.slh
      && decide (s.boot.secFuse ≤ image.secVer.toNat)
    let s1 : State := { s with boot := { s.boot with state := 1, secVer := image.secVer.toNat, digest := image.digest } }
    ∃ t, exec (.firmwareVerify image) s = .next t ∧
      (good = true → t = ((upto 32).foldl (fun s c => s.modCore c fun x => { x with started := true }) s1).act) ∧
      (good = false → t.boot.state = 2 ∧ devid t = 0 ∧ t.cores = s.cores)) ∧
  let fuses := (diesHeld s).map fun d => (d, burnColumn (getD {} d s.dies) (getD {} d s.fuses))
  exec .reset s = .next { State.reset with
    agenda := s.agenda
    acted := true
    free := s.free
    nextId := s.nextId
    mem := s.mem.filter fun c => decide (0x100000000000 ≤ c.1)
    dies := (diesHeld s).map fun d => (d, repairDie (getD {} d s.dies) (getD {} d s.fuses))
    fuses := fuses
    repair := fuses.map fun e => (e.1, e.2.read)
    links := s.links.map fun e => (e.1, { spares := e.2.spares })
    host := { mem := s.host.mem }
    boot := { secFuse := s.boot.secFuse } })

/-- R135, R179, R270, R386, R411, R412, R416, R435, R437, R441: writes to registers of a tile, a die, a residency and the
Dispatcher: the cleared words are 0, FAILT all ones, a chosen event's counter 0, QMASK only gains bits, THROT keeps three
bits and an overcurrent alert sets it to 7. R429, R433, R437, R438: a replay is counted, a kept error spoils the channel's
youngest token and counts a UE (both log 34, DEDUCED: R433 says neither); a lane that fails again takes a spare; a link
trains to version 1.0 with a peer of major 1; a failed expander's extent is a gap; the self-test claims a free quad and
gives it back or quarantines it. -/
def Obligations.RegistersLinksAndSelfTest : Prop :=
(∀ (s : State) (tile : TileId) (die h k crn : Nat) (v : BitVec 64) (r : Res),
  let onTile (f : AT → AT) : Host.Outcome State Fault Refusal := .next (s.modAt tile.key f).act
  let onDie (f : Die → Die) : Host.Outcome State Fault Refusal := .next (s.modDie die f).act
  let onRes (f : Res → Res) : Host.Outcome State Fault Refusal := .next { s with acted := true, res := put h (f r) s.res }
  (tile.die < 4 → tile.x < 12 → tile.y < 10 → tile.t < 3 →
    exec (.tokstatClear tile) s = onTile (fun a => { a with exd := 0, rlx := 0, mkd := 0 }) ∧
    exec (.registerWrite (.dbgctl tile) v) s = onTile (fun a => { a with dbgctl := v &&& 1 }) ∧
    (k < 4 → exec (.perfselWrite tile k v) s = onTile (fun a => setPerfsel a k v))) ∧
  (exec .dspstClear s = .next (s.modDsp fun d => { d with wovf := 0, jund := 0, stale := 0 }).act ∧
    exec (.registerWrite .dspctl v) s = .next (s.modDsp fun d => { d with ctl := v &&& 1 }).act ∧
    exec (.registerWrite .claimto v) s = .next (s.modFaults fun f => { f with claimto := v.toNat }).act ∧
    (h < 4096 → exec (.registerWrite (.asidRoot h) v) s =
      .next { s with acted := true, roots := put h v.toNat s.roots })) ∧
  (get? h s.res = some r →
    exec (.resstClear h) s = onRes (fun r => { r with drd := false, fail := false, xsc := 0, dpf := 0 }) ∧
    exec (.failtReset h) s = onRes (fun r => { r with failt := BitVec.allOnes 64 })) ∧
  (die < 4 →
    exec (.errcntClear die) s = onDie (fun d => { d with mpar := 0, lrep := 0, ue := 0, ce := 0 }) ∧
    exec (.bccapWrite die v) s = .next { s with acted := true, bccap := put die (v.toNat % 2 ^ 16) s.bccap } ∧
    exec (.throtWrite die v) s = onDie (fun d => { d with throt := v.toNat % 8 }) ∧
    exec (.overcurrentAlert die) s = onDie (fun d => { d with throt := 7 }) ∧
    exec (.qmaskSet die 0 v) s = onDie (fun d => { d with qmask := d.qmask ||| v.toNat }) ∧
    exec (.qmaskSet die 1 v) s = onDie (fun d => { d with qmask := d.qmask ||| v.toNat % 2 ^ 56 * 2 ^ 64 }) ∧
    (0x40 ≤ crn → crn ≤ 0x44 → exec (.slewTableWrite die crn v) s = onDie (fun d =>
      if crn = 0x40 then { d with up0 := v }
      else if crn = 0x41 then { d with up1 := v &&& 0xFF }
      else if crn = 0x42 then { d with dn0 := v }
      else if crn = 0x43 then { d with dn1 := v &&& 0xFFFFFFFF }
      else { d with lim := v &&& 0xFFFF })))) ∧
(∀ (s : State) (tile : TileId) (chan die link port quad : Nat) (again : Bool) (peer : List (Nat × Nat)),
  let q := die * 120 + quad
  let rest := s.testing.filter (fun n => n != q)
  (tile.die < 4 → tile.x < 12 → tile.y < 10 → tile.t < 3 →
    exec (.flitReplay (.token tile chan) false) s = .next (s.modDie tile.die fun d => { d with mpar := count16 d.mpar }).act ∧
    exec (.flitReplay (.token tile chan) true) s = .next ((s.modAt tile.key fun a => spoilLast a chan).modDie tile.die fun d =>
      { d with mpar := count16 d.mpar, ue := count16 d.ue }).act) ∧
  (link < 40 → exec (.laneRetrain link again) s = .next { s with
    acted := true
    links := upd {} link (fun l => if again then { l with spares := l.spares + 1 } else l) s.links }) ∧
  (4 ≤ link → link < 40 →
    (peer.any (fun v => v.1 == 1) = true → exec (.linkTraining link peer) s = .next { s with
      acted := true
      links := upd {} link (fun l => { l with up := true, version := some (1, 0) }) s.links }) ∧
    (peer.any (fun v => v.1 == 1) = false → exec (.linkTraining link peer) s = .next
      (({ s with links := upd {} link (fun l => { l with up := false, version := none }) s.links } : State).modDie ((link - 4) / 9)
        fun d => { d with ue := count16 d.ue }).act)) ∧
  (exec (.cxlLinkFailure port) s = .next { s with
    acted := true
    extents := s.extents.map fun (e : Extent) => if e.port = port then { e with up := false } else e }) ∧
  (die < 4 → quad < 120 →
    (quadBarred s 8192 die (quad % 12) (quad / 12) = false → quadUsers s die (quad % 12) (quad / 12) = [] →
      exec (.idleSelfTest die quad .claim) s = .next { s with acted := true, testing := s.testing ++ [q] }) ∧
    (s.testing.contains q = true →
      exec (.idleSelfTest die quad .giveBack) s = .next (quadFreed { s with testing := rest }).act ∧
      exec (.idleSelfTest die quad .quarantine) s =
        .next (({ s with testing := rest } : State).modDie die fun d => { d with qmask := d.qmask ||| 2 ^ quad }).act)))

/-- The next entry of the agenda runs (R175, R193; log 1): a started core takes an interrupt that is due, else runs the word at its
pc: an Xdmx word is executed, a nonzero funct7 traps, a word of the base ISA runs as that (log 5), a fetch that faults or meets an
uncorrectable word of SRAM traps. A pipe counts the sends its candidates are refused (R416) and fires the pair it chooses, which is a
decoded slot of its tile or that slot's generator, and with none ready its slots' aging counts return to 0; a step of the table that no
pipe and no core fetches takes place; with an empty agenda a cycle passes and lists the steps of the next. An entry may name a word
that reads uncorrectable in its step (log 11). -/
def Obligations.StepRunsTheDecodedInstruction : Prop := ∀ (s : State) (rest : List Act) (a : Act),
  let s0 : State := { s with agenda := rest, acted := false, focus := { s.focus with bad := a.bad } }
  s.agenda = a :: rest →
  (∀ c n, a = .badCore c n → n < 8 → (s0.core c).started = true → pendingIrq (s0.core c) = none → ∀ bs, fetchCore s0 c = .ok bs →
    step s = .next (badSram c 1 (s0.core c).pc s0).act) ∧
  (∀ c, a = .core c → (s0.core c).started = true →
    (∀ i m, pendingIrq (s0.core c) = some (i, m) → step s = .next (s0.modCore c fun x => x.takeIrq i m).act) ∧
    (∀ a cause, pendingIrq (s0.core c) = none → fetchCore s0 c = .error (a, cause) → cause ≠ 0 →
      step s = .next (s0.modCore c fun x => x.takeTrap cause (BitVec.ofNat 64 a)).act) ∧
    (∀ bs, pendingIrq (s0.core c) = none → fetchCore s0 c = .ok bs →
      (∀ i, decodeCoreBytes bs = .xdmx i → step s = exec i { s0 with focus := { s0.focus with core := c } }) ∧
      (decodeCoreBytes bs = .illegal → step s = .next (s0.illegal c).act) ∧
      (decodeCoreBytes bs = .base → step s = runBase c bs s0))) ∧
  (∀ k p, (a = .fire k p ∨ ∃ n, a = .badFire k p n) →
    let s1 := countRefused ((pipeCands s0 k p).map fun c s => readyAt s k c) s0
    (∀ c, choose s1 k (readyCands s0 k p) = some c →
      step s = exec c.ins { s1.modAt k (fun t => ageSlots t p (readyCands s0 k p) (some c.slot)) with
        focus := { tile := k, slot := c.slot, time := c.time, bad := a.bad } }) ∧
    (readyCands s0 k p = [] → step s = .next (s1.modAt k fun t => ageSlots t p [] none))) ∧
  (∀ k p c, c ∈ readyCands s k p → ∃ i, c.slot < (s.at k).active.icnt ∧ decodeWord ((s.at k).active.word c.slot) = .ok i ∧
    pipeOf i = p ∧ (c.ins = i ∨ c.ins = .cntEmission (tileOf k) c.slot ∨ c.ins = .repeatEmission (tileOf k) c.slot)) ∧
  (∀ i, (a = .event i ∨ ∃ n, a = .badEvent i n) → isEvent i = true → step s = exec i (noteRefused i s0)) ∧
  (∀ t : State, t.agenda = [] → step t = .next (nextCycle t))

/-- Words written out from the encodings of R22 to R36 and R418, as the spec prints them, decode to what they stand for. -/
def Obligations.SpecWordsDecode : Prop :=
  let none' : Target := .none
  decodeTableWord 64 0x0280_01FF_C000_0040 = some (.const ⟨.n64, 0, .pos .l 3, none'⟩ 0x40) ∧
  decodeTableWord 64 0x2088_41FF_C000_0005 = some (.add ⟨.n64, 8, .pos .r 3, none'⟩ 5) ∧
  decodeTableWord 64 0x387A_81FF_C000_0064 = some (.cmp ⟨.n32, 10, .pos .p 3, none'⟩ 100) ∧
  decodeTableWord 64 0x0400_0080_BFFF_FFF8 = some (.fan ⟨.b64, 0, .pos .l 1, .pos .l 2⟩ ⟨none', none', none'⟩) ∧
  decodeTableWord 64 0x0F00_00FF_C000_0000 = some (.cnt ⟨.b64, 0, .pos .l 1, none'⟩) ∧
  decodeTableWord 64 0x45E0_02FF_C000_0000 = some (.fmax ⟨.f32, 0, .pos .l 5, none'⟩ 0) ∧
  decodeTableWord 64 0x43C0_0760_8000_0000 = some (.ffma ⟨.bf16, 0, .pos .l 14, .chan 2⟩ 0) ∧
  decodeTableWord 64 0x83C0_FFFF_D020_0000 = some (.mrow ⟨.bf16, 0, none', none'⟩ ⟨0x40, true, 0, 0, 0, false, 0⟩) ∧
  decodeTableWord 64 0x9380_FFFF_C000_0000 = some (.sts ⟨.n64, 0, none', none'⟩ ⟨0, false, 0, 0, 0, 0⟩) ∧
  decodeTableWord 64 0x95E0_037F_D800_0000 = some (.gath ⟨.f32, 0, .pos .l 6, none'⟩ ⟨3, false, 0, 0, 0, 0⟩) ∧
  decodeTableWord 64 0x9700_0442_0000_0000 = some (.waita ⟨.b64, 0, .pos .l 8, .pos .p 8⟩ ⟨0, false, 0, 0, 0, 0⟩) ∧
  decodeTableWord 64 0xA0C0_027F_E800_0100 = some (.ldv ⟨.bf16, 0, .pos .l 4, none'⟩ ⟨5, false, 0, 0, 0, 0x100⟩) ∧
  decodeTableWord 64 0xA98B_01FF_C000_0000 = some (.amor ⟨.n64, 11, .pos .l 3, none'⟩ ⟨0, false, 0, 0, 0, 0⟩) ∧
  decodeTableWord 64 0xACE0_03FF_C000_0100 = some (.binf ⟨.f32, 0, .pos .l 7, none'⟩ ⟨0, false, 0, 0, 0, 0x100⟩) ∧
  decodeTableWord 64 0xB500_037F_C000_0004 = some (.sbw ⟨.b64, 0, .pos .l 6, none'⟩ ⟨0, false, false, false, 0, 0, 4⟩) ∧
  decodeTableWord 64 0xC120_04FF_C600_0000 = some (.cgex ⟨.s16, 0, .pos .l 9, none'⟩ ⟨0, 3, 0, 0, 0⟩) ∧
  decodeTableWord 32 0x00C5_850B = some (.dmxCmd 10 11 12) ∧
  decodeTableWord 32 0x00B5_400B = some (.dmxResume 0 10 11)

/-- Every instruction that passes its load checks comes back from its word, through the bytes that the hardware stores: no operand,
at no value, is lost in R22 to R36 and R418. -/
def Obligations.EncodedInstructionsDecode : Prop := ∀ i : Instr, i.wf = true →
  (∀ w, encodeWord i = some w → decodeWord w = .ok i ∧ decodeTableWord 64 w.toNat = some i) ∧
  (∀ w, encodeCore i = some w → decodeCore w = .xdmx i ∧ decodeTableWord 32 w.toNat = some i)

/-- Every word that decodes is the word of what it decodes to: no bit of a word is dropped, no two words decode to one instruction,
and a reserved bit, target or modifier never falls through to a neighbour (R22 to R41, R418). -/
def Obligations.DecodedWordsEncode : Prop :=
  (∀ (w : W64) (i : Instr), decodeWord w = .ok i → encodeWord i = some w) ∧
  (∀ (w : BitVec 32) (i : Instr), decodeCore w = .xdmx i → encodeCore i = some w)

/-- What reset leaves, as the spec gives it: no residency, every record free, no core started, DSPCTL.PRE 1, CLAIMTO 170,000, the
words of R306, R412, R270, R135, R437, R441, DEVID, MBPOLL 2,000. Memory reads 0 and the cores are in machine mode by the
model's own choice (log 3, 4, 5). The invariant holds. -/
def Obligations.ResetValues : Prop :=
  let s := State.reset
  Inv s ∧ (∀ a, readByte s.mem a = 0) ∧ s.res = [] ∧ s.agenda = [] ∧ s.cycle = 0 ∧
  (∀ h, (s.task h).state = .free) ∧
  (∀ k, (s.at k).dbgctl = 1 ∧ (s.at k).driftLim = 0x18 ∧ (s.at k).driftCost = 0x2321343223211210 ∧ (s.at k).faultst = 0 ∧
    (s.at k).active.valid = false ∧ (s.at k).pos = [] ∧ (s.at k).caps = []) ∧
  (∀ d, (s.die d).up0 = 0x2018100C08060402 ∧ (s.die d).up1 = 0x2D ∧ (s.die d).dn0 = 0x0808040402020202 ∧
    (s.die d).dn1 = 0x2D2D2010 ∧ (s.die d).lim = 0x40 ∧ (s.die d).throt = 0 ∧ (s.die d).qmask = 0 ∧
    getD 0x100 d s.bccap = 0x100) ∧
  s.dsp.ctl = 1 ∧ s.faults.claimto = 170000 ∧ s.host.mbpoll = 2000 ∧ devid s = 0x00019612 ∧
  (∀ c, (s.core c).started = false ∧ (s.core c).mode = 3 ∧ (s.core c).pc = 0)

/-- Every step keeps the invariant, from every state that has it: canonical memories, legal modes, and the boards' registers within
their bits. -/
def Obligations.InvariantKept : Prop := ∀ s t : State, Inv s → step s = .next t → Inv t

/-- A firing of a fabric instruction leaves memory, translation, the Dispatcher's tables, the boards (but the count of uncorrectable
errors), the host and the cores (but their take queues) as they are, and of every tile its typed buffers, its configuration, its fault registers and DBGCTL; only
WRCR writes USER, the drift words, DETSEED and PERFSEL. -/
def Obligations.FabricFrame : Prop := ∀ (i : Instr) (s t : State), (encodeWord i).isSome = true → exec i s = .next t →
  Untouched s t ∧ (∀ k, TileUntouched (s.at k) (t.at k)) ∧
  ((∀ h x, i ≠ .wrcr h x) → ∀ k, UserRegs (s.at k) (t.at k))

/-- Only accesses performed at their homes, a service core, the host's window and reset change device memory. A virtual access of
HOME_ACCESS or OWNER_UPDATE changes only bytes of its 64-byte word, from the element's physical address on; loads and accesses of other
spaces change none; dmx.take changes only the block of the token it takes (32 bytes and the payload, R424) at rs2, dmx.claim only the
128 bytes there. -/
def Obligations.MemoryFrame : Prop := ∀ (s t : State),
  (∀ i, writesMemory i = false → exec i s = .next t → t.mem = s.mem) ∧
  (∀ req n bad q e, get? req s.reqs = some q → q.elts[n / 4]? = some e → s.mem.wf = true →
    exec (.homeAccess req n bad) s = .next t →
    (e.space ≠ .virt ∨ q.op = .load → t.mem = s.mem) ∧
    (∀ a, a < e.pa + e.wordOff (n % 4) ∨ e.pa + e.wordOff (n % 4) + e.wordLen (n % 4) ≤ a → readByte t.mem a = readByte s.mem a)) ∧
  (∀ req n bad q e, get? req s.reqs = some q → q.elts[n / 4]? = some e → s.mem.wf = true →
    exec (.ownerUpdate req n bad) s = .next t →
    (e.space ≠ .virt → t.mem = s.mem) ∧
    ((∃ k, q.op = .amo k) ∨ (∃ k, q.op = .scat k) ∨ ((∃ k, q.op = .amor k) ∧ e.n ≤ e.wordLen (n % 4)) →
      ∀ a, a < e.pa + e.wordOff (n % 4) ∨ e.pa + e.wordOff (n % 4) + e.wordLen (n % 4) ≤ a → readByte t.mem a = readByte s.mem a)) ∧
  (∀ rd rs1 rs2, s.mem.wf = true →
    let b := ((s.core s.focus.core).reg rs2.toNat).toNat
    let x := s.core s.focus.core
    let classes := (x.reg rs1.toNat).toNat % 2 ^ 16
    (exec (.dmxTake rd rs1 rs2) s = .next t →
      match (x.takeq.take 64).find? (fun k => bit classes k.cls) with
      | none => t.mem = s.mem
      | some k => ∀ a, a < b ∨ b + k.bytes.length ≤ a → readByte t.mem a = readByte s.mem a) ∧
    (exec (.dmxClaim rd rs1 rs2) s = .next t → ∀ a, a < b ∨ b + 128 ≤ a → readByte t.mem a = readByte s.mem a))

/-- R437: a quarantined quad stays so through every step but reset, and no placement takes a quad that is quarantined or under
test. -/
def Obligations.QuarantineHolds : Prop := ∀ (s : State),
  (∀ i t d n, i ≠ .reset → exec i s = .next t → bit (s.die d).qmask n = true → bit (t.die d).qmask n = true) ∧
  (∀ h k d die px py, place s h k d = some (die, px, py) →
    ∀ x y, px ≤ x → x < px + d.w → py ≤ y → y < py + d.h →
      bit (s.die die).qmask (12 * y + x) = false ∧ s.testing.contains (quadNum die x y) = false)

/-- R177: a pipe fires one of its ready pairs whenever it has one; an aged slot goes first, the lowest of them; otherwise the smallest
time wins and then the lowest slot. Then the counts of the pipe's slots return to 0 where the slot fired or was not ready, and rise by 1
elsewhere where another slot fired. -/
def Obligations.PipesChoose : Prop := ∀ (s : State) (k : Nat) (rs : List Cand),
  let aged (c : Cand) : Bool := ((s.at k).slot c.slot).isAged
  (rs ≠ [] → choose s k rs ≠ none) ∧
  (∀ c, choose s k rs = some c → c ∈ rs ∧
    ((∀ d ∈ rs, aged d = false) →
      ∀ d ∈ rs, c.time.toNat ≤ d.time.toNat ∧ (d.time = c.time → c.slot ≤ d.slot)) ∧
    ((∃ d ∈ rs, aged d = true) → aged c = true ∧ ∀ d ∈ rs, aged d = true → c.slot ≤ d.slot)) ∧
  (∀ (a : AT) p (f : Option Nat) j i, j < a.active.icnt → a.active.instr j = some i → pipeOf i = p →
    ((ageSlots a p rs f).slot j).aging =
      if f = some j ∨ (∀ c ∈ rs, c.slot ≠ j) then 0 else if f = none then (a.slot j).aging else (a.slot j).aging + 1)

/-- R196 for DIV and REM of every integer type: the quotient truncates toward zero and the remainder takes the dividend's sign; a
divisor of 0 gives all ones and the dividend, MIN by -1 gives MIN and 0. -/
def Obligations.DivisionFollowsR196 : Prop := ∀ (e : Elem) (a b : Nat),
  Elem.isFlt e = false → a < 2 ^ e.nbits → b < 2 ^ e.nbits →
  (b = 0 → idiv e a b = 2 ^ e.nbits - 1 ∧ irem e a b = a) ∧
  (e.signed = true → a = 2 ^ (e.nbits - 1) → b = 2 ^ e.nbits - 1 → idiv e a b = a ∧ irem e a b = 0) ∧
  (b ≠ 0 → ¬(e.signed = true ∧ a = 2 ^ (e.nbits - 1) ∧ b = 2 ^ e.nbits - 1) →
    intOf e (idiv e a b) * intOf e b + intOf e (irem e a b) = intOf e a ∧
    (intOf e (irem e a b)).natAbs < (intOf e b).natAbs ∧
    (intOf e (irem e a b) ≠ 0 → (intOf e (irem e a b) < 0 ↔ intOf e a < 0)))

/-- R195, R27, R225: an integer result is the exact one modulo 2^width and the exact one itself where it fits; a saturating one is the
nearest the type holds; an immediate of an integer type is the 30-bit value, signed or not, modulo 2^width; HASH is one-to-one on 32 bits and, with
DETSEED 0, gives 0 for 0. -/
def Obligations.IntegerResults : Prop :=
  (∀ (e : Elem) (v : Int), Elem.isFlt e = false →
    rawOf e v < 2 ^ e.nbits ∧ (intOf e (rawOf e v) - v) % (2 ^ e.nbits : Int) = 0 ∧
    (intMin e ≤ v → v ≤ intMax e → intOf e (rawOf e v) = v) ∧
    intOf e (rawOf e (clampInt e v)) = (if v < intMin e then intMin e else if intMax e < v then intMax e else v)) ∧
  (∀ (e : Elem) (imm : BitVec 30), Elem.isFlt e = false → e ≠ .e2m1 →
    immElem e imm < 2 ^ e.nbits ∧
    ((immElem e imm : Int) - (if e.signed || e = .b64 then imm.toInt else (imm.toNat : Int))) % (2 ^ e.nbits : Int) = 0) ∧
  (∀ (seed : W64) (u v : Nat), u < 2 ^ 32 → v < 2 ^ 32 → hash32 seed u = hash32 seed v → u = v) ∧
  hash32 0 0 = 0

/-- R168, R169: times compare as by epoch and then by the counters from the outermost inward; setting a counter changes that counter
alone. -/
def Obligations.TimesOrderByCounters : Prop := ∀ (shape : List Nat) (t u : Time),
  let cs (x : Time) : List Nat := (upto shape.length).map fun k => ctr shape x (k + 1)
  shape.length ≤ 4 → shape.sum ≤ 44 →
  (bits t.toNat 0 (44 - shape.sum) = 0 → bits u.toNat 0 (44 - shape.sum) = 0 →
    (t.toNat < u.toNat ↔ epochOf t < epochOf u ∨ (epochOf t = epochOf u ∧ cs t < cs u))) ∧
  (∀ k c, 1 ≤ k → k ≤ shape.length → c < 2 ^ levelWidth shape k →
    ctr shape (setCtr shape t k c) k = c ∧ epochOf (setCtr shape t k c) = epochOf t ∧
    ∀ j, 1 ≤ j → j ≤ shape.length → j ≠ k → ctr shape (setCtr shape t k c) j = ctr shape t j)

/-- R200: an e8m0 byte is the power of two of its value less 127, 0x7F is 1, 0xFF is NaN; none is negative, zero or infinite. -/
def Obligations.ScaleBytes : Prop := ∀ v : Nat, v < 256 →
  (v ≤ 0xFE → decodeE8 v = .fin false 1 ((v : Int) - 127)) ∧
  decodeE8 0x7F = .fin false 1 0 ∧ decodeE8 0xFF = .nan ∧
  (∀ b, decodeE8 v ≠ .inf b) ∧ (∀ b e, decodeE8 v ≠ .fin b 0 e) ∧ (∀ m e, decodeE8 v ≠ .fin true m e)
end

