-- ==== Sys2Proof/Laws/Firing.lean ====
section
/-! SUPPORT. What firing an instruction can do, said once: with its tokens matched and its targets free the body's answer
is carried out whole; otherwise nothing happens. -/

namespace Sys2Proof.Laws

open Sys2Proof.Machine Sys2Proof.Safety

theorem no_bad {c : Ctx} (h : ∀ e ∈ c.toks, e.2.bad = false) : c.toks.find? (fun e => e.2.bad) = none := by
  rw [List.find?_eq_none]
  intro e he
  simp [h e he]

/-- No token of a firing that meets no bad word is bad. -/
theorem badTok_none {c : Ctx} {s : State} (h : ∀ e ∈ c.toks, e.2.bad = false) (hb : s.focus.bad = none) : c.badTok s = none := by
  unfold Ctx.badTok
  rw [no_bad h, hb]

/-- No word that a firing reads is bad. -/
theorem badWord_none {c : Ctx} {s : State} (n : Nat) (hb : s.focus.bad = none) : c.badWord n s = none := by
  unfold Ctx.badWord
  rw [hb]
  split <;> rfl

theorem no_marker {c : Ctx} (h : ∀ e ∈ c.toks, e.2.bad = false ∧ e.2.isMarker = false) :
    c.toks.any (fun e => e.2.isMarker) = false := by
  rw [List.any_eq_false]
  intro e he
  simp [(h e he).2]

theorem fireOwn_of {i : Instr} {s : State} {c : Ctx} (hf : Matches i s c) (body : Ctx → State → FireRes) :
    fireOwn i body s = .next (finish i c (body c s) s) := by
  unfold fireOwn
  rw [hf.1.1]
  simp only [badTok_none hf.2 hf.1.2]

theorem Matches_of_Fires {i : Instr} {s : State} {c : Ctx} (h : Fires i s c) : Matches i s c :=
  ⟨h.1, fun e he => (h.2 e he).1⟩

theorem fireWith_of {i : Instr} {s : State} {c : Ctx} (hf : Fires i s c) (mark body : Ctx → State → FireRes) :
    fireWith i mark body s = .next (finish i c (body c s) s) := by
  unfold fireWith
  rw [fireOwn_of (Matches_of_Fires hf)]
  simp [no_marker hf.2]

theorem fireAt_of {i : Instr} {s : State} {c : Ctx} (hf : Fires i s c) (mt : Ctx → Time) (body : Ctx → State → FireRes) :
    fireAt i mt body s = .next (finish i c (body c s) s) := by
  unfold fireAt
  exact fireWith_of hf _ body

theorem fire_of {i : Instr} {s : State} {c : Ctx} (hf : Fires i s c) (body : Ctx → State → FireRes) :
    fire i body s = .next (finish i c (body c s) s) := fireAt_of hf _ body

theorem finish_fired {i : Instr} {c : Ctx} {eat : List Pos} {outs : List Out} {posts : List Post} {s0 s s1 : State}
    {ps : List Post} (h : sending i c outs s0 = some (s1, ps)) :
    finish i c (.fired eat outs posts s0) s = left i c eat posts s.cycle s1 ps := by
  unfold sending at h
  simp only [finish, h, left, eaten]

theorem completes_fire {i : Instr} {s s0 : State} {c : Ctx} {eat : List Pos} {outs : List Out} {posts : List Post}
    {body : Ctx → State → FireRes} (hf : Fires i s c) (hx : exec i s = fire i body s)
    (hb : body c s = .fired eat outs posts s0) : Completes i s c eat outs posts s0 := by
  intro s1 ps h
  rw [hx, fire_of hf, hb, finish_fired h]

theorem completes_fireWith {i : Instr} {s s0 : State} {c : Ctx} {eat : List Pos} {outs : List Out} {posts : List Post}
    {mark body : Ctx → State → FireRes} (hf : Fires i s c) (hx : exec i s = fireWith i mark body s)
    (hb : body c s = .fired eat outs posts s0) : Completes i s c eat outs posts s0 := by
  intro s1 ps h
  rw [hx, fireWith_of hf, hb, finish_fired h]

theorem completes_fireStream {i : Instr} {h : Hd} {s s0 : State} {c : Ctx} {eat : List Pos} {outs : List Out}
    {posts : List Post} {body : Ctx → State → FireRes} (hf : Fires i s c) (hx : exec i s = fireStream i h body s)
    (hb : body c s = .fired eat outs posts s0) : Completes i s c eat outs posts s0 := completes_fireWith hf hx hb

theorem completes_fireNode {i : Instr} {s s0 : State} {c : Ctx} {eat : List Pos} {outs : List Out} {posts : List Post}
    {mark body : Ctx → State → FireRes} (hf : Fires i s c) (hx : exec i s = fireNode i mark body s)
    (hb : body c s = .fired eat outs posts s0) : Completes i s c eat outs posts s0 := completes_fireWith hf hx hb

theorem completes_fireOwn {i : Instr} {s s0 : State} {c : Ctx} {eat : List Pos} {outs : List Out} {posts : List Post}
    {body : Ctx → State → FireRes} (hf : Matches i s c) (hx : exec i s = fireOwn i body s)
    (hb : body c s = .fired eat outs posts s0) : Completes i s c eat outs posts s0 := by
  intro s1 ps h
  rw [hx, fireOwn_of hf, hb, finish_fired h]

/-- A request is issued unless it names the scratchpad while the tile's outgoing queue is full (R147). -/
theorem request_fired {c : Ctx} {i : Instr} {h : Hd} {op : ROp} {size : Nat} {elts : List Elt} {s : State}
    (hm : (∃ e ∈ elts, e.space = .scr) → meshFree s c.key = true) :
    c.request i h op size elts s = .fired (c.toks.map (·.1)) [] (stays c) (issued (requestOf i h c op size elts) s) := by
  unfold Ctx.request
  rw [if_neg]
  · rfl
  · intro hc
    simp only [Bool.and_eq_true, Bool.not_eq_true', List.any_eq_true] at hc
    obtain ⟨⟨e, he, hs⟩, hf⟩ := hc
    rw [hm ⟨e, he, by simpa using hs⟩] at hf
    cases hf

/-- A message is sent while one of the tile's four outgoing buffers is free (R114). -/
theorem post_fired {c : Ctx} {i : Instr} {h : Hd} {d : Dest} {f : Msg → Msg} {s : State} (ho : outgoing s c.key < 4) :
    c.post i h d f s = .fired (c.toks.map (·.1)) [] (stays c) (posted c d (f (c.msg i h s.nextId)) s) := by
  unfold Ctx.post
  rw [if_neg (by omega)]
  rfl

theorem tok_mem (c : Ctx) (q : Pos) : (∃ e ∈ c.toks, c.tok q = e.2) ∨ c.tok q = ⟨0, 0, .data, .b64, c.time, [], false, []⟩ := by
  unfold Ctx.tok
  cases h : c.toks.find? (fun e => e.1 == q) with
  | none => exact .inr rfl
  | some e => exact .inl ⟨e, List.mem_of_find?_eq_some h, rfl⟩

/-- No operand is a marker. -/
theorem tok_unmarked {c : Ctx} (h : ∀ e ∈ c.toks, e.2.bad = false ∧ e.2.isMarker = false) (q : Pos) :
    (c.tok q).isMarker = false := by
  rcases tok_mem c q with ⟨e, he, h'⟩ | h'
  · rw [h']; exact (h e he).2
  · rw [h']; rfl

/-- What a context stands on. -/
theorem ctxOf_some {i : Instr} {s : State} {c : Ctx} (h : ctxOf i s = some c) :
    c.key = s.focus.tile ∧ c.slot = s.focus.slot ∧ c.time = s.focus.time ∧ c.a = s.at s.focus.tile ∧
    c.a.res = some c.h ∧ get? c.h s.res = some c.r ∧ c.r.running = true ∧ c.a.exited = false ∧ c.a.active.valid = true ∧
    ((c.a.slot c.slot).hold = none ∧ (c.a.slot c.slot).msgs.isEmpty = true) ∧
    ((c.a.slot c.slot).gen = none ∧ (c.a.slot c.slot).owed.isEmpty = true) ∧
    c.a.matched c.slot c.time (uses i) (eitherFires i) = some c.toks := by
  unfold ctxOf at h
  simp only at h
  split at h
  · cases h
  · rename_i hd hr
    split at h
    · cases h
    · rename_i r hg
      split at h
      · rename_i hc
        split at h
        · cases h
        · rename_i toks hm
          cases h
          simp only [Bool.and_eq_true, Bool.not_eq_true', Option.isNone_iff_eq_none] at hc
          obtain ⟨⟨⟨⟨⟨⟨⟨h1, h2⟩, h3⟩, h4⟩, h5⟩, h6⟩, h7⟩, -⟩ := hc
          exact ⟨rfl, rfl, rfl, rfl, hr, hg, h1, h2, h3, ⟨h4, h5⟩, ⟨h6, h7⟩, hm⟩
      · cases h

/-- A matched token carries the time. -/
theorem matched_time {a : AT} {slot : Nat} {t : Time} {ps : List Pos} {either : Bool} {toks : List (Pos × Token)}
    (h : a.matched slot t ps either = some toks) : ∀ e ∈ toks, e.2.time = t := by
  unfold AT.matched at h
  simp only at h
  split at h
  · cases h
    intro e he
    rw [List.mem_filterMap] at he
    obtain ⟨q, _, hq⟩ := he
    rw [Option.map_eq_some_iff] at hq
    obtain ⟨k, hk, rfl⟩ := hq
    have := List.find?_some hk
    simpa using this
  · cases h

/-- Every operand carries the firing's time. -/
theorem tok_time {i : Instr} {s : State} {c : Ctx} (h : ctxOf i s = some c) (q : Pos) : (c.tok q).time = c.time := by
  rcases tok_mem c q with ⟨e, he, h'⟩ | h'
  · rw [h']; exact matched_time (ctxOf_some h).2.2.2.2.2.2.2.2.2.2.2 e he
  · rw [h']

/-! ### The lanewise forms and the conversions -/

theorem lanes1_completes {i : Instr} {h : Hd} {ty : Elem} {f : Ctx → Nat → Nat} {s : State} {c : Ctx} (hf : Fires i s c)
    (hx : exec i s = lanes1 i h ty f s) :
    Sends i s c (both h (dataOut ty c.time (packLanes h.sh.width ((lanes h.sh.width c.l.data).map (f c))))) :=
  completes_fire hf (hx.trans rfl) rfl

theorem lanes2_completes {i : Instr} {h : Hd} {imm : BitVec 30} {ty : Elem} {f : Nat → Nat → Nat} {s : State} {c : Ctx}
    (hf : Fires i s c) (hx : exec i s = lanes2 i h imm ty f s) :
    Sends i s c (both h (dataOut ty c.time (packLanes h.sh.width
      (zip2 f (operands2 h (immElem h.sh imm) c).1 (operands2 h (immElem h.sh imm) c).2)))) :=
  completes_fire hf (hx.trans rfl) rfl

theorem lanes3_completes {i : Instr} {h : Hd} {f : Nat → Nat → Nat → Nat} {s : State} {c : Ctx}
    (hf : Fires i s c) (hx : exec i s = lanes3 i h f s) :
    Sends i s c (both h (dataOut h.sh c.time (packLanes h.sh.width
      (zip3 f (operands3 h c).1 (operands3 h c).2.1 (operands3 h c).2.2)))) :=
  completes_fire hf (hx.trans rfl) rfl

theorem operands2_rows {h : Hd} (im : Nat) (c : Ctx) (hm : h.md.toNat < 8) :
    operands2 h im c = (widen h.sh.width (max c.l.data.length c.rt.data.length) c.l.data,
      widen h.sh.width (max c.l.data.length c.rt.data.length) c.rt.data) := by
  simp only [operands2]
  rw [if_neg (by omega)]

theorem operands2_imm {h : Hd} (im : Nat) (c : Ctx) (hm : 8 ≤ h.md.toNat) :
    operands2 h im c = (lanes h.sh.width c.l.data, List.replicate (lanes h.sh.width c.l.data).length im) := by
  simp only [operands2]
  rw [if_pos hm]

theorem zip2_replicate (f : Nat → Nat → Nat) (b : Nat) (l : List Nat) :
    zip2 f l (List.replicate l.length b) = l.map (fun a => f a b) := by
  induction l with
  | nil => rfl
  | cons a l ih => simp [zip2, List.replicate_succ, ih]

theorem conv_completes {i : Instr} {h : Hd} {f : Ctx → List Out × List StEvent} {s : State} {c : Ctx} (hf : Fires i s c)
    (hx : exec i s = fireConv i h f s) : Writes i s c (f c).1
      (if h.md.toNat < 8 then s
       else s.modAt c.key (fun a => a.modSlot c.slot (fun x => { x with st := stAdd x.st (f c).2 }))) := by
  refine completes_fireOwn (Matches_of_Fires hf) (by rw [hx]; simp only [fireConv]; rfl) ?_
  simp only [no_marker hf.2, Ctx.send, Hd.st]
  by_cases hm : h.md.toNat < 8
  · have : ¬ 8 ≤ h.md.toNat := by omega
    simp [hm, this]
  · have : 8 ≤ h.md.toNat := by omega
    simp [hm, this]

end Sys2Proof.Laws
end

