-- ==== Sys2Proof/Laws/Fires.lean ====
section
/-! SUPPORT. One lemma per instruction that follows the end-marker rule: executing it is firing it with its body, its markers at once or
in the order of its slot's answers. -/

namespace Sys2Proof.Laws.Fires

open Sys2Proof.Machine Sys2Proof.Safety

/-- Executing `i` is firing it under the end-marker rule, with some body. -/
def ByRule (i : Instr) (s : State) : Prop := ∃ body, exec i s = fire i body s

/-- Executing `i` is firing it with its markers in the order of its slot's answers, with some body. -/
def ByStream (i : Instr) (h : Hd) (s : State) : Prop := ∃ body, exec i s = fireStream i h body s

/-- Executing `i` is firing it with its markers behind its slot's operations at the node, with some marker and body. -/
def ByNode (i : Instr) (s : State) : Prop := ∃ mark body, exec i s = fireNode i mark body s

theorem nop (h : Hd) (x : SysX) (s : State) : ByRule (.nop h x) s := by
  change ∃ body, execNop h x s = _
  unfold execNop
  exact ⟨_, rfl⟩
theorem exit (h : Hd) (x : SysX) (s : State) : ByRule (.exit h x) s := by
  change ∃ body, execExit h x s = _
  unfold execExit
  exact ⟨_, rfl⟩
theorem mov (h : Hd) (s : State) : ByRule (.mov h) s := by
  change ∃ body, execMov h s = _
  unfold execMov
  exact ⟨_, rfl⟩
theorem const (h : Hd) (imm : BitVec 30) (s : State) : ByRule (.const h imm) s := by
  change ∃ body, execConst h imm s = _
  unfold execConst
  exact ⟨_, rfl⟩
theorem consth (h : Hd) (imm : BitVec 30) (s : State) : ByRule (.consth h imm) s := by
  change ∃ body, execConsth h imm s = _
  unfold execConsth
  exact ⟨_, rfl⟩
theorem fan (h : Hd) (x : T3X) (s : State) : ByRule (.fan h x) s := by
  change ∃ body, execFan h x s = _
  unfold execFan
  exact ⟨_, rfl⟩
theorem sink (h : Hd) (s : State) : ByRule (.sink h) s := by
  change ∃ body, execSink h s = _
  unfold execSink
  exact ⟨_, rfl⟩
theorem route (h : Hd) (s : State) : ByRule (.route h) s := by
  change ∃ body, execRoute h s = _
  unfold execRoute
  exact ⟨_, rfl⟩
theorem select (h : Hd) (s : State) : ByRule (.select h) s := by
  change ∃ body, execSelect h s = _
  unfold execSelect
  exact ⟨_, rfl⟩
theorem gate (h : Hd) (s : State) : ByRule (.gate h) s := by
  change ∃ body, execGate h s = _
  unfold execGate
  exact ⟨_, rfl⟩
theorem timeof (h : Hd) (s : State) : ByRule (.timeof h) s := by
  change ∃ body, execTimeof h s = _
  unfold execTimeof
  exact ⟨_, rfl⟩
theorem hold (h : Hd) (x : PrbX) (s : State) : ByRule (.hold h x) s := by
  change ∃ body, execHold h x s = _
  unfold execHold
  exact ⟨_, rfl⟩
theorem release (h : Hd) (x : PrbX) (s : State) : ByRule (.release h x) s := by
  change ∃ body, execRelease h x s = _
  unfold execRelease
  exact ⟨_, rfl⟩
theorem resize (h : Hd) (imm : BitVec 30) (s : State) : ByRule (.resize h imm) s := by
  change ∃ body, execResize h imm s = _
  unfold execResize
  exact ⟨_, rfl⟩
theorem add (h : Hd) (imm : BitVec 30) (s : State) : ByRule (.add h imm) s := by
  change ∃ body, execAdd h imm s = _
  unfold execAdd
  exact ⟨_, rfl⟩
theorem sub (h : Hd) (imm : BitVec 30) (s : State) : ByRule (.sub h imm) s := by
  change ∃ body, execSub h imm s = _
  unfold execSub
  exact ⟨_, rfl⟩
theorem mul (h : Hd) (imm : BitVec 30) (s : State) : ByRule (.mul h imm) s := by
  change ∃ body, execMul h imm s = _
  unfold execMul
  exact ⟨_, rfl⟩
theorem mulh (h : Hd) (imm : BitVec 30) (s : State) : ByRule (.mulh h imm) s := by
  change ∃ body, execMulh h imm s = _
  unfold execMulh
  exact ⟨_, rfl⟩
theorem mad (h : Hd) (imm : BitVec 30) (s : State) : ByRule (.mad h imm) s := by
  change ∃ body, execMad h imm s = _
  unfold execMad
  exact ⟨_, rfl⟩
theorem div (h : Hd) (imm : BitVec 30) (s : State) : ByRule (.div h imm) s := by
  change ∃ body, execDiv h imm s = _
  unfold execDiv
  exact ⟨_, rfl⟩
theorem rem (h : Hd) (imm : BitVec 30) (s : State) : ByRule (.rem h imm) s := by
  change ∃ body, execRem h imm s = _
  unfold execRem
  exact ⟨_, rfl⟩
theorem neg (h : Hd) (imm : BitVec 30) (s : State) : ByRule (.neg h imm) s := by
  change ∃ body, execNeg h imm s = _
  unfold execNeg
  exact ⟨_, rfl⟩
theorem abs (h : Hd) (imm : BitVec 30) (s : State) : ByRule (.abs h imm) s := by
  change ∃ body, execAbs h imm s = _
  unfold execAbs
  exact ⟨_, rfl⟩
theorem min (h : Hd) (imm : BitVec 30) (s : State) : ByRule (.min h imm) s := by
  change ∃ body, execMin h imm s = _
  unfold execMin
  exact ⟨_, rfl⟩
theorem max (h : Hd) (imm : BitVec 30) (s : State) : ByRule (.max h imm) s := by
  change ∃ body, execMax h imm s = _
  unfold execMax
  exact ⟨_, rfl⟩
theorem adds (h : Hd) (imm : BitVec 30) (s : State) : ByRule (.adds h imm) s := by
  change ∃ body, execAdds h imm s = _
  unfold execAdds
  exact ⟨_, rfl⟩
theorem subs (h : Hd) (imm : BitVec 30) (s : State) : ByRule (.subs h imm) s := by
  change ∃ body, execSubs h imm s = _
  unfold execSubs
  exact ⟨_, rfl⟩
theorem and (h : Hd) (imm : BitVec 30) (s : State) : ByRule (.and h imm) s := by
  change ∃ body, execAnd h imm s = _
  unfold execAnd
  exact ⟨_, rfl⟩
theorem or (h : Hd) (imm : BitVec 30) (s : State) : ByRule (.or h imm) s := by
  change ∃ body, execOr h imm s = _
  unfold execOr
  exact ⟨_, rfl⟩
theorem xor (h : Hd) (imm : BitVec 30) (s : State) : ByRule (.xor h imm) s := by
  change ∃ body, execXor h imm s = _
  unfold execXor
  exact ⟨_, rfl⟩
theorem andn (h : Hd) (imm : BitVec 30) (s : State) : ByRule (.andn h imm) s := by
  change ∃ body, execAndn h imm s = _
  unfold execAndn
  exact ⟨_, rfl⟩
theorem shl (h : Hd) (imm : BitVec 30) (s : State) : ByRule (.shl h imm) s := by
  change ∃ body, execShl h imm s = _
  unfold execShl
  exact ⟨_, rfl⟩
theorem shr (h : Hd) (imm : BitVec 30) (s : State) : ByRule (.shr h imm) s := by
  change ∃ body, execShr h imm s = _
  unfold execShr
  exact ⟨_, rfl⟩
theorem rotl (h : Hd) (imm : BitVec 30) (s : State) : ByRule (.rotl h imm) s := by
  change ∃ body, execRotl h imm s = _
  unfold execRotl
  exact ⟨_, rfl⟩
theorem clz (h : Hd) (imm : BitVec 30) (s : State) : ByRule (.clz h imm) s := by
  change ∃ body, execClz h imm s = _
  unfold execClz
  exact ⟨_, rfl⟩
theorem popc (h : Hd) (imm : BitVec 30) (s : State) : ByRule (.popc h imm) s := by
  change ∃ body, execPopc h imm s = _
  unfold execPopc
  exact ⟨_, rfl⟩
theorem bfx (h : Hd) (imm : BitVec 30) (s : State) : ByRule (.bfx h imm) s := by
  change ∃ body, execBfx h imm s = _
  unfold execBfx
  exact ⟨_, rfl⟩
theorem bfi (h : Hd) (imm : BitVec 30) (s : State) : ByRule (.bfi h imm) s := by
  change ∃ body, execBfi h imm s = _
  unfold execBfi
  exact ⟨_, rfl⟩
theorem cmp (h : Hd) (imm : BitVec 30) (s : State) : ByRule (.cmp h imm) s := by
  change ∃ body, execCmp h imm s = _
  unfold execCmp
  exact ⟨_, rfl⟩
theorem hash (h : Hd) (imm : BitVec 30) (s : State) : ByRule (.hash h imm) s := by
  change ∃ body, execHash h imm s = _
  unfold execHash
  exact ⟨_, rfl⟩
theorem fadd (h : Hd) (imm : BitVec 30) (s : State) : ByRule (.fadd h imm) s := by
  change ∃ body, execFadd h imm s = _
  unfold execFadd
  exact ⟨_, rfl⟩
theorem fsub (h : Hd) (imm : BitVec 30) (s : State) : ByRule (.fsub h imm) s := by
  change ∃ body, execFsub h imm s = _
  unfold execFsub
  exact ⟨_, rfl⟩
theorem fmul (h : Hd) (imm : BitVec 30) (s : State) : ByRule (.fmul h imm) s := by
  change ∃ body, execFmul h imm s = _
  unfold execFmul
  exact ⟨_, rfl⟩
theorem ffma (h : Hd) (imm : BitVec 30) (s : State) : ByRule (.ffma h imm) s := by
  change ∃ body, execFfma h imm s = _
  unfold execFfma
  exact ⟨_, rfl⟩
theorem fmin (h : Hd) (imm : BitVec 30) (s : State) : ByRule (.fmin h imm) s := by
  change ∃ body, execFmin h imm s = _
  unfold execFmin
  exact ⟨_, rfl⟩
theorem fmax (h : Hd) (imm : BitVec 30) (s : State) : ByRule (.fmax h imm) s := by
  change ∃ body, execFmax h imm s = _
  unfold execFmax
  exact ⟨_, rfl⟩
theorem fcmp (h : Hd) (imm : BitVec 30) (s : State) : ByRule (.fcmp h imm) s := by
  change ∃ body, execFcmp h imm s = _
  unfold execFcmp
  exact ⟨_, rfl⟩
theorem fabs (h : Hd) (imm : BitVec 30) (s : State) : ByRule (.fabs h imm) s := by
  change ∃ body, execFabs h imm s = _
  unfold execFabs
  exact ⟨_, rfl⟩
theorem fneg (h : Hd) (imm : BitVec 30) (s : State) : ByRule (.fneg h imm) s := by
  change ∃ body, execFneg h imm s = _
  unfold execFneg
  exact ⟨_, rfl⟩
theorem frcp (h : Hd) (imm : BitVec 30) (s : State) : ByRule (.frcp h imm) s := by
  change ∃ body, execFrcp h imm s = _
  unfold execFrcp
  exact ⟨_, rfl⟩
theorem frsq (h : Hd) (imm : BitVec 30) (s : State) : ByRule (.frsq h imm) s := by
  change ∃ body, execFrsq h imm s = _
  unfold execFrsq
  exact ⟨_, rfl⟩
theorem fsqrt (h : Hd) (imm : BitVec 30) (s : State) : ByRule (.fsqrt h imm) s := by
  change ∃ body, execFsqrt h imm s = _
  unfold execFsqrt
  exact ⟨_, rfl⟩
theorem fexp2 (h : Hd) (imm : BitVec 30) (s : State) : ByRule (.fexp2 h imm) s := by
  change ∃ body, execFexp2 h imm s = _
  unfold execFexp2
  exact ⟨_, rfl⟩
theorem flog2 (h : Hd) (imm : BitVec 30) (s : State) : ByRule (.flog2 h imm) s := by
  change ∃ body, execFlog2 h imm s = _
  unfold execFlog2
  exact ⟨_, rfl⟩
theorem fsin (h : Hd) (imm : BitVec 30) (s : State) : ByRule (.fsin h imm) s := by
  change ∃ body, execFsin h imm s = _
  unfold execFsin
  exact ⟨_, rfl⟩
theorem fcos (h : Hd) (imm : BitVec 30) (s : State) : ByRule (.fcos h imm) s := by
  change ∃ body, execFcos h imm s = _
  unfold execFcos
  exact ⟨_, rfl⟩
theorem ftanh (h : Hd) (imm : BitVec 30) (s : State) : ByRule (.ftanh h imm) s := by
  change ∃ body, execFtanh h imm s = _
  unfold execFtanh
  exact ⟨_, rfl⟩
theorem ferf (h : Hd) (imm : BitVec 30) (s : State) : ByRule (.ferf h imm) s := by
  change ∃ body, execFerf h imm s = _
  unfold execFerf
  exact ⟨_, rfl⟩
theorem fscale (h : Hd) (imm : BitVec 30) (s : State) : ByRule (.fscale h imm) s := by
  change ∃ body, execFscale h imm s = _
  unfold execFscale
  exact ⟨_, rfl⟩
theorem frnd (h : Hd) (imm : BitVec 30) (s : State) : ByRule (.frnd h imm) s := by
  change ∃ body, execFrnd h imm s = _
  unfold execFrnd
  exact ⟨_, rfl⟩
theorem fclass (h : Hd) (imm : BitVec 30) (s : State) : ByRule (.fclass h imm) s := by
  change ∃ body, execFclass h imm s = _
  unfold execFclass
  exact ⟨_, rfl⟩
theorem rsum (h : Hd) (imm : BitVec 30) (s : State) : ByRule (.rsum h imm) s := by
  change ∃ body, execRsum h imm s = _
  unfold execRsum
  exact ⟨_, rfl⟩
theorem rmax (h : Hd) (imm : BitVec 30) (s : State) : ByRule (.rmax h imm) s := by
  change ∃ body, execRmax h imm s = _
  unfold execRmax
  exact ⟨_, rfl⟩
theorem rmin (h : Hd) (imm : BitVec 30) (s : State) : ByRule (.rmin h imm) s := by
  change ∃ body, execRmin h imm s = _
  unfold execRmin
  exact ⟨_, rfl⟩
theorem scan (h : Hd) (imm : BitVec 30) (s : State) : ByRule (.scan h imm) s := by
  change ∃ body, execScan h imm s = _
  unfold execScan
  exact ⟨_, rfl⟩
theorem perm (h : Hd) (imm : BitVec 30) (s : State) : ByRule (.perm h imm) s := by
  change ∃ body, execPerm h imm s = _
  unfold execPerm
  exact ⟨_, rfl⟩
theorem bcast (h : Hd) (imm : BitVec 30) (s : State) : ByRule (.bcast h imm) s := by
  change ∃ body, execBcast h imm s = _
  unfold execBcast
  exact ⟨_, rfl⟩
theorem slice (h : Hd) (imm : BitVec 30) (s : State) : ByRule (.slice h imm) s := by
  change ∃ body, execSlice h imm s = _
  unfold execSlice
  exact ⟨_, rfl⟩
theorem cat (h : Hd) (imm : BitVec 30) (s : State) : ByRule (.cat h imm) s := by
  change ∃ body, execCat h imm s = _
  unfold execCat
  exact ⟨_, rfl⟩
theorem split (h : Hd) (imm : BitVec 30) (s : State) : ByRule (.split h imm) s := by
  change ∃ body, execSplit h imm s = _
  unfold execSplit
  exact ⟨_, rfl⟩
theorem compr (h : Hd) (imm : BitVec 30) (s : State) : ByRule (.compr h imm) s := by
  change ∃ body, execCompr h imm s = _
  unfold execCompr
  exact ⟨_, rfl⟩
theorem expd (h : Hd) (imm : BitVec 30) (s : State) : ByRule (.expd h imm) s := by
  change ∃ body, execExpd h imm s = _
  unfold execExpd
  exact ⟨_, rfl⟩
theorem argmax (h : Hd) (imm : BitVec 30) (s : State) : ByRule (.argmax h imm) s := by
  change ∃ body, execArgmax h imm s = _
  unfold execArgmax
  exact ⟨_, rfl⟩
theorem topk (h : Hd) (imm : BitVec 30) (s : State) : ByRule (.topk h imm) s := by
  change ∃ body, execTopk h imm s = _
  unfold execTopk
  exact ⟨_, rfl⟩
theorem maxrs (h : Hd) (imm : BitVec 30) (s : State) : ByRule (.maxrs h imm) s := by
  change ∃ body, execMaxrs h imm s = _
  unfold execMaxrs
  exact ⟨_, rfl⟩
theorem mldb (h : Hd) (x : MatX) (s : State) : ByNode (.mldb h x) s := by
  change ∃ mark body, execMldb h x s = _
  unfold execMldb
  exact ⟨_, _, rfl⟩
theorem mswp (h : Hd) (x : MatX) (s : State) : ByRule (.mswp h x) s := by
  change ∃ body, execMswp h x s = _
  unfold execMswp
  exact ⟨_, rfl⟩
theorem msca (h : Hd) (x : MatX) (s : State) : ByNode (.msca h x) s := by
  change ∃ mark body, execMsca h x s = _
  unfold execMsca
  exact ⟨_, _, rfl⟩
theorem mzero (h : Hd) (x : MatX) (s : State) : ByNode (.mzero h x) s := by
  change ∃ mark body, execMzero h x s = _
  unfold execMzero
  exact ⟨_, _, rfl⟩
theorem ldt (h : Hd) (x : MemX) (s : State) : ByStream (.ldt h x) h s := by
  change ∃ body, execLdt h x s = _
  unfold execLdt
  exact ⟨_, rfl⟩
theorem stt (h : Hd) (x : MemX) (s : State) : ByStream (.stt h x) h s := by
  change ∃ body, execStt h x s = _
  unfold execStt
  exact ⟨_, rfl⟩
theorem lds (h : Hd) (x : MemX) (s : State) : ByStream (.lds h x) h s := by
  change ∃ body, execLds h x s = _
  unfold execLds
  exact ⟨_, rfl⟩
theorem sts (h : Hd) (x : MemX) (s : State) : ByStream (.sts h x) h s := by
  change ∃ body, execSts h x s = _
  unfold execSts
  exact ⟨_, rfl⟩
theorem agen (h : Hd) (x : MemX) (s : State) : ByRule (.agen h x) s := by
  change ∃ body, execAgen h x s = _
  unfold execAgen
  exact ⟨_, rfl⟩
theorem gath (h : Hd) (x : MemX) (s : State) : ByStream (.gath h x) h s := by
  change ∃ body, execGath h x s = _
  unfold execGath
  exact ⟨_, rfl⟩
theorem scat (h : Hd) (x : MemX) (s : State) : ByStream (.scat h x) h s := by
  change ∃ body, execScat h x s = _
  unfold execScat
  exact ⟨_, rfl⟩
theorem waita (h : Hd) (x : MemX) (s : State) : ByRule (.waita h x) s := by
  change ∃ body, execWaita h x s = _
  unfold execWaita
  exact ⟨_, rfl⟩
theorem arrv (h : Hd) (x : MemX) (s : State) : ByStream (.arrv h x) h s := by
  change ∃ body, execArrv h x s = _
  unfold execArrv
  exact ⟨_, rfl⟩
theorem fence (h : Hd) (x : MemX) (s : State) : ByStream (.fence h x) h s := by
  change ∃ body, execFence h x s = _
  unfold execFence
  exact ⟨_, rfl⟩
theorem xfence (h : Hd) (x : MemX) (s : State) : ByStream (.xfence h x) h s := by
  change ∃ body, execXfence h x s = _
  unfold execXfence
  exact ⟨_, rfl⟩
theorem ldv (h : Hd) (x : MemX) (s : State) : ByStream (.ldv h x) h s := by
  change ∃ body, execLdv h x s = _
  unfold execLdv
  exact ⟨_, rfl⟩
theorem stv (h : Hd) (x : MemX) (s : State) : ByStream (.stv h x) h s := by
  change ∃ body, execStv h x s = _
  unfold execStv
  exact ⟨_, rfl⟩
theorem ldvs (h : Hd) (x : MemX) (s : State) : ByStream (.ldvs h x) h s := by
  change ∃ body, execLdvs h x s = _
  unfold execLdvs
  exact ⟨_, rfl⟩
theorem stvs (h : Hd) (x : MemX) (s : State) : ByStream (.stvs h x) h s := by
  change ∃ body, execStvs h x s = _
  unfold execStvs
  exact ⟨_, rfl⟩
theorem pfv (h : Hd) (x : MemX) (s : State) : ByStream (.pfv h x) h s := by
  change ∃ body, execPfv h x s = _
  unfold execPfv
  exact ⟨_, rfl⟩
theorem amo (h : Hd) (x : MemX) (s : State) : ByStream (.amo h x) h s := by
  change ∃ body, execAmo h x s = _
  unfold execAmo
  exact ⟨_, rfl⟩
theorem amor (h : Hd) (x : MemX) (s : State) : ByStream (.amor h x) h s := by
  change ∃ body, execAmor h x s = _
  unfold execAmor
  exact ⟨_, rfl⟩
theorem red (h : Hd) (x : MemX) (s : State) : ByStream (.red h x) h s := by
  change ∃ body, execRed h x s = _
  unfold execRed
  exact ⟨_, rfl⟩
theorem bin (h : Hd) (x : MemX) (s : State) : ByStream (.bin h x) h s := by
  change ∃ body, execBin h x s = _
  unfold execBin
  exact ⟨_, rfl⟩
theorem binf (h : Hd) (x : MemX) (s : State) : ByStream (.binf h x) h s := by
  change ∃ body, execBinf h x s = _
  unfold execBinf
  exact ⟨_, rfl⟩
theorem send (h : Hd) (x : EngX) (s : State) : ByRule (.send h x) s := by
  change ∃ body, execSend h x s = _
  unfold execSend
  exact ⟨_, rfl⟩
theorem cpy (h : Hd) (x : EngX) (s : State) : ByRule (.cpy h x) s := by
  change ∃ body, execCpy h x s = _
  unfold execCpy
  exact ⟨_, rfl⟩
theorem cpys (h : Hd) (x : EngX) (s : State) : ByRule (.cpys h x) s := by
  change ∃ body, execCpys h x s = _
  unfold execCpys
  exact ⟨_, rfl⟩
theorem cpyf (h : Hd) (x : EngX) (s : State) : ByRule (.cpyf h x) s := by
  change ∃ body, execCpyf h x s = _
  unfold execCpyf
  exact ⟨_, rfl⟩
theorem cpyc (h : Hd) (x : EngX) (s : State) : ByRule (.cpyc h x) s := by
  change ∃ body, execCpyc h x s = _
  unfold execCpyc
  exact ⟨_, rfl⟩
theorem sbw (h : Hd) (x : EngX) (s : State) : ByRule (.sbw h x) s := by
  change ∃ body, execSbw h x s = _
  unfold execSbw
  exact ⟨_, rfl⟩
theorem snap (h : Hd) (x : EngX) (s : State) : ByRule (.snap h x) s := by
  change ∃ body, execSnap h x s = _
  unfold execSnap
  exact ⟨_, rfl⟩
theorem cmbc (h : Hd) (x : EngX) (s : State) : ByRule (.cmbc h x) s := by
  change ∃ body, execCmbc h x s = _
  unfold execCmbc
  exact ⟨_, rfl⟩
theorem cmba (h : Hd) (x : EngX) (s : State) : ByRule (.cmba h x) s := by
  change ∃ body, execCmba h x s = _
  unfold execCmba
  exact ⟨_, rfl⟩
theorem cmbi (h : Hd) (x : EngX) (s : State) : ByRule (.cmbi h x) s := by
  change ∃ body, execCmbi h x s = _
  unfold execCmbi
  exact ⟨_, rfl⟩
theorem syno (h : Hd) (x : EngX) (s : State) : ByRule (.syno h x) s := by
  change ∃ body, execSyno h x s = _
  unfold execSyno
  exact ⟨_, rfl⟩
theorem synq (h : Hd) (x : EngX) (s : State) : ByRule (.synq h x) s := by
  change ∃ body, execSynq h x s = _
  unfold execSynq
  exact ⟨_, rfl⟩
theorem bmod (h : Hd) (x : VidX) (s : State) : ByRule (.bmod h x) s := by
  change ∃ body, execBmod h x s = _
  unfold execBmod
  exact ⟨_, rfl⟩
theorem cgex (h : Hd) (x : VidX) (s : State) : ByRule (.cgex h x) s := by
  change ∃ body, execCgex h x s = _
  unfold execCgex
  exact ⟨_, rfl⟩
theorem cflp (h : Hd) (x : VidX) (s : State) : ByRule (.cflp h x) s := by
  change ∃ body, execCflp h x s = _
  unfold execCflp
  exact ⟨_, rfl⟩
theorem ctrn (h : Hd) (x : VidX) (s : State) : ByRule (.ctrn h x) s := by
  change ∃ body, execCtrn h x s = _
  unfold execCtrn
  exact ⟨_, rfl⟩
theorem blkw (h : Hd) (x : VidX) (s : State) : ByRule (.blkw h x) s := by
  change ∃ body, execBlkw h x s = _
  unfold execBlkw
  exact ⟨_, rfl⟩
theorem drift (h : Hd) (x : VidX) (s : State) : ByRule (.drift h x) s := by
  change ∃ body, execDrift h x s = _
  unfold execDrift
  exact ⟨_, rfl⟩
theorem cdmc (h : Hd) (x : VidX) (s : State) : ByRule (.cdmc h x) s := by
  change ∃ body, execCdmc h x s = _
  unfold execCdmc sendGen
  exact ⟨_, rfl⟩
theorem cdip (h : Hd) (x : VidX) (s : State) : ByRule (.cdip h x) s := by
  change ∃ body, execCdip h x s = _
  unfold execCdip sendGen
  exact ⟨_, rfl⟩
theorem front (h : Hd) (x : PrbX) (s : State) : ByRule (.front h x) s := by
  change ∃ body, execFront h x s = _
  unfold execFront
  exact ⟨_, rfl⟩
theorem launch (h : Hd) (imm : BitVec 30) (s : State) : ByRule (.launch h imm) s := by
  change ∃ body, execLaunch h imm s = _
  unfold execLaunch
  exact ⟨_, rfl⟩
theorem join (h : Hd) (imm : BitVec 30) (s : State) : ByRule (.join h imm) s := by
  change ∃ body, execJoin h imm s = _
  unfold execJoin
  exact ⟨_, rfl⟩
theorem trap (h : Hd) (x : SysX) (s : State) : ByRule (.trap h x) s := by
  change ∃ body, execTrap h x s = _
  unfold execTrap
  exact ⟨_, rfl⟩
theorem brk (h : Hd) (x : SysX) (s : State) : ByRule (.brk h x) s := by
  change ∃ body, execBrk h x s = _
  unfold execBrk
  exact ⟨_, rfl⟩
theorem rdcr (h : Hd) (x : SysX) (s : State) : ByRule (.rdcr h x) s := by
  change ∃ body, execRdcr h x s = _
  unfold execRdcr
  exact ⟨_, rfl⟩
theorem wrcr (h : Hd) (x : SysX) (s : State) : ByRule (.wrcr h x) s := by
  change ∃ body, execWrcr h x s = _
  unfold execWrcr
  exact ⟨_, rfl⟩
theorem perf (h : Hd) (x : SysX) (s : State) : ByRule (.perf h x) s := by
  change ∃ body, execPerf h x s = _
  unfold execPerf
  exact ⟨_, rfl⟩
theorem svc (h : Hd) (x : SysX) (s : State) : ByRule (.svc h x) s := by
  change ∃ body, execSvc h x s = _
  unfold execSvc
  exact ⟨_, rfl⟩

end Sys2Proof.Laws.Fires
end

