-- ==== Sys2Proof/Laws/State.lean ====
section
/-! SUPPORT. Field lemmas of the updates of State: what each changes, and that it changes nothing else. -/

namespace Sys2Proof.Laws

open Sys2Proof.Machine

/-! ### setAt -/

@[simp] theorem setAt_agenda (s : State) (k : Nat) (a : AT) : (s.setAt k a).agenda = s.agenda := rfl
@[simp] theorem setAt_focus (s : State) (k : Nat) (a : AT) : (s.setAt k a).focus = s.focus := rfl
@[simp] theorem setAt_acted (s : State) (k : Nat) (a : AT) : (s.setAt k a).acted = s.acted := rfl
@[simp] theorem setAt_free (s : State) (k : Nat) (a : AT) : (s.setAt k a).free = s.free := rfl
@[simp] theorem setAt_nextId (s : State) (k : Nat) (a : AT) : (s.setAt k a).nextId = s.nextId := rfl
@[simp] theorem setAt_cycle (s : State) (k : Nat) (a : AT) : (s.setAt k a).cycle = s.cycle := rfl
@[simp] theorem setAt_mem (s : State) (k : Nat) (a : AT) : (s.setAt k a).mem = s.mem := rfl
@[simp] theorem setAt_ats (s : State) (k : Nat) (a : AT) : (s.setAt k a).ats = put k a s.ats := rfl
@[simp] theorem setAt_mts (s : State) (k : Nat) (a : AT) : (s.setAt k a).mts = s.mts := rfl
@[simp] theorem setAt_pts (s : State) (k : Nat) (a : AT) : (s.setAt k a).pts = s.pts := rfl
@[simp] theorem setAt_homes (s : State) (k : Nat) (a : AT) : (s.setAt k a).homes = s.homes := rfl
@[simp] theorem setAt_revoked (s : State) (k : Nat) (a : AT) : (s.setAt k a).revoked = s.revoked := rfl
@[simp] theorem setAt_share (s : State) (k : Nat) (a : AT) : (s.setAt k a).share = s.share := rfl
@[simp] theorem setAt_shareSet (s : State) (k : Nat) (a : AT) : (s.setAt k a).shareSet = s.shareSet := rfl
@[simp] theorem setAt_broughtUp (s : State) (k : Nat) (a : AT) : (s.setAt k a).broughtUp = s.broughtUp := rfl
@[simp] theorem setAt_hostWins (s : State) (k : Nat) (a : AT) : (s.setAt k a).hostWins = s.hostWins := rfl
@[simp] theorem setAt_extents (s : State) (k : Nat) (a : AT) : (s.setAt k a).extents = s.extents := rfl
@[simp] theorem setAt_bccap (s : State) (k : Nat) (a : AT) : (s.setAt k a).bccap = s.bccap := rfl
@[simp] theorem setAt_bcs (s : State) (k : Nat) (a : AT) : (s.setAt k a).bcs = s.bcs := rfl
@[simp] theorem setAt_roots (s : State) (k : Nat) (a : AT) : (s.setAt k a).roots = s.roots := rfl
@[simp] theorem setAt_reqs (s : State) (k : Nat) (a : AT) : (s.setAt k a).reqs = s.reqs := rfl
@[simp] theorem setAt_tickets (s : State) (k : Nat) (a : AT) : (s.setAt k a).tickets = s.tickets := rfl
@[simp] theorem setAt_useqs (s : State) (k : Nat) (a : AT) : (s.setAt k a).useqs = s.useqs := rfl
@[simp] theorem setAt_mseqs (s : State) (k : Nat) (a : AT) : (s.setAt k a).mseqs = s.mseqs := rfl
@[simp] theorem setAt_subs (s : State) (k : Nat) (a : AT) : (s.setAt k a).subs = s.subs := rfl
@[simp] theorem setAt_held (s : State) (k : Nat) (a : AT) : (s.setAt k a).held = s.held := rfl
@[simp] theorem setAt_syns (s : State) (k : Nat) (a : AT) : (s.setAt k a).syns = s.syns := rfl
@[simp] theorem setAt_cmdDone (s : State) (k : Nat) (a : AT) : (s.setAt k a).cmdDone = s.cmdDone := rfl
@[simp] theorem setAt_watch (s : State) (k : Nat) (a : AT) : (s.setAt k a).watch = s.watch := rfl
@[simp] theorem setAt_watchq (s : State) (k : Nat) (a : AT) : (s.setAt k a).watchq = s.watchq := rfl
@[simp] theorem setAt_snap (s : State) (k : Nat) (a : AT) : (s.setAt k a).snap = s.snap := rfl
@[simp] theorem setAt_snapq (s : State) (k : Nat) (a : AT) : (s.setAt k a).snapq = s.snapq := rfl
@[simp] theorem setAt_res (s : State) (k : Nat) (a : AT) : (s.setAt k a).res = s.res := rfl
@[simp] theorem setAt_trackers (s : State) (k : Nat) (a : AT) : (s.setAt k a).trackers = s.trackers := rfl
@[simp] theorem setAt_posts (s : State) (k : Nat) (a : AT) : (s.setAt k a).posts = s.posts := rfl
@[simp] theorem setAt_tasks (s : State) (k : Nat) (a : AT) : (s.setAt k a).tasks = s.tasks := rfl
@[simp] theorem setAt_templates (s : State) (k : Nat) (a : AT) : (s.setAt k a).templates = s.templates := rfl
@[simp] theorem setAt_dsp (s : State) (k : Nat) (a : AT) : (s.setAt k a).dsp = s.dsp := rfl
@[simp] theorem setAt_images (s : State) (k : Nat) (a : AT) : (s.setAt k a).images = s.images := rfl
@[simp] theorem setAt_saved (s : State) (k : Nat) (a : AT) : (s.setAt k a).saved = s.saved := rfl
@[simp] theorem setAt_files (s : State) (k : Nat) (a : AT) : (s.setAt k a).files = s.files := rfl
@[simp] theorem setAt_faults (s : State) (k : Nat) (a : AT) : (s.setAt k a).faults = s.faults := rfl
@[simp] theorem setAt_cores (s : State) (k : Nat) (a : AT) : (s.setAt k a).cores = s.cores := rfl
@[simp] theorem setAt_svcs (s : State) (k : Nat) (a : AT) : (s.setAt k a).svcs = s.svcs := rfl
@[simp] theorem setAt_clsmap (s : State) (k : Nat) (a : AT) : (s.setAt k a).clsmap = s.clsmap := rfl
@[simp] theorem setAt_dies (s : State) (k : Nat) (a : AT) : (s.setAt k a).dies = s.dies := rfl
@[simp] theorem setAt_fuses (s : State) (k : Nat) (a : AT) : (s.setAt k a).fuses = s.fuses := rfl
@[simp] theorem setAt_repair (s : State) (k : Nat) (a : AT) : (s.setAt k a).repair = s.repair := rfl
@[simp] theorem setAt_slews (s : State) (k : Nat) (a : AT) : (s.setAt k a).slews = s.slews := rfl
@[simp] theorem setAt_links (s : State) (k : Nat) (a : AT) : (s.setAt k a).links = s.links := rfl
@[simp] theorem setAt_host (s : State) (k : Nat) (a : AT) : (s.setAt k a).host = s.host := rfl
@[simp] theorem setAt_boot (s : State) (k : Nat) (a : AT) : (s.setAt k a).boot = s.boot := rfl
@[simp] theorem setAt_testing (s : State) (k : Nat) (a : AT) : (s.setAt k a).testing = s.testing := rfl

/-! ### modAt -/

@[simp] theorem modAt_agenda (s : State) (k : Nat) (f : AT → AT) : (s.modAt k f).agenda = s.agenda := rfl
@[simp] theorem modAt_focus (s : State) (k : Nat) (f : AT → AT) : (s.modAt k f).focus = s.focus := rfl
@[simp] theorem modAt_acted (s : State) (k : Nat) (f : AT → AT) : (s.modAt k f).acted = s.acted := rfl
@[simp] theorem modAt_free (s : State) (k : Nat) (f : AT → AT) : (s.modAt k f).free = s.free := rfl
@[simp] theorem modAt_nextId (s : State) (k : Nat) (f : AT → AT) : (s.modAt k f).nextId = s.nextId := rfl
@[simp] theorem modAt_cycle (s : State) (k : Nat) (f : AT → AT) : (s.modAt k f).cycle = s.cycle := rfl
@[simp] theorem modAt_mem (s : State) (k : Nat) (f : AT → AT) : (s.modAt k f).mem = s.mem := rfl
@[simp] theorem modAt_ats (s : State) (k : Nat) (f : AT → AT) : (s.modAt k f).ats = put k (f (s.at k)) s.ats := rfl
@[simp] theorem modAt_mts (s : State) (k : Nat) (f : AT → AT) : (s.modAt k f).mts = s.mts := rfl
@[simp] theorem modAt_pts (s : State) (k : Nat) (f : AT → AT) : (s.modAt k f).pts = s.pts := rfl
@[simp] theorem modAt_homes (s : State) (k : Nat) (f : AT → AT) : (s.modAt k f).homes = s.homes := rfl
@[simp] theorem modAt_revoked (s : State) (k : Nat) (f : AT → AT) : (s.modAt k f).revoked = s.revoked := rfl
@[simp] theorem modAt_share (s : State) (k : Nat) (f : AT → AT) : (s.modAt k f).share = s.share := rfl
@[simp] theorem modAt_shareSet (s : State) (k : Nat) (f : AT → AT) : (s.modAt k f).shareSet = s.shareSet := rfl
@[simp] theorem modAt_broughtUp (s : State) (k : Nat) (f : AT → AT) : (s.modAt k f).broughtUp = s.broughtUp := rfl
@[simp] theorem modAt_hostWins (s : State) (k : Nat) (f : AT → AT) : (s.modAt k f).hostWins = s.hostWins := rfl
@[simp] theorem modAt_extents (s : State) (k : Nat) (f : AT → AT) : (s.modAt k f).extents = s.extents := rfl
@[simp] theorem modAt_bccap (s : State) (k : Nat) (f : AT → AT) : (s.modAt k f).bccap = s.bccap := rfl
@[simp] theorem modAt_bcs (s : State) (k : Nat) (f : AT → AT) : (s.modAt k f).bcs = s.bcs := rfl
@[simp] theorem modAt_roots (s : State) (k : Nat) (f : AT → AT) : (s.modAt k f).roots = s.roots := rfl
@[simp] theorem modAt_reqs (s : State) (k : Nat) (f : AT → AT) : (s.modAt k f).reqs = s.reqs := rfl
@[simp] theorem modAt_tickets (s : State) (k : Nat) (f : AT → AT) : (s.modAt k f).tickets = s.tickets := rfl
@[simp] theorem modAt_useqs (s : State) (k : Nat) (f : AT → AT) : (s.modAt k f).useqs = s.useqs := rfl
@[simp] theorem modAt_mseqs (s : State) (k : Nat) (f : AT → AT) : (s.modAt k f).mseqs = s.mseqs := rfl
@[simp] theorem modAt_subs (s : State) (k : Nat) (f : AT → AT) : (s.modAt k f).subs = s.subs := rfl
@[simp] theorem modAt_held (s : State) (k : Nat) (f : AT → AT) : (s.modAt k f).held = s.held := rfl
@[simp] theorem modAt_syns (s : State) (k : Nat) (f : AT → AT) : (s.modAt k f).syns = s.syns := rfl
@[simp] theorem modAt_cmdDone (s : State) (k : Nat) (f : AT → AT) : (s.modAt k f).cmdDone = s.cmdDone := rfl
@[simp] theorem modAt_watch (s : State) (k : Nat) (f : AT → AT) : (s.modAt k f).watch = s.watch := rfl
@[simp] theorem modAt_watchq (s : State) (k : Nat) (f : AT → AT) : (s.modAt k f).watchq = s.watchq := rfl
@[simp] theorem modAt_snap (s : State) (k : Nat) (f : AT → AT) : (s.modAt k f).snap = s.snap := rfl
@[simp] theorem modAt_snapq (s : State) (k : Nat) (f : AT → AT) : (s.modAt k f).snapq = s.snapq := rfl
@[simp] theorem modAt_res (s : State) (k : Nat) (f : AT → AT) : (s.modAt k f).res = s.res := rfl
@[simp] theorem modAt_trackers (s : State) (k : Nat) (f : AT → AT) : (s.modAt k f).trackers = s.trackers := rfl
@[simp] theorem modAt_posts (s : State) (k : Nat) (f : AT → AT) : (s.modAt k f).posts = s.posts := rfl
@[simp] theorem modAt_tasks (s : State) (k : Nat) (f : AT → AT) : (s.modAt k f).tasks = s.tasks := rfl
@[simp] theorem modAt_templates (s : State) (k : Nat) (f : AT → AT) : (s.modAt k f).templates = s.templates := rfl
@[simp] theorem modAt_dsp (s : State) (k : Nat) (f : AT → AT) : (s.modAt k f).dsp = s.dsp := rfl
@[simp] theorem modAt_images (s : State) (k : Nat) (f : AT → AT) : (s.modAt k f).images = s.images := rfl
@[simp] theorem modAt_saved (s : State) (k : Nat) (f : AT → AT) : (s.modAt k f).saved = s.saved := rfl
@[simp] theorem modAt_files (s : State) (k : Nat) (f : AT → AT) : (s.modAt k f).files = s.files := rfl
@[simp] theorem modAt_faults (s : State) (k : Nat) (f : AT → AT) : (s.modAt k f).faults = s.faults := rfl
@[simp] theorem modAt_cores (s : State) (k : Nat) (f : AT → AT) : (s.modAt k f).cores = s.cores := rfl
@[simp] theorem modAt_svcs (s : State) (k : Nat) (f : AT → AT) : (s.modAt k f).svcs = s.svcs := rfl
@[simp] theorem modAt_clsmap (s : State) (k : Nat) (f : AT → AT) : (s.modAt k f).clsmap = s.clsmap := rfl
@[simp] theorem modAt_dies (s : State) (k : Nat) (f : AT → AT) : (s.modAt k f).dies = s.dies := rfl
@[simp] theorem modAt_fuses (s : State) (k : Nat) (f : AT → AT) : (s.modAt k f).fuses = s.fuses := rfl
@[simp] theorem modAt_repair (s : State) (k : Nat) (f : AT → AT) : (s.modAt k f).repair = s.repair := rfl
@[simp] theorem modAt_slews (s : State) (k : Nat) (f : AT → AT) : (s.modAt k f).slews = s.slews := rfl
@[simp] theorem modAt_links (s : State) (k : Nat) (f : AT → AT) : (s.modAt k f).links = s.links := rfl
@[simp] theorem modAt_host (s : State) (k : Nat) (f : AT → AT) : (s.modAt k f).host = s.host := rfl
@[simp] theorem modAt_boot (s : State) (k : Nat) (f : AT → AT) : (s.modAt k f).boot = s.boot := rfl
@[simp] theorem modAt_testing (s : State) (k : Nat) (f : AT → AT) : (s.modAt k f).testing = s.testing := rfl

/-! ### modNode -/

@[simp] theorem modNode_agenda (s : State) (k : Nat) (f : Node → Node) : (s.modNode k f).agenda = s.agenda := rfl
@[simp] theorem modNode_focus (s : State) (k : Nat) (f : Node → Node) : (s.modNode k f).focus = s.focus := rfl
@[simp] theorem modNode_acted (s : State) (k : Nat) (f : Node → Node) : (s.modNode k f).acted = s.acted := rfl
@[simp] theorem modNode_free (s : State) (k : Nat) (f : Node → Node) : (s.modNode k f).free = s.free := rfl
@[simp] theorem modNode_nextId (s : State) (k : Nat) (f : Node → Node) : (s.modNode k f).nextId = s.nextId := rfl
@[simp] theorem modNode_cycle (s : State) (k : Nat) (f : Node → Node) : (s.modNode k f).cycle = s.cycle := rfl
@[simp] theorem modNode_mem (s : State) (k : Nat) (f : Node → Node) : (s.modNode k f).mem = s.mem := rfl
@[simp] theorem modNode_ats (s : State) (k : Nat) (f : Node → Node) : (s.modNode k f).ats = put k { s.at k with node := f (s.at k).node } s.ats := rfl
@[simp] theorem modNode_mts (s : State) (k : Nat) (f : Node → Node) : (s.modNode k f).mts = s.mts := rfl
@[simp] theorem modNode_pts (s : State) (k : Nat) (f : Node → Node) : (s.modNode k f).pts = s.pts := rfl
@[simp] theorem modNode_homes (s : State) (k : Nat) (f : Node → Node) : (s.modNode k f).homes = s.homes := rfl
@[simp] theorem modNode_revoked (s : State) (k : Nat) (f : Node → Node) : (s.modNode k f).revoked = s.revoked := rfl
@[simp] theorem modNode_share (s : State) (k : Nat) (f : Node → Node) : (s.modNode k f).share = s.share := rfl
@[simp] theorem modNode_shareSet (s : State) (k : Nat) (f : Node → Node) : (s.modNode k f).shareSet = s.shareSet := rfl
@[simp] theorem modNode_broughtUp (s : State) (k : Nat) (f : Node → Node) : (s.modNode k f).broughtUp = s.broughtUp := rfl
@[simp] theorem modNode_hostWins (s : State) (k : Nat) (f : Node → Node) : (s.modNode k f).hostWins = s.hostWins := rfl
@[simp] theorem modNode_extents (s : State) (k : Nat) (f : Node → Node) : (s.modNode k f).extents = s.extents := rfl
@[simp] theorem modNode_bccap (s : State) (k : Nat) (f : Node → Node) : (s.modNode k f).bccap = s.bccap := rfl
@[simp] theorem modNode_bcs (s : State) (k : Nat) (f : Node → Node) : (s.modNode k f).bcs = s.bcs := rfl
@[simp] theorem modNode_roots (s : State) (k : Nat) (f : Node → Node) : (s.modNode k f).roots = s.roots := rfl
@[simp] theorem modNode_reqs (s : State) (k : Nat) (f : Node → Node) : (s.modNode k f).reqs = s.reqs := rfl
@[simp] theorem modNode_tickets (s : State) (k : Nat) (f : Node → Node) : (s.modNode k f).tickets = s.tickets := rfl
@[simp] theorem modNode_useqs (s : State) (k : Nat) (f : Node → Node) : (s.modNode k f).useqs = s.useqs := rfl
@[simp] theorem modNode_mseqs (s : State) (k : Nat) (f : Node → Node) : (s.modNode k f).mseqs = s.mseqs := rfl
@[simp] theorem modNode_subs (s : State) (k : Nat) (f : Node → Node) : (s.modNode k f).subs = s.subs := rfl
@[simp] theorem modNode_held (s : State) (k : Nat) (f : Node → Node) : (s.modNode k f).held = s.held := rfl
@[simp] theorem modNode_syns (s : State) (k : Nat) (f : Node → Node) : (s.modNode k f).syns = s.syns := rfl
@[simp] theorem modNode_cmdDone (s : State) (k : Nat) (f : Node → Node) : (s.modNode k f).cmdDone = s.cmdDone := rfl
@[simp] theorem modNode_watch (s : State) (k : Nat) (f : Node → Node) : (s.modNode k f).watch = s.watch := rfl
@[simp] theorem modNode_watchq (s : State) (k : Nat) (f : Node → Node) : (s.modNode k f).watchq = s.watchq := rfl
@[simp] theorem modNode_snap (s : State) (k : Nat) (f : Node → Node) : (s.modNode k f).snap = s.snap := rfl
@[simp] theorem modNode_snapq (s : State) (k : Nat) (f : Node → Node) : (s.modNode k f).snapq = s.snapq := rfl
@[simp] theorem modNode_res (s : State) (k : Nat) (f : Node → Node) : (s.modNode k f).res = s.res := rfl
@[simp] theorem modNode_trackers (s : State) (k : Nat) (f : Node → Node) : (s.modNode k f).trackers = s.trackers := rfl
@[simp] theorem modNode_posts (s : State) (k : Nat) (f : Node → Node) : (s.modNode k f).posts = s.posts := rfl
@[simp] theorem modNode_tasks (s : State) (k : Nat) (f : Node → Node) : (s.modNode k f).tasks = s.tasks := rfl
@[simp] theorem modNode_templates (s : State) (k : Nat) (f : Node → Node) : (s.modNode k f).templates = s.templates := rfl
@[simp] theorem modNode_dsp (s : State) (k : Nat) (f : Node → Node) : (s.modNode k f).dsp = s.dsp := rfl
@[simp] theorem modNode_images (s : State) (k : Nat) (f : Node → Node) : (s.modNode k f).images = s.images := rfl
@[simp] theorem modNode_saved (s : State) (k : Nat) (f : Node → Node) : (s.modNode k f).saved = s.saved := rfl
@[simp] theorem modNode_files (s : State) (k : Nat) (f : Node → Node) : (s.modNode k f).files = s.files := rfl
@[simp] theorem modNode_faults (s : State) (k : Nat) (f : Node → Node) : (s.modNode k f).faults = s.faults := rfl
@[simp] theorem modNode_cores (s : State) (k : Nat) (f : Node → Node) : (s.modNode k f).cores = s.cores := rfl
@[simp] theorem modNode_svcs (s : State) (k : Nat) (f : Node → Node) : (s.modNode k f).svcs = s.svcs := rfl
@[simp] theorem modNode_clsmap (s : State) (k : Nat) (f : Node → Node) : (s.modNode k f).clsmap = s.clsmap := rfl
@[simp] theorem modNode_dies (s : State) (k : Nat) (f : Node → Node) : (s.modNode k f).dies = s.dies := rfl
@[simp] theorem modNode_fuses (s : State) (k : Nat) (f : Node → Node) : (s.modNode k f).fuses = s.fuses := rfl
@[simp] theorem modNode_repair (s : State) (k : Nat) (f : Node → Node) : (s.modNode k f).repair = s.repair := rfl
@[simp] theorem modNode_slews (s : State) (k : Nat) (f : Node → Node) : (s.modNode k f).slews = s.slews := rfl
@[simp] theorem modNode_links (s : State) (k : Nat) (f : Node → Node) : (s.modNode k f).links = s.links := rfl
@[simp] theorem modNode_host (s : State) (k : Nat) (f : Node → Node) : (s.modNode k f).host = s.host := rfl
@[simp] theorem modNode_boot (s : State) (k : Nat) (f : Node → Node) : (s.modNode k f).boot = s.boot := rfl
@[simp] theorem modNode_testing (s : State) (k : Nat) (f : Node → Node) : (s.modNode k f).testing = s.testing := rfl

/-! ### setMt -/

@[simp] theorem setMt_agenda (s : State) (k : Nat) (m : MT) : (s.setMt k m).agenda = s.agenda := rfl
@[simp] theorem setMt_focus (s : State) (k : Nat) (m : MT) : (s.setMt k m).focus = s.focus := rfl
@[simp] theorem setMt_acted (s : State) (k : Nat) (m : MT) : (s.setMt k m).acted = s.acted := rfl
@[simp] theorem setMt_free (s : State) (k : Nat) (m : MT) : (s.setMt k m).free = s.free := rfl
@[simp] theorem setMt_nextId (s : State) (k : Nat) (m : MT) : (s.setMt k m).nextId = s.nextId := rfl
@[simp] theorem setMt_cycle (s : State) (k : Nat) (m : MT) : (s.setMt k m).cycle = s.cycle := rfl
@[simp] theorem setMt_mem (s : State) (k : Nat) (m : MT) : (s.setMt k m).mem = s.mem := rfl
@[simp] theorem setMt_ats (s : State) (k : Nat) (m : MT) : (s.setMt k m).ats = s.ats := rfl
@[simp] theorem setMt_mts (s : State) (k : Nat) (m : MT) : (s.setMt k m).mts = put k m s.mts := rfl
@[simp] theorem setMt_pts (s : State) (k : Nat) (m : MT) : (s.setMt k m).pts = s.pts := rfl
@[simp] theorem setMt_homes (s : State) (k : Nat) (m : MT) : (s.setMt k m).homes = s.homes := rfl
@[simp] theorem setMt_revoked (s : State) (k : Nat) (m : MT) : (s.setMt k m).revoked = s.revoked := rfl
@[simp] theorem setMt_share (s : State) (k : Nat) (m : MT) : (s.setMt k m).share = s.share := rfl
@[simp] theorem setMt_shareSet (s : State) (k : Nat) (m : MT) : (s.setMt k m).shareSet = s.shareSet := rfl
@[simp] theorem setMt_broughtUp (s : State) (k : Nat) (m : MT) : (s.setMt k m).broughtUp = s.broughtUp := rfl
@[simp] theorem setMt_hostWins (s : State) (k : Nat) (m : MT) : (s.setMt k m).hostWins = s.hostWins := rfl
@[simp] theorem setMt_extents (s : State) (k : Nat) (m : MT) : (s.setMt k m).extents = s.extents := rfl
@[simp] theorem setMt_bccap (s : State) (k : Nat) (m : MT) : (s.setMt k m).bccap = s.bccap := rfl
@[simp] theorem setMt_bcs (s : State) (k : Nat) (m : MT) : (s.setMt k m).bcs = s.bcs := rfl
@[simp] theorem setMt_roots (s : State) (k : Nat) (m : MT) : (s.setMt k m).roots = s.roots := rfl
@[simp] theorem setMt_reqs (s : State) (k : Nat) (m : MT) : (s.setMt k m).reqs = s.reqs := rfl
@[simp] theorem setMt_tickets (s : State) (k : Nat) (m : MT) : (s.setMt k m).tickets = s.tickets := rfl
@[simp] theorem setMt_useqs (s : State) (k : Nat) (m : MT) : (s.setMt k m).useqs = s.useqs := rfl
@[simp] theorem setMt_mseqs (s : State) (k : Nat) (m : MT) : (s.setMt k m).mseqs = s.mseqs := rfl
@[simp] theorem setMt_subs (s : State) (k : Nat) (m : MT) : (s.setMt k m).subs = s.subs := rfl
@[simp] theorem setMt_held (s : State) (k : Nat) (m : MT) : (s.setMt k m).held = s.held := rfl
@[simp] theorem setMt_syns (s : State) (k : Nat) (m : MT) : (s.setMt k m).syns = s.syns := rfl
@[simp] theorem setMt_cmdDone (s : State) (k : Nat) (m : MT) : (s.setMt k m).cmdDone = s.cmdDone := rfl
@[simp] theorem setMt_watch (s : State) (k : Nat) (m : MT) : (s.setMt k m).watch = s.watch := rfl
@[simp] theorem setMt_watchq (s : State) (k : Nat) (m : MT) : (s.setMt k m).watchq = s.watchq := rfl
@[simp] theorem setMt_snap (s : State) (k : Nat) (m : MT) : (s.setMt k m).snap = s.snap := rfl
@[simp] theorem setMt_snapq (s : State) (k : Nat) (m : MT) : (s.setMt k m).snapq = s.snapq := rfl
@[simp] theorem setMt_res (s : State) (k : Nat) (m : MT) : (s.setMt k m).res = s.res := rfl
@[simp] theorem setMt_trackers (s : State) (k : Nat) (m : MT) : (s.setMt k m).trackers = s.trackers := rfl
@[simp] theorem setMt_posts (s : State) (k : Nat) (m : MT) : (s.setMt k m).posts = s.posts := rfl
@[simp] theorem setMt_tasks (s : State) (k : Nat) (m : MT) : (s.setMt k m).tasks = s.tasks := rfl
@[simp] theorem setMt_templates (s : State) (k : Nat) (m : MT) : (s.setMt k m).templates = s.templates := rfl
@[simp] theorem setMt_dsp (s : State) (k : Nat) (m : MT) : (s.setMt k m).dsp = s.dsp := rfl
@[simp] theorem setMt_images (s : State) (k : Nat) (m : MT) : (s.setMt k m).images = s.images := rfl
@[simp] theorem setMt_saved (s : State) (k : Nat) (m : MT) : (s.setMt k m).saved = s.saved := rfl
@[simp] theorem setMt_files (s : State) (k : Nat) (m : MT) : (s.setMt k m).files = s.files := rfl
@[simp] theorem setMt_faults (s : State) (k : Nat) (m : MT) : (s.setMt k m).faults = s.faults := rfl
@[simp] theorem setMt_cores (s : State) (k : Nat) (m : MT) : (s.setMt k m).cores = s.cores := rfl
@[simp] theorem setMt_svcs (s : State) (k : Nat) (m : MT) : (s.setMt k m).svcs = s.svcs := rfl
@[simp] theorem setMt_clsmap (s : State) (k : Nat) (m : MT) : (s.setMt k m).clsmap = s.clsmap := rfl
@[simp] theorem setMt_dies (s : State) (k : Nat) (m : MT) : (s.setMt k m).dies = s.dies := rfl
@[simp] theorem setMt_fuses (s : State) (k : Nat) (m : MT) : (s.setMt k m).fuses = s.fuses := rfl
@[simp] theorem setMt_repair (s : State) (k : Nat) (m : MT) : (s.setMt k m).repair = s.repair := rfl
@[simp] theorem setMt_slews (s : State) (k : Nat) (m : MT) : (s.setMt k m).slews = s.slews := rfl
@[simp] theorem setMt_links (s : State) (k : Nat) (m : MT) : (s.setMt k m).links = s.links := rfl
@[simp] theorem setMt_host (s : State) (k : Nat) (m : MT) : (s.setMt k m).host = s.host := rfl
@[simp] theorem setMt_boot (s : State) (k : Nat) (m : MT) : (s.setMt k m).boot = s.boot := rfl
@[simp] theorem setMt_testing (s : State) (k : Nat) (m : MT) : (s.setMt k m).testing = s.testing := rfl

/-! ### modMt -/

@[simp] theorem modMt_agenda (s : State) (k : Nat) (f : MT → MT) : (s.modMt k f).agenda = s.agenda := rfl
@[simp] theorem modMt_focus (s : State) (k : Nat) (f : MT → MT) : (s.modMt k f).focus = s.focus := rfl
@[simp] theorem modMt_acted (s : State) (k : Nat) (f : MT → MT) : (s.modMt k f).acted = s.acted := rfl
@[simp] theorem modMt_free (s : State) (k : Nat) (f : MT → MT) : (s.modMt k f).free = s.free := rfl
@[simp] theorem modMt_nextId (s : State) (k : Nat) (f : MT → MT) : (s.modMt k f).nextId = s.nextId := rfl
@[simp] theorem modMt_cycle (s : State) (k : Nat) (f : MT → MT) : (s.modMt k f).cycle = s.cycle := rfl
@[simp] theorem modMt_mem (s : State) (k : Nat) (f : MT → MT) : (s.modMt k f).mem = s.mem := rfl
@[simp] theorem modMt_ats (s : State) (k : Nat) (f : MT → MT) : (s.modMt k f).ats = s.ats := rfl
@[simp] theorem modMt_mts (s : State) (k : Nat) (f : MT → MT) : (s.modMt k f).mts = put k (f (s.mt k)) s.mts := rfl
@[simp] theorem modMt_pts (s : State) (k : Nat) (f : MT → MT) : (s.modMt k f).pts = s.pts := rfl
@[simp] theorem modMt_homes (s : State) (k : Nat) (f : MT → MT) : (s.modMt k f).homes = s.homes := rfl
@[simp] theorem modMt_revoked (s : State) (k : Nat) (f : MT → MT) : (s.modMt k f).revoked = s.revoked := rfl
@[simp] theorem modMt_share (s : State) (k : Nat) (f : MT → MT) : (s.modMt k f).share = s.share := rfl
@[simp] theorem modMt_shareSet (s : State) (k : Nat) (f : MT → MT) : (s.modMt k f).shareSet = s.shareSet := rfl
@[simp] theorem modMt_broughtUp (s : State) (k : Nat) (f : MT → MT) : (s.modMt k f).broughtUp = s.broughtUp := rfl
@[simp] theorem modMt_hostWins (s : State) (k : Nat) (f : MT → MT) : (s.modMt k f).hostWins = s.hostWins := rfl
@[simp] theorem modMt_extents (s : State) (k : Nat) (f : MT → MT) : (s.modMt k f).extents = s.extents := rfl
@[simp] theorem modMt_bccap (s : State) (k : Nat) (f : MT → MT) : (s.modMt k f).bccap = s.bccap := rfl
@[simp] theorem modMt_bcs (s : State) (k : Nat) (f : MT → MT) : (s.modMt k f).bcs = s.bcs := rfl
@[simp] theorem modMt_roots (s : State) (k : Nat) (f : MT → MT) : (s.modMt k f).roots = s.roots := rfl
@[simp] theorem modMt_reqs (s : State) (k : Nat) (f : MT → MT) : (s.modMt k f).reqs = s.reqs := rfl
@[simp] theorem modMt_tickets (s : State) (k : Nat) (f : MT → MT) : (s.modMt k f).tickets = s.tickets := rfl
@[simp] theorem modMt_useqs (s : State) (k : Nat) (f : MT → MT) : (s.modMt k f).useqs = s.useqs := rfl
@[simp] theorem modMt_mseqs (s : State) (k : Nat) (f : MT → MT) : (s.modMt k f).mseqs = s.mseqs := rfl
@[simp] theorem modMt_subs (s : State) (k : Nat) (f : MT → MT) : (s.modMt k f).subs = s.subs := rfl
@[simp] theorem modMt_held (s : State) (k : Nat) (f : MT → MT) : (s.modMt k f).held = s.held := rfl
@[simp] theorem modMt_syns (s : State) (k : Nat) (f : MT → MT) : (s.modMt k f).syns = s.syns := rfl
@[simp] theorem modMt_cmdDone (s : State) (k : Nat) (f : MT → MT) : (s.modMt k f).cmdDone = s.cmdDone := rfl
@[simp] theorem modMt_watch (s : State) (k : Nat) (f : MT → MT) : (s.modMt k f).watch = s.watch := rfl
@[simp] theorem modMt_watchq (s : State) (k : Nat) (f : MT → MT) : (s.modMt k f).watchq = s.watchq := rfl
@[simp] theorem modMt_snap (s : State) (k : Nat) (f : MT → MT) : (s.modMt k f).snap = s.snap := rfl
@[simp] theorem modMt_snapq (s : State) (k : Nat) (f : MT → MT) : (s.modMt k f).snapq = s.snapq := rfl
@[simp] theorem modMt_res (s : State) (k : Nat) (f : MT → MT) : (s.modMt k f).res = s.res := rfl
@[simp] theorem modMt_trackers (s : State) (k : Nat) (f : MT → MT) : (s.modMt k f).trackers = s.trackers := rfl
@[simp] theorem modMt_posts (s : State) (k : Nat) (f : MT → MT) : (s.modMt k f).posts = s.posts := rfl
@[simp] theorem modMt_tasks (s : State) (k : Nat) (f : MT → MT) : (s.modMt k f).tasks = s.tasks := rfl
@[simp] theorem modMt_templates (s : State) (k : Nat) (f : MT → MT) : (s.modMt k f).templates = s.templates := rfl
@[simp] theorem modMt_dsp (s : State) (k : Nat) (f : MT → MT) : (s.modMt k f).dsp = s.dsp := rfl
@[simp] theorem modMt_images (s : State) (k : Nat) (f : MT → MT) : (s.modMt k f).images = s.images := rfl
@[simp] theorem modMt_saved (s : State) (k : Nat) (f : MT → MT) : (s.modMt k f).saved = s.saved := rfl
@[simp] theorem modMt_files (s : State) (k : Nat) (f : MT → MT) : (s.modMt k f).files = s.files := rfl
@[simp] theorem modMt_faults (s : State) (k : Nat) (f : MT → MT) : (s.modMt k f).faults = s.faults := rfl
@[simp] theorem modMt_cores (s : State) (k : Nat) (f : MT → MT) : (s.modMt k f).cores = s.cores := rfl
@[simp] theorem modMt_svcs (s : State) (k : Nat) (f : MT → MT) : (s.modMt k f).svcs = s.svcs := rfl
@[simp] theorem modMt_clsmap (s : State) (k : Nat) (f : MT → MT) : (s.modMt k f).clsmap = s.clsmap := rfl
@[simp] theorem modMt_dies (s : State) (k : Nat) (f : MT → MT) : (s.modMt k f).dies = s.dies := rfl
@[simp] theorem modMt_fuses (s : State) (k : Nat) (f : MT → MT) : (s.modMt k f).fuses = s.fuses := rfl
@[simp] theorem modMt_repair (s : State) (k : Nat) (f : MT → MT) : (s.modMt k f).repair = s.repair := rfl
@[simp] theorem modMt_slews (s : State) (k : Nat) (f : MT → MT) : (s.modMt k f).slews = s.slews := rfl
@[simp] theorem modMt_links (s : State) (k : Nat) (f : MT → MT) : (s.modMt k f).links = s.links := rfl
@[simp] theorem modMt_host (s : State) (k : Nat) (f : MT → MT) : (s.modMt k f).host = s.host := rfl
@[simp] theorem modMt_boot (s : State) (k : Nat) (f : MT → MT) : (s.modMt k f).boot = s.boot := rfl
@[simp] theorem modMt_testing (s : State) (k : Nat) (f : MT → MT) : (s.modMt k f).testing = s.testing := rfl

/-! ### putCopy -/

@[simp] theorem putCopy_agenda (s : State) (k c : Nat) (x : Copy) : (s.putCopy k c x).agenda = s.agenda := rfl
@[simp] theorem putCopy_focus (s : State) (k c : Nat) (x : Copy) : (s.putCopy k c x).focus = s.focus := rfl
@[simp] theorem putCopy_acted (s : State) (k c : Nat) (x : Copy) : (s.putCopy k c x).acted = s.acted := rfl
@[simp] theorem putCopy_free (s : State) (k c : Nat) (x : Copy) : (s.putCopy k c x).free = s.free := rfl
@[simp] theorem putCopy_nextId (s : State) (k c : Nat) (x : Copy) : (s.putCopy k c x).nextId = s.nextId := rfl
@[simp] theorem putCopy_cycle (s : State) (k c : Nat) (x : Copy) : (s.putCopy k c x).cycle = s.cycle := rfl
@[simp] theorem putCopy_mem (s : State) (k c : Nat) (x : Copy) : (s.putCopy k c x).mem = s.mem := rfl
@[simp] theorem putCopy_ats (s : State) (k c : Nat) (x : Copy) : (s.putCopy k c x).ats = s.ats := rfl
@[simp] theorem putCopy_mts (s : State) (k c : Nat) (x : Copy) : (s.putCopy k c x).mts = put k { s.mt k with cctx := put c x (s.mt k).cctx } s.mts := rfl
@[simp] theorem putCopy_pts (s : State) (k c : Nat) (x : Copy) : (s.putCopy k c x).pts = s.pts := rfl
@[simp] theorem putCopy_homes (s : State) (k c : Nat) (x : Copy) : (s.putCopy k c x).homes = s.homes := rfl
@[simp] theorem putCopy_revoked (s : State) (k c : Nat) (x : Copy) : (s.putCopy k c x).revoked = s.revoked := rfl
@[simp] theorem putCopy_share (s : State) (k c : Nat) (x : Copy) : (s.putCopy k c x).share = s.share := rfl
@[simp] theorem putCopy_shareSet (s : State) (k c : Nat) (x : Copy) : (s.putCopy k c x).shareSet = s.shareSet := rfl
@[simp] theorem putCopy_broughtUp (s : State) (k c : Nat) (x : Copy) : (s.putCopy k c x).broughtUp = s.broughtUp := rfl
@[simp] theorem putCopy_hostWins (s : State) (k c : Nat) (x : Copy) : (s.putCopy k c x).hostWins = s.hostWins := rfl
@[simp] theorem putCopy_extents (s : State) (k c : Nat) (x : Copy) : (s.putCopy k c x).extents = s.extents := rfl
@[simp] theorem putCopy_bccap (s : State) (k c : Nat) (x : Copy) : (s.putCopy k c x).bccap = s.bccap := rfl
@[simp] theorem putCopy_bcs (s : State) (k c : Nat) (x : Copy) : (s.putCopy k c x).bcs = s.bcs := rfl
@[simp] theorem putCopy_roots (s : State) (k c : Nat) (x : Copy) : (s.putCopy k c x).roots = s.roots := rfl
@[simp] theorem putCopy_reqs (s : State) (k c : Nat) (x : Copy) : (s.putCopy k c x).reqs = s.reqs := rfl
@[simp] theorem putCopy_tickets (s : State) (k c : Nat) (x : Copy) : (s.putCopy k c x).tickets = s.tickets := rfl
@[simp] theorem putCopy_useqs (s : State) (k c : Nat) (x : Copy) : (s.putCopy k c x).useqs = s.useqs := rfl
@[simp] theorem putCopy_mseqs (s : State) (k c : Nat) (x : Copy) : (s.putCopy k c x).mseqs = s.mseqs := rfl
@[simp] theorem putCopy_subs (s : State) (k c : Nat) (x : Copy) : (s.putCopy k c x).subs = s.subs := rfl
@[simp] theorem putCopy_held (s : State) (k c : Nat) (x : Copy) : (s.putCopy k c x).held = s.held := rfl
@[simp] theorem putCopy_syns (s : State) (k c : Nat) (x : Copy) : (s.putCopy k c x).syns = s.syns := rfl
@[simp] theorem putCopy_cmdDone (s : State) (k c : Nat) (x : Copy) : (s.putCopy k c x).cmdDone = s.cmdDone := rfl
@[simp] theorem putCopy_watch (s : State) (k c : Nat) (x : Copy) : (s.putCopy k c x).watch = s.watch := rfl
@[simp] theorem putCopy_watchq (s : State) (k c : Nat) (x : Copy) : (s.putCopy k c x).watchq = s.watchq := rfl
@[simp] theorem putCopy_snap (s : State) (k c : Nat) (x : Copy) : (s.putCopy k c x).snap = s.snap := rfl
@[simp] theorem putCopy_snapq (s : State) (k c : Nat) (x : Copy) : (s.putCopy k c x).snapq = s.snapq := rfl
@[simp] theorem putCopy_res (s : State) (k c : Nat) (x : Copy) : (s.putCopy k c x).res = s.res := rfl
@[simp] theorem putCopy_trackers (s : State) (k c : Nat) (x : Copy) : (s.putCopy k c x).trackers = s.trackers := rfl
@[simp] theorem putCopy_posts (s : State) (k c : Nat) (x : Copy) : (s.putCopy k c x).posts = s.posts := rfl
@[simp] theorem putCopy_tasks (s : State) (k c : Nat) (x : Copy) : (s.putCopy k c x).tasks = s.tasks := rfl
@[simp] theorem putCopy_templates (s : State) (k c : Nat) (x : Copy) : (s.putCopy k c x).templates = s.templates := rfl
@[simp] theorem putCopy_dsp (s : State) (k c : Nat) (x : Copy) : (s.putCopy k c x).dsp = s.dsp := rfl
@[simp] theorem putCopy_images (s : State) (k c : Nat) (x : Copy) : (s.putCopy k c x).images = s.images := rfl
@[simp] theorem putCopy_saved (s : State) (k c : Nat) (x : Copy) : (s.putCopy k c x).saved = s.saved := rfl
@[simp] theorem putCopy_files (s : State) (k c : Nat) (x : Copy) : (s.putCopy k c x).files = s.files := rfl
@[simp] theorem putCopy_faults (s : State) (k c : Nat) (x : Copy) : (s.putCopy k c x).faults = s.faults := rfl
@[simp] theorem putCopy_cores (s : State) (k c : Nat) (x : Copy) : (s.putCopy k c x).cores = s.cores := rfl
@[simp] theorem putCopy_svcs (s : State) (k c : Nat) (x : Copy) : (s.putCopy k c x).svcs = s.svcs := rfl
@[simp] theorem putCopy_clsmap (s : State) (k c : Nat) (x : Copy) : (s.putCopy k c x).clsmap = s.clsmap := rfl
@[simp] theorem putCopy_dies (s : State) (k c : Nat) (x : Copy) : (s.putCopy k c x).dies = s.dies := rfl
@[simp] theorem putCopy_fuses (s : State) (k c : Nat) (x : Copy) : (s.putCopy k c x).fuses = s.fuses := rfl
@[simp] theorem putCopy_repair (s : State) (k c : Nat) (x : Copy) : (s.putCopy k c x).repair = s.repair := rfl
@[simp] theorem putCopy_slews (s : State) (k c : Nat) (x : Copy) : (s.putCopy k c x).slews = s.slews := rfl
@[simp] theorem putCopy_links (s : State) (k c : Nat) (x : Copy) : (s.putCopy k c x).links = s.links := rfl
@[simp] theorem putCopy_host (s : State) (k c : Nat) (x : Copy) : (s.putCopy k c x).host = s.host := rfl
@[simp] theorem putCopy_boot (s : State) (k c : Nat) (x : Copy) : (s.putCopy k c x).boot = s.boot := rfl
@[simp] theorem putCopy_testing (s : State) (k c : Nat) (x : Copy) : (s.putCopy k c x).testing = s.testing := rfl

/-! ### putStrm -/

@[simp] theorem putStrm_agenda (s : State) (k c : Nat) (x : Strm) : (s.putStrm k c x).agenda = s.agenda := rfl
@[simp] theorem putStrm_focus (s : State) (k c : Nat) (x : Strm) : (s.putStrm k c x).focus = s.focus := rfl
@[simp] theorem putStrm_acted (s : State) (k c : Nat) (x : Strm) : (s.putStrm k c x).acted = s.acted := rfl
@[simp] theorem putStrm_free (s : State) (k c : Nat) (x : Strm) : (s.putStrm k c x).free = s.free := rfl
@[simp] theorem putStrm_nextId (s : State) (k c : Nat) (x : Strm) : (s.putStrm k c x).nextId = s.nextId := rfl
@[simp] theorem putStrm_cycle (s : State) (k c : Nat) (x : Strm) : (s.putStrm k c x).cycle = s.cycle := rfl
@[simp] theorem putStrm_mem (s : State) (k c : Nat) (x : Strm) : (s.putStrm k c x).mem = s.mem := rfl
@[simp] theorem putStrm_ats (s : State) (k c : Nat) (x : Strm) : (s.putStrm k c x).ats = s.ats := rfl
@[simp] theorem putStrm_mts (s : State) (k c : Nat) (x : Strm) : (s.putStrm k c x).mts = put k { s.mt k with sctx := put c x (s.mt k).sctx } s.mts := rfl
@[simp] theorem putStrm_pts (s : State) (k c : Nat) (x : Strm) : (s.putStrm k c x).pts = s.pts := rfl
@[simp] theorem putStrm_homes (s : State) (k c : Nat) (x : Strm) : (s.putStrm k c x).homes = s.homes := rfl
@[simp] theorem putStrm_revoked (s : State) (k c : Nat) (x : Strm) : (s.putStrm k c x).revoked = s.revoked := rfl
@[simp] theorem putStrm_share (s : State) (k c : Nat) (x : Strm) : (s.putStrm k c x).share = s.share := rfl
@[simp] theorem putStrm_shareSet (s : State) (k c : Nat) (x : Strm) : (s.putStrm k c x).shareSet = s.shareSet := rfl
@[simp] theorem putStrm_broughtUp (s : State) (k c : Nat) (x : Strm) : (s.putStrm k c x).broughtUp = s.broughtUp := rfl
@[simp] theorem putStrm_hostWins (s : State) (k c : Nat) (x : Strm) : (s.putStrm k c x).hostWins = s.hostWins := rfl
@[simp] theorem putStrm_extents (s : State) (k c : Nat) (x : Strm) : (s.putStrm k c x).extents = s.extents := rfl
@[simp] theorem putStrm_bccap (s : State) (k c : Nat) (x : Strm) : (s.putStrm k c x).bccap = s.bccap := rfl
@[simp] theorem putStrm_bcs (s : State) (k c : Nat) (x : Strm) : (s.putStrm k c x).bcs = s.bcs := rfl
@[simp] theorem putStrm_roots (s : State) (k c : Nat) (x : Strm) : (s.putStrm k c x).roots = s.roots := rfl
@[simp] theorem putStrm_reqs (s : State) (k c : Nat) (x : Strm) : (s.putStrm k c x).reqs = s.reqs := rfl
@[simp] theorem putStrm_tickets (s : State) (k c : Nat) (x : Strm) : (s.putStrm k c x).tickets = s.tickets := rfl
@[simp] theorem putStrm_useqs (s : State) (k c : Nat) (x : Strm) : (s.putStrm k c x).useqs = s.useqs := rfl
@[simp] theorem putStrm_mseqs (s : State) (k c : Nat) (x : Strm) : (s.putStrm k c x).mseqs = s.mseqs := rfl
@[simp] theorem putStrm_subs (s : State) (k c : Nat) (x : Strm) : (s.putStrm k c x).subs = s.subs := rfl
@[simp] theorem putStrm_held (s : State) (k c : Nat) (x : Strm) : (s.putStrm k c x).held = s.held := rfl
@[simp] theorem putStrm_syns (s : State) (k c : Nat) (x : Strm) : (s.putStrm k c x).syns = s.syns := rfl
@[simp] theorem putStrm_cmdDone (s : State) (k c : Nat) (x : Strm) : (s.putStrm k c x).cmdDone = s.cmdDone := rfl
@[simp] theorem putStrm_watch (s : State) (k c : Nat) (x : Strm) : (s.putStrm k c x).watch = s.watch := rfl
@[simp] theorem putStrm_watchq (s : State) (k c : Nat) (x : Strm) : (s.putStrm k c x).watchq = s.watchq := rfl
@[simp] theorem putStrm_snap (s : State) (k c : Nat) (x : Strm) : (s.putStrm k c x).snap = s.snap := rfl
@[simp] theorem putStrm_snapq (s : State) (k c : Nat) (x : Strm) : (s.putStrm k c x).snapq = s.snapq := rfl
@[simp] theorem putStrm_res (s : State) (k c : Nat) (x : Strm) : (s.putStrm k c x).res = s.res := rfl
@[simp] theorem putStrm_trackers (s : State) (k c : Nat) (x : Strm) : (s.putStrm k c x).trackers = s.trackers := rfl
@[simp] theorem putStrm_posts (s : State) (k c : Nat) (x : Strm) : (s.putStrm k c x).posts = s.posts := rfl
@[simp] theorem putStrm_tasks (s : State) (k c : Nat) (x : Strm) : (s.putStrm k c x).tasks = s.tasks := rfl
@[simp] theorem putStrm_templates (s : State) (k c : Nat) (x : Strm) : (s.putStrm k c x).templates = s.templates := rfl
@[simp] theorem putStrm_dsp (s : State) (k c : Nat) (x : Strm) : (s.putStrm k c x).dsp = s.dsp := rfl
@[simp] theorem putStrm_images (s : State) (k c : Nat) (x : Strm) : (s.putStrm k c x).images = s.images := rfl
@[simp] theorem putStrm_saved (s : State) (k c : Nat) (x : Strm) : (s.putStrm k c x).saved = s.saved := rfl
@[simp] theorem putStrm_files (s : State) (k c : Nat) (x : Strm) : (s.putStrm k c x).files = s.files := rfl
@[simp] theorem putStrm_faults (s : State) (k c : Nat) (x : Strm) : (s.putStrm k c x).faults = s.faults := rfl
@[simp] theorem putStrm_cores (s : State) (k c : Nat) (x : Strm) : (s.putStrm k c x).cores = s.cores := rfl
@[simp] theorem putStrm_svcs (s : State) (k c : Nat) (x : Strm) : (s.putStrm k c x).svcs = s.svcs := rfl
@[simp] theorem putStrm_clsmap (s : State) (k c : Nat) (x : Strm) : (s.putStrm k c x).clsmap = s.clsmap := rfl
@[simp] theorem putStrm_dies (s : State) (k c : Nat) (x : Strm) : (s.putStrm k c x).dies = s.dies := rfl
@[simp] theorem putStrm_fuses (s : State) (k c : Nat) (x : Strm) : (s.putStrm k c x).fuses = s.fuses := rfl
@[simp] theorem putStrm_repair (s : State) (k c : Nat) (x : Strm) : (s.putStrm k c x).repair = s.repair := rfl
@[simp] theorem putStrm_slews (s : State) (k c : Nat) (x : Strm) : (s.putStrm k c x).slews = s.slews := rfl
@[simp] theorem putStrm_links (s : State) (k c : Nat) (x : Strm) : (s.putStrm k c x).links = s.links := rfl
@[simp] theorem putStrm_host (s : State) (k c : Nat) (x : Strm) : (s.putStrm k c x).host = s.host := rfl
@[simp] theorem putStrm_boot (s : State) (k c : Nat) (x : Strm) : (s.putStrm k c x).boot = s.boot := rfl
@[simp] theorem putStrm_testing (s : State) (k c : Nat) (x : Strm) : (s.putStrm k c x).testing = s.testing := rfl

/-! ### modTask -/

@[simp] theorem modTask_agenda (s : State) (h : Nat) (f : Task → Task) : (s.modTask h f).agenda = s.agenda := rfl
@[simp] theorem modTask_focus (s : State) (h : Nat) (f : Task → Task) : (s.modTask h f).focus = s.focus := rfl
@[simp] theorem modTask_acted (s : State) (h : Nat) (f : Task → Task) : (s.modTask h f).acted = s.acted := rfl
@[simp] theorem modTask_free (s : State) (h : Nat) (f : Task → Task) : (s.modTask h f).free = s.free := rfl
@[simp] theorem modTask_nextId (s : State) (h : Nat) (f : Task → Task) : (s.modTask h f).nextId = s.nextId := rfl
@[simp] theorem modTask_cycle (s : State) (h : Nat) (f : Task → Task) : (s.modTask h f).cycle = s.cycle := rfl
@[simp] theorem modTask_mem (s : State) (h : Nat) (f : Task → Task) : (s.modTask h f).mem = s.mem := rfl
@[simp] theorem modTask_ats (s : State) (h : Nat) (f : Task → Task) : (s.modTask h f).ats = s.ats := rfl
@[simp] theorem modTask_mts (s : State) (h : Nat) (f : Task → Task) : (s.modTask h f).mts = s.mts := rfl
@[simp] theorem modTask_pts (s : State) (h : Nat) (f : Task → Task) : (s.modTask h f).pts = s.pts := rfl
@[simp] theorem modTask_homes (s : State) (h : Nat) (f : Task → Task) : (s.modTask h f).homes = s.homes := rfl
@[simp] theorem modTask_revoked (s : State) (h : Nat) (f : Task → Task) : (s.modTask h f).revoked = s.revoked := rfl
@[simp] theorem modTask_share (s : State) (h : Nat) (f : Task → Task) : (s.modTask h f).share = s.share := rfl
@[simp] theorem modTask_shareSet (s : State) (h : Nat) (f : Task → Task) : (s.modTask h f).shareSet = s.shareSet := rfl
@[simp] theorem modTask_broughtUp (s : State) (h : Nat) (f : Task → Task) : (s.modTask h f).broughtUp = s.broughtUp := rfl
@[simp] theorem modTask_hostWins (s : State) (h : Nat) (f : Task → Task) : (s.modTask h f).hostWins = s.hostWins := rfl
@[simp] theorem modTask_extents (s : State) (h : Nat) (f : Task → Task) : (s.modTask h f).extents = s.extents := rfl
@[simp] theorem modTask_bccap (s : State) (h : Nat) (f : Task → Task) : (s.modTask h f).bccap = s.bccap := rfl
@[simp] theorem modTask_bcs (s : State) (h : Nat) (f : Task → Task) : (s.modTask h f).bcs = s.bcs := rfl
@[simp] theorem modTask_roots (s : State) (h : Nat) (f : Task → Task) : (s.modTask h f).roots = s.roots := rfl
@[simp] theorem modTask_reqs (s : State) (h : Nat) (f : Task → Task) : (s.modTask h f).reqs = s.reqs := rfl
@[simp] theorem modTask_tickets (s : State) (h : Nat) (f : Task → Task) : (s.modTask h f).tickets = s.tickets := rfl
@[simp] theorem modTask_useqs (s : State) (h : Nat) (f : Task → Task) : (s.modTask h f).useqs = s.useqs := rfl
@[simp] theorem modTask_mseqs (s : State) (h : Nat) (f : Task → Task) : (s.modTask h f).mseqs = s.mseqs := rfl
@[simp] theorem modTask_subs (s : State) (h : Nat) (f : Task → Task) : (s.modTask h f).subs = s.subs := rfl
@[simp] theorem modTask_held (s : State) (h : Nat) (f : Task → Task) : (s.modTask h f).held = s.held := rfl
@[simp] theorem modTask_syns (s : State) (h : Nat) (f : Task → Task) : (s.modTask h f).syns = s.syns := rfl
@[simp] theorem modTask_cmdDone (s : State) (h : Nat) (f : Task → Task) : (s.modTask h f).cmdDone = s.cmdDone := rfl
@[simp] theorem modTask_watch (s : State) (h : Nat) (f : Task → Task) : (s.modTask h f).watch = s.watch := rfl
@[simp] theorem modTask_watchq (s : State) (h : Nat) (f : Task → Task) : (s.modTask h f).watchq = s.watchq := rfl
@[simp] theorem modTask_snap (s : State) (h : Nat) (f : Task → Task) : (s.modTask h f).snap = s.snap := rfl
@[simp] theorem modTask_snapq (s : State) (h : Nat) (f : Task → Task) : (s.modTask h f).snapq = s.snapq := rfl
@[simp] theorem modTask_res (s : State) (h : Nat) (f : Task → Task) : (s.modTask h f).res = s.res := rfl
@[simp] theorem modTask_trackers (s : State) (h : Nat) (f : Task → Task) : (s.modTask h f).trackers = s.trackers := rfl
@[simp] theorem modTask_posts (s : State) (h : Nat) (f : Task → Task) : (s.modTask h f).posts = s.posts := rfl
@[simp] theorem modTask_tasks (s : State) (h : Nat) (f : Task → Task) : (s.modTask h f).tasks = upd {} h f s.tasks := rfl
@[simp] theorem modTask_templates (s : State) (h : Nat) (f : Task → Task) : (s.modTask h f).templates = s.templates := rfl
@[simp] theorem modTask_dsp (s : State) (h : Nat) (f : Task → Task) : (s.modTask h f).dsp = s.dsp := rfl
@[simp] theorem modTask_images (s : State) (h : Nat) (f : Task → Task) : (s.modTask h f).images = s.images := rfl
@[simp] theorem modTask_saved (s : State) (h : Nat) (f : Task → Task) : (s.modTask h f).saved = s.saved := rfl
@[simp] theorem modTask_files (s : State) (h : Nat) (f : Task → Task) : (s.modTask h f).files = s.files := rfl
@[simp] theorem modTask_faults (s : State) (h : Nat) (f : Task → Task) : (s.modTask h f).faults = s.faults := rfl
@[simp] theorem modTask_cores (s : State) (h : Nat) (f : Task → Task) : (s.modTask h f).cores = s.cores := rfl
@[simp] theorem modTask_svcs (s : State) (h : Nat) (f : Task → Task) : (s.modTask h f).svcs = s.svcs := rfl
@[simp] theorem modTask_clsmap (s : State) (h : Nat) (f : Task → Task) : (s.modTask h f).clsmap = s.clsmap := rfl
@[simp] theorem modTask_dies (s : State) (h : Nat) (f : Task → Task) : (s.modTask h f).dies = s.dies := rfl
@[simp] theorem modTask_fuses (s : State) (h : Nat) (f : Task → Task) : (s.modTask h f).fuses = s.fuses := rfl
@[simp] theorem modTask_repair (s : State) (h : Nat) (f : Task → Task) : (s.modTask h f).repair = s.repair := rfl
@[simp] theorem modTask_slews (s : State) (h : Nat) (f : Task → Task) : (s.modTask h f).slews = s.slews := rfl
@[simp] theorem modTask_links (s : State) (h : Nat) (f : Task → Task) : (s.modTask h f).links = s.links := rfl
@[simp] theorem modTask_host (s : State) (h : Nat) (f : Task → Task) : (s.modTask h f).host = s.host := rfl
@[simp] theorem modTask_boot (s : State) (h : Nat) (f : Task → Task) : (s.modTask h f).boot = s.boot := rfl
@[simp] theorem modTask_testing (s : State) (h : Nat) (f : Task → Task) : (s.modTask h f).testing = s.testing := rfl

/-! ### act -/

@[simp] theorem act_agenda (s : State) : (s.act).agenda = s.agenda := rfl
@[simp] theorem act_focus (s : State) : (s.act).focus = s.focus := rfl
@[simp] theorem act_acted (s : State) : (s.act).acted = true := rfl
@[simp] theorem act_free (s : State) : (s.act).free = s.free := rfl
@[simp] theorem act_nextId (s : State) : (s.act).nextId = s.nextId := rfl
@[simp] theorem act_cycle (s : State) : (s.act).cycle = s.cycle := rfl
@[simp] theorem act_mem (s : State) : (s.act).mem = s.mem := rfl
@[simp] theorem act_ats (s : State) : (s.act).ats = s.ats := rfl
@[simp] theorem act_mts (s : State) : (s.act).mts = s.mts := rfl
@[simp] theorem act_pts (s : State) : (s.act).pts = s.pts := rfl
@[simp] theorem act_homes (s : State) : (s.act).homes = s.homes := rfl
@[simp] theorem act_revoked (s : State) : (s.act).revoked = s.revoked := rfl
@[simp] theorem act_share (s : State) : (s.act).share = s.share := rfl
@[simp] theorem act_shareSet (s : State) : (s.act).shareSet = s.shareSet := rfl
@[simp] theorem act_broughtUp (s : State) : (s.act).broughtUp = s.broughtUp := rfl
@[simp] theorem act_hostWins (s : State) : (s.act).hostWins = s.hostWins := rfl
@[simp] theorem act_extents (s : State) : (s.act).extents = s.extents := rfl
@[simp] theorem act_bccap (s : State) : (s.act).bccap = s.bccap := rfl
@[simp] theorem act_bcs (s : State) : (s.act).bcs = s.bcs := rfl
@[simp] theorem act_roots (s : State) : (s.act).roots = s.roots := rfl
@[simp] theorem act_reqs (s : State) : (s.act).reqs = s.reqs := rfl
@[simp] theorem act_tickets (s : State) : (s.act).tickets = s.tickets := rfl
@[simp] theorem act_useqs (s : State) : (s.act).useqs = s.useqs := rfl
@[simp] theorem act_mseqs (s : State) : (s.act).mseqs = s.mseqs := rfl
@[simp] theorem act_subs (s : State) : (s.act).subs = s.subs := rfl
@[simp] theorem act_held (s : State) : (s.act).held = s.held := rfl
@[simp] theorem act_syns (s : State) : (s.act).syns = s.syns := rfl
@[simp] theorem act_cmdDone (s : State) : (s.act).cmdDone = s.cmdDone := rfl
@[simp] theorem act_watch (s : State) : (s.act).watch = s.watch := rfl
@[simp] theorem act_watchq (s : State) : (s.act).watchq = s.watchq := rfl
@[simp] theorem act_snap (s : State) : (s.act).snap = s.snap := rfl
@[simp] theorem act_snapq (s : State) : (s.act).snapq = s.snapq := rfl
@[simp] theorem act_res (s : State) : (s.act).res = s.res := rfl
@[simp] theorem act_trackers (s : State) : (s.act).trackers = s.trackers := rfl
@[simp] theorem act_posts (s : State) : (s.act).posts = s.posts := rfl
@[simp] theorem act_tasks (s : State) : (s.act).tasks = s.tasks := rfl
@[simp] theorem act_templates (s : State) : (s.act).templates = s.templates := rfl
@[simp] theorem act_dsp (s : State) : (s.act).dsp = s.dsp := rfl
@[simp] theorem act_images (s : State) : (s.act).images = s.images := rfl
@[simp] theorem act_saved (s : State) : (s.act).saved = s.saved := rfl
@[simp] theorem act_files (s : State) : (s.act).files = s.files := rfl
@[simp] theorem act_faults (s : State) : (s.act).faults = s.faults := rfl
@[simp] theorem act_cores (s : State) : (s.act).cores = s.cores := rfl
@[simp] theorem act_svcs (s : State) : (s.act).svcs = s.svcs := rfl
@[simp] theorem act_clsmap (s : State) : (s.act).clsmap = s.clsmap := rfl
@[simp] theorem act_dies (s : State) : (s.act).dies = s.dies := rfl
@[simp] theorem act_fuses (s : State) : (s.act).fuses = s.fuses := rfl
@[simp] theorem act_repair (s : State) : (s.act).repair = s.repair := rfl
@[simp] theorem act_slews (s : State) : (s.act).slews = s.slews := rfl
@[simp] theorem act_links (s : State) : (s.act).links = s.links := rfl
@[simp] theorem act_host (s : State) : (s.act).host = s.host := rfl
@[simp] theorem act_boot (s : State) : (s.act).boot = s.boot := rfl
@[simp] theorem act_testing (s : State) : (s.act).testing = s.testing := rfl

/-! ### raise -/

@[simp] theorem raise_agenda (s : State) (f : FRec) : (s.raise f).agenda = s.agenda := rfl
@[simp] theorem raise_focus (s : State) (f : FRec) : (s.raise f).focus = s.focus := rfl
@[simp] theorem raise_acted (s : State) (f : FRec) : (s.raise f).acted = s.acted := rfl
@[simp] theorem raise_free (s : State) (f : FRec) : (s.raise f).free = s.free := rfl
@[simp] theorem raise_nextId (s : State) (f : FRec) : (s.raise f).nextId = s.nextId := rfl
@[simp] theorem raise_cycle (s : State) (f : FRec) : (s.raise f).cycle = s.cycle := rfl
@[simp] theorem raise_mem (s : State) (f : FRec) : (s.raise f).mem = s.mem := rfl
@[simp] theorem raise_ats (s : State) (f : FRec) : (s.raise f).ats = s.ats := rfl
@[simp] theorem raise_mts (s : State) (f : FRec) : (s.raise f).mts = s.mts := rfl
@[simp] theorem raise_pts (s : State) (f : FRec) : (s.raise f).pts = s.pts := rfl
@[simp] theorem raise_homes (s : State) (f : FRec) : (s.raise f).homes = s.homes := rfl
@[simp] theorem raise_revoked (s : State) (f : FRec) : (s.raise f).revoked = s.revoked := rfl
@[simp] theorem raise_share (s : State) (f : FRec) : (s.raise f).share = s.share := rfl
@[simp] theorem raise_shareSet (s : State) (f : FRec) : (s.raise f).shareSet = s.shareSet := rfl
@[simp] theorem raise_broughtUp (s : State) (f : FRec) : (s.raise f).broughtUp = s.broughtUp := rfl
@[simp] theorem raise_hostWins (s : State) (f : FRec) : (s.raise f).hostWins = s.hostWins := rfl
@[simp] theorem raise_extents (s : State) (f : FRec) : (s.raise f).extents = s.extents := rfl
@[simp] theorem raise_bccap (s : State) (f : FRec) : (s.raise f).bccap = s.bccap := rfl
@[simp] theorem raise_bcs (s : State) (f : FRec) : (s.raise f).bcs = s.bcs := rfl
@[simp] theorem raise_roots (s : State) (f : FRec) : (s.raise f).roots = s.roots := rfl
@[simp] theorem raise_reqs (s : State) (f : FRec) : (s.raise f).reqs = s.reqs := rfl
@[simp] theorem raise_tickets (s : State) (f : FRec) : (s.raise f).tickets = s.tickets := rfl
@[simp] theorem raise_useqs (s : State) (f : FRec) : (s.raise f).useqs = s.useqs := rfl
@[simp] theorem raise_mseqs (s : State) (f : FRec) : (s.raise f).mseqs = s.mseqs := rfl
@[simp] theorem raise_subs (s : State) (f : FRec) : (s.raise f).subs = s.subs := rfl
@[simp] theorem raise_held (s : State) (f : FRec) : (s.raise f).held = s.held := rfl
@[simp] theorem raise_syns (s : State) (f : FRec) : (s.raise f).syns = s.syns := rfl
@[simp] theorem raise_cmdDone (s : State) (f : FRec) : (s.raise f).cmdDone = s.cmdDone := rfl
@[simp] theorem raise_watch (s : State) (f : FRec) : (s.raise f).watch = s.watch := rfl
@[simp] theorem raise_watchq (s : State) (f : FRec) : (s.raise f).watchq = s.watchq := rfl
@[simp] theorem raise_snap (s : State) (f : FRec) : (s.raise f).snap = s.snap := rfl
@[simp] theorem raise_snapq (s : State) (f : FRec) : (s.raise f).snapq = s.snapq := rfl
@[simp] theorem raise_res (s : State) (f : FRec) : (s.raise f).res = s.res := rfl
@[simp] theorem raise_trackers (s : State) (f : FRec) : (s.raise f).trackers = s.trackers := rfl
@[simp] theorem raise_posts (s : State) (f : FRec) : (s.raise f).posts = s.posts := rfl
@[simp] theorem raise_tasks (s : State) (f : FRec) : (s.raise f).tasks = s.tasks := rfl
@[simp] theorem raise_templates (s : State) (f : FRec) : (s.raise f).templates = s.templates := rfl
@[simp] theorem raise_dsp (s : State) (f : FRec) : (s.raise f).dsp = s.dsp := rfl
@[simp] theorem raise_images (s : State) (f : FRec) : (s.raise f).images = s.images := rfl
@[simp] theorem raise_saved (s : State) (f : FRec) : (s.raise f).saved = s.saved := rfl
@[simp] theorem raise_files (s : State) (f : FRec) : (s.raise f).files = s.files := rfl
@[simp] theorem raise_faults (s : State) (f : FRec) : (s.raise f).faults = { s.faults with incoming := s.faults.incoming ++ [f] } := rfl
@[simp] theorem raise_cores (s : State) (f : FRec) : (s.raise f).cores = s.cores := rfl
@[simp] theorem raise_svcs (s : State) (f : FRec) : (s.raise f).svcs = s.svcs := rfl
@[simp] theorem raise_clsmap (s : State) (f : FRec) : (s.raise f).clsmap = s.clsmap := rfl
@[simp] theorem raise_dies (s : State) (f : FRec) : (s.raise f).dies = s.dies := rfl
@[simp] theorem raise_fuses (s : State) (f : FRec) : (s.raise f).fuses = s.fuses := rfl
@[simp] theorem raise_repair (s : State) (f : FRec) : (s.raise f).repair = s.repair := rfl
@[simp] theorem raise_slews (s : State) (f : FRec) : (s.raise f).slews = s.slews := rfl
@[simp] theorem raise_links (s : State) (f : FRec) : (s.raise f).links = s.links := rfl
@[simp] theorem raise_host (s : State) (f : FRec) : (s.raise f).host = s.host := rfl
@[simp] theorem raise_boot (s : State) (f : FRec) : (s.raise f).boot = s.boot := rfl
@[simp] theorem raise_testing (s : State) (f : FRec) : (s.raise f).testing = s.testing := rfl

/-! ### modFaults -/

@[simp] theorem modFaults_agenda (s : State) (f : FaultCtl → FaultCtl) : (s.modFaults f).agenda = s.agenda := rfl
@[simp] theorem modFaults_focus (s : State) (f : FaultCtl → FaultCtl) : (s.modFaults f).focus = s.focus := rfl
@[simp] theorem modFaults_acted (s : State) (f : FaultCtl → FaultCtl) : (s.modFaults f).acted = s.acted := rfl
@[simp] theorem modFaults_free (s : State) (f : FaultCtl → FaultCtl) : (s.modFaults f).free = s.free := rfl
@[simp] theorem modFaults_nextId (s : State) (f : FaultCtl → FaultCtl) : (s.modFaults f).nextId = s.nextId := rfl
@[simp] theorem modFaults_cycle (s : State) (f : FaultCtl → FaultCtl) : (s.modFaults f).cycle = s.cycle := rfl
@[simp] theorem modFaults_mem (s : State) (f : FaultCtl → FaultCtl) : (s.modFaults f).mem = s.mem := rfl
@[simp] theorem modFaults_ats (s : State) (f : FaultCtl → FaultCtl) : (s.modFaults f).ats = s.ats := rfl
@[simp] theorem modFaults_mts (s : State) (f : FaultCtl → FaultCtl) : (s.modFaults f).mts = s.mts := rfl
@[simp] theorem modFaults_pts (s : State) (f : FaultCtl → FaultCtl) : (s.modFaults f).pts = s.pts := rfl
@[simp] theorem modFaults_homes (s : State) (f : FaultCtl → FaultCtl) : (s.modFaults f).homes = s.homes := rfl
@[simp] theorem modFaults_revoked (s : State) (f : FaultCtl → FaultCtl) : (s.modFaults f).revoked = s.revoked := rfl
@[simp] theorem modFaults_share (s : State) (f : FaultCtl → FaultCtl) : (s.modFaults f).share = s.share := rfl
@[simp] theorem modFaults_shareSet (s : State) (f : FaultCtl → FaultCtl) : (s.modFaults f).shareSet = s.shareSet := rfl
@[simp] theorem modFaults_broughtUp (s : State) (f : FaultCtl → FaultCtl) : (s.modFaults f).broughtUp = s.broughtUp := rfl
@[simp] theorem modFaults_hostWins (s : State) (f : FaultCtl → FaultCtl) : (s.modFaults f).hostWins = s.hostWins := rfl
@[simp] theorem modFaults_extents (s : State) (f : FaultCtl → FaultCtl) : (s.modFaults f).extents = s.extents := rfl
@[simp] theorem modFaults_bccap (s : State) (f : FaultCtl → FaultCtl) : (s.modFaults f).bccap = s.bccap := rfl
@[simp] theorem modFaults_bcs (s : State) (f : FaultCtl → FaultCtl) : (s.modFaults f).bcs = s.bcs := rfl
@[simp] theorem modFaults_roots (s : State) (f : FaultCtl → FaultCtl) : (s.modFaults f).roots = s.roots := rfl
@[simp] theorem modFaults_reqs (s : State) (f : FaultCtl → FaultCtl) : (s.modFaults f).reqs = s.reqs := rfl
@[simp] theorem modFaults_tickets (s : State) (f : FaultCtl → FaultCtl) : (s.modFaults f).tickets = s.tickets := rfl
@[simp] theorem modFaults_useqs (s : State) (f : FaultCtl → FaultCtl) : (s.modFaults f).useqs = s.useqs := rfl
@[simp] theorem modFaults_mseqs (s : State) (f : FaultCtl → FaultCtl) : (s.modFaults f).mseqs = s.mseqs := rfl
@[simp] theorem modFaults_subs (s : State) (f : FaultCtl → FaultCtl) : (s.modFaults f).subs = s.subs := rfl
@[simp] theorem modFaults_held (s : State) (f : FaultCtl → FaultCtl) : (s.modFaults f).held = s.held := rfl
@[simp] theorem modFaults_syns (s : State) (f : FaultCtl → FaultCtl) : (s.modFaults f).syns = s.syns := rfl
@[simp] theorem modFaults_cmdDone (s : State) (f : FaultCtl → FaultCtl) : (s.modFaults f).cmdDone = s.cmdDone := rfl
@[simp] theorem modFaults_watch (s : State) (f : FaultCtl → FaultCtl) : (s.modFaults f).watch = s.watch := rfl
@[simp] theorem modFaults_watchq (s : State) (f : FaultCtl → FaultCtl) : (s.modFaults f).watchq = s.watchq := rfl
@[simp] theorem modFaults_snap (s : State) (f : FaultCtl → FaultCtl) : (s.modFaults f).snap = s.snap := rfl
@[simp] theorem modFaults_snapq (s : State) (f : FaultCtl → FaultCtl) : (s.modFaults f).snapq = s.snapq := rfl
@[simp] theorem modFaults_res (s : State) (f : FaultCtl → FaultCtl) : (s.modFaults f).res = s.res := rfl
@[simp] theorem modFaults_trackers (s : State) (f : FaultCtl → FaultCtl) : (s.modFaults f).trackers = s.trackers := rfl
@[simp] theorem modFaults_posts (s : State) (f : FaultCtl → FaultCtl) : (s.modFaults f).posts = s.posts := rfl
@[simp] theorem modFaults_tasks (s : State) (f : FaultCtl → FaultCtl) : (s.modFaults f).tasks = s.tasks := rfl
@[simp] theorem modFaults_templates (s : State) (f : FaultCtl → FaultCtl) : (s.modFaults f).templates = s.templates := rfl
@[simp] theorem modFaults_dsp (s : State) (f : FaultCtl → FaultCtl) : (s.modFaults f).dsp = s.dsp := rfl
@[simp] theorem modFaults_images (s : State) (f : FaultCtl → FaultCtl) : (s.modFaults f).images = s.images := rfl
@[simp] theorem modFaults_saved (s : State) (f : FaultCtl → FaultCtl) : (s.modFaults f).saved = s.saved := rfl
@[simp] theorem modFaults_files (s : State) (f : FaultCtl → FaultCtl) : (s.modFaults f).files = s.files := rfl
@[simp] theorem modFaults_faults (s : State) (f : FaultCtl → FaultCtl) : (s.modFaults f).faults = f s.faults := rfl
@[simp] theorem modFaults_cores (s : State) (f : FaultCtl → FaultCtl) : (s.modFaults f).cores = s.cores := rfl
@[simp] theorem modFaults_svcs (s : State) (f : FaultCtl → FaultCtl) : (s.modFaults f).svcs = s.svcs := rfl
@[simp] theorem modFaults_clsmap (s : State) (f : FaultCtl → FaultCtl) : (s.modFaults f).clsmap = s.clsmap := rfl
@[simp] theorem modFaults_dies (s : State) (f : FaultCtl → FaultCtl) : (s.modFaults f).dies = s.dies := rfl
@[simp] theorem modFaults_fuses (s : State) (f : FaultCtl → FaultCtl) : (s.modFaults f).fuses = s.fuses := rfl
@[simp] theorem modFaults_repair (s : State) (f : FaultCtl → FaultCtl) : (s.modFaults f).repair = s.repair := rfl
@[simp] theorem modFaults_slews (s : State) (f : FaultCtl → FaultCtl) : (s.modFaults f).slews = s.slews := rfl
@[simp] theorem modFaults_links (s : State) (f : FaultCtl → FaultCtl) : (s.modFaults f).links = s.links := rfl
@[simp] theorem modFaults_host (s : State) (f : FaultCtl → FaultCtl) : (s.modFaults f).host = s.host := rfl
@[simp] theorem modFaults_boot (s : State) (f : FaultCtl → FaultCtl) : (s.modFaults f).boot = s.boot := rfl
@[simp] theorem modFaults_testing (s : State) (f : FaultCtl → FaultCtl) : (s.modFaults f).testing = s.testing := rfl

/-! ### modHost -/

@[simp] theorem modHost_agenda (s : State) (f : HostSt → HostSt) : (s.modHost f).agenda = s.agenda := rfl
@[simp] theorem modHost_focus (s : State) (f : HostSt → HostSt) : (s.modHost f).focus = s.focus := rfl
@[simp] theorem modHost_acted (s : State) (f : HostSt → HostSt) : (s.modHost f).acted = s.acted := rfl
@[simp] theorem modHost_free (s : State) (f : HostSt → HostSt) : (s.modHost f).free = s.free := rfl
@[simp] theorem modHost_nextId (s : State) (f : HostSt → HostSt) : (s.modHost f).nextId = s.nextId := rfl
@[simp] theorem modHost_cycle (s : State) (f : HostSt → HostSt) : (s.modHost f).cycle = s.cycle := rfl
@[simp] theorem modHost_mem (s : State) (f : HostSt → HostSt) : (s.modHost f).mem = s.mem := rfl
@[simp] theorem modHost_ats (s : State) (f : HostSt → HostSt) : (s.modHost f).ats = s.ats := rfl
@[simp] theorem modHost_mts (s : State) (f : HostSt → HostSt) : (s.modHost f).mts = s.mts := rfl
@[simp] theorem modHost_pts (s : State) (f : HostSt → HostSt) : (s.modHost f).pts = s.pts := rfl
@[simp] theorem modHost_homes (s : State) (f : HostSt → HostSt) : (s.modHost f).homes = s.homes := rfl
@[simp] theorem modHost_revoked (s : State) (f : HostSt → HostSt) : (s.modHost f).revoked = s.revoked := rfl
@[simp] theorem modHost_share (s : State) (f : HostSt → HostSt) : (s.modHost f).share = s.share := rfl
@[simp] theorem modHost_shareSet (s : State) (f : HostSt → HostSt) : (s.modHost f).shareSet = s.shareSet := rfl
@[simp] theorem modHost_broughtUp (s : State) (f : HostSt → HostSt) : (s.modHost f).broughtUp = s.broughtUp := rfl
@[simp] theorem modHost_hostWins (s : State) (f : HostSt → HostSt) : (s.modHost f).hostWins = s.hostWins := rfl
@[simp] theorem modHost_extents (s : State) (f : HostSt → HostSt) : (s.modHost f).extents = s.extents := rfl
@[simp] theorem modHost_bccap (s : State) (f : HostSt → HostSt) : (s.modHost f).bccap = s.bccap := rfl
@[simp] theorem modHost_bcs (s : State) (f : HostSt → HostSt) : (s.modHost f).bcs = s.bcs := rfl
@[simp] theorem modHost_roots (s : State) (f : HostSt → HostSt) : (s.modHost f).roots = s.roots := rfl
@[simp] theorem modHost_reqs (s : State) (f : HostSt → HostSt) : (s.modHost f).reqs = s.reqs := rfl
@[simp] theorem modHost_tickets (s : State) (f : HostSt → HostSt) : (s.modHost f).tickets = s.tickets := rfl
@[simp] theorem modHost_useqs (s : State) (f : HostSt → HostSt) : (s.modHost f).useqs = s.useqs := rfl
@[simp] theorem modHost_mseqs (s : State) (f : HostSt → HostSt) : (s.modHost f).mseqs = s.mseqs := rfl
@[simp] theorem modHost_subs (s : State) (f : HostSt → HostSt) : (s.modHost f).subs = s.subs := rfl
@[simp] theorem modHost_held (s : State) (f : HostSt → HostSt) : (s.modHost f).held = s.held := rfl
@[simp] theorem modHost_syns (s : State) (f : HostSt → HostSt) : (s.modHost f).syns = s.syns := rfl
@[simp] theorem modHost_cmdDone (s : State) (f : HostSt → HostSt) : (s.modHost f).cmdDone = s.cmdDone := rfl
@[simp] theorem modHost_watch (s : State) (f : HostSt → HostSt) : (s.modHost f).watch = s.watch := rfl
@[simp] theorem modHost_watchq (s : State) (f : HostSt → HostSt) : (s.modHost f).watchq = s.watchq := rfl
@[simp] theorem modHost_snap (s : State) (f : HostSt → HostSt) : (s.modHost f).snap = s.snap := rfl
@[simp] theorem modHost_snapq (s : State) (f : HostSt → HostSt) : (s.modHost f).snapq = s.snapq := rfl
@[simp] theorem modHost_res (s : State) (f : HostSt → HostSt) : (s.modHost f).res = s.res := rfl
@[simp] theorem modHost_trackers (s : State) (f : HostSt → HostSt) : (s.modHost f).trackers = s.trackers := rfl
@[simp] theorem modHost_posts (s : State) (f : HostSt → HostSt) : (s.modHost f).posts = s.posts := rfl
@[simp] theorem modHost_tasks (s : State) (f : HostSt → HostSt) : (s.modHost f).tasks = s.tasks := rfl
@[simp] theorem modHost_templates (s : State) (f : HostSt → HostSt) : (s.modHost f).templates = s.templates := rfl
@[simp] theorem modHost_dsp (s : State) (f : HostSt → HostSt) : (s.modHost f).dsp = s.dsp := rfl
@[simp] theorem modHost_images (s : State) (f : HostSt → HostSt) : (s.modHost f).images = s.images := rfl
@[simp] theorem modHost_saved (s : State) (f : HostSt → HostSt) : (s.modHost f).saved = s.saved := rfl
@[simp] theorem modHost_files (s : State) (f : HostSt → HostSt) : (s.modHost f).files = s.files := rfl
@[simp] theorem modHost_faults (s : State) (f : HostSt → HostSt) : (s.modHost f).faults = s.faults := rfl
@[simp] theorem modHost_cores (s : State) (f : HostSt → HostSt) : (s.modHost f).cores = s.cores := rfl
@[simp] theorem modHost_svcs (s : State) (f : HostSt → HostSt) : (s.modHost f).svcs = s.svcs := rfl
@[simp] theorem modHost_clsmap (s : State) (f : HostSt → HostSt) : (s.modHost f).clsmap = s.clsmap := rfl
@[simp] theorem modHost_dies (s : State) (f : HostSt → HostSt) : (s.modHost f).dies = s.dies := rfl
@[simp] theorem modHost_fuses (s : State) (f : HostSt → HostSt) : (s.modHost f).fuses = s.fuses := rfl
@[simp] theorem modHost_repair (s : State) (f : HostSt → HostSt) : (s.modHost f).repair = s.repair := rfl
@[simp] theorem modHost_slews (s : State) (f : HostSt → HostSt) : (s.modHost f).slews = s.slews := rfl
@[simp] theorem modHost_links (s : State) (f : HostSt → HostSt) : (s.modHost f).links = s.links := rfl
@[simp] theorem modHost_host (s : State) (f : HostSt → HostSt) : (s.modHost f).host = f s.host := rfl
@[simp] theorem modHost_boot (s : State) (f : HostSt → HostSt) : (s.modHost f).boot = s.boot := rfl
@[simp] theorem modHost_testing (s : State) (f : HostSt → HostSt) : (s.modHost f).testing = s.testing := rfl

/-! ### modCore -/

@[simp] theorem modCore_agenda (s : State) (c : Nat) (f : Core → Core) : (s.modCore c f).agenda = s.agenda := rfl
@[simp] theorem modCore_focus (s : State) (c : Nat) (f : Core → Core) : (s.modCore c f).focus = s.focus := rfl
@[simp] theorem modCore_acted (s : State) (c : Nat) (f : Core → Core) : (s.modCore c f).acted = s.acted := rfl
@[simp] theorem modCore_free (s : State) (c : Nat) (f : Core → Core) : (s.modCore c f).free = s.free := rfl
@[simp] theorem modCore_nextId (s : State) (c : Nat) (f : Core → Core) : (s.modCore c f).nextId = s.nextId := rfl
@[simp] theorem modCore_cycle (s : State) (c : Nat) (f : Core → Core) : (s.modCore c f).cycle = s.cycle := rfl
@[simp] theorem modCore_mem (s : State) (c : Nat) (f : Core → Core) : (s.modCore c f).mem = s.mem := rfl
@[simp] theorem modCore_ats (s : State) (c : Nat) (f : Core → Core) : (s.modCore c f).ats = s.ats := rfl
@[simp] theorem modCore_mts (s : State) (c : Nat) (f : Core → Core) : (s.modCore c f).mts = s.mts := rfl
@[simp] theorem modCore_pts (s : State) (c : Nat) (f : Core → Core) : (s.modCore c f).pts = s.pts := rfl
@[simp] theorem modCore_homes (s : State) (c : Nat) (f : Core → Core) : (s.modCore c f).homes = s.homes := rfl
@[simp] theorem modCore_revoked (s : State) (c : Nat) (f : Core → Core) : (s.modCore c f).revoked = s.revoked := rfl
@[simp] theorem modCore_share (s : State) (c : Nat) (f : Core → Core) : (s.modCore c f).share = s.share := rfl
@[simp] theorem modCore_shareSet (s : State) (c : Nat) (f : Core → Core) : (s.modCore c f).shareSet = s.shareSet := rfl
@[simp] theorem modCore_broughtUp (s : State) (c : Nat) (f : Core → Core) : (s.modCore c f).broughtUp = s.broughtUp := rfl
@[simp] theorem modCore_hostWins (s : State) (c : Nat) (f : Core → Core) : (s.modCore c f).hostWins = s.hostWins := rfl
@[simp] theorem modCore_extents (s : State) (c : Nat) (f : Core → Core) : (s.modCore c f).extents = s.extents := rfl
@[simp] theorem modCore_bccap (s : State) (c : Nat) (f : Core → Core) : (s.modCore c f).bccap = s.bccap := rfl
@[simp] theorem modCore_bcs (s : State) (c : Nat) (f : Core → Core) : (s.modCore c f).bcs = s.bcs := rfl
@[simp] theorem modCore_roots (s : State) (c : Nat) (f : Core → Core) : (s.modCore c f).roots = s.roots := rfl
@[simp] theorem modCore_reqs (s : State) (c : Nat) (f : Core → Core) : (s.modCore c f).reqs = s.reqs := rfl
@[simp] theorem modCore_tickets (s : State) (c : Nat) (f : Core → Core) : (s.modCore c f).tickets = s.tickets := rfl
@[simp] theorem modCore_useqs (s : State) (c : Nat) (f : Core → Core) : (s.modCore c f).useqs = s.useqs := rfl
@[simp] theorem modCore_mseqs (s : State) (c : Nat) (f : Core → Core) : (s.modCore c f).mseqs = s.mseqs := rfl
@[simp] theorem modCore_subs (s : State) (c : Nat) (f : Core → Core) : (s.modCore c f).subs = s.subs := rfl
@[simp] theorem modCore_held (s : State) (c : Nat) (f : Core → Core) : (s.modCore c f).held = s.held := rfl
@[simp] theorem modCore_syns (s : State) (c : Nat) (f : Core → Core) : (s.modCore c f).syns = s.syns := rfl
@[simp] theorem modCore_cmdDone (s : State) (c : Nat) (f : Core → Core) : (s.modCore c f).cmdDone = s.cmdDone := rfl
@[simp] theorem modCore_watch (s : State) (c : Nat) (f : Core → Core) : (s.modCore c f).watch = s.watch := rfl
@[simp] theorem modCore_watchq (s : State) (c : Nat) (f : Core → Core) : (s.modCore c f).watchq = s.watchq := rfl
@[simp] theorem modCore_snap (s : State) (c : Nat) (f : Core → Core) : (s.modCore c f).snap = s.snap := rfl
@[simp] theorem modCore_snapq (s : State) (c : Nat) (f : Core → Core) : (s.modCore c f).snapq = s.snapq := rfl
@[simp] theorem modCore_res (s : State) (c : Nat) (f : Core → Core) : (s.modCore c f).res = s.res := rfl
@[simp] theorem modCore_trackers (s : State) (c : Nat) (f : Core → Core) : (s.modCore c f).trackers = s.trackers := rfl
@[simp] theorem modCore_posts (s : State) (c : Nat) (f : Core → Core) : (s.modCore c f).posts = s.posts := rfl
@[simp] theorem modCore_tasks (s : State) (c : Nat) (f : Core → Core) : (s.modCore c f).tasks = s.tasks := rfl
@[simp] theorem modCore_templates (s : State) (c : Nat) (f : Core → Core) : (s.modCore c f).templates = s.templates := rfl
@[simp] theorem modCore_dsp (s : State) (c : Nat) (f : Core → Core) : (s.modCore c f).dsp = s.dsp := rfl
@[simp] theorem modCore_images (s : State) (c : Nat) (f : Core → Core) : (s.modCore c f).images = s.images := rfl
@[simp] theorem modCore_saved (s : State) (c : Nat) (f : Core → Core) : (s.modCore c f).saved = s.saved := rfl
@[simp] theorem modCore_files (s : State) (c : Nat) (f : Core → Core) : (s.modCore c f).files = s.files := rfl
@[simp] theorem modCore_faults (s : State) (c : Nat) (f : Core → Core) : (s.modCore c f).faults = s.faults := rfl
@[simp] theorem modCore_cores (s : State) (c : Nat) (f : Core → Core) : (s.modCore c f).cores = upd {} c f s.cores := rfl
@[simp] theorem modCore_svcs (s : State) (c : Nat) (f : Core → Core) : (s.modCore c f).svcs = s.svcs := rfl
@[simp] theorem modCore_clsmap (s : State) (c : Nat) (f : Core → Core) : (s.modCore c f).clsmap = s.clsmap := rfl
@[simp] theorem modCore_dies (s : State) (c : Nat) (f : Core → Core) : (s.modCore c f).dies = s.dies := rfl
@[simp] theorem modCore_fuses (s : State) (c : Nat) (f : Core → Core) : (s.modCore c f).fuses = s.fuses := rfl
@[simp] theorem modCore_repair (s : State) (c : Nat) (f : Core → Core) : (s.modCore c f).repair = s.repair := rfl
@[simp] theorem modCore_slews (s : State) (c : Nat) (f : Core → Core) : (s.modCore c f).slews = s.slews := rfl
@[simp] theorem modCore_links (s : State) (c : Nat) (f : Core → Core) : (s.modCore c f).links = s.links := rfl
@[simp] theorem modCore_host (s : State) (c : Nat) (f : Core → Core) : (s.modCore c f).host = s.host := rfl
@[simp] theorem modCore_boot (s : State) (c : Nat) (f : Core → Core) : (s.modCore c f).boot = s.boot := rfl
@[simp] theorem modCore_testing (s : State) (c : Nat) (f : Core → Core) : (s.modCore c f).testing = s.testing := rfl

/-! ### giveCore -/

@[simp] theorem giveCore_agenda (s : State) (c : Nat) (t : Take) : (s.giveCore c t).agenda = s.agenda := rfl
@[simp] theorem giveCore_focus (s : State) (c : Nat) (t : Take) : (s.giveCore c t).focus = s.focus := rfl
@[simp] theorem giveCore_acted (s : State) (c : Nat) (t : Take) : (s.giveCore c t).acted = s.acted := rfl
@[simp] theorem giveCore_free (s : State) (c : Nat) (t : Take) : (s.giveCore c t).free = s.free := rfl
@[simp] theorem giveCore_nextId (s : State) (c : Nat) (t : Take) : (s.giveCore c t).nextId = s.nextId := rfl
@[simp] theorem giveCore_cycle (s : State) (c : Nat) (t : Take) : (s.giveCore c t).cycle = s.cycle := rfl
@[simp] theorem giveCore_mem (s : State) (c : Nat) (t : Take) : (s.giveCore c t).mem = s.mem := rfl
@[simp] theorem giveCore_ats (s : State) (c : Nat) (t : Take) : (s.giveCore c t).ats = s.ats := rfl
@[simp] theorem giveCore_mts (s : State) (c : Nat) (t : Take) : (s.giveCore c t).mts = s.mts := rfl
@[simp] theorem giveCore_pts (s : State) (c : Nat) (t : Take) : (s.giveCore c t).pts = s.pts := rfl
@[simp] theorem giveCore_homes (s : State) (c : Nat) (t : Take) : (s.giveCore c t).homes = s.homes := rfl
@[simp] theorem giveCore_revoked (s : State) (c : Nat) (t : Take) : (s.giveCore c t).revoked = s.revoked := rfl
@[simp] theorem giveCore_share (s : State) (c : Nat) (t : Take) : (s.giveCore c t).share = s.share := rfl
@[simp] theorem giveCore_shareSet (s : State) (c : Nat) (t : Take) : (s.giveCore c t).shareSet = s.shareSet := rfl
@[simp] theorem giveCore_broughtUp (s : State) (c : Nat) (t : Take) : (s.giveCore c t).broughtUp = s.broughtUp := rfl
@[simp] theorem giveCore_hostWins (s : State) (c : Nat) (t : Take) : (s.giveCore c t).hostWins = s.hostWins := rfl
@[simp] theorem giveCore_extents (s : State) (c : Nat) (t : Take) : (s.giveCore c t).extents = s.extents := rfl
@[simp] theorem giveCore_bccap (s : State) (c : Nat) (t : Take) : (s.giveCore c t).bccap = s.bccap := rfl
@[simp] theorem giveCore_bcs (s : State) (c : Nat) (t : Take) : (s.giveCore c t).bcs = s.bcs := rfl
@[simp] theorem giveCore_roots (s : State) (c : Nat) (t : Take) : (s.giveCore c t).roots = s.roots := rfl
@[simp] theorem giveCore_reqs (s : State) (c : Nat) (t : Take) : (s.giveCore c t).reqs = s.reqs := rfl
@[simp] theorem giveCore_tickets (s : State) (c : Nat) (t : Take) : (s.giveCore c t).tickets = s.tickets := rfl
@[simp] theorem giveCore_useqs (s : State) (c : Nat) (t : Take) : (s.giveCore c t).useqs = s.useqs := rfl
@[simp] theorem giveCore_mseqs (s : State) (c : Nat) (t : Take) : (s.giveCore c t).mseqs = s.mseqs := rfl
@[simp] theorem giveCore_subs (s : State) (c : Nat) (t : Take) : (s.giveCore c t).subs = s.subs := rfl
@[simp] theorem giveCore_held (s : State) (c : Nat) (t : Take) : (s.giveCore c t).held = s.held := rfl
@[simp] theorem giveCore_syns (s : State) (c : Nat) (t : Take) : (s.giveCore c t).syns = s.syns := rfl
@[simp] theorem giveCore_cmdDone (s : State) (c : Nat) (t : Take) : (s.giveCore c t).cmdDone = s.cmdDone := rfl
@[simp] theorem giveCore_watch (s : State) (c : Nat) (t : Take) : (s.giveCore c t).watch = s.watch := rfl
@[simp] theorem giveCore_watchq (s : State) (c : Nat) (t : Take) : (s.giveCore c t).watchq = s.watchq := rfl
@[simp] theorem giveCore_snap (s : State) (c : Nat) (t : Take) : (s.giveCore c t).snap = s.snap := rfl
@[simp] theorem giveCore_snapq (s : State) (c : Nat) (t : Take) : (s.giveCore c t).snapq = s.snapq := rfl
@[simp] theorem giveCore_res (s : State) (c : Nat) (t : Take) : (s.giveCore c t).res = s.res := rfl
@[simp] theorem giveCore_trackers (s : State) (c : Nat) (t : Take) : (s.giveCore c t).trackers = s.trackers := rfl
@[simp] theorem giveCore_posts (s : State) (c : Nat) (t : Take) : (s.giveCore c t).posts = s.posts := rfl
@[simp] theorem giveCore_tasks (s : State) (c : Nat) (t : Take) : (s.giveCore c t).tasks = s.tasks := rfl
@[simp] theorem giveCore_templates (s : State) (c : Nat) (t : Take) : (s.giveCore c t).templates = s.templates := rfl
@[simp] theorem giveCore_dsp (s : State) (c : Nat) (t : Take) : (s.giveCore c t).dsp = s.dsp := rfl
@[simp] theorem giveCore_images (s : State) (c : Nat) (t : Take) : (s.giveCore c t).images = s.images := rfl
@[simp] theorem giveCore_saved (s : State) (c : Nat) (t : Take) : (s.giveCore c t).saved = s.saved := rfl
@[simp] theorem giveCore_files (s : State) (c : Nat) (t : Take) : (s.giveCore c t).files = s.files := rfl
@[simp] theorem giveCore_faults (s : State) (c : Nat) (t : Take) : (s.giveCore c t).faults = s.faults := rfl
@[simp] theorem giveCore_cores (s : State) (c : Nat) (t : Take) : (s.giveCore c t).cores = upd {} c (fun x => { x with takeq := x.takeq ++ [t] }) s.cores := rfl
@[simp] theorem giveCore_svcs (s : State) (c : Nat) (t : Take) : (s.giveCore c t).svcs = s.svcs := rfl
@[simp] theorem giveCore_clsmap (s : State) (c : Nat) (t : Take) : (s.giveCore c t).clsmap = s.clsmap := rfl
@[simp] theorem giveCore_dies (s : State) (c : Nat) (t : Take) : (s.giveCore c t).dies = s.dies := rfl
@[simp] theorem giveCore_fuses (s : State) (c : Nat) (t : Take) : (s.giveCore c t).fuses = s.fuses := rfl
@[simp] theorem giveCore_repair (s : State) (c : Nat) (t : Take) : (s.giveCore c t).repair = s.repair := rfl
@[simp] theorem giveCore_slews (s : State) (c : Nat) (t : Take) : (s.giveCore c t).slews = s.slews := rfl
@[simp] theorem giveCore_links (s : State) (c : Nat) (t : Take) : (s.giveCore c t).links = s.links := rfl
@[simp] theorem giveCore_host (s : State) (c : Nat) (t : Take) : (s.giveCore c t).host = s.host := rfl
@[simp] theorem giveCore_boot (s : State) (c : Nat) (t : Take) : (s.giveCore c t).boot = s.boot := rfl
@[simp] theorem giveCore_testing (s : State) (c : Nat) (t : Take) : (s.giveCore c t).testing = s.testing := rfl

/-! ### modDsp -/

@[simp] theorem modDsp_agenda (s : State) (f : Dsp → Dsp) : (s.modDsp f).agenda = s.agenda := rfl
@[simp] theorem modDsp_focus (s : State) (f : Dsp → Dsp) : (s.modDsp f).focus = s.focus := rfl
@[simp] theorem modDsp_acted (s : State) (f : Dsp → Dsp) : (s.modDsp f).acted = s.acted := rfl
@[simp] theorem modDsp_free (s : State) (f : Dsp → Dsp) : (s.modDsp f).free = s.free := rfl
@[simp] theorem modDsp_nextId (s : State) (f : Dsp → Dsp) : (s.modDsp f).nextId = s.nextId := rfl
@[simp] theorem modDsp_cycle (s : State) (f : Dsp → Dsp) : (s.modDsp f).cycle = s.cycle := rfl
@[simp] theorem modDsp_mem (s : State) (f : Dsp → Dsp) : (s.modDsp f).mem = s.mem := rfl
@[simp] theorem modDsp_ats (s : State) (f : Dsp → Dsp) : (s.modDsp f).ats = s.ats := rfl
@[simp] theorem modDsp_mts (s : State) (f : Dsp → Dsp) : (s.modDsp f).mts = s.mts := rfl
@[simp] theorem modDsp_pts (s : State) (f : Dsp → Dsp) : (s.modDsp f).pts = s.pts := rfl
@[simp] theorem modDsp_homes (s : State) (f : Dsp → Dsp) : (s.modDsp f).homes = s.homes := rfl
@[simp] theorem modDsp_revoked (s : State) (f : Dsp → Dsp) : (s.modDsp f).revoked = s.revoked := rfl
@[simp] theorem modDsp_share (s : State) (f : Dsp → Dsp) : (s.modDsp f).share = s.share := rfl
@[simp] theorem modDsp_shareSet (s : State) (f : Dsp → Dsp) : (s.modDsp f).shareSet = s.shareSet := rfl
@[simp] theorem modDsp_broughtUp (s : State) (f : Dsp → Dsp) : (s.modDsp f).broughtUp = s.broughtUp := rfl
@[simp] theorem modDsp_hostWins (s : State) (f : Dsp → Dsp) : (s.modDsp f).hostWins = s.hostWins := rfl
@[simp] theorem modDsp_extents (s : State) (f : Dsp → Dsp) : (s.modDsp f).extents = s.extents := rfl
@[simp] theorem modDsp_bccap (s : State) (f : Dsp → Dsp) : (s.modDsp f).bccap = s.bccap := rfl
@[simp] theorem modDsp_bcs (s : State) (f : Dsp → Dsp) : (s.modDsp f).bcs = s.bcs := rfl
@[simp] theorem modDsp_roots (s : State) (f : Dsp → Dsp) : (s.modDsp f).roots = s.roots := rfl
@[simp] theorem modDsp_reqs (s : State) (f : Dsp → Dsp) : (s.modDsp f).reqs = s.reqs := rfl
@[simp] theorem modDsp_tickets (s : State) (f : Dsp → Dsp) : (s.modDsp f).tickets = s.tickets := rfl
@[simp] theorem modDsp_useqs (s : State) (f : Dsp → Dsp) : (s.modDsp f).useqs = s.useqs := rfl
@[simp] theorem modDsp_mseqs (s : State) (f : Dsp → Dsp) : (s.modDsp f).mseqs = s.mseqs := rfl
@[simp] theorem modDsp_subs (s : State) (f : Dsp → Dsp) : (s.modDsp f).subs = s.subs := rfl
@[simp] theorem modDsp_held (s : State) (f : Dsp → Dsp) : (s.modDsp f).held = s.held := rfl
@[simp] theorem modDsp_syns (s : State) (f : Dsp → Dsp) : (s.modDsp f).syns = s.syns := rfl
@[simp] theorem modDsp_cmdDone (s : State) (f : Dsp → Dsp) : (s.modDsp f).cmdDone = s.cmdDone := rfl
@[simp] theorem modDsp_watch (s : State) (f : Dsp → Dsp) : (s.modDsp f).watch = s.watch := rfl
@[simp] theorem modDsp_watchq (s : State) (f : Dsp → Dsp) : (s.modDsp f).watchq = s.watchq := rfl
@[simp] theorem modDsp_snap (s : State) (f : Dsp → Dsp) : (s.modDsp f).snap = s.snap := rfl
@[simp] theorem modDsp_snapq (s : State) (f : Dsp → Dsp) : (s.modDsp f).snapq = s.snapq := rfl
@[simp] theorem modDsp_res (s : State) (f : Dsp → Dsp) : (s.modDsp f).res = s.res := rfl
@[simp] theorem modDsp_trackers (s : State) (f : Dsp → Dsp) : (s.modDsp f).trackers = s.trackers := rfl
@[simp] theorem modDsp_posts (s : State) (f : Dsp → Dsp) : (s.modDsp f).posts = s.posts := rfl
@[simp] theorem modDsp_tasks (s : State) (f : Dsp → Dsp) : (s.modDsp f).tasks = s.tasks := rfl
@[simp] theorem modDsp_templates (s : State) (f : Dsp → Dsp) : (s.modDsp f).templates = s.templates := rfl
@[simp] theorem modDsp_dsp (s : State) (f : Dsp → Dsp) : (s.modDsp f).dsp = f s.dsp := rfl
@[simp] theorem modDsp_images (s : State) (f : Dsp → Dsp) : (s.modDsp f).images = s.images := rfl
@[simp] theorem modDsp_saved (s : State) (f : Dsp → Dsp) : (s.modDsp f).saved = s.saved := rfl
@[simp] theorem modDsp_files (s : State) (f : Dsp → Dsp) : (s.modDsp f).files = s.files := rfl
@[simp] theorem modDsp_faults (s : State) (f : Dsp → Dsp) : (s.modDsp f).faults = s.faults := rfl
@[simp] theorem modDsp_cores (s : State) (f : Dsp → Dsp) : (s.modDsp f).cores = s.cores := rfl
@[simp] theorem modDsp_svcs (s : State) (f : Dsp → Dsp) : (s.modDsp f).svcs = s.svcs := rfl
@[simp] theorem modDsp_clsmap (s : State) (f : Dsp → Dsp) : (s.modDsp f).clsmap = s.clsmap := rfl
@[simp] theorem modDsp_dies (s : State) (f : Dsp → Dsp) : (s.modDsp f).dies = s.dies := rfl
@[simp] theorem modDsp_fuses (s : State) (f : Dsp → Dsp) : (s.modDsp f).fuses = s.fuses := rfl
@[simp] theorem modDsp_repair (s : State) (f : Dsp → Dsp) : (s.modDsp f).repair = s.repair := rfl
@[simp] theorem modDsp_slews (s : State) (f : Dsp → Dsp) : (s.modDsp f).slews = s.slews := rfl
@[simp] theorem modDsp_links (s : State) (f : Dsp → Dsp) : (s.modDsp f).links = s.links := rfl
@[simp] theorem modDsp_host (s : State) (f : Dsp → Dsp) : (s.modDsp f).host = s.host := rfl
@[simp] theorem modDsp_boot (s : State) (f : Dsp → Dsp) : (s.modDsp f).boot = s.boot := rfl
@[simp] theorem modDsp_testing (s : State) (f : Dsp → Dsp) : (s.modDsp f).testing = s.testing := rfl

/-! ### modHome -/

@[simp] theorem modHome_agenda (s : State) (h : Nat) (f : Home → Home) : (s.modHome h f).agenda = s.agenda := rfl
@[simp] theorem modHome_focus (s : State) (h : Nat) (f : Home → Home) : (s.modHome h f).focus = s.focus := rfl
@[simp] theorem modHome_acted (s : State) (h : Nat) (f : Home → Home) : (s.modHome h f).acted = s.acted := rfl
@[simp] theorem modHome_free (s : State) (h : Nat) (f : Home → Home) : (s.modHome h f).free = s.free := rfl
@[simp] theorem modHome_nextId (s : State) (h : Nat) (f : Home → Home) : (s.modHome h f).nextId = s.nextId := rfl
@[simp] theorem modHome_cycle (s : State) (h : Nat) (f : Home → Home) : (s.modHome h f).cycle = s.cycle := rfl
@[simp] theorem modHome_mem (s : State) (h : Nat) (f : Home → Home) : (s.modHome h f).mem = s.mem := rfl
@[simp] theorem modHome_ats (s : State) (h : Nat) (f : Home → Home) : (s.modHome h f).ats = s.ats := rfl
@[simp] theorem modHome_mts (s : State) (h : Nat) (f : Home → Home) : (s.modHome h f).mts = s.mts := rfl
@[simp] theorem modHome_pts (s : State) (h : Nat) (f : Home → Home) : (s.modHome h f).pts = s.pts := rfl
@[simp] theorem modHome_homes (s : State) (h : Nat) (f : Home → Home) : (s.modHome h f).homes = upd {} h f s.homes := rfl
@[simp] theorem modHome_revoked (s : State) (h : Nat) (f : Home → Home) : (s.modHome h f).revoked = s.revoked := rfl
@[simp] theorem modHome_share (s : State) (h : Nat) (f : Home → Home) : (s.modHome h f).share = s.share := rfl
@[simp] theorem modHome_shareSet (s : State) (h : Nat) (f : Home → Home) : (s.modHome h f).shareSet = s.shareSet := rfl
@[simp] theorem modHome_broughtUp (s : State) (h : Nat) (f : Home → Home) : (s.modHome h f).broughtUp = s.broughtUp := rfl
@[simp] theorem modHome_hostWins (s : State) (h : Nat) (f : Home → Home) : (s.modHome h f).hostWins = s.hostWins := rfl
@[simp] theorem modHome_extents (s : State) (h : Nat) (f : Home → Home) : (s.modHome h f).extents = s.extents := rfl
@[simp] theorem modHome_bccap (s : State) (h : Nat) (f : Home → Home) : (s.modHome h f).bccap = s.bccap := rfl
@[simp] theorem modHome_bcs (s : State) (h : Nat) (f : Home → Home) : (s.modHome h f).bcs = s.bcs := rfl
@[simp] theorem modHome_roots (s : State) (h : Nat) (f : Home → Home) : (s.modHome h f).roots = s.roots := rfl
@[simp] theorem modHome_reqs (s : State) (h : Nat) (f : Home → Home) : (s.modHome h f).reqs = s.reqs := rfl
@[simp] theorem modHome_tickets (s : State) (h : Nat) (f : Home → Home) : (s.modHome h f).tickets = s.tickets := rfl
@[simp] theorem modHome_useqs (s : State) (h : Nat) (f : Home → Home) : (s.modHome h f).useqs = s.useqs := rfl
@[simp] theorem modHome_mseqs (s : State) (h : Nat) (f : Home → Home) : (s.modHome h f).mseqs = s.mseqs := rfl
@[simp] theorem modHome_subs (s : State) (h : Nat) (f : Home → Home) : (s.modHome h f).subs = s.subs := rfl
@[simp] theorem modHome_held (s : State) (h : Nat) (f : Home → Home) : (s.modHome h f).held = s.held := rfl
@[simp] theorem modHome_syns (s : State) (h : Nat) (f : Home → Home) : (s.modHome h f).syns = s.syns := rfl
@[simp] theorem modHome_cmdDone (s : State) (h : Nat) (f : Home → Home) : (s.modHome h f).cmdDone = s.cmdDone := rfl
@[simp] theorem modHome_watch (s : State) (h : Nat) (f : Home → Home) : (s.modHome h f).watch = s.watch := rfl
@[simp] theorem modHome_watchq (s : State) (h : Nat) (f : Home → Home) : (s.modHome h f).watchq = s.watchq := rfl
@[simp] theorem modHome_snap (s : State) (h : Nat) (f : Home → Home) : (s.modHome h f).snap = s.snap := rfl
@[simp] theorem modHome_snapq (s : State) (h : Nat) (f : Home → Home) : (s.modHome h f).snapq = s.snapq := rfl
@[simp] theorem modHome_res (s : State) (h : Nat) (f : Home → Home) : (s.modHome h f).res = s.res := rfl
@[simp] theorem modHome_trackers (s : State) (h : Nat) (f : Home → Home) : (s.modHome h f).trackers = s.trackers := rfl
@[simp] theorem modHome_posts (s : State) (h : Nat) (f : Home → Home) : (s.modHome h f).posts = s.posts := rfl
@[simp] theorem modHome_tasks (s : State) (h : Nat) (f : Home → Home) : (s.modHome h f).tasks = s.tasks := rfl
@[simp] theorem modHome_templates (s : State) (h : Nat) (f : Home → Home) : (s.modHome h f).templates = s.templates := rfl
@[simp] theorem modHome_dsp (s : State) (h : Nat) (f : Home → Home) : (s.modHome h f).dsp = s.dsp := rfl
@[simp] theorem modHome_images (s : State) (h : Nat) (f : Home → Home) : (s.modHome h f).images = s.images := rfl
@[simp] theorem modHome_saved (s : State) (h : Nat) (f : Home → Home) : (s.modHome h f).saved = s.saved := rfl
@[simp] theorem modHome_files (s : State) (h : Nat) (f : Home → Home) : (s.modHome h f).files = s.files := rfl
@[simp] theorem modHome_faults (s : State) (h : Nat) (f : Home → Home) : (s.modHome h f).faults = s.faults := rfl
@[simp] theorem modHome_cores (s : State) (h : Nat) (f : Home → Home) : (s.modHome h f).cores = s.cores := rfl
@[simp] theorem modHome_svcs (s : State) (h : Nat) (f : Home → Home) : (s.modHome h f).svcs = s.svcs := rfl
@[simp] theorem modHome_clsmap (s : State) (h : Nat) (f : Home → Home) : (s.modHome h f).clsmap = s.clsmap := rfl
@[simp] theorem modHome_dies (s : State) (h : Nat) (f : Home → Home) : (s.modHome h f).dies = s.dies := rfl
@[simp] theorem modHome_fuses (s : State) (h : Nat) (f : Home → Home) : (s.modHome h f).fuses = s.fuses := rfl
@[simp] theorem modHome_repair (s : State) (h : Nat) (f : Home → Home) : (s.modHome h f).repair = s.repair := rfl
@[simp] theorem modHome_slews (s : State) (h : Nat) (f : Home → Home) : (s.modHome h f).slews = s.slews := rfl
@[simp] theorem modHome_links (s : State) (h : Nat) (f : Home → Home) : (s.modHome h f).links = s.links := rfl
@[simp] theorem modHome_host (s : State) (h : Nat) (f : Home → Home) : (s.modHome h f).host = s.host := rfl
@[simp] theorem modHome_boot (s : State) (h : Nat) (f : Home → Home) : (s.modHome h f).boot = s.boot := rfl
@[simp] theorem modHome_testing (s : State) (h : Nat) (f : Home → Home) : (s.modHome h f).testing = s.testing := rfl

/-! ### modDie -/

@[simp] theorem modDie_agenda (s : State) (d : Nat) (f : Die → Die) : (s.modDie d f).agenda = s.agenda := rfl
@[simp] theorem modDie_focus (s : State) (d : Nat) (f : Die → Die) : (s.modDie d f).focus = s.focus := rfl
@[simp] theorem modDie_acted (s : State) (d : Nat) (f : Die → Die) : (s.modDie d f).acted = s.acted := rfl
@[simp] theorem modDie_free (s : State) (d : Nat) (f : Die → Die) : (s.modDie d f).free = s.free := rfl
@[simp] theorem modDie_nextId (s : State) (d : Nat) (f : Die → Die) : (s.modDie d f).nextId = s.nextId := rfl
@[simp] theorem modDie_cycle (s : State) (d : Nat) (f : Die → Die) : (s.modDie d f).cycle = s.cycle := rfl
@[simp] theorem modDie_mem (s : State) (d : Nat) (f : Die → Die) : (s.modDie d f).mem = s.mem := rfl
@[simp] theorem modDie_ats (s : State) (d : Nat) (f : Die → Die) : (s.modDie d f).ats = s.ats := rfl
@[simp] theorem modDie_mts (s : State) (d : Nat) (f : Die → Die) : (s.modDie d f).mts = s.mts := rfl
@[simp] theorem modDie_pts (s : State) (d : Nat) (f : Die → Die) : (s.modDie d f).pts = s.pts := rfl
@[simp] theorem modDie_homes (s : State) (d : Nat) (f : Die → Die) : (s.modDie d f).homes = s.homes := rfl
@[simp] theorem modDie_revoked (s : State) (d : Nat) (f : Die → Die) : (s.modDie d f).revoked = s.revoked := rfl
@[simp] theorem modDie_share (s : State) (d : Nat) (f : Die → Die) : (s.modDie d f).share = s.share := rfl
@[simp] theorem modDie_shareSet (s : State) (d : Nat) (f : Die → Die) : (s.modDie d f).shareSet = s.shareSet := rfl
@[simp] theorem modDie_broughtUp (s : State) (d : Nat) (f : Die → Die) : (s.modDie d f).broughtUp = s.broughtUp := rfl
@[simp] theorem modDie_hostWins (s : State) (d : Nat) (f : Die → Die) : (s.modDie d f).hostWins = s.hostWins := rfl
@[simp] theorem modDie_extents (s : State) (d : Nat) (f : Die → Die) : (s.modDie d f).extents = s.extents := rfl
@[simp] theorem modDie_bccap (s : State) (d : Nat) (f : Die → Die) : (s.modDie d f).bccap = s.bccap := rfl
@[simp] theorem modDie_bcs (s : State) (d : Nat) (f : Die → Die) : (s.modDie d f).bcs = s.bcs := rfl
@[simp] theorem modDie_roots (s : State) (d : Nat) (f : Die → Die) : (s.modDie d f).roots = s.roots := rfl
@[simp] theorem modDie_reqs (s : State) (d : Nat) (f : Die → Die) : (s.modDie d f).reqs = s.reqs := rfl
@[simp] theorem modDie_tickets (s : State) (d : Nat) (f : Die → Die) : (s.modDie d f).tickets = s.tickets := rfl
@[simp] theorem modDie_useqs (s : State) (d : Nat) (f : Die → Die) : (s.modDie d f).useqs = s.useqs := rfl
@[simp] theorem modDie_mseqs (s : State) (d : Nat) (f : Die → Die) : (s.modDie d f).mseqs = s.mseqs := rfl
@[simp] theorem modDie_subs (s : State) (d : Nat) (f : Die → Die) : (s.modDie d f).subs = s.subs := rfl
@[simp] theorem modDie_held (s : State) (d : Nat) (f : Die → Die) : (s.modDie d f).held = s.held := rfl
@[simp] theorem modDie_syns (s : State) (d : Nat) (f : Die → Die) : (s.modDie d f).syns = s.syns := rfl
@[simp] theorem modDie_cmdDone (s : State) (d : Nat) (f : Die → Die) : (s.modDie d f).cmdDone = s.cmdDone := rfl
@[simp] theorem modDie_watch (s : State) (d : Nat) (f : Die → Die) : (s.modDie d f).watch = s.watch := rfl
@[simp] theorem modDie_watchq (s : State) (d : Nat) (f : Die → Die) : (s.modDie d f).watchq = s.watchq := rfl
@[simp] theorem modDie_snap (s : State) (d : Nat) (f : Die → Die) : (s.modDie d f).snap = s.snap := rfl
@[simp] theorem modDie_snapq (s : State) (d : Nat) (f : Die → Die) : (s.modDie d f).snapq = s.snapq := rfl
@[simp] theorem modDie_res (s : State) (d : Nat) (f : Die → Die) : (s.modDie d f).res = s.res := rfl
@[simp] theorem modDie_trackers (s : State) (d : Nat) (f : Die → Die) : (s.modDie d f).trackers = s.trackers := rfl
@[simp] theorem modDie_posts (s : State) (d : Nat) (f : Die → Die) : (s.modDie d f).posts = s.posts := rfl
@[simp] theorem modDie_tasks (s : State) (d : Nat) (f : Die → Die) : (s.modDie d f).tasks = s.tasks := rfl
@[simp] theorem modDie_templates (s : State) (d : Nat) (f : Die → Die) : (s.modDie d f).templates = s.templates := rfl
@[simp] theorem modDie_dsp (s : State) (d : Nat) (f : Die → Die) : (s.modDie d f).dsp = s.dsp := rfl
@[simp] theorem modDie_images (s : State) (d : Nat) (f : Die → Die) : (s.modDie d f).images = s.images := rfl
@[simp] theorem modDie_saved (s : State) (d : Nat) (f : Die → Die) : (s.modDie d f).saved = s.saved := rfl
@[simp] theorem modDie_files (s : State) (d : Nat) (f : Die → Die) : (s.modDie d f).files = s.files := rfl
@[simp] theorem modDie_faults (s : State) (d : Nat) (f : Die → Die) : (s.modDie d f).faults = s.faults := rfl
@[simp] theorem modDie_cores (s : State) (d : Nat) (f : Die → Die) : (s.modDie d f).cores = s.cores := rfl
@[simp] theorem modDie_svcs (s : State) (d : Nat) (f : Die → Die) : (s.modDie d f).svcs = s.svcs := rfl
@[simp] theorem modDie_clsmap (s : State) (d : Nat) (f : Die → Die) : (s.modDie d f).clsmap = s.clsmap := rfl
@[simp] theorem modDie_dies (s : State) (d : Nat) (f : Die → Die) : (s.modDie d f).dies = upd {} d f s.dies := rfl
@[simp] theorem modDie_fuses (s : State) (d : Nat) (f : Die → Die) : (s.modDie d f).fuses = s.fuses := rfl
@[simp] theorem modDie_repair (s : State) (d : Nat) (f : Die → Die) : (s.modDie d f).repair = s.repair := rfl
@[simp] theorem modDie_slews (s : State) (d : Nat) (f : Die → Die) : (s.modDie d f).slews = s.slews := rfl
@[simp] theorem modDie_links (s : State) (d : Nat) (f : Die → Die) : (s.modDie d f).links = s.links := rfl
@[simp] theorem modDie_host (s : State) (d : Nat) (f : Die → Die) : (s.modDie d f).host = s.host := rfl
@[simp] theorem modDie_boot (s : State) (d : Nat) (f : Die → Die) : (s.modDie d f).boot = s.boot := rfl
@[simp] theorem modDie_testing (s : State) (d : Nat) (f : Die → Die) : (s.modDie d f).testing = s.testing := rfl

/-! ### modPt -/

@[simp] theorem modPt_agenda (s : State) (p : Nat) (f : Pt → Pt) : (s.modPt p f).agenda = s.agenda := rfl
@[simp] theorem modPt_focus (s : State) (p : Nat) (f : Pt → Pt) : (s.modPt p f).focus = s.focus := rfl
@[simp] theorem modPt_acted (s : State) (p : Nat) (f : Pt → Pt) : (s.modPt p f).acted = s.acted := rfl
@[simp] theorem modPt_free (s : State) (p : Nat) (f : Pt → Pt) : (s.modPt p f).free = s.free := rfl
@[simp] theorem modPt_nextId (s : State) (p : Nat) (f : Pt → Pt) : (s.modPt p f).nextId = s.nextId := rfl
@[simp] theorem modPt_cycle (s : State) (p : Nat) (f : Pt → Pt) : (s.modPt p f).cycle = s.cycle := rfl
@[simp] theorem modPt_mem (s : State) (p : Nat) (f : Pt → Pt) : (s.modPt p f).mem = s.mem := rfl
@[simp] theorem modPt_ats (s : State) (p : Nat) (f : Pt → Pt) : (s.modPt p f).ats = s.ats := rfl
@[simp] theorem modPt_mts (s : State) (p : Nat) (f : Pt → Pt) : (s.modPt p f).mts = s.mts := rfl
@[simp] theorem modPt_pts (s : State) (p : Nat) (f : Pt → Pt) : (s.modPt p f).pts = upd {} p f s.pts := rfl
@[simp] theorem modPt_homes (s : State) (p : Nat) (f : Pt → Pt) : (s.modPt p f).homes = s.homes := rfl
@[simp] theorem modPt_revoked (s : State) (p : Nat) (f : Pt → Pt) : (s.modPt p f).revoked = s.revoked := rfl
@[simp] theorem modPt_share (s : State) (p : Nat) (f : Pt → Pt) : (s.modPt p f).share = s.share := rfl
@[simp] theorem modPt_shareSet (s : State) (p : Nat) (f : Pt → Pt) : (s.modPt p f).shareSet = s.shareSet := rfl
@[simp] theorem modPt_broughtUp (s : State) (p : Nat) (f : Pt → Pt) : (s.modPt p f).broughtUp = s.broughtUp := rfl
@[simp] theorem modPt_hostWins (s : State) (p : Nat) (f : Pt → Pt) : (s.modPt p f).hostWins = s.hostWins := rfl
@[simp] theorem modPt_extents (s : State) (p : Nat) (f : Pt → Pt) : (s.modPt p f).extents = s.extents := rfl
@[simp] theorem modPt_bccap (s : State) (p : Nat) (f : Pt → Pt) : (s.modPt p f).bccap = s.bccap := rfl
@[simp] theorem modPt_bcs (s : State) (p : Nat) (f : Pt → Pt) : (s.modPt p f).bcs = s.bcs := rfl
@[simp] theorem modPt_roots (s : State) (p : Nat) (f : Pt → Pt) : (s.modPt p f).roots = s.roots := rfl
@[simp] theorem modPt_reqs (s : State) (p : Nat) (f : Pt → Pt) : (s.modPt p f).reqs = s.reqs := rfl
@[simp] theorem modPt_tickets (s : State) (p : Nat) (f : Pt → Pt) : (s.modPt p f).tickets = s.tickets := rfl
@[simp] theorem modPt_useqs (s : State) (p : Nat) (f : Pt → Pt) : (s.modPt p f).useqs = s.useqs := rfl
@[simp] theorem modPt_mseqs (s : State) (p : Nat) (f : Pt → Pt) : (s.modPt p f).mseqs = s.mseqs := rfl
@[simp] theorem modPt_subs (s : State) (p : Nat) (f : Pt → Pt) : (s.modPt p f).subs = s.subs := rfl
@[simp] theorem modPt_held (s : State) (p : Nat) (f : Pt → Pt) : (s.modPt p f).held = s.held := rfl
@[simp] theorem modPt_syns (s : State) (p : Nat) (f : Pt → Pt) : (s.modPt p f).syns = s.syns := rfl
@[simp] theorem modPt_cmdDone (s : State) (p : Nat) (f : Pt → Pt) : (s.modPt p f).cmdDone = s.cmdDone := rfl
@[simp] theorem modPt_watch (s : State) (p : Nat) (f : Pt → Pt) : (s.modPt p f).watch = s.watch := rfl
@[simp] theorem modPt_watchq (s : State) (p : Nat) (f : Pt → Pt) : (s.modPt p f).watchq = s.watchq := rfl
@[simp] theorem modPt_snap (s : State) (p : Nat) (f : Pt → Pt) : (s.modPt p f).snap = s.snap := rfl
@[simp] theorem modPt_snapq (s : State) (p : Nat) (f : Pt → Pt) : (s.modPt p f).snapq = s.snapq := rfl
@[simp] theorem modPt_res (s : State) (p : Nat) (f : Pt → Pt) : (s.modPt p f).res = s.res := rfl
@[simp] theorem modPt_trackers (s : State) (p : Nat) (f : Pt → Pt) : (s.modPt p f).trackers = s.trackers := rfl
@[simp] theorem modPt_posts (s : State) (p : Nat) (f : Pt → Pt) : (s.modPt p f).posts = s.posts := rfl
@[simp] theorem modPt_tasks (s : State) (p : Nat) (f : Pt → Pt) : (s.modPt p f).tasks = s.tasks := rfl
@[simp] theorem modPt_templates (s : State) (p : Nat) (f : Pt → Pt) : (s.modPt p f).templates = s.templates := rfl
@[simp] theorem modPt_dsp (s : State) (p : Nat) (f : Pt → Pt) : (s.modPt p f).dsp = s.dsp := rfl
@[simp] theorem modPt_images (s : State) (p : Nat) (f : Pt → Pt) : (s.modPt p f).images = s.images := rfl
@[simp] theorem modPt_saved (s : State) (p : Nat) (f : Pt → Pt) : (s.modPt p f).saved = s.saved := rfl
@[simp] theorem modPt_files (s : State) (p : Nat) (f : Pt → Pt) : (s.modPt p f).files = s.files := rfl
@[simp] theorem modPt_faults (s : State) (p : Nat) (f : Pt → Pt) : (s.modPt p f).faults = s.faults := rfl
@[simp] theorem modPt_cores (s : State) (p : Nat) (f : Pt → Pt) : (s.modPt p f).cores = s.cores := rfl
@[simp] theorem modPt_svcs (s : State) (p : Nat) (f : Pt → Pt) : (s.modPt p f).svcs = s.svcs := rfl
@[simp] theorem modPt_clsmap (s : State) (p : Nat) (f : Pt → Pt) : (s.modPt p f).clsmap = s.clsmap := rfl
@[simp] theorem modPt_dies (s : State) (p : Nat) (f : Pt → Pt) : (s.modPt p f).dies = s.dies := rfl
@[simp] theorem modPt_fuses (s : State) (p : Nat) (f : Pt → Pt) : (s.modPt p f).fuses = s.fuses := rfl
@[simp] theorem modPt_repair (s : State) (p : Nat) (f : Pt → Pt) : (s.modPt p f).repair = s.repair := rfl
@[simp] theorem modPt_slews (s : State) (p : Nat) (f : Pt → Pt) : (s.modPt p f).slews = s.slews := rfl
@[simp] theorem modPt_links (s : State) (p : Nat) (f : Pt → Pt) : (s.modPt p f).links = s.links := rfl
@[simp] theorem modPt_host (s : State) (p : Nat) (f : Pt → Pt) : (s.modPt p f).host = s.host := rfl
@[simp] theorem modPt_boot (s : State) (p : Nat) (f : Pt → Pt) : (s.modPt p f).boot = s.boot := rfl
@[simp] theorem modPt_testing (s : State) (p : Nat) (f : Pt → Pt) : (s.modPt p f).testing = s.testing := rfl

/-! ### setReq -/

@[simp] theorem setReq_agenda (s : State) (i : Nat) (r : Req) : (s.setReq i r).agenda = s.agenda := rfl
@[simp] theorem setReq_focus (s : State) (i : Nat) (r : Req) : (s.setReq i r).focus = s.focus := rfl
@[simp] theorem setReq_acted (s : State) (i : Nat) (r : Req) : (s.setReq i r).acted = s.acted := rfl
@[simp] theorem setReq_free (s : State) (i : Nat) (r : Req) : (s.setReq i r).free = s.free := rfl
@[simp] theorem setReq_nextId (s : State) (i : Nat) (r : Req) : (s.setReq i r).nextId = s.nextId := rfl
@[simp] theorem setReq_cycle (s : State) (i : Nat) (r : Req) : (s.setReq i r).cycle = s.cycle := rfl
@[simp] theorem setReq_mem (s : State) (i : Nat) (r : Req) : (s.setReq i r).mem = s.mem := rfl
@[simp] theorem setReq_ats (s : State) (i : Nat) (r : Req) : (s.setReq i r).ats = s.ats := rfl
@[simp] theorem setReq_mts (s : State) (i : Nat) (r : Req) : (s.setReq i r).mts = s.mts := rfl
@[simp] theorem setReq_pts (s : State) (i : Nat) (r : Req) : (s.setReq i r).pts = s.pts := rfl
@[simp] theorem setReq_homes (s : State) (i : Nat) (r : Req) : (s.setReq i r).homes = s.homes := rfl
@[simp] theorem setReq_revoked (s : State) (i : Nat) (r : Req) : (s.setReq i r).revoked = s.revoked := rfl
@[simp] theorem setReq_share (s : State) (i : Nat) (r : Req) : (s.setReq i r).share = s.share := rfl
@[simp] theorem setReq_shareSet (s : State) (i : Nat) (r : Req) : (s.setReq i r).shareSet = s.shareSet := rfl
@[simp] theorem setReq_broughtUp (s : State) (i : Nat) (r : Req) : (s.setReq i r).broughtUp = s.broughtUp := rfl
@[simp] theorem setReq_hostWins (s : State) (i : Nat) (r : Req) : (s.setReq i r).hostWins = s.hostWins := rfl
@[simp] theorem setReq_extents (s : State) (i : Nat) (r : Req) : (s.setReq i r).extents = s.extents := rfl
@[simp] theorem setReq_bccap (s : State) (i : Nat) (r : Req) : (s.setReq i r).bccap = s.bccap := rfl
@[simp] theorem setReq_bcs (s : State) (i : Nat) (r : Req) : (s.setReq i r).bcs = s.bcs := rfl
@[simp] theorem setReq_roots (s : State) (i : Nat) (r : Req) : (s.setReq i r).roots = s.roots := rfl
@[simp] theorem setReq_reqs (s : State) (i : Nat) (r : Req) : (s.setReq i r).reqs = put i r s.reqs := rfl
@[simp] theorem setReq_tickets (s : State) (i : Nat) (r : Req) : (s.setReq i r).tickets = s.tickets := rfl
@[simp] theorem setReq_useqs (s : State) (i : Nat) (r : Req) : (s.setReq i r).useqs = s.useqs := rfl
@[simp] theorem setReq_mseqs (s : State) (i : Nat) (r : Req) : (s.setReq i r).mseqs = s.mseqs := rfl
@[simp] theorem setReq_subs (s : State) (i : Nat) (r : Req) : (s.setReq i r).subs = s.subs := rfl
@[simp] theorem setReq_held (s : State) (i : Nat) (r : Req) : (s.setReq i r).held = s.held := rfl
@[simp] theorem setReq_syns (s : State) (i : Nat) (r : Req) : (s.setReq i r).syns = s.syns := rfl
@[simp] theorem setReq_cmdDone (s : State) (i : Nat) (r : Req) : (s.setReq i r).cmdDone = s.cmdDone := rfl
@[simp] theorem setReq_watch (s : State) (i : Nat) (r : Req) : (s.setReq i r).watch = s.watch := rfl
@[simp] theorem setReq_watchq (s : State) (i : Nat) (r : Req) : (s.setReq i r).watchq = s.watchq := rfl
@[simp] theorem setReq_snap (s : State) (i : Nat) (r : Req) : (s.setReq i r).snap = s.snap := rfl
@[simp] theorem setReq_snapq (s : State) (i : Nat) (r : Req) : (s.setReq i r).snapq = s.snapq := rfl
@[simp] theorem setReq_res (s : State) (i : Nat) (r : Req) : (s.setReq i r).res = s.res := rfl
@[simp] theorem setReq_trackers (s : State) (i : Nat) (r : Req) : (s.setReq i r).trackers = s.trackers := rfl
@[simp] theorem setReq_posts (s : State) (i : Nat) (r : Req) : (s.setReq i r).posts = s.posts := rfl
@[simp] theorem setReq_tasks (s : State) (i : Nat) (r : Req) : (s.setReq i r).tasks = s.tasks := rfl
@[simp] theorem setReq_templates (s : State) (i : Nat) (r : Req) : (s.setReq i r).templates = s.templates := rfl
@[simp] theorem setReq_dsp (s : State) (i : Nat) (r : Req) : (s.setReq i r).dsp = s.dsp := rfl
@[simp] theorem setReq_images (s : State) (i : Nat) (r : Req) : (s.setReq i r).images = s.images := rfl
@[simp] theorem setReq_saved (s : State) (i : Nat) (r : Req) : (s.setReq i r).saved = s.saved := rfl
@[simp] theorem setReq_files (s : State) (i : Nat) (r : Req) : (s.setReq i r).files = s.files := rfl
@[simp] theorem setReq_faults (s : State) (i : Nat) (r : Req) : (s.setReq i r).faults = s.faults := rfl
@[simp] theorem setReq_cores (s : State) (i : Nat) (r : Req) : (s.setReq i r).cores = s.cores := rfl
@[simp] theorem setReq_svcs (s : State) (i : Nat) (r : Req) : (s.setReq i r).svcs = s.svcs := rfl
@[simp] theorem setReq_clsmap (s : State) (i : Nat) (r : Req) : (s.setReq i r).clsmap = s.clsmap := rfl
@[simp] theorem setReq_dies (s : State) (i : Nat) (r : Req) : (s.setReq i r).dies = s.dies := rfl
@[simp] theorem setReq_fuses (s : State) (i : Nat) (r : Req) : (s.setReq i r).fuses = s.fuses := rfl
@[simp] theorem setReq_repair (s : State) (i : Nat) (r : Req) : (s.setReq i r).repair = s.repair := rfl
@[simp] theorem setReq_slews (s : State) (i : Nat) (r : Req) : (s.setReq i r).slews = s.slews := rfl
@[simp] theorem setReq_links (s : State) (i : Nat) (r : Req) : (s.setReq i r).links = s.links := rfl
@[simp] theorem setReq_host (s : State) (i : Nat) (r : Req) : (s.setReq i r).host = s.host := rfl
@[simp] theorem setReq_boot (s : State) (i : Nat) (r : Req) : (s.setReq i r).boot = s.boot := rfl
@[simp] theorem setReq_testing (s : State) (i : Nat) (r : Req) : (s.setReq i r).testing = s.testing := rfl

/-! ### setSyn -/

@[simp] theorem setSyn_agenda (s : State) (k : Nat) (y : Syn) : (s.setSyn k y).agenda = s.agenda := rfl
@[simp] theorem setSyn_focus (s : State) (k : Nat) (y : Syn) : (s.setSyn k y).focus = s.focus := rfl
@[simp] theorem setSyn_acted (s : State) (k : Nat) (y : Syn) : (s.setSyn k y).acted = s.acted := rfl
@[simp] theorem setSyn_free (s : State) (k : Nat) (y : Syn) : (s.setSyn k y).free = s.free := rfl
@[simp] theorem setSyn_nextId (s : State) (k : Nat) (y : Syn) : (s.setSyn k y).nextId = s.nextId := rfl
@[simp] theorem setSyn_cycle (s : State) (k : Nat) (y : Syn) : (s.setSyn k y).cycle = s.cycle := rfl
@[simp] theorem setSyn_mem (s : State) (k : Nat) (y : Syn) : (s.setSyn k y).mem = s.mem := rfl
@[simp] theorem setSyn_ats (s : State) (k : Nat) (y : Syn) : (s.setSyn k y).ats = s.ats := rfl
@[simp] theorem setSyn_mts (s : State) (k : Nat) (y : Syn) : (s.setSyn k y).mts = s.mts := rfl
@[simp] theorem setSyn_pts (s : State) (k : Nat) (y : Syn) : (s.setSyn k y).pts = s.pts := rfl
@[simp] theorem setSyn_homes (s : State) (k : Nat) (y : Syn) : (s.setSyn k y).homes = s.homes := rfl
@[simp] theorem setSyn_revoked (s : State) (k : Nat) (y : Syn) : (s.setSyn k y).revoked = s.revoked := rfl
@[simp] theorem setSyn_share (s : State) (k : Nat) (y : Syn) : (s.setSyn k y).share = s.share := rfl
@[simp] theorem setSyn_shareSet (s : State) (k : Nat) (y : Syn) : (s.setSyn k y).shareSet = s.shareSet := rfl
@[simp] theorem setSyn_broughtUp (s : State) (k : Nat) (y : Syn) : (s.setSyn k y).broughtUp = s.broughtUp := rfl
@[simp] theorem setSyn_hostWins (s : State) (k : Nat) (y : Syn) : (s.setSyn k y).hostWins = s.hostWins := rfl
@[simp] theorem setSyn_extents (s : State) (k : Nat) (y : Syn) : (s.setSyn k y).extents = s.extents := rfl
@[simp] theorem setSyn_bccap (s : State) (k : Nat) (y : Syn) : (s.setSyn k y).bccap = s.bccap := rfl
@[simp] theorem setSyn_bcs (s : State) (k : Nat) (y : Syn) : (s.setSyn k y).bcs = s.bcs := rfl
@[simp] theorem setSyn_roots (s : State) (k : Nat) (y : Syn) : (s.setSyn k y).roots = s.roots := rfl
@[simp] theorem setSyn_reqs (s : State) (k : Nat) (y : Syn) : (s.setSyn k y).reqs = s.reqs := rfl
@[simp] theorem setSyn_tickets (s : State) (k : Nat) (y : Syn) : (s.setSyn k y).tickets = s.tickets := rfl
@[simp] theorem setSyn_useqs (s : State) (k : Nat) (y : Syn) : (s.setSyn k y).useqs = s.useqs := rfl
@[simp] theorem setSyn_mseqs (s : State) (k : Nat) (y : Syn) : (s.setSyn k y).mseqs = s.mseqs := rfl
@[simp] theorem setSyn_subs (s : State) (k : Nat) (y : Syn) : (s.setSyn k y).subs = s.subs := rfl
@[simp] theorem setSyn_held (s : State) (k : Nat) (y : Syn) : (s.setSyn k y).held = s.held := rfl
@[simp] theorem setSyn_syns (s : State) (k : Nat) (y : Syn) : (s.setSyn k y).syns = put k y s.syns := rfl
@[simp] theorem setSyn_cmdDone (s : State) (k : Nat) (y : Syn) : (s.setSyn k y).cmdDone = s.cmdDone := rfl
@[simp] theorem setSyn_watch (s : State) (k : Nat) (y : Syn) : (s.setSyn k y).watch = s.watch := rfl
@[simp] theorem setSyn_watchq (s : State) (k : Nat) (y : Syn) : (s.setSyn k y).watchq = s.watchq := rfl
@[simp] theorem setSyn_snap (s : State) (k : Nat) (y : Syn) : (s.setSyn k y).snap = s.snap := rfl
@[simp] theorem setSyn_snapq (s : State) (k : Nat) (y : Syn) : (s.setSyn k y).snapq = s.snapq := rfl
@[simp] theorem setSyn_res (s : State) (k : Nat) (y : Syn) : (s.setSyn k y).res = s.res := rfl
@[simp] theorem setSyn_trackers (s : State) (k : Nat) (y : Syn) : (s.setSyn k y).trackers = s.trackers := rfl
@[simp] theorem setSyn_posts (s : State) (k : Nat) (y : Syn) : (s.setSyn k y).posts = s.posts := rfl
@[simp] theorem setSyn_tasks (s : State) (k : Nat) (y : Syn) : (s.setSyn k y).tasks = s.tasks := rfl
@[simp] theorem setSyn_templates (s : State) (k : Nat) (y : Syn) : (s.setSyn k y).templates = s.templates := rfl
@[simp] theorem setSyn_dsp (s : State) (k : Nat) (y : Syn) : (s.setSyn k y).dsp = s.dsp := rfl
@[simp] theorem setSyn_images (s : State) (k : Nat) (y : Syn) : (s.setSyn k y).images = s.images := rfl
@[simp] theorem setSyn_saved (s : State) (k : Nat) (y : Syn) : (s.setSyn k y).saved = s.saved := rfl
@[simp] theorem setSyn_files (s : State) (k : Nat) (y : Syn) : (s.setSyn k y).files = s.files := rfl
@[simp] theorem setSyn_faults (s : State) (k : Nat) (y : Syn) : (s.setSyn k y).faults = s.faults := rfl
@[simp] theorem setSyn_cores (s : State) (k : Nat) (y : Syn) : (s.setSyn k y).cores = s.cores := rfl
@[simp] theorem setSyn_svcs (s : State) (k : Nat) (y : Syn) : (s.setSyn k y).svcs = s.svcs := rfl
@[simp] theorem setSyn_clsmap (s : State) (k : Nat) (y : Syn) : (s.setSyn k y).clsmap = s.clsmap := rfl
@[simp] theorem setSyn_dies (s : State) (k : Nat) (y : Syn) : (s.setSyn k y).dies = s.dies := rfl
@[simp] theorem setSyn_fuses (s : State) (k : Nat) (y : Syn) : (s.setSyn k y).fuses = s.fuses := rfl
@[simp] theorem setSyn_repair (s : State) (k : Nat) (y : Syn) : (s.setSyn k y).repair = s.repair := rfl
@[simp] theorem setSyn_slews (s : State) (k : Nat) (y : Syn) : (s.setSyn k y).slews = s.slews := rfl
@[simp] theorem setSyn_links (s : State) (k : Nat) (y : Syn) : (s.setSyn k y).links = s.links := rfl
@[simp] theorem setSyn_host (s : State) (k : Nat) (y : Syn) : (s.setSyn k y).host = s.host := rfl
@[simp] theorem setSyn_boot (s : State) (k : Nat) (y : Syn) : (s.setSyn k y).boot = s.boot := rfl
@[simp] theorem setSyn_testing (s : State) (k : Nat) (y : Syn) : (s.setSyn k y).testing = s.testing := rfl

/-! ### setStream -/

@[simp] theorem setStream_agenda (s : State) (k sig : Nat) (v : VStream) : (s.setStream k sig v).agenda = s.agenda := rfl
@[simp] theorem setStream_focus (s : State) (k sig : Nat) (v : VStream) : (s.setStream k sig v).focus = s.focus := rfl
@[simp] theorem setStream_acted (s : State) (k sig : Nat) (v : VStream) : (s.setStream k sig v).acted = s.acted := rfl
@[simp] theorem setStream_free (s : State) (k sig : Nat) (v : VStream) : (s.setStream k sig v).free = s.free := rfl
@[simp] theorem setStream_nextId (s : State) (k sig : Nat) (v : VStream) : (s.setStream k sig v).nextId = s.nextId := rfl
@[simp] theorem setStream_cycle (s : State) (k sig : Nat) (v : VStream) : (s.setStream k sig v).cycle = s.cycle := rfl
@[simp] theorem setStream_mem (s : State) (k sig : Nat) (v : VStream) : (s.setStream k sig v).mem = s.mem := rfl
@[simp] theorem setStream_ats (s : State) (k sig : Nat) (v : VStream) : (s.setStream k sig v).ats = s.ats := rfl
@[simp] theorem setStream_mts (s : State) (k sig : Nat) (v : VStream) : (s.setStream k sig v).mts = s.mts := rfl
@[simp] theorem setStream_pts (s : State) (k sig : Nat) (v : VStream) : (s.setStream k sig v).pts = s.pts := rfl
@[simp] theorem setStream_homes (s : State) (k sig : Nat) (v : VStream) : (s.setStream k sig v).homes = s.homes := rfl
@[simp] theorem setStream_revoked (s : State) (k sig : Nat) (v : VStream) : (s.setStream k sig v).revoked = s.revoked := rfl
@[simp] theorem setStream_share (s : State) (k sig : Nat) (v : VStream) : (s.setStream k sig v).share = s.share := rfl
@[simp] theorem setStream_shareSet (s : State) (k sig : Nat) (v : VStream) : (s.setStream k sig v).shareSet = s.shareSet := rfl
@[simp] theorem setStream_broughtUp (s : State) (k sig : Nat) (v : VStream) : (s.setStream k sig v).broughtUp = s.broughtUp := rfl
@[simp] theorem setStream_hostWins (s : State) (k sig : Nat) (v : VStream) : (s.setStream k sig v).hostWins = s.hostWins := rfl
@[simp] theorem setStream_extents (s : State) (k sig : Nat) (v : VStream) : (s.setStream k sig v).extents = s.extents := rfl
@[simp] theorem setStream_bccap (s : State) (k sig : Nat) (v : VStream) : (s.setStream k sig v).bccap = s.bccap := rfl
@[simp] theorem setStream_bcs (s : State) (k sig : Nat) (v : VStream) : (s.setStream k sig v).bcs = s.bcs := rfl
@[simp] theorem setStream_roots (s : State) (k sig : Nat) (v : VStream) : (s.setStream k sig v).roots = s.roots := rfl
@[simp] theorem setStream_reqs (s : State) (k sig : Nat) (v : VStream) : (s.setStream k sig v).reqs = s.reqs := rfl
@[simp] theorem setStream_tickets (s : State) (k sig : Nat) (v : VStream) : (s.setStream k sig v).tickets = s.tickets := rfl
@[simp] theorem setStream_useqs (s : State) (k sig : Nat) (v : VStream) : (s.setStream k sig v).useqs = s.useqs := rfl
@[simp] theorem setStream_mseqs (s : State) (k sig : Nat) (v : VStream) : (s.setStream k sig v).mseqs = s.mseqs := rfl
@[simp] theorem setStream_subs (s : State) (k sig : Nat) (v : VStream) : (s.setStream k sig v).subs = s.subs := rfl
@[simp] theorem setStream_held (s : State) (k sig : Nat) (v : VStream) : (s.setStream k sig v).held = s.held := rfl
@[simp] theorem setStream_syns (s : State) (k sig : Nat) (v : VStream) : (s.setStream k sig v).syns = put k { s.syn k with streams := put sig v (s.syn k).streams } s.syns := rfl
@[simp] theorem setStream_cmdDone (s : State) (k sig : Nat) (v : VStream) : (s.setStream k sig v).cmdDone = s.cmdDone := rfl
@[simp] theorem setStream_watch (s : State) (k sig : Nat) (v : VStream) : (s.setStream k sig v).watch = s.watch := rfl
@[simp] theorem setStream_watchq (s : State) (k sig : Nat) (v : VStream) : (s.setStream k sig v).watchq = s.watchq := rfl
@[simp] theorem setStream_snap (s : State) (k sig : Nat) (v : VStream) : (s.setStream k sig v).snap = s.snap := rfl
@[simp] theorem setStream_snapq (s : State) (k sig : Nat) (v : VStream) : (s.setStream k sig v).snapq = s.snapq := rfl
@[simp] theorem setStream_res (s : State) (k sig : Nat) (v : VStream) : (s.setStream k sig v).res = s.res := rfl
@[simp] theorem setStream_trackers (s : State) (k sig : Nat) (v : VStream) : (s.setStream k sig v).trackers = s.trackers := rfl
@[simp] theorem setStream_posts (s : State) (k sig : Nat) (v : VStream) : (s.setStream k sig v).posts = s.posts := rfl
@[simp] theorem setStream_tasks (s : State) (k sig : Nat) (v : VStream) : (s.setStream k sig v).tasks = s.tasks := rfl
@[simp] theorem setStream_templates (s : State) (k sig : Nat) (v : VStream) : (s.setStream k sig v).templates = s.templates := rfl
@[simp] theorem setStream_dsp (s : State) (k sig : Nat) (v : VStream) : (s.setStream k sig v).dsp = s.dsp := rfl
@[simp] theorem setStream_images (s : State) (k sig : Nat) (v : VStream) : (s.setStream k sig v).images = s.images := rfl
@[simp] theorem setStream_saved (s : State) (k sig : Nat) (v : VStream) : (s.setStream k sig v).saved = s.saved := rfl
@[simp] theorem setStream_files (s : State) (k sig : Nat) (v : VStream) : (s.setStream k sig v).files = s.files := rfl
@[simp] theorem setStream_faults (s : State) (k sig : Nat) (v : VStream) : (s.setStream k sig v).faults = s.faults := rfl
@[simp] theorem setStream_cores (s : State) (k sig : Nat) (v : VStream) : (s.setStream k sig v).cores = s.cores := rfl
@[simp] theorem setStream_svcs (s : State) (k sig : Nat) (v : VStream) : (s.setStream k sig v).svcs = s.svcs := rfl
@[simp] theorem setStream_clsmap (s : State) (k sig : Nat) (v : VStream) : (s.setStream k sig v).clsmap = s.clsmap := rfl
@[simp] theorem setStream_dies (s : State) (k sig : Nat) (v : VStream) : (s.setStream k sig v).dies = s.dies := rfl
@[simp] theorem setStream_fuses (s : State) (k sig : Nat) (v : VStream) : (s.setStream k sig v).fuses = s.fuses := rfl
@[simp] theorem setStream_repair (s : State) (k sig : Nat) (v : VStream) : (s.setStream k sig v).repair = s.repair := rfl
@[simp] theorem setStream_slews (s : State) (k sig : Nat) (v : VStream) : (s.setStream k sig v).slews = s.slews := rfl
@[simp] theorem setStream_links (s : State) (k sig : Nat) (v : VStream) : (s.setStream k sig v).links = s.links := rfl
@[simp] theorem setStream_host (s : State) (k sig : Nat) (v : VStream) : (s.setStream k sig v).host = s.host := rfl
@[simp] theorem setStream_boot (s : State) (k sig : Nat) (v : VStream) : (s.setStream k sig v).boot = s.boot := rfl
@[simp] theorem setStream_testing (s : State) (k sig : Nat) (v : VStream) : (s.setStream k sig v).testing = s.testing := rfl

end Sys2Proof.Laws
end

