-- ==== Sys2Proof/Laws/Maps.lean ====
section
/-! SUPPORT. Reading a map after a put: the key gives the value, every other key reads as before; and the same of the
tiles, memory tiles and residencies of a state. -/

namespace Sys2Proof.Laws

open Sys2Proof.Machine

variable {α : Type}

@[simp] theorem getD_put_same (d : α) (k : Nat) (v : α) (m : SMap α) : getD d k (put k v m) = v := by
  induction m with
  | nil => simp [put, getD]
  | cons x m ih =>
    obtain ⟨k', v'⟩ := x
    unfold put
    split
    · simp [getD]
    · split
      · simp [getD]
      · simp [getD, *]

theorem getD_put_ne (d : α) {k k' : Nat} (h : k ≠ k') (v : α) (m : SMap α) : getD d k (put k' v m) = getD d k m := by
  induction m with
  | nil => simp [put, getD, h]
  | cons x m ih =>
    obtain ⟨j, w⟩ := x
    unfold put
    split
    · simp [getD, h]
    · split
      · rename_i hj
        subst hj
        simp [getD, h]
      · simp [getD, ih]

@[simp] theorem get?_put_same (k : Nat) (v : α) (m : SMap α) : get? k (put k v m) = some v := by
  induction m with
  | nil => simp [put, get?]
  | cons x m ih =>
    obtain ⟨k', v'⟩ := x
    unfold put
    split
    · simp [get?]
    · split
      · simp [get?]
      · simp [get?, *]

theorem get?_put_ne {k k' : Nat} (h : k ≠ k') (v : α) (m : SMap α) : get? k (put k' v m) = get? k m := by
  induction m with
  | nil => simp [put, get?, h]
  | cons x m ih =>
    obtain ⟨j, w⟩ := x
    unfold put
    split
    · simp [get?, h]
    · split
      · rename_i hj
        subst hj
        simp [get?, h]
      · simp [get?, ih]

@[simp] theorem getD_upd_same (d : α) (k : Nat) (f : α → α) (m : SMap α) : getD d k (upd d k f m) = f (getD d k m) := by
  simp [upd]

theorem getD_upd_ne (d : α) {k k' : Nat} (h : k ≠ k') (f : α → α) (m : SMap α) : getD d k (upd d k' f m) = getD d k m := by
  simp [upd, getD_put_ne d h]

@[simp] theorem at_setAt_same (s : State) (k : Nat) (a : AT) : (s.setAt k a).at k = a := by simp [State.at, State.setAt]

theorem at_setAt_ne {k k' : Nat} (h : k ≠ k') (s : State) (a : AT) : (s.setAt k' a).at k = s.at k := by
  simp [State.at, State.setAt, getD_put_ne _ h]

@[simp] theorem at_modAt_same (s : State) (k : Nat) (f : AT → AT) : (s.modAt k f).at k = f (s.at k) := by
  simp [State.modAt]

theorem at_modAt_ne {k k' : Nat} (h : k ≠ k') (s : State) (f : AT → AT) : (s.modAt k' f).at k = s.at k := by
  simp [State.modAt, at_setAt_ne h]

@[simp] theorem mt_setMt_same (s : State) (k : Nat) (m : MT) : (s.setMt k m).mt k = m := by simp [State.mt, State.setMt]

theorem mt_setMt_ne {k k' : Nat} (h : k ≠ k') (s : State) (m : MT) : (s.setMt k' m).mt k = s.mt k := by
  simp [State.mt, State.setMt, getD_put_ne _ h]

@[simp] theorem mt_modMt_same (s : State) (k : Nat) (f : MT → MT) : (s.modMt k f).mt k = f (s.mt k) := by
  simp [State.modMt]

theorem mt_modMt_ne {k k' : Nat} (h : k ≠ k') (s : State) (f : MT → MT) : (s.modMt k' f).mt k = s.mt k := by
  simp [State.modMt, mt_setMt_ne h]

theorem post_ats (s : State) (k : Nat) (ps : List Post) : (s.post k ps).ats = s.ats := by
  unfold State.post
  split <;> rfl

@[simp] theorem at_post (s : State) (k j : Nat) (ps : List Post) : (s.post k ps).at j = s.at j := by
  simp [State.at, post_ats]

@[simp] theorem at_act (s : State) (j : Nat) : s.act.at j = s.at j := rfl

end Sys2Proof.Laws
end

