-- ==== Sys2Proof/Laws/Memory.lean ====
section
/-! SUPPORT. Laws of byte memories: every write keeps the canonical form; a read after a write. -/

namespace Sys2Proof.Laws

open Sys2Proof.Machine

theorem wfFrom_le {lo lo' : Nat} (h : lo' ≤ lo) : ∀ {m : Memory}, wfFrom lo m = true → wfFrom lo' m = true
  | [], _ => rfl
  | (a, b) :: m, hw => by
    simp only [wfFrom, Bool.and_eq_true, decide_eq_true_eq] at hw ⊢
    exact ⟨⟨Nat.le_trans h hw.1.1, hw.1.2⟩, hw.2⟩

theorem wfFrom_writeByte (a : Nat) (b : Byte) : ∀ {lo : Nat} {m : Memory}, lo ≤ a → wfFrom lo m = true →
    wfFrom lo (writeByte m a b) = true
  | lo, [], hl, _ => by
    unfold writeByte
    split
    · rfl
    · rename_i hb
      simp [wfFrom, hl]; exact hb
  | lo, (a', b') :: m, hl, hw => by
    have hw' := hw
    simp only [wfFrom, Bool.and_eq_true, decide_eq_true_eq] at hw
    unfold writeByte
    split
    · rename_i hlt
      split
      · exact hw'
      · rename_i hb
        simp only [wfFrom, Bool.and_eq_true, decide_eq_true_eq]
        refine ⟨⟨hl, by simpa [unlisted] using hb⟩, ⟨⟨hlt, hw.1.2⟩, hw.2⟩⟩
    · split
      · rename_i hne heq
        subst heq
        split
        · exact wfFrom_le (by omega) hw.2
        · rename_i hb
          simp only [wfFrom, Bool.and_eq_true, decide_eq_true_eq]
          exact ⟨⟨hl, by simpa [unlisted] using hb⟩, hw.2⟩
      · rename_i h1 h2
        simp only [wfFrom, Bool.and_eq_true, decide_eq_true_eq]
        exact ⟨hw.1, wfFrom_writeByte a b (by omega) hw.2⟩

/-- Writing one byte keeps the canonical form. -/
theorem wf_writeByte {m : Memory} (h : m.wf = true) (a : Nat) (b : Byte) : (writeByte m a b).wf = true :=
  wfFrom_writeByte a b (Nat.zero_le _) h

/-- Writing bytes keeps the canonical form. -/
theorem wf_writeBytes : ∀ (bs : List Byte) {m : Memory} (_ : m.wf = true) (a : Nat), (writeBytes m a bs).wf = true
  | [], _, h, _ => h
  | b :: bs, _, h, a => wf_writeBytes bs (wf_writeByte h a b) (a + 1)

/-- Writing a number keeps the canonical form. -/
theorem wf_writeNat {m : Memory} (h : m.wf = true) (a n v : Nat) : (writeNat m a n v).wf = true := wf_writeBytes _ h a

theorem readByte_absent : ∀ {lo : Nat} {m : Memory} {a : Nat}, wfFrom lo m = true → a < lo → readByte m a = unlisted
  | _, [], _, _, _ => rfl
  | lo, (a', b') :: m, a, hw, hl => by
    simp only [wfFrom, Bool.and_eq_true, decide_eq_true_eq] at hw
    unfold readByte
    rw [if_neg (by omega)]
    exact readByte_absent hw.2 (by omega)

/-- A read of the byte just written gives it (in canonical memory). -/
theorem readByte_writeByte_same (a : Nat) (b : Byte) : ∀ {lo : Nat} {m : Memory}, wfFrom lo m = true →
    readByte (writeByte m a b) a = b
  | _, [], _ => by
    unfold writeByte
    split
    · rename_i h; rw [h]; rfl
    · simp [readByte]
  | lo, (a', b') :: m, hw => by
    simp only [wfFrom, Bool.and_eq_true, decide_eq_true_eq] at hw
    unfold writeByte
    split
    · rename_i hlt
      split
      · rename_i hb
        unfold readByte
        rw [if_neg (by omega), readByte_absent hw.2 (by omega), hb]
      · simp [readByte]
    · split
      · rename_i heq
        subst heq
        split
        · rename_i hb
          rw [readByte_absent hw.2 (by omega), hb]
        · simp [readByte]
      · rename_i h1 h2
        unfold readByte
        rw [if_neg h2]
        exact readByte_writeByte_same a b hw.2

/-- A read of another byte gives what it gave. -/
theorem readByte_writeByte_ne (a : Nat) (b : Byte) (c : Nat) (hc : c ≠ a) : ∀ {lo : Nat} {m : Memory}, wfFrom lo m = true →
    readByte (writeByte m a b) c = readByte m c
  | _, [], _ => by
    unfold writeByte
    split
    · rfl
    · simp [readByte, hc]
  | lo, (a', b') :: m, hw => by
    simp only [wfFrom, Bool.and_eq_true, decide_eq_true_eq] at hw
    unfold writeByte
    split
    · split
      · rfl
      · simp [readByte, hc]
    · split
      · rename_i heq
        subst heq
        split
        · conv => rhs; unfold readByte
          rw [if_neg hc]
        · simp [readByte, hc]
      · simp only [readByte]
        split
        · rfl
        · exact readByte_writeByte_ne a b c hc hw.2

/-- Outside the written bytes a read gives what it gave. -/
theorem readByte_writeBytes_outside (c : Nat) : ∀ (bs : List Byte) (m : Memory) (a : Nat), m.wf = true →
    (c < a ∨ a + bs.length ≤ c) → readByte (writeBytes m a bs) c = readByte m c
  | [], _, _, _, _ => rfl
  | b :: bs, m, a, h, hc => by
    have hne : c ≠ a := by
      rcases hc with hc | hc
      · omega
      · simp at hc; omega
    have ho : c < a + 1 ∨ a + 1 + bs.length ≤ c := by
      rcases hc with hc | hc
      · left; omega
      · right; simp at hc; omega
    show readByte (writeBytes (writeByte m a b) (a + 1) bs) c = _
    rw [readByte_writeBytes_outside c bs _ _ (wf_writeByte h a b) ho]
    exact readByte_writeByte_ne a b c hne h

/-- Reading back what was written. -/
theorem readBytes_writeBytes : ∀ (bs : List Byte) (m : Memory) (a : Nat), m.wf = true →
    readBytes (writeBytes m a bs) a bs.length = bs
  | [], _, _, _ => rfl
  | b :: bs, m, a, h => by
    show readByte (writeBytes (writeByte m a b) (a + 1) bs) a :: readBytes _ (a + 1) bs.length = _
    rw [readByte_writeBytes_outside a bs _ _ (wf_writeByte h a b) (Or.inl (Nat.lt_succ_self a)),
      readByte_writeByte_same a b h]
    show b :: readBytes (writeBytes (writeByte m a b) (a + 1) bs) (a + 1) bs.length = _
    rw [readBytes_writeBytes bs _ _ (wf_writeByte h a b)]

/-- A sub-list by address of a canonical memory is canonical. -/
theorem wfFrom_filter (p : Host.Cell → Bool) : ∀ {lo : Nat} {m : Memory}, wfFrom lo m = true → wfFrom lo (m.filter p) = true
  | _, [], _ => rfl
  | lo, (a, b) :: m, hw => by
    simp only [wfFrom, Bool.and_eq_true, decide_eq_true_eq] at hw
    simp only [List.filter]
    split
    · simp only [wfFrom, Bool.and_eq_true, decide_eq_true_eq]
      exact ⟨hw.1, wfFrom_filter p hw.2⟩
    · exact wfFrom_le (by omega) (wfFrom_filter p hw.2)

theorem wf_filter (p : Host.Cell → Bool) {m : Memory} (h : m.wf = true) : Memory.wf (m.filter p) = true := wfFrom_filter p h

end Sys2Proof.Laws
end

