-- ==== Sys2Proof/Laws/PerInstr.lean ====
section
/-! SUPPORT. Decoding an encoded instruction gives it back: one lemma for each constructor (R22 to R36, R39, R418, R419). -/

namespace Sys2Proof.Laws

/-! ### Fields of an appended word -/

theorem ext_lo {m n : Nat} (a : BitVec m) (b : BitVec n) (s l : Nat) (h : s + l ≤ n) :
    (a ++ b).extractLsb' s l = b.extractLsb' s l := by
  apply BitVec.eq_of_getLsbD_eq; intro i hi
  simp only [BitVec.getLsbD_extractLsb', BitVec.getLsbD_append]
  have : s + i < n := by omega
  simp [this]

theorem ext_hi {m n : Nat} (a : BitVec m) (b : BitVec n) (s l : Nat) (h : n ≤ s) :
    (a ++ b).extractLsb' s l = a.extractLsb' (s - n) l := by
  apply BitVec.eq_of_getLsbD_eq; intro i hi
  simp only [BitVec.getLsbD_extractLsb', BitVec.getLsbD_append]
  have h1 : ¬ (s + i < n) := by omega
  have h2 : s + i - n = s - n + i := by omega
  simp [h1, h2]

theorem ext_all {n : Nat} (b : BitVec n) : b.extractLsb' 0 n = b := by
  apply BitVec.eq_of_getLsbD_eq; intro i hi
  simp [hi]

theorem elem_code (e : Elem) : Elem.ofCode e.code.toNat = e := by cases e <;> rfl

theorem target_code (t : Target) : Target.decode t.code = some t := by
  cases t with
  | pos q s => revert s; cases q <;> decide
  | chan c => revert c; decide
  | none => rfl

theorem bit_code (b : Bool) : (Bool.bit b == 1) = b := by cases b <;> rfl

/-! ### The fields of a fabric word -/

theorem packWord_op (op : BitVec 8) (h : Hd) (x : BitVec 30) : (packWord op h x).extractLsb' 56 8 = op := by
  unfold packWord
  rw [ext_hi _ _ _ _ (by decide), ext_hi _ _ _ _ (by decide), ext_hi _ _ _ _ (by decide), ext_hi _ _ _ _ (by decide), ext_hi _ _ _ _ (by decide), ext_all]

theorem packWord_sh (op : BitVec 8) (h : Hd) (x : BitVec 30) : (packWord op h x).extractLsb' 52 4 = h.sh.code := by
  unfold packWord
  rw [ext_hi _ _ _ _ (by decide), ext_hi _ _ _ _ (by decide), ext_hi _ _ _ _ (by decide), ext_hi _ _ _ _ (by decide), ext_lo _ _ _ _ (by decide), ext_all]

theorem packWord_md (op : BitVec 8) (h : Hd) (x : BitVec 30) : (packWord op h x).extractLsb' 48 4 = h.md := by
  unfold packWord
  rw [ext_hi _ _ _ _ (by decide), ext_hi _ _ _ _ (by decide), ext_hi _ _ _ _ (by decide), ext_lo _ _ _ _ (by decide), ext_all]

theorem packWord_t0 (op : BitVec 8) (h : Hd) (x : BitVec 30) : (packWord op h x).extractLsb' 39 9 = h.t0.code := by
  unfold packWord
  rw [ext_hi _ _ _ _ (by decide), ext_hi _ _ _ _ (by decide), ext_lo _ _ _ _ (by decide), ext_all]

theorem packWord_t1 (op : BitVec 8) (h : Hd) (x : BitVec 30) : (packWord op h x).extractLsb' 30 9 = h.t1.code := by
  unfold packWord
  rw [ext_hi _ _ _ _ (by decide), ext_lo _ _ _ _ (by decide), ext_all]

theorem packWord_x (op : BitVec 8) (h : Hd) (x : BitVec 30) : (packWord op h x).extractLsb' 0 30 = x := by
  unfold packWord
  rw [ext_lo _ _ _ _ (by decide), ext_all]

theorem packWord_decode (op : BitVec 8) (h : Hd) (x : BitVec 30) : decodeWord (packWord op h x) = decodeOp op.toNat h x := by
  unfold decodeWord
  rw [packWord_op, packWord_sh, packWord_md, packWord_t0, packWord_t1, packWord_x, target_code, target_code]
  simp only [elem_code]

/-! ### The fields of X -/

theorem memX_lsz_bits (x : MemX) : x.encode.extractLsb' 27 3 = x.lsz := by
  unfold MemX.encode
  rw [ext_hi _ _ _ _ (by decide), ext_hi _ _ _ _ (by decide), ext_hi _ _ _ _ (by decide), ext_hi _ _ _ _ (by decide), ext_hi _ _ _ _ (by decide), ext_all]

theorem memX_tc_bits (x : MemX) : x.encode.extractLsb' 26 1 = Bool.bit x.tc := by
  unfold MemX.encode
  rw [ext_hi _ _ _ _ (by decide), ext_hi _ _ _ _ (by decide), ext_hi _ _ _ _ (by decide), ext_hi _ _ _ _ (by decide), ext_lo _ _ _ _ (by decide), ext_all]

theorem memX_scp_bits (x : MemX) : x.encode.extractLsb' 23 3 = x.scp := by
  unfold MemX.encode
  rw [ext_hi _ _ _ _ (by decide), ext_hi _ _ _ _ (by decide), ext_hi _ _ _ _ (by decide), ext_lo _ _ _ _ (by decide), ext_all]

theorem memX_cla_bits (x : MemX) : x.encode.extractLsb' 20 3 = x.cla := by
  unfold MemX.encode
  rw [ext_hi _ _ _ _ (by decide), ext_hi _ _ _ _ (by decide), ext_lo _ _ _ _ (by decide), ext_all]

theorem memX_clb_bits (x : MemX) : x.encode.extractLsb' 17 3 = x.clb := by
  unfold MemX.encode
  rw [ext_hi _ _ _ _ (by decide), ext_lo _ _ _ _ (by decide), ext_all]

theorem memX_off_bits (x : MemX) : x.encode.extractLsb' 0 17 = x.off := by
  unfold MemX.encode
  rw [ext_lo _ _ _ _ (by decide), ext_all]

theorem memX_code (x : MemX) : MemX.decode x.encode = x := by
  unfold MemX.decode
  rw [memX_lsz_bits, memX_tc_bits, memX_scp_bits, memX_cla_bits, memX_clb_bits, memX_off_bits]
  simp only [bit_code]

theorem engX_sb_bits (x : EngX) : x.encode.extractLsb' 27 3 = x.sb := by
  unfold EngX.encode
  rw [ext_hi _ _ _ _ (by decide), ext_hi _ _ _ _ (by decide), ext_hi _ _ _ _ (by decide), ext_hi _ _ _ _ (by decide), ext_hi _ _ _ _ (by decide), ext_hi _ _ _ _ (by decide), ext_all]

theorem engX_arv_bits (x : EngX) : x.encode.extractLsb' 26 1 = Bool.bit x.arv := by
  unfold EngX.encode
  rw [ext_hi _ _ _ _ (by decide), ext_hi _ _ _ _ (by decide), ext_hi _ _ _ _ (by decide), ext_hi _ _ _ _ (by decide), ext_hi _ _ _ _ (by decide), ext_lo _ _ _ _ (by decide), ext_all]

theorem engX_flg_bits (x : EngX) : x.encode.extractLsb' 25 1 = Bool.bit x.flg := by
  unfold EngX.encode
  rw [ext_hi _ _ _ _ (by decide), ext_hi _ _ _ _ (by decide), ext_hi _ _ _ _ (by decide), ext_hi _ _ _ _ (by decide), ext_lo _ _ _ _ (by decide), ext_all]

theorem engX_bc_bits (x : EngX) : x.encode.extractLsb' 24 1 = Bool.bit x.bc := by
  unfold EngX.encode
  rw [ext_hi _ _ _ _ (by decide), ext_hi _ _ _ _ (by decide), ext_hi _ _ _ _ (by decide), ext_lo _ _ _ _ (by decide), ext_all]

theorem engX_eqx_bits (x : EngX) : x.encode.extractLsb' 20 4 = x.eqx := by
  unfold EngX.encode
  rw [ext_hi _ _ _ _ (by decide), ext_hi _ _ _ _ (by decide), ext_lo _ _ _ _ (by decide), ext_all]

theorem engX_eqy_bits (x : EngX) : x.encode.extractLsb' 16 4 = x.eqy := by
  unfold EngX.encode
  rw [ext_hi _ _ _ _ (by decide), ext_lo _ _ _ _ (by decide), ext_all]

theorem engX_dsc_bits (x : EngX) : x.encode.extractLsb' 0 16 = x.dsc := by
  unfold EngX.encode
  rw [ext_lo _ _ _ _ (by decide), ext_all]

theorem engX_code (x : EngX) : EngX.decode x.encode = x := by
  unfold EngX.decode
  rw [engX_sb_bits, engX_arv_bits, engX_flg_bits, engX_bc_bits, engX_eqx_bits, engX_eqy_bits, engX_dsc_bits]
  simp only [bit_code]

theorem matX_qrow_bits (x : MatX) : x.encode.extractLsb' 22 8 = x.qrow := by
  unfold MatX.encode
  rw [ext_hi _ _ _ _ (by decide), ext_hi _ _ _ _ (by decide), ext_hi _ _ _ _ (by decide), ext_hi _ _ _ _ (by decide), ext_hi _ _ _ _ (by decide), ext_hi _ _ _ _ (by decide), ext_all]

theorem matX_acc_bits (x : MatX) : x.encode.extractLsb' 21 1 = Bool.bit x.acc := by
  unfold MatX.encode
  rw [ext_hi _ _ _ _ (by decide), ext_hi _ _ _ _ (by decide), ext_hi _ _ _ _ (by decide), ext_hi _ _ _ _ (by decide), ext_hi _ _ _ _ (by decide), ext_lo _ _ _ _ (by decide), ext_all]

theorem matX_bank_bits (x : MatX) : x.encode.extractLsb' 20 1 = x.bank := by
  unfold MatX.encode
  rw [ext_hi _ _ _ _ (by decide), ext_hi _ _ _ _ (by decide), ext_hi _ _ _ _ (by decide), ext_hi _ _ _ _ (by decide), ext_lo _ _ _ _ (by decide), ext_all]

theorem matX_src_bits (x : MatX) : x.encode.extractLsb' 18 2 = x.src := by
  unfold MatX.encode
  rw [ext_hi _ _ _ _ (by decide), ext_hi _ _ _ _ (by decide), ext_hi _ _ _ _ (by decide), ext_lo _ _ _ _ (by decide), ext_all]

theorem matX_mcst_bits (x : MatX) : x.encode.extractLsb' 15 3 = x.mcst := by
  unfold MatX.encode
  rw [ext_hi _ _ _ _ (by decide), ext_hi _ _ _ _ (by decide), ext_lo _ _ _ _ (by decide), ext_all]

theorem matX_trn_bits (x : MatX) : x.encode.extractLsb' 14 1 = Bool.bit x.trn := by
  unfold MatX.encode
  rw [ext_hi _ _ _ _ (by decide), ext_lo _ _ _ _ (by decide), ext_all]

theorem matX_woff_bits (x : MatX) : x.encode.extractLsb' 0 14 = x.woff := by
  unfold MatX.encode
  rw [ext_lo _ _ _ _ (by decide), ext_all]

theorem matX_code (x : MatX) : MatX.decode x.encode = x := by
  unfold MatX.decode
  rw [matX_qrow_bits, matX_acc_bits, matX_bank_bits, matX_src_bits, matX_mcst_bits, matX_trn_bits, matX_woff_bits]
  simp only [bit_code]

theorem vidX_ax_bits (x : VidX) : x.encode.extractLsb' 28 2 = x.ax := by
  unfold VidX.encode
  rw [ext_hi _ _ _ _ (by decide), ext_hi _ _ _ _ (by decide), ext_hi _ _ _ _ (by decide), ext_hi _ _ _ _ (by decide), ext_all]

theorem vidX_log2_bits (x : VidX) : x.encode.extractLsb' 25 3 = x.log2 := by
  unfold VidX.encode
  rw [ext_hi _ _ _ _ (by decide), ext_hi _ _ _ _ (by decide), ext_hi _ _ _ _ (by decide), ext_lo _ _ _ _ (by decide), ext_all]

theorem vidX_mode_bits (x : VidX) : x.encode.extractLsb' 19 6 = x.mode := by
  unfold VidX.encode
  rw [ext_hi _ _ _ _ (by decide), ext_hi _ _ _ _ (by decide), ext_lo _ _ _ _ (by decide), ext_all]

theorem vidX_wset_bits (x : VidX) : x.encode.extractLsb' 11 8 = x.wset := by
  unfold VidX.encode
  rw [ext_hi _ _ _ _ (by decide), ext_lo _ _ _ _ (by decide), ext_all]

theorem vidX_woff_bits (x : VidX) : x.encode.extractLsb' 0 11 = x.woff := by
  unfold VidX.encode
  rw [ext_lo _ _ _ _ (by decide), ext_all]

theorem vidX_code (x : VidX) : VidX.decode x.encode = x := by
  unfold VidX.decode
  rw [vidX_ax_bits, vidX_log2_bits, vidX_mode_bits, vidX_wset_bits, vidX_woff_bits]

theorem sysX_crn_bits (x : SysX) : x.encode.extractLsb' 22 8 = x.crn := by
  unfold SysX.encode
  rw [ext_hi _ _ _ _ (by decide), ext_hi _ _ _ _ (by decide), ext_all]

theorem sysX_sel_bits (x : SysX) : x.encode.extractLsb' 16 6 = x.sel := by
  unfold SysX.encode
  rw [ext_hi _ _ _ _ (by decide), ext_lo _ _ _ _ (by decide), ext_all]

theorem sysX_code_bits (x : SysX) : x.encode.extractLsb' 0 16 = x.code := by
  unfold SysX.encode
  rw [ext_lo _ _ _ _ (by decide), ext_all]

theorem sysX_code (x : SysX) : SysX.decode x.encode = x := by
  unfold SysX.decode
  rw [sysX_crn_bits, sysX_sel_bits, sysX_code_bits]

theorem prbX_prb (x : PrbX) : x.encode.extractLsb' 24 6 = x.prb := by
  unfold PrbX.encode
  rw [ext_hi _ _ _ _ (by decide), ext_hi _ _ _ _ (by decide), ext_hi _ _ _ _ (by decide), ext_all]

theorem prbX_scp (x : PrbX) : x.encode.extractLsb' 21 3 = x.scp := by
  unfold PrbX.encode
  rw [ext_hi _ _ _ _ (by decide), ext_hi _ _ _ _ (by decide), ext_lo _ _ _ _ (by decide), ext_all]

theorem prbX_loc (x : PrbX) : x.encode.extractLsb' 15 6 = x.loc := by
  unfold PrbX.encode
  rw [ext_hi _ _ _ _ (by decide), ext_lo _ _ _ _ (by decide), ext_all]

theorem prbX_rest (x : PrbX) : x.encode.extractLsb' 0 15 = 0 := by
  unfold PrbX.encode
  rw [ext_lo _ _ _ _ (by decide), ext_all]

theorem prbX_code (x : PrbX) : PrbX.decode x.encode = .ok x := by
  unfold PrbX.decode
  rw [prbX_rest, prbX_prb, prbX_scp, prbX_loc]
  rfl

theorem t3X_t2 (x : T3X) : x.encode.extractLsb' 21 9 = x.t2.code := by
  unfold T3X.encode
  rw [ext_hi _ _ _ _ (by decide), ext_hi _ _ _ _ (by decide), ext_hi _ _ _ _ (by decide), ext_all]

theorem t3X_t3 (x : T3X) : x.encode.extractLsb' 12 9 = x.t3.code := by
  unfold T3X.encode
  rw [ext_hi _ _ _ _ (by decide), ext_hi _ _ _ _ (by decide), ext_lo _ _ _ _ (by decide), ext_all]

theorem t3X_t4 (x : T3X) : x.encode.extractLsb' 3 9 = x.t4.code := by
  unfold T3X.encode
  rw [ext_hi _ _ _ _ (by decide), ext_lo _ _ _ _ (by decide), ext_all]

theorem t3X_rest (x : T3X) : x.encode.extractLsb' 0 3 = 0 := by
  unfold T3X.encode
  rw [ext_lo _ _ _ _ (by decide), ext_all]

theorem t3X_code (x : T3X) : T3X.decode x.encode = .ok x := by
  unfold T3X.decode
  rw [t3X_rest, t3X_t2, t3X_t3, t3X_t4]
  simp only [target_code, ne_eq, not_true_eq_false, if_false]

/-! ### The fields of an Xdmx word -/

theorem packCore_funct7 (f : BitVec 3) (rd rs1 rs2 : BitVec 5) : (packCore f rd rs1 rs2).extractLsb' 25 7 = 0 := by
  unfold packCore
  rw [ext_hi _ _ _ _ (by decide), ext_hi _ _ _ _ (by decide), ext_hi _ _ _ _ (by decide), ext_hi _ _ _ _ (by decide), ext_hi _ _ _ _ (by decide), ext_all]

theorem packCore_rs2 (f : BitVec 3) (rd rs1 rs2 : BitVec 5) : (packCore f rd rs1 rs2).extractLsb' 20 5 = rs2 := by
  unfold packCore
  rw [ext_hi _ _ _ _ (by decide), ext_hi _ _ _ _ (by decide), ext_hi _ _ _ _ (by decide), ext_hi _ _ _ _ (by decide), ext_lo _ _ _ _ (by decide), ext_all]

theorem packCore_rs1 (f : BitVec 3) (rd rs1 rs2 : BitVec 5) : (packCore f rd rs1 rs2).extractLsb' 15 5 = rs1 := by
  unfold packCore
  rw [ext_hi _ _ _ _ (by decide), ext_hi _ _ _ _ (by decide), ext_hi _ _ _ _ (by decide), ext_lo _ _ _ _ (by decide), ext_all]

theorem packCore_funct3 (f : BitVec 3) (rd rs1 rs2 : BitVec 5) : (packCore f rd rs1 rs2).extractLsb' 12 3 = f := by
  unfold packCore
  rw [ext_hi _ _ _ _ (by decide), ext_hi _ _ _ _ (by decide), ext_lo _ _ _ _ (by decide), ext_all]

theorem packCore_rd (f : BitVec 3) (rd rs1 rs2 : BitVec 5) : (packCore f rd rs1 rs2).extractLsb' 7 5 = rd := by
  unfold packCore
  rw [ext_hi _ _ _ _ (by decide), ext_lo _ _ _ _ (by decide), ext_all]

theorem packCore_opcode (f : BitVec 3) (rd rs1 rs2 : BitVec 5) : (packCore f rd rs1 rs2).extractLsb' 0 7 = 0x0B := by
  unfold packCore
  rw [ext_lo _ _ _ _ (by decide), ext_all]

theorem packCore_decode (f : BitVec 3) (rd rs1 rs2 : BitVec 5) :
    decodeCore (packCore f rd rs1 rs2) = match f.toNat with
      | 0 => .xdmx (.dmxCmd rd rs1 rs2)
      | 1 => .xdmx (.dmxFence rd rs1 rs2)
      | 2 => .xdmx (.dmxTake rd rs1 rs2)
      | 3 => .xdmx (.dmxGive rd rs1 rs2)
      | 4 => .xdmx (.dmxResume rd rs1 rs2)
      | 5 => .xdmx (.dmxFrz rd rs1 rs2)
      | 6 => .xdmx (.dmxClaim rd rs1 rs2)
      | _ => .xdmx (.dmxWatch rd rs1 rs2) := by
  unfold decodeCore
  rw [packCore_opcode, packCore_funct7, packCore_rd, packCore_rs1, packCore_rs2, packCore_funct3]
  rfl

end Sys2Proof.Laws

namespace Sys2Proof.Laws.RoundTrip

open Sys2Proof.Laws

/-- Decoding the word that the encoder writes for a well-formed instruction gives the instruction back, with every operand. -/
def Statement (i : Instr) : Prop :=
  i.wf = true → (∀ w, encodeWord i = some w → decodeWord w = .ok i) ∧ (∀ w, encodeCore i = some w → decodeCore w = .xdmx i)

/-- Of a fabric instruction only the fabric word matters. -/
theorem ofWord (i : Instr) (w : W64) (h1 : encodeWord i = some w) (h2 : encodeCore i = none) (h : i.wf = true → decodeWord w = .ok i) :
    Statement i := by
  intro hw
  refine ⟨fun v hv => ?_, fun v hv => ?_⟩
  · rw [h1] at hv; cases hv; exact h hw
  · rw [h2] at hv; cases hv

/-- Of an Xdmx instruction only the core's word matters. -/
theorem ofCore (i : Instr) (w : BitVec 32) (h1 : encodeWord i = none) (h2 : encodeCore i = some w) (h : decodeCore w = .xdmx i) :
    Statement i := by
  intro _
  refine ⟨fun v hv => ?_, fun v hv => ?_⟩
  · rw [h1] at hv; cases hv
  · rw [h2] at hv; cases hv; exact h

/-- Commands and events have no word. -/
theorem ofNone (i : Instr) (h1 : encodeWord i = none) (h2 : encodeCore i = none) : Statement i := by
  intro _
  refine ⟨fun v hv => ?_, fun v hv => ?_⟩
  · rw [h1] at hv; cases hv
  · rw [h2] at hv; cases hv

theorem nop (h : Hd) (x : SysX) : Statement (.nop h x) := ofWord _ _ rfl rfl (fun hw => by
  have hm : h.md.toNat = 0 := by
    have : h.md = 0 := by
      by_contra hne
      simp [Instr.wf, Instr.check, check, hne] at hw
      split at hw <;> simp_all
    rw [this]; rfl
  rw [packWord_decode]
  simp [decodeOp, hm, sysX_code])
theorem exit (h : Hd) (x : SysX) : Statement (.exit h x) := ofWord _ _ rfl rfl (fun hw => by
  have hm : h.md.toNat = 1 := by
    have : h.md = 1 := by
      by_contra hne
      simp [Instr.wf, Instr.check, check, hne] at hw
      split at hw <;> simp_all
    rw [this]; rfl
  rw [packWord_decode]
  simp [decodeOp, hm, sysX_code])
theorem mov (h : Hd) : Statement (.mov h) := ofWord _ _ rfl rfl (fun _ => by rw [packWord_decode]; rfl)
theorem const (h : Hd) (imm : BitVec 30) : Statement (.const h imm) := ofWord _ _ rfl rfl (fun _ => by rw [packWord_decode]; rfl)
theorem consth (h : Hd) (imm : BitVec 30) : Statement (.consth h imm) := ofWord _ _ rfl rfl (fun _ => by rw [packWord_decode]; rfl)
theorem fan (h : Hd) (x : T3X) : Statement (.fan h x) := ofWord _ _ rfl rfl (fun _ => by
  rw [packWord_decode]; show Except.map _ _ = _; rw [t3X_code]; rfl)
theorem sink (h : Hd) : Statement (.sink h) := ofWord _ _ rfl rfl (fun _ => by rw [packWord_decode]; rfl)
theorem route (h : Hd) : Statement (.route h) := ofWord _ _ rfl rfl (fun _ => by rw [packWord_decode]; rfl)
theorem merge (h : Hd) : Statement (.merge h) := ofWord _ _ rfl rfl (fun _ => by rw [packWord_decode]; rfl)
theorem select (h : Hd) : Statement (.select h) := ofWord _ _ rfl rfl (fun _ => by rw [packWord_decode]; rfl)
theorem gate (h : Hd) : Statement (.gate h) := ofWord _ _ rfl rfl (fun _ => by rw [packWord_decode]; rfl)
theorem enter (h : Hd) : Statement (.enter h) := ofWord _ _ rfl rfl (fun _ => by rw [packWord_decode]; rfl)
theorem step (h : Hd) (imm : BitVec 30) : Statement (.step h imm) := ofWord _ _ rfl rfl (fun _ => by rw [packWord_decode]; rfl)
theorem leave (h : Hd) : Statement (.leave h) := ofWord _ _ rfl rfl (fun _ => by rw [packWord_decode]; rfl)
theorem epoch (h : Hd) (imm : BitVec 30) : Statement (.epoch h imm) := ofWord _ _ rfl rfl (fun _ => by rw [packWord_decode]; rfl)
theorem timeof (h : Hd) : Statement (.timeof h) := ofWord _ _ rfl rfl (fun _ => by rw [packWord_decode]; rfl)
theorem cnt (h : Hd) : Statement (.cnt h) := ofWord _ _ rfl rfl (fun _ => by rw [packWord_decode]; rfl)
theorem eos (h : Hd) : Statement (.eos h) := ofWord _ _ rfl rfl (fun _ => by rw [packWord_decode]; rfl)
theorem iseos (h : Hd) : Statement (.iseos h) := ofWord _ _ rfl rfl (fun _ => by rw [packWord_decode]; rfl)
theorem hold (h : Hd) (x : PrbX) : Statement (.hold h x) := ofWord _ _ rfl rfl (fun _ => by
  rw [packWord_decode]; show Except.map _ _ = _; rw [prbX_code]; rfl)
theorem release (h : Hd) (x : PrbX) : Statement (.release h x) := ofWord _ _ rfl rfl (fun _ => by
  rw [packWord_decode]; show Except.map _ _ = _; rw [prbX_code]; rfl)
theorem resize (h : Hd) (imm : BitVec 30) : Statement (.resize h imm) := ofWord _ _ rfl rfl (fun _ => by rw [packWord_decode]; rfl)
theorem add (h : Hd) (imm : BitVec 30) : Statement (.add h imm) := ofWord _ _ rfl rfl (fun _ => by rw [packWord_decode]; rfl)
theorem sub (h : Hd) (imm : BitVec 30) : Statement (.sub h imm) := ofWord _ _ rfl rfl (fun _ => by rw [packWord_decode]; rfl)
theorem mul (h : Hd) (imm : BitVec 30) : Statement (.mul h imm) := ofWord _ _ rfl rfl (fun _ => by rw [packWord_decode]; rfl)
theorem mulh (h : Hd) (imm : BitVec 30) : Statement (.mulh h imm) := ofWord _ _ rfl rfl (fun _ => by rw [packWord_decode]; rfl)
theorem mad (h : Hd) (imm : BitVec 30) : Statement (.mad h imm) := ofWord _ _ rfl rfl (fun _ => by rw [packWord_decode]; rfl)
theorem div (h : Hd) (imm : BitVec 30) : Statement (.div h imm) := ofWord _ _ rfl rfl (fun _ => by rw [packWord_decode]; rfl)
theorem rem (h : Hd) (imm : BitVec 30) : Statement (.rem h imm) := ofWord _ _ rfl rfl (fun _ => by rw [packWord_decode]; rfl)
theorem neg (h : Hd) (imm : BitVec 30) : Statement (.neg h imm) := ofWord _ _ rfl rfl (fun _ => by rw [packWord_decode]; rfl)
theorem abs (h : Hd) (imm : BitVec 30) : Statement (.abs h imm) := ofWord _ _ rfl rfl (fun _ => by rw [packWord_decode]; rfl)
theorem min (h : Hd) (imm : BitVec 30) : Statement (.min h imm) := ofWord _ _ rfl rfl (fun _ => by rw [packWord_decode]; rfl)
theorem max (h : Hd) (imm : BitVec 30) : Statement (.max h imm) := ofWord _ _ rfl rfl (fun _ => by rw [packWord_decode]; rfl)
theorem adds (h : Hd) (imm : BitVec 30) : Statement (.adds h imm) := ofWord _ _ rfl rfl (fun _ => by rw [packWord_decode]; rfl)
theorem subs (h : Hd) (imm : BitVec 30) : Statement (.subs h imm) := ofWord _ _ rfl rfl (fun _ => by rw [packWord_decode]; rfl)
theorem and (h : Hd) (imm : BitVec 30) : Statement (.and h imm) := ofWord _ _ rfl rfl (fun _ => by rw [packWord_decode]; rfl)
theorem or (h : Hd) (imm : BitVec 30) : Statement (.or h imm) := ofWord _ _ rfl rfl (fun _ => by rw [packWord_decode]; rfl)
theorem xor (h : Hd) (imm : BitVec 30) : Statement (.xor h imm) := ofWord _ _ rfl rfl (fun _ => by rw [packWord_decode]; rfl)
theorem andn (h : Hd) (imm : BitVec 30) : Statement (.andn h imm) := ofWord _ _ rfl rfl (fun _ => by rw [packWord_decode]; rfl)
theorem shl (h : Hd) (imm : BitVec 30) : Statement (.shl h imm) := ofWord _ _ rfl rfl (fun _ => by rw [packWord_decode]; rfl)
theorem shr (h : Hd) (imm : BitVec 30) : Statement (.shr h imm) := ofWord _ _ rfl rfl (fun _ => by rw [packWord_decode]; rfl)
theorem rotl (h : Hd) (imm : BitVec 30) : Statement (.rotl h imm) := ofWord _ _ rfl rfl (fun _ => by rw [packWord_decode]; rfl)
theorem clz (h : Hd) (imm : BitVec 30) : Statement (.clz h imm) := ofWord _ _ rfl rfl (fun _ => by rw [packWord_decode]; rfl)
theorem popc (h : Hd) (imm : BitVec 30) : Statement (.popc h imm) := ofWord _ _ rfl rfl (fun _ => by rw [packWord_decode]; rfl)
theorem bfx (h : Hd) (imm : BitVec 30) : Statement (.bfx h imm) := ofWord _ _ rfl rfl (fun _ => by rw [packWord_decode]; rfl)
theorem bfi (h : Hd) (imm : BitVec 30) : Statement (.bfi h imm) := ofWord _ _ rfl rfl (fun _ => by rw [packWord_decode]; rfl)
theorem cmp (h : Hd) (imm : BitVec 30) : Statement (.cmp h imm) := ofWord _ _ rfl rfl (fun _ => by rw [packWord_decode]; rfl)
theorem hash (h : Hd) (imm : BitVec 30) : Statement (.hash h imm) := ofWord _ _ rfl rfl (fun _ => by rw [packWord_decode]; rfl)
theorem fadd (h : Hd) (imm : BitVec 30) : Statement (.fadd h imm) := ofWord _ _ rfl rfl (fun _ => by rw [packWord_decode]; rfl)
theorem fsub (h : Hd) (imm : BitVec 30) : Statement (.fsub h imm) := ofWord _ _ rfl rfl (fun _ => by rw [packWord_decode]; rfl)
theorem fmul (h : Hd) (imm : BitVec 30) : Statement (.fmul h imm) := ofWord _ _ rfl rfl (fun _ => by rw [packWord_decode]; rfl)
theorem ffma (h : Hd) (imm : BitVec 30) : Statement (.ffma h imm) := ofWord _ _ rfl rfl (fun _ => by rw [packWord_decode]; rfl)
theorem fmin (h : Hd) (imm : BitVec 30) : Statement (.fmin h imm) := ofWord _ _ rfl rfl (fun _ => by rw [packWord_decode]; rfl)
theorem fmax (h : Hd) (imm : BitVec 30) : Statement (.fmax h imm) := ofWord _ _ rfl rfl (fun _ => by rw [packWord_decode]; rfl)
theorem fcmp (h : Hd) (imm : BitVec 30) : Statement (.fcmp h imm) := ofWord _ _ rfl rfl (fun _ => by rw [packWord_decode]; rfl)
theorem fabs (h : Hd) (imm : BitVec 30) : Statement (.fabs h imm) := ofWord _ _ rfl rfl (fun _ => by rw [packWord_decode]; rfl)
theorem fneg (h : Hd) (imm : BitVec 30) : Statement (.fneg h imm) := ofWord _ _ rfl rfl (fun _ => by rw [packWord_decode]; rfl)
theorem frcp (h : Hd) (imm : BitVec 30) : Statement (.frcp h imm) := ofWord _ _ rfl rfl (fun _ => by rw [packWord_decode]; rfl)
theorem frsq (h : Hd) (imm : BitVec 30) : Statement (.frsq h imm) := ofWord _ _ rfl rfl (fun _ => by rw [packWord_decode]; rfl)
theorem fsqrt (h : Hd) (imm : BitVec 30) : Statement (.fsqrt h imm) := ofWord _ _ rfl rfl (fun _ => by rw [packWord_decode]; rfl)
theorem fexp2 (h : Hd) (imm : BitVec 30) : Statement (.fexp2 h imm) := ofWord _ _ rfl rfl (fun _ => by rw [packWord_decode]; rfl)
theorem flog2 (h : Hd) (imm : BitVec 30) : Statement (.flog2 h imm) := ofWord _ _ rfl rfl (fun _ => by rw [packWord_decode]; rfl)
theorem fsin (h : Hd) (imm : BitVec 30) : Statement (.fsin h imm) := ofWord _ _ rfl rfl (fun _ => by rw [packWord_decode]; rfl)
theorem fcos (h : Hd) (imm : BitVec 30) : Statement (.fcos h imm) := ofWord _ _ rfl rfl (fun _ => by rw [packWord_decode]; rfl)
theorem ftanh (h : Hd) (imm : BitVec 30) : Statement (.ftanh h imm) := ofWord _ _ rfl rfl (fun _ => by rw [packWord_decode]; rfl)
theorem ferf (h : Hd) (imm : BitVec 30) : Statement (.ferf h imm) := ofWord _ _ rfl rfl (fun _ => by rw [packWord_decode]; rfl)
theorem fscale (h : Hd) (imm : BitVec 30) : Statement (.fscale h imm) := ofWord _ _ rfl rfl (fun _ => by rw [packWord_decode]; rfl)
theorem frnd (h : Hd) (imm : BitVec 30) : Statement (.frnd h imm) := ofWord _ _ rfl rfl (fun _ => by rw [packWord_decode]; rfl)
theorem fclass (h : Hd) (imm : BitVec 30) : Statement (.fclass h imm) := ofWord _ _ rfl rfl (fun _ => by rw [packWord_decode]; rfl)
theorem rsum (h : Hd) (imm : BitVec 30) : Statement (.rsum h imm) := ofWord _ _ rfl rfl (fun _ => by rw [packWord_decode]; rfl)
theorem rmax (h : Hd) (imm : BitVec 30) : Statement (.rmax h imm) := ofWord _ _ rfl rfl (fun _ => by rw [packWord_decode]; rfl)
theorem rmin (h : Hd) (imm : BitVec 30) : Statement (.rmin h imm) := ofWord _ _ rfl rfl (fun _ => by rw [packWord_decode]; rfl)
theorem scan (h : Hd) (imm : BitVec 30) : Statement (.scan h imm) := ofWord _ _ rfl rfl (fun _ => by rw [packWord_decode]; rfl)
theorem perm (h : Hd) (imm : BitVec 30) : Statement (.perm h imm) := ofWord _ _ rfl rfl (fun _ => by rw [packWord_decode]; rfl)
theorem bcast (h : Hd) (imm : BitVec 30) : Statement (.bcast h imm) := ofWord _ _ rfl rfl (fun _ => by rw [packWord_decode]; rfl)
theorem slice (h : Hd) (imm : BitVec 30) : Statement (.slice h imm) := ofWord _ _ rfl rfl (fun _ => by rw [packWord_decode]; rfl)
theorem cat (h : Hd) (imm : BitVec 30) : Statement (.cat h imm) := ofWord _ _ rfl rfl (fun _ => by rw [packWord_decode]; rfl)
theorem split (h : Hd) (imm : BitVec 30) : Statement (.split h imm) := ofWord _ _ rfl rfl (fun _ => by rw [packWord_decode]; rfl)
theorem compr (h : Hd) (imm : BitVec 30) : Statement (.compr h imm) := ofWord _ _ rfl rfl (fun _ => by rw [packWord_decode]; rfl)
theorem expd (h : Hd) (imm : BitVec 30) : Statement (.expd h imm) := ofWord _ _ rfl rfl (fun _ => by rw [packWord_decode]; rfl)
theorem argmax (h : Hd) (imm : BitVec 30) : Statement (.argmax h imm) := ofWord _ _ rfl rfl (fun _ => by rw [packWord_decode]; rfl)
theorem topk (h : Hd) (imm : BitVec 30) : Statement (.topk h imm) := ofWord _ _ rfl rfl (fun _ => by rw [packWord_decode]; rfl)
theorem maxrs (h : Hd) (imm : BitVec 30) : Statement (.maxrs h imm) := ofWord _ _ rfl rfl (fun _ => by rw [packWord_decode]; rfl)
theorem cvt (h : Hd) (imm : BitVec 30) : Statement (.cvt h imm) := ofWord _ _ rfl rfl (fun _ => by rw [packWord_decode]; rfl)
theorem cvts (h : Hd) (imm : BitVec 30) : Statement (.cvts h imm) := ofWord _ _ rfl rfl (fun _ => by rw [packWord_decode]; rfl)
theorem qnt (h : Hd) (imm : BitVec 30) : Statement (.qnt h imm) := ofWord _ _ rfl rfl (fun _ => by rw [packWord_decode]; rfl)
theorem dqnt (h : Hd) (imm : BitVec 30) : Statement (.dqnt h imm) := ofWord _ _ rfl rfl (fun _ => by rw [packWord_decode]; rfl)
theorem pack (h : Hd) (imm : BitVec 30) : Statement (.pack h imm) := ofWord _ _ rfl rfl (fun _ => by rw [packWord_decode]; rfl)
theorem unpk (h : Hd) (imm : BitVec 30) : Statement (.unpk h imm) := ofWord _ _ rfl rfl (fun _ => by rw [packWord_decode]; rfl)
theorem mcfg (h : Hd) (x : MatX) : Statement (.mcfg h x) := ofWord _ _ rfl rfl (fun _ => by
  rw [packWord_decode]; show Except.ok _ = _; rw [matX_code])
theorem mldb (h : Hd) (x : MatX) : Statement (.mldb h x) := ofWord _ _ rfl rfl (fun _ => by
  rw [packWord_decode]; show Except.ok _ = _; rw [matX_code])
theorem mswp (h : Hd) (x : MatX) : Statement (.mswp h x) := ofWord _ _ rfl rfl (fun _ => by
  rw [packWord_decode]; show Except.ok _ = _; rw [matX_code])
theorem mrow (h : Hd) (x : MatX) : Statement (.mrow h x) := ofWord _ _ rfl rfl (fun _ => by
  rw [packWord_decode]; show Except.ok _ = _; rw [matX_code])
theorem mrowa (h : Hd) (x : MatX) : Statement (.mrowa h x) := ofWord _ _ rfl rfl (fun _ => by
  rw [packWord_decode]; show Except.ok _ = _; rw [matX_code])
theorem mblk (h : Hd) (x : MatX) : Statement (.mblk h x) := ofWord _ _ rfl rfl (fun _ => by
  rw [packWord_decode]; show Except.ok _ = _; rw [matX_code])
theorem msca (h : Hd) (x : MatX) : Statement (.msca h x) := ofWord _ _ rfl rfl (fun _ => by
  rw [packWord_decode]; show Except.ok _ = _; rw [matX_code])
theorem mzero (h : Hd) (x : MatX) : Statement (.mzero h x) := ofWord _ _ rfl rfl (fun _ => by
  rw [packWord_decode]; show Except.ok _ = _; rw [matX_code])
theorem mdrn (h : Hd) (x : MatX) : Statement (.mdrn h x) := ofWord _ _ rfl rfl (fun _ => by
  rw [packWord_decode]; show Except.ok _ = _; rw [matX_code])
theorem ldt (h : Hd) (x : MemX) : Statement (.ldt h x) := ofWord _ _ rfl rfl (fun _ => by
  rw [packWord_decode]; show Except.ok _ = _; rw [memX_code])
theorem stt (h : Hd) (x : MemX) : Statement (.stt h x) := ofWord _ _ rfl rfl (fun _ => by
  rw [packWord_decode]; show Except.ok _ = _; rw [memX_code])
theorem lds (h : Hd) (x : MemX) : Statement (.lds h x) := ofWord _ _ rfl rfl (fun _ => by
  rw [packWord_decode]; show Except.ok _ = _; rw [memX_code])
theorem sts (h : Hd) (x : MemX) : Statement (.sts h x) := ofWord _ _ rfl rfl (fun _ => by
  rw [packWord_decode]; show Except.ok _ = _; rw [memX_code])
theorem agen (h : Hd) (x : MemX) : Statement (.agen h x) := ofWord _ _ rfl rfl (fun _ => by
  rw [packWord_decode]; show Except.ok _ = _; rw [memX_code])
theorem gath (h : Hd) (x : MemX) : Statement (.gath h x) := ofWord _ _ rfl rfl (fun _ => by
  rw [packWord_decode]; show Except.ok _ = _; rw [memX_code])
theorem scat (h : Hd) (x : MemX) : Statement (.scat h x) := ofWord _ _ rfl rfl (fun _ => by
  rw [packWord_decode]; show Except.ok _ = _; rw [memX_code])
theorem waita (h : Hd) (x : MemX) : Statement (.waita h x) := ofWord _ _ rfl rfl (fun _ => by
  rw [packWord_decode]; show Except.ok _ = _; rw [memX_code])
theorem arrv (h : Hd) (x : MemX) : Statement (.arrv h x) := ofWord _ _ rfl rfl (fun _ => by
  rw [packWord_decode]; show Except.ok _ = _; rw [memX_code])
theorem fence (h : Hd) (x : MemX) : Statement (.fence h x) := ofWord _ _ rfl rfl (fun _ => by
  rw [packWord_decode]; show Except.ok _ = _; rw [memX_code])
theorem xfence (h : Hd) (x : MemX) : Statement (.xfence h x) := ofWord _ _ rfl rfl (fun _ => by
  rw [packWord_decode]; show Except.ok _ = _; rw [memX_code])
theorem ldv (h : Hd) (x : MemX) : Statement (.ldv h x) := ofWord _ _ rfl rfl (fun _ => by
  rw [packWord_decode]; show Except.ok _ = _; rw [memX_code])
theorem stv (h : Hd) (x : MemX) : Statement (.stv h x) := ofWord _ _ rfl rfl (fun _ => by
  rw [packWord_decode]; show Except.ok _ = _; rw [memX_code])
theorem ldvs (h : Hd) (x : MemX) : Statement (.ldvs h x) := ofWord _ _ rfl rfl (fun _ => by
  rw [packWord_decode]; show Except.ok _ = _; rw [memX_code])
theorem stvs (h : Hd) (x : MemX) : Statement (.stvs h x) := ofWord _ _ rfl rfl (fun _ => by
  rw [packWord_decode]; show Except.ok _ = _; rw [memX_code])
theorem pfv (h : Hd) (x : MemX) : Statement (.pfv h x) := ofWord _ _ rfl rfl (fun _ => by
  rw [packWord_decode]; show Except.ok _ = _; rw [memX_code])
theorem amo (h : Hd) (x : MemX) : Statement (.amo h x) := ofWord _ _ rfl rfl (fun _ => by
  rw [packWord_decode]; show Except.ok _ = _; rw [memX_code])
theorem amor (h : Hd) (x : MemX) : Statement (.amor h x) := ofWord _ _ rfl rfl (fun _ => by
  rw [packWord_decode]; show Except.ok _ = _; rw [memX_code])
theorem red (h : Hd) (x : MemX) : Statement (.red h x) := ofWord _ _ rfl rfl (fun _ => by
  rw [packWord_decode]; show Except.ok _ = _; rw [memX_code])
theorem bin (h : Hd) (x : MemX) : Statement (.bin h x) := ofWord _ _ rfl rfl (fun _ => by
  rw [packWord_decode]; show Except.ok _ = _; rw [memX_code])
theorem binf (h : Hd) (x : MemX) : Statement (.binf h x) := ofWord _ _ rfl rfl (fun _ => by
  rw [packWord_decode]; show Except.ok _ = _; rw [memX_code])
theorem send (h : Hd) (x : EngX) : Statement (.send h x) := ofWord _ _ rfl rfl (fun _ => by
  rw [packWord_decode]; show Except.ok _ = _; rw [engX_code])
theorem cpy (h : Hd) (x : EngX) : Statement (.cpy h x) := ofWord _ _ rfl rfl (fun _ => by
  rw [packWord_decode]; show Except.ok _ = _; rw [engX_code])
theorem cpys (h : Hd) (x : EngX) : Statement (.cpys h x) := ofWord _ _ rfl rfl (fun _ => by
  rw [packWord_decode]; show Except.ok _ = _; rw [engX_code])
theorem cpyf (h : Hd) (x : EngX) : Statement (.cpyf h x) := ofWord _ _ rfl rfl (fun _ => by
  rw [packWord_decode]; show Except.ok _ = _; rw [engX_code])
theorem cpyc (h : Hd) (x : EngX) : Statement (.cpyc h x) := ofWord _ _ rfl rfl (fun _ => by
  rw [packWord_decode]; show Except.ok _ = _; rw [engX_code])
theorem sbw (h : Hd) (x : EngX) : Statement (.sbw h x) := ofWord _ _ rfl rfl (fun _ => by
  rw [packWord_decode]; show Except.ok _ = _; rw [engX_code])
theorem snap (h : Hd) (x : EngX) : Statement (.snap h x) := ofWord _ _ rfl rfl (fun _ => by
  rw [packWord_decode]; show Except.ok _ = _; rw [engX_code])
theorem cmbc (h : Hd) (x : EngX) : Statement (.cmbc h x) := ofWord _ _ rfl rfl (fun _ => by
  rw [packWord_decode]; show Except.ok _ = _; rw [engX_code])
theorem cmba (h : Hd) (x : EngX) : Statement (.cmba h x) := ofWord _ _ rfl rfl (fun _ => by
  rw [packWord_decode]; show Except.ok _ = _; rw [engX_code])
theorem cmbi (h : Hd) (x : EngX) : Statement (.cmbi h x) := ofWord _ _ rfl rfl (fun _ => by
  rw [packWord_decode]; show Except.ok _ = _; rw [engX_code])
theorem cmbr (h : Hd) (x : EngX) : Statement (.cmbr h x) := ofWord _ _ rfl rfl (fun _ => by
  rw [packWord_decode]; show Except.ok _ = _; rw [engX_code])
theorem syno (h : Hd) (x : EngX) : Statement (.syno h x) := ofWord _ _ rfl rfl (fun _ => by
  rw [packWord_decode]; show Except.ok _ = _; rw [engX_code])
theorem synq (h : Hd) (x : EngX) : Statement (.synq h x) := ofWord _ _ rfl rfl (fun _ => by
  rw [packWord_decode]; show Except.ok _ = _; rw [engX_code])
theorem bmod (h : Hd) (x : VidX) : Statement (.bmod h x) := ofWord _ _ rfl rfl (fun _ => by
  rw [packWord_decode]; show Except.ok _ = _; rw [vidX_code])
theorem cgex (h : Hd) (x : VidX) : Statement (.cgex h x) := ofWord _ _ rfl rfl (fun _ => by
  rw [packWord_decode]; show Except.ok _ = _; rw [vidX_code])
theorem cflp (h : Hd) (x : VidX) : Statement (.cflp h x) := ofWord _ _ rfl rfl (fun _ => by
  rw [packWord_decode]; show Except.ok _ = _; rw [vidX_code])
theorem ctrn (h : Hd) (x : VidX) : Statement (.ctrn h x) := ofWord _ _ rfl rfl (fun _ => by
  rw [packWord_decode]; show Except.ok _ = _; rw [vidX_code])
theorem blkw (h : Hd) (x : VidX) : Statement (.blkw h x) := ofWord _ _ rfl rfl (fun _ => by
  rw [packWord_decode]; show Except.ok _ = _; rw [vidX_code])
theorem drift (h : Hd) (x : VidX) : Statement (.drift h x) := ofWord _ _ rfl rfl (fun _ => by
  rw [packWord_decode]; show Except.ok _ = _; rw [vidX_code])
theorem cdmc (h : Hd) (x : VidX) : Statement (.cdmc h x) := ofWord _ _ rfl rfl (fun _ => by
  rw [packWord_decode]; show Except.ok _ = _; rw [vidX_code])
theorem cdip (h : Hd) (x : VidX) : Statement (.cdip h x) := ofWord _ _ rfl rfl (fun _ => by
  rw [packWord_decode]; show Except.ok _ = _; rw [vidX_code])
theorem waitf (h : Hd) (x : PrbX) : Statement (.waitf h x) := ofWord _ _ rfl rfl (fun _ => by
  rw [packWord_decode]; show Except.map _ _ = _; rw [prbX_code]; rfl)
theorem front (h : Hd) (x : PrbX) : Statement (.front h x) := ofWord _ _ rfl rfl (fun _ => by
  rw [packWord_decode]; show Except.map _ _ = _; rw [prbX_code]; rfl)
theorem launch (h : Hd) (imm : BitVec 30) : Statement (.launch h imm) := ofWord _ _ rfl rfl (fun _ => by rw [packWord_decode]; rfl)
theorem join (h : Hd) (imm : BitVec 30) : Statement (.join h imm) := ofWord _ _ rfl rfl (fun _ => by rw [packWord_decode]; rfl)
theorem isect (h : Hd) (imm : BitVec 30) : Statement (.isect h imm) := ofWord _ _ rfl rfl (fun _ => by rw [packWord_decode]; rfl)
theorem union (h : Hd) (imm : BitVec 30) : Statement (.union h imm) := ofWord _ _ rfl rfl (fun _ => by rw [packWord_decode]; rfl)
theorem part (h : Hd) (imm : BitVec 30) : Statement (.part h imm) := ofWord _ _ rfl rfl (fun _ => by rw [packWord_decode]; rfl)
theorem trap (h : Hd) (x : SysX) : Statement (.trap h x) := ofWord _ _ rfl rfl (fun _ => by
  rw [packWord_decode]; show Except.ok _ = _; rw [sysX_code])
theorem brk (h : Hd) (x : SysX) : Statement (.brk h x) := ofWord _ _ rfl rfl (fun _ => by
  rw [packWord_decode]; show Except.ok _ = _; rw [sysX_code])
theorem rdcr (h : Hd) (x : SysX) : Statement (.rdcr h x) := ofWord _ _ rfl rfl (fun _ => by
  rw [packWord_decode]; show Except.ok _ = _; rw [sysX_code])
theorem wrcr (h : Hd) (x : SysX) : Statement (.wrcr h x) := ofWord _ _ rfl rfl (fun _ => by
  rw [packWord_decode]; show Except.ok _ = _; rw [sysX_code])
theorem perf (h : Hd) (x : SysX) : Statement (.perf h x) := ofWord _ _ rfl rfl (fun _ => by
  rw [packWord_decode]; show Except.ok _ = _; rw [sysX_code])
theorem svc (h : Hd) (x : SysX) : Statement (.svc h x) := ofWord _ _ rfl rfl (fun _ => by
  rw [packWord_decode]; show Except.ok _ = _; rw [sysX_code])
theorem dmxCmd (rd : BitVec 5) (rs1 : BitVec 5) (rs2 : BitVec 5) : Statement (.dmxCmd rd rs1 rs2) := ofCore _ _ rfl rfl (packCore_decode _ _ _ _)
theorem dmxFence (rd : BitVec 5) (rs1 : BitVec 5) (rs2 : BitVec 5) : Statement (.dmxFence rd rs1 rs2) := ofCore _ _ rfl rfl (packCore_decode _ _ _ _)
theorem dmxTake (rd : BitVec 5) (rs1 : BitVec 5) (rs2 : BitVec 5) : Statement (.dmxTake rd rs1 rs2) := ofCore _ _ rfl rfl (packCore_decode _ _ _ _)
theorem dmxGive (rd : BitVec 5) (rs1 : BitVec 5) (rs2 : BitVec 5) : Statement (.dmxGive rd rs1 rs2) := ofCore _ _ rfl rfl (packCore_decode _ _ _ _)
theorem dmxResume (rd : BitVec 5) (rs1 : BitVec 5) (rs2 : BitVec 5) : Statement (.dmxResume rd rs1 rs2) := ofCore _ _ rfl rfl (packCore_decode _ _ _ _)
theorem dmxFrz (rd : BitVec 5) (rs1 : BitVec 5) (rs2 : BitVec 5) : Statement (.dmxFrz rd rs1 rs2) := ofCore _ _ rfl rfl (packCore_decode _ _ _ _)
theorem dmxClaim (rd : BitVec 5) (rs1 : BitVec 5) (rs2 : BitVec 5) : Statement (.dmxClaim rd rs1 rs2) := ofCore _ _ rfl rfl (packCore_decode _ _ _ _)
theorem dmxWatch (rd : BitVec 5) (rs1 : BitVec 5) (rs2 : BitVec 5) : Statement (.dmxWatch rd rs1 rs2) := ofCore _ _ rfl rfl (packCore_decode _ _ _ _)
theorem cmdCreateTask (core : Nat) : Statement (.cmdCreateTask core) := ofNone _ rfl rfl
theorem cmdJoinInit (core : Nat) : Statement (.cmdJoinInit core) := ofNone _ rfl rfl
theorem cmdJoinDec (core : Nat) : Statement (.cmdJoinDec core) := ofNone _ rfl rfl
theorem cmdRegisterTemplate (core : Nat) : Statement (.cmdRegisterTemplate core) := ofNone _ rfl rfl
theorem cmdDropTemplate (core : Nat) : Statement (.cmdDropTemplate core) := ofNone _ rfl rfl
theorem cmdSetWeight (core : Nat) : Statement (.cmdSetWeight core) := ofNone _ rfl rfl
theorem commandCompletion (core : Nat) : Statement (.commandCompletion core) := ofNone _ rfl rfl
theorem copy (mt : TileId) : Statement (.copy mt) := ofNone _ rfl rfl
theorem sopen (mt : TileId) : Statement (.sopen mt) := ofNone _ rfl rfl
theorem sfree (mt : TileId) : Statement (.sfree mt) := ofNone _ rfl rfl
theorem sclose (mt : TileId) : Statement (.sclose mt) := ofNone _ rfl rfl
theorem fill (mt : TileId) : Statement (.fill mt) := ofNone _ rfl rfl
theorem mgen (mt : TileId) : Statement (.mgen mt) := ofNone _ rfl rfl
theorem setAsideStart (mt : TileId) (strm : Bool) : Statement (.setAsideStart mt strm) := ofNone _ rfl rfl
theorem arrivalSubtraction (work : Nat) : Statement (.arrivalSubtraction work) := ofNone _ rfl rfl
theorem copyCompletion (mt : TileId) (ctx : Nat) : Statement (.copyCompletion mt ctx) := ofNone _ rfl rfl
theorem streamTileDone (mt : TileId) (ctx : Nat) : Statement (.streamTileDone mt ctx) := ofNone _ rfl rfl
theorem streamClose (mt : TileId) (ctx : Nat) : Statement (.streamClose mt ctx) := ofNone _ rfl rfl
theorem matrixGenDone (mt : TileId) (ctx : Nat) : Statement (.matrixGenDone mt ctx) := ofNone _ rfl rfl
theorem ccfg (mt : TileId) : Statement (.ccfg mt) := ofNone _ rfl rfl
theorem ccfgApply (mt : TileId) : Statement (.ccfgApply mt) := ofNone _ rfl rfl
theorem calloc (mt : TileId) : Statement (.calloc mt) := ofNone _ rfl rfl
theorem callocResume (mt : TileId) : Statement (.callocResume mt) := ofNone _ rfl rfl
theorem cins (mt : TileId) : Statement (.cins mt) := ofNone _ rfl rfl
theorem crecv (mt : TileId) : Statement (.crecv mt) := ofNone _ rfl rfl
theorem combineFrontierSubst (mt : TileId) (slot : Nat) : Statement (.combineFrontierSubst mt slot) := ofNone _ rfl rfl
theorem combineTimeout (mt : TileId) (slot : Nat) : Statement (.combineTimeout mt slot) := ofNone _ rfl rfl
theorem combineRelease (mt : TileId) : Statement (.combineRelease mt) := ofNone _ rfl rfl
theorem combineMarkerRelease (mt : TileId) : Statement (.combineMarkerRelease mt) := ofNone _ rfl rfl
theorem vopen (res : Nat) (bind : Nat) : Statement (.vopen res bind) := ofNone _ rfl rfl
theorem vqry (res : Nat) (bind : Nat) : Statement (.vqry res bind) := ofNone _ rfl rfl
theorem vfree (res : Nat) (bind : Nat) : Statement (.vfree res bind) := ofNone _ rfl rfl
theorem vclose (res : Nat) (bind : Nat) : Statement (.vclose res bind) := ofNone _ rfl rfl
theorem streamParseStart (res : Nat) (bind : Nat) (sigma : Nat) : Statement (.streamParseStart res bind sigma) := ofNone _ rfl rfl
theorem pictureDelivery (res : Nat) (bind : Nat) : Statement (.pictureDelivery res bind) := ofNone _ rfl rfl
theorem syntaxStreamEnd (res : Nat) (bind : Nat) (sigma : Nat) : Statement (.syntaxStreamEnd res bind sigma) := ofNone _ rfl rfl
theorem snapshotRequest : Statement .snapshotRequest := ofNone _ rfl rfl
theorem snapshotMarked : Statement .snapshotMarked := ofNone _ rfl rfl
theorem snapshotCut : Statement .snapshotCut := ofNone _ rfl rfl
theorem snapshotPageCopied (page : Nat) : Statement (.snapshotPageCopied page) := ofNone _ rfl rfl
theorem ingressTranslate (req : Nat) (elem : Nat) : Statement (.ingressTranslate req elem) := ofNone _ rfl rfl
theorem rangeTableFetch (req : Nat) (elem : Nat) : Statement (.rangeTableFetch req elem) := ofNone _ rfl rfl
theorem pageWalkRead (req : Nat) (elem : Nat) : Statement (.pageWalkRead req elem) := ofNone _ rfl rfl
theorem atsCompletion (req : Nat) (elem : Nat) (grant : Option AtsGrant) : Statement (.atsCompletion req elem grant) := ofNone _ rfl rfl
theorem atsInvalidateRequest (asid : Nat) (va : Nat) (len : Nat) : Statement (.atsInvalidateRequest asid va len) := ofNone _ rfl rfl
theorem hostRangeTruncate (asid : Nat) (va : Nat) (newEnd : Nat) : Statement (.hostRangeTruncate asid va newEnd) := ofNone _ rfl rfl
theorem invalidateCompletion (index : Nat) : Statement (.invalidateCompletion index) := ofNone _ rfl rfl
theorem migrationRewalk (asid : Nat) (va : Nat) (len : Nat) : Statement (.migrationRewalk asid va len) := ofNone _ rfl rfl
theorem migratingDelivery (fid : Nat) : Statement (.migratingDelivery fid) := ofNone _ rfl rfl
theorem homeAccess (req : Nat) (elem : Nat) (bad : Bool) : Statement (.homeAccess req elem bad) := ofNone _ rfl rfl
theorem responseDelivery (req : Nat) : Statement (.responseDelivery req) := ofNone _ rfl rfl
theorem ownerUpdate (req : Nat) (elem : Nat) (bad : Bool) : Statement (.ownerUpdate req elem bad) := ofNone _ rfl rfl
theorem tcCommit (mt : TileId) : Statement (.tcCommit mt) := ofNone _ rfl rfl
theorem detCommit (home : Nat) (res : Nat) : Statement (.detCommit home res) := ofNone _ rfl rfl
theorem endToEndTimeout (req : Nat) : Statement (.endToEndTimeout req) := ofNone _ rfl rfl
theorem markOnlyPacket (home : Nat) (port : Nat) : Statement (.markOnlyPacket home port) := ofNone _ rfl rfl
theorem tokenAdmission (tile : TileId) (chan : Nat) : Statement (.tokenAdmission tile chan) := ofNone _ rfl rfl
theorem backqMove (tile : TileId) (chan : Nat) : Statement (.backqMove tile chan) := ofNone _ rfl rfl
theorem slotAged (tile : TileId) (slot : Nat) : Statement (.slotAged tile slot) := ofNone _ rfl rfl
theorem cntEmission (tile : TileId) (slot : Nat) : Statement (.cntEmission tile slot) := ofNone _ rfl rfl
theorem repeatEmission (tile : TileId) (slot : Nat) : Statement (.repeatEmission tile slot) := ofNone _ rfl rfl
theorem agenEmission (tile : TileId) (ctx : Nat) : Statement (.agenEmission tile ctx) := ofNone _ rfl rfl
theorem resizeEffect (tile : TileId) (index : Nat) : Statement (.resizeEffect tile index) := ofNone _ rfl rfl
theorem rowResult (tile : TileId) (index : Nat) : Statement (.rowResult tile index) := ofNone _ rfl rfl
theorem mscaResult (tile : TileId) (index : Nat) : Statement (.mscaResult tile index) := ofNone _ rfl rfl
theorem mldbLoadDone (tile : TileId) (index : Nat) : Statement (.mldbLoadDone tile index) := ofNone _ rfl rfl
theorem mblkSetValid (tile : TileId) (set : Nat) : Statement (.mblkSetValid tile set) := ofNone _ rfl rfl
theorem slewCycle (die : Nat) (dom : Nat) : Statement (.slewCycle die dom) := ofNone _ rfl rfl
theorem slewTick (die : Nat) (dom : Nat) : Statement (.slewTick die dom) := ofNone _ rfl rfl
theorem slewIdleExpiry (die : Nat) (dom : Nat) : Statement (.slewIdleExpiry die dom) := ofNone _ rfl rfl
theorem trackerBatch (trk : Nat) (input : Nat) : Statement (.trackerBatch trk input) := ofNone _ rfl rfl
theorem waitfRegister (trk : Nat) : Statement (.waitfRegister trk) := ofNone _ rfl rfl
theorem frontierRelease (trk : Nat) (index : Nat) : Statement (.frontierRelease trk index) := ofNone _ rfl rfl
theorem frontQuery (trk : Nat) : Statement (.frontQuery trk) := ofNone _ rfl rfl
theorem taskCreate : Statement .taskCreate := ofNone _ rfl rfl
theorem joinApply : Statement .joinApply := ofNone _ rfl rfl
theorem waitReevaluate (rec : Nat) : Statement (.waitReevaluate rec) := ofNone _ rfl rfl
theorem taskSelect : Statement .taskSelect := ofNone _ rfl rfl
theorem priorityAging (rec : Nat) : Statement (.priorityAging rec) := ofNone _ rfl rfl
theorem blockLoad (rec : Nat) : Statement (.blockLoad rec) := ofNone _ rfl rfl
theorem activation (rec : Nat) : Statement (.activation rec) := ofNone _ rfl rfl
theorem enterDraining (rec : Nat) : Statement (.enterDraining rec) := ofNone _ rfl rfl
theorem retire (rec : Nat) : Statement (.retire rec) := ofNone _ rfl rfl
theorem drainLimitExpiry (rec : Nat) : Statement (.drainLimitExpiry rec) := ofNone _ rfl rfl
theorem watchedStore : Statement .watchedStore := ofNone _ rfl rfl
theorem freezeRequest (rec : Nat) (cause : Nat) : Statement (.freezeRequest rec cause) := ofNone _ rfl rfl
theorem scanOut (rec : Nat) : Statement (.scanOut rec) := ofNone _ rfl rfl
theorem faultRecordEntry : Statement .faultRecordEntry := ofNone _ rfl rfl
theorem faultDelivery (fid : Nat) : Statement (.faultDelivery fid) := ofNone _ rfl rfl
theorem claimEscalation (fid : Nat) : Statement (.claimEscalation fid) := ofNone _ rfl rfl
theorem disposition : Statement .disposition := ofNone _ rfl rfl
theorem hostResumeWrite (value : BitVec 64) : Statement (.hostResumeWrite value) := ofNone _ rfl rfl
theorem watchWindowWrite (slot : Nat) (value : BitVec 64) : Statement (.watchWindowWrite slot value) := ofNone _ rfl rfl
theorem bar2Access (offset : Nat) (size : Nat) (data : Option (List (BitVec 8))) : Statement (.bar2Access offset size data) := ofNone _ rfl rfl
theorem mailboxPoll (set : Nat) : Statement (.mailboxPoll set) := ofNone _ rfl rfl
theorem mailboxStart (set : Nat) (core : Nat) : Statement (.mailboxStart set core) := ofNone _ rfl rfl
theorem skeinFileLoad (addr : Nat) (asid : Nat) : Statement (.skeinFileLoad addr asid) := ofNone _ rfl rfl
theorem tokstatClear (tile : TileId) : Statement (.tokstatClear tile) := ofNone _ rfl rfl
theorem dspstClear : Statement .dspstClear := ofNone _ rfl rfl
theorem resstClear (res : Nat) : Statement (.resstClear res) := ofNone _ rfl rfl
theorem failtReset (res : Nat) : Statement (.failtReset res) := ofNone _ rfl rfl
theorem errcntClear (die : Nat) : Statement (.errcntClear die) := ofNone _ rfl rfl
theorem perfselWrite (tile : TileId) (k : Nat) (value : BitVec 64) : Statement (.perfselWrite tile k value) := ofNone _ rfl rfl
theorem bccapWrite (die : Nat) (value : BitVec 64) : Statement (.bccapWrite die value) := ofNone _ rfl rfl
theorem slewTableWrite (die : Nat) (crn : Nat) (value : BitVec 64) : Statement (.slewTableWrite die crn value) := ofNone _ rfl rfl
theorem throtWrite (die : Nat) (value : BitVec 64) : Statement (.throtWrite die value) := ofNone _ rfl rfl
theorem qmaskSet (die : Nat) (word : Nat) (value : BitVec 64) : Statement (.qmaskSet die word value) := ofNone _ rfl rfl
theorem registerWrite (reg : RegName) (value : BitVec 64) : Statement (.registerWrite reg value) := ofNone _ rfl rfl
theorem overcurrentAlert (die : Nat) : Statement (.overcurrentAlert die) := ofNone _ rfl rfl
theorem flitReplay (flit : Flit) (kept : Bool) : Statement (.flitReplay flit kept) := ofNone _ rfl rfl
theorem laneRetrain (link : Nat) (failsAgain : Bool) : Statement (.laneRetrain link failsAgain) := ofNone _ rfl rfl
theorem linkTraining (link : Nat) (peer : List (Nat × Nat)) : Statement (.linkTraining link peer) := ofNone _ rfl rfl
theorem cxlLinkFailure (port : Nat) : Statement (.cxlLinkFailure port) := ofNone _ rfl rfl
theorem reset : Statement .reset := ofNone _ rfl rfl
theorem firmwareVerify (image : BootImage) : Statement (.firmwareVerify image) := ofNone _ rfl rfl
theorem attestationRequest (set : Nat) (nonce : List (BitVec 8)) : Statement (.attestationRequest set nonce) := ofNone _ rfl rfl
theorem mzeroDone (tile : TileId) (index : Nat) : Statement (.mzeroDone tile index) := ofNone _ rfl rfl
theorem pageInvalidation (asid : Nat) (va : Nat) (len : Nat) : Statement (.pageInvalidation asid va len) := ofNone _ rfl rfl
theorem idleSelfTest (die : Nat) (quad : Nat) (act : SelfTest) : Statement (.idleSelfTest die quad act) := ofNone _ rfl rfl

end Sys2Proof.Laws.RoundTrip

theorem Sys2Proof.Laws.RoundTrip.repeat (h : Sys2Proof.Hd) : Sys2Proof.Laws.RoundTrip.Statement (.repeat h) :=
  Sys2Proof.Laws.RoundTrip.ofWord _ _ rfl rfl (fun _ => by rw [Sys2Proof.Laws.packWord_decode]; rfl)
end

