-- ==== Sys2Proof/Laws/Step.lean ====
section
/-! SUPPORT. What a core and a pipe do in one step (R175 to R177, R417, R418). -/

namespace Sys2Proof.Laws

open Sys2Proof Sys2Proof.Machine

/-- Where no interrupt is due, a core runs the word at its pc, if no word that it reads is uncorrectable. -/
theorem runCore_word {c : Nat} {s : State} {bs : List Byte} (hs : (s.core c).started = true) (hi : pendingIrq (s.core c) = none)
    (hf : fetchCore s c = .ok bs) (hb : s.focus.bad = none) : runCore c s = match decodeCoreBytes bs with
      | .xdmx i => exec i { s with focus := { s.focus with core := c } }
      | .illegal => .next (s.illegal c).act
      | .base => runBase c bs s := by
  cases hd : decodeCoreBytes bs <;> simp [runCore, hs, hi, hf, hb, hd]

/-- A fetched word of SRAM that is uncorrectable traps (R397, R433). -/
theorem runCore_bad {c n : Nat} {s : State} {bs : List Byte} (hs : (s.core c).started = true) (hi : pendingIrq (s.core c) = none)
    (hf : fetchCore s c = .ok bs) (hb : s.focus.bad = some n) (hn : n < 8) :
    runCore c s = .next (badSram c 1 (s.core c).pc s).act := by
  simp [runCore, hs, hi, hf, hb, hn]

theorem runCore_xdmx {c : Nat} {s : State} {bs : List Byte} {i : Instr} (hs : (s.core c).started = true)
    (hi : pendingIrq (s.core c) = none) (hf : fetchCore s c = .ok bs) (hb : s.focus.bad = none)
    (hd : decodeCoreBytes bs = .xdmx i) :
    runCore c s = exec i { s with focus := { s.focus with core := c } } := by
  simp only [runCore_word hs hi hf hb, hd]

theorem runCore_illegal {c : Nat} {s : State} {bs : List Byte} (hs : (s.core c).started = true)
    (hi : pendingIrq (s.core c) = none) (hf : fetchCore s c = .ok bs) (hb : s.focus.bad = none)
    (hd : decodeCoreBytes bs = .illegal) :
    runCore c s = .next (s.illegal c).act := by
  simp only [runCore_word hs hi hf hb, hd]

theorem runCore_base {c : Nat} {s : State} {bs : List Byte} (hs : (s.core c).started = true)
    (hi : pendingIrq (s.core c) = none) (hf : fetchCore s c = .ok bs) (hb : s.focus.bad = none)
    (hd : decodeCoreBytes bs = .base) :
    runCore c s = runBase c bs s := by
  simp only [runCore_word hs hi hf hb, hd]

/-- An interrupt that is due is taken before the word at the pc. -/
theorem runCore_irq {c : Nat} {s : State} {i : Nat} {m : Bool} (hs : (s.core c).started = true)
    (hi : pendingIrq (s.core c) = some (i, m)) : runCore c s = .next (s.modCore c (fun x => x.takeIrq i m)).act := by
  simp only [runCore, hs, hi, Bool.not_true, Bool.false_eq_true, if_false]

/-- A pipe counts the sends that its candidates are refused and executes the pair that it chooses. -/
theorem firePipe_chosen {k : Nat} {p : Pipe} {s : State} {c : Cand}
    (h : choose (countRefused ((pipeCands s k p).map fun c s => readyAt s k c) s) k (readyCands s k p) = some c) :
    let s1 := countRefused ((pipeCands s k p).map fun c s => readyAt s k c) s
    firePipe k p s = exec c.ins { s1.modAt k (fun a => ageSlots a p (readyCands s k p) (some c.slot)) with
      focus := { tile := k, slot := c.slot, time := c.time, bad := s1.focus.bad } } := by
  simp only [firePipe, h]

end Sys2Proof.Laws
end

