-- ==== Sys2Proof/Tests/Slice0.lean ====
section
/-! SUPPORT. Tests: ill-formed words are refused, words of the spec decode, single steps give what the spec's examples give,
and every statement's hypotheses are met by some state and operands. -/

namespace Sys2Proof.Tests

open Sys2Proof Sys2Proof.Machine Sys2Proof.Safety

/-! ### Small states -/

/-- Header fields with no targets. -/
def hd (e : Elem) (m : Nat) : Hd := ⟨e, BitVec.ofNat 4 m, .none, .none⟩

/-- A tile whose slot 0 holds the instruction, with a token of zero bytes in each position that it uses. -/
def ready (i : Instr) : State := placeWord ((encodeWord i).getD 0) State.reset

/-- The same with the tokens of a position replaced. -/
def having (s : State) (q : Pos) (ts : List Token) : State := s.modAt 0 fun a => { a with pos := put (posEdge 0 q) ts a.pos }

/-- A data token of these bytes at time 0. -/
def tok (bs : List Byte) : Token := { zeroToken with data := bs }

/-- A token whose first 8 bytes hold a number. -/
def num (v : Nat) : Token := tok (leBytes 8 v)

/-- An end-of-fibre token of this level. -/
def mark (level : Nat) : Token := { zeroToken with kind := .eof, data := leBytes 8 level }

/-- An end-of-stream token. -/
def final : Token := { zeroToken with kind := .eos }

/-- Whether the instruction fires in the state and its context satisfies p. -/
def firing (i : Instr) (s : State) (p : Ctx → Bool) : Bool := match ctxOf i s with
  | some c => c.toks.all (fun e => !e.2.bad && !e.2.isMarker) && p c
  | none => false

/-- The same where markers may be among the tokens. -/
def matching (i : Instr) (s : State) (p : Ctx → Bool) : Bool := match ctxOf i s with
  | some c => c.toks.all (fun e => !e.2.bad) && p c
  | none => false

/-- Whether the instruction fires in its own ready state and does something there. -/
def runs (i : Instr) : Bool := firing i (ready i) (fun _ => true) &&
  match exec i (ready i) with
  | .next t => t.acted
  | _ => false

/-- What holds of the state that a meaning answers. -/
def after (r : Result) (p : State → Bool) : Bool := match r with
  | .next t => p t
  | _ => false

/-! ### The checks of R41 refuse ill-formed words -/

theorem test_wf_sh : ([Instr.add (hd .f32 0) 0, .fadd (hd .n32 0) 0, .mov (hd .b64 0)].map Instr.check)
    = [some .sh, some .sh, none] := by decide

theorem test_wf_md : ([Instr.nop (hd .b64 2) ⟨0, 0, 0⟩, .cmp (hd .n32 6) 0, .fcmp (hd .f32 15) 0, .red (hd .s32 3) ⟨0, false, 0, 0, 0, 0⟩,
    .ldt (hd .b64 0) ⟨0, false, 0, 0, 0, 0⟩].map Instr.check) = List.replicate 5 (some .md) := by decide

theorem test_wf_target : ([Instr.sink ⟨.b64, 0, .chan 3, .none⟩, .sts ⟨.n64, 0, .pos .l 1, .none⟩ ⟨0, false, 0, 0, 0, 0⟩,
    .cpyf ⟨.b64, 0, .none, .chan 1⟩ ⟨0, false, false, false, 0, 0, 0⟩, .pfv ⟨.b64, 0, .none, .chan 1⟩ ⟨0, false, 0, 0, 0, 0⟩].map
    Instr.check) = List.replicate 4 (some .target) := by decide

theorem test_wf_immediate : ([Instr.add (hd .n32 0) 1, .fadd (hd .bf16 8) 0x10000, .const (hd .f16 0) 0x10000, .bfx (hd .n32 0) 0,
    .bfx (hd .n32 0) (33 * 64), .step (hd .b64 0) 0, .epoch (hd .b64 0) (BitVec.ofNat 30 (2 ^ 20)), .resize (hd .b64 0) 0,
    .perm (hd .n8 9) 256, .bcast (hd .n8 0) 0x600, .slice (hd .n64 0) (33 * 512), .topk (hd .n32 0) 65, .part (hd .n32 0) 256,
    .launch (hd .b64 0) (9 * 2 ^ 15), .join (hd .b64 1) 0].map Instr.check) = List.replicate 15 (some .x) := by decide

theorem test_wf_conversion : ([Instr.cvt (hd .f32 0) 9, .cvts (hd .bf16 0) 13, .qnt (hd .e2m1 0) 3, .dqnt (hd .f32 0) 14,
    .pack (hd .n16 0) 8, .unpk (hd .n16 0) 8, .cvt (hd .f32 0) 0x4E].map Instr.check) = List.replicate 7 (some .x) := by decide

theorem test_wf_memory : ([Instr.lds (hd .n64 0) ⟨6, false, 0, 0, 0, 0⟩, .ldt (hd .n64 1) ⟨0, true, 0, 0, 0, 0⟩,
    .fence (hd .b64 0) ⟨0, false, 7, 0, 0, 0⟩, .xfence (hd .b64 0) ⟨0, false, 0, 2, 2, 0⟩, .agen (hd .b64 0) ⟨0, false, 0, 0, 0, 4⟩,
    .bin (hd .f32 0) ⟨0, false, 0, 0, 0, 0x20⟩, .amo (hd .n32 0) ⟨4, false, 0, 0, 0, 0⟩].map Instr.check)
    = List.replicate 7 (some .x) := by decide

theorem test_wf_engine : ([Instr.sbw (hd .b64 0) ⟨0, false, false, false, 0, 0, 0x100⟩, .cmba (hd .b64 1) ⟨0, false, false, false, 0, 0, 0⟩,
    .cpyc (hd .b64 0) ⟨1, false, false, false, 0, 0, 0⟩, .cmbi (hd .b64 0) ⟨0, false, false, false, 0, 0, 1⟩].map Instr.check)
    = [some .x, some .sh, some .x, some .x] := by decide

theorem test_wf_matrix : ([Instr.mldb (hd .b64 0) ⟨0, false, 0, 0, 0, true, 0⟩, .mrowa (hd .bf16 0) ⟨0, false, 0, 3, 0, false, 0⟩,
    .mrow (hd .bf16 1) ⟨0, false, 0, 0, 0, false, 0⟩, .mldb (hd .bf16 0) ⟨0, false, 0, 0, 0, false, 6144⟩].map Instr.check)
    = [some .x, some .x, some .md, some .x] := by decide

theorem test_wf_video : ([Instr.bmod (hd .b64 0) ⟨0, 2, 8, 0, 0⟩, .cflp (hd .s16 0) ⟨3, 2, 0, 0, 0⟩, .ctrn (hd .s16 0) ⟨0, 4, 0, 0, 0⟩,
    .cdmc (hd .b64 0) ⟨0, 0, 0, 0, 385⟩, .cgex (hd .s16 0) ⟨0, 7, 0, 0, 0⟩].map Instr.check) = List.replicate 5 (some .x) := by decide

theorem test_wf_system : ([Instr.rdcr (hd .b64 0) ⟨6, 0, 0⟩, .wrcr (hd .b64 0) ⟨0, 0, 0⟩, .perf (hd .b64 1) ⟨0, 4, 0⟩,
    .svc (hd .b64 0) ⟨0, 12, 0⟩, .waitf (hd .b64 0) ⟨0, 1, 0⟩, .hold (hd .b64 0) ⟨0, 1, 0⟩].map Instr.check)
    = List.replicate 6 (some .x) := by decide

/-! ### Words built from the spec's encodings (R22 to R36, R418) -/

/-- R23: kind 11 with index 64 to 126 is reserved. -/
theorem test_decode_reserved_target : (upto 63).all (fun n => (Target.decode (BitVec.ofNat 9 (0x1C0 + n))).isNone) = true := by decide

/-- R39, R28: opcode 0x16 is reserved; a word of family N holds X 0. -/
theorem test_decode_reserved_word : decodeTableWord 64 0x1600_FFFF_C000_0000 = none ∧ decodeTableWord 64 0x0100_FFFF_C000_0001 = none := by
  decide

/-- Family N: OP 01, SH 3 (s32), T0 slot 2 P, T1 none. -/
theorem test_decode_mov : decodeTableWord 64 0x0130_817F_C000_0000 = some (.mov ⟨.s32, 0, .pos .p 2, .none⟩) := by decide

/-- Family PRB: OP 13, LOC 5 in bits [20:15]. -/
theorem test_decode_hold : decodeTableWord 64 0x1300_00FF_C002_8000 = some (.hold ⟨.b64, 0, .pos .l 1, .none⟩ ⟨0, 0, 5⟩) := by decide

/-- Family MEM: OP 99 FENCE, SCP 2 in bits [25:23]. -/
theorem test_decode_fence : decodeTableWord 64 0x9900_00FF_C100_0000 = some (.fence ⟨.b64, 0, .pos .l 1, .none⟩ ⟨0, false, 2, 0, 0, 0⟩) := by
  decide

/-- R118's CPY word. -/
theorem test_decode_cpy : decodeTableWord 64 0xB100_02FF_D000_0200 = some (.cpy ⟨.b64, 0, .pos .l 5, .none⟩ ⟨2, false, false, false, 0, 0, 0x200⟩) := by
  decide

/-- R299's word of BLKW. -/
theorem test_decode_blkw : decodeTableWord 64 0xC400_42FF_C000_0000 = some (.blkw ⟨.b64, 0, .pos .r 5, .none⟩ ⟨0, 0, 0, 0, 0⟩) := by decide

/-- R423's SVC word. -/
theorem test_decode_svc : decodeTableWord 64 0xF500_01FF_C002_0011 = some (.svc ⟨.b64, 0, .pos .l 3, .none⟩ ⟨0, 2, 0x11⟩) := by decide

/-- Family SYS in OP 00: MD 1 is EXIT, MD 2 is undefined. -/
theorem test_decode_exit : decodeTableWord 64 0x0001_FFFF_C000_0000 = some (.exit (hd .b64 1) ⟨0, 0, 0⟩) ∧
    decodeTableWord 64 0x0002_FFFF_C000_0000 = none := by decide

/-- R418: a nonzero funct7 is illegal; another opcode belongs to the base ISA. -/
theorem test_decode_core : decodeCore 0x02C5_850B = .illegal ∧ decodeCore 0x0000_0013 = .base := by decide

/-! ### Statements about firings: their hypotheses are met -/

def x0 : MemX := ⟨0, false, 0, 0, 0, 0⟩
def e0 : EngX := ⟨0, false, false, false, 0, 0, 0⟩
def m0 : MatX := ⟨0, false, 0, 0, 0, false, 0⟩
def v0 : VidX := ⟨0, 2, 0, 0, 0⟩
def s0 : SysX := ⟨0, 0, 0⟩
def p0 : PrbX := ⟨0, 2, 0⟩

/-- A time shape of two levels of 8 bits, at depth 1. -/
def deep (s : State) : State :=
  { s.modAt 0 (fun a => { a with sdepth := [(0, 1)] }) with
    res := [(0, { oneQuad with desc := { oneQuad.desc with shapes := [[8, 8]] } })] }

theorem test_fires_moves : ([Instr.nop (hd .b64 0) s0, .sink (hd .b64 0), .mov (hd .s32 0), .fan (hd .b64 0) ⟨.none, .none, .none⟩,
    .route (hd .b64 0), .select (hd .b64 0), .gate (hd .b64 0), .const (hd .n64 0) 5, .consth (hd .n64 3) 7,
    .timeof (hd .b64 0), .enter (hd .b64 0), .leave (hd .b64 0), .eos (hd .b64 0), .iseos (hd .b64 0)].all runs) = true := by decide

theorem test_fires_step : firing (.step (hd .b64 0) 3) (deep (ready (.step (hd .b64 0) 3)))
    (fun c => ctr c.shape c.time c.depth + 3 < 2 ^ levelWidth c.shape c.depth) = true := by decide

theorem test_fires_epoch : firing (.epoch (hd .b64 0) 3) (ready (.epoch (hd .b64 0) 3)) (fun c => epochOf c.time + 3 < 2 ^ 20) = true := by
  decide

theorem test_timewrap_step : matching (.step (hd .b64 0) 256) (deep (ready (.step (hd .b64 0) 256)))
    (fun c => 2 ^ levelWidth c.shape c.depth ≤ ctr c.shape c.time c.depth + 256) = true := by decide

theorem test_timewrap_epoch : matching (.epoch (hd .b64 0) (BitVec.ofNat 30 (2 ^ 20))) (ready (.epoch (hd .b64 0) (BitVec.ofNat 30 (2 ^ 20))))
    (fun c => 2 ^ 20 ≤ epochOf c.time + 2 ^ 20) = true := by decide

/-- The two-operand integer instructions. -/
def int2 (h : Hd) : List Instr := [.sub h 0, .mul h 0, .mulh h 0, .div h 0, .rem h 0, .min h 0, .max h 0, .adds h 0, .subs h 0, .and h 0,
  .or h 0, .xor h 0, .andn h 0, .shl h 0, .shr h 0, .rotl h 0, .add h 0, .cmp h 0]

theorem test_fires_integer : ((int2 (hd .s16 0) ++ int2 (hd .n64 8)).all runs) = true := by decide

theorem test_fires_integer_one : ([Instr.bfi (hd .n32 0) 0x40, .neg (hd .s8 0) 0, .abs (hd .s8 0) 0, .clz (hd .n32 0) 0, .popc (hd .n32 0) 0,
    .bfx (hd .n32 0) 0x40, .hash (hd .n32 0) 0, .mad (hd .s32 0) 0].all runs) = true := by decide

/-- Two count tokens. -/
def counts (i : Instr) : State :=
  let k : Token := { zeroToken with kind := .count }
  having (having (ready i) .l [k]) .r [k]

theorem test_fires_count_add : firing (.add (hd .n32 0) 0) (counts (.add (hd .n32 0) 0))
    (fun c => c.l.kind == .count && c.rt.kind == .count) = true := by decide

theorem test_fires_add_data : firing (.add (hd .n32 0) 0) (ready (.add (hd .n32 0) 0))
    (fun c => !(c.l.kind == .count && c.rt.kind == .count)) = true := by decide

/-- The two-operand float instructions. -/
def flt2 (h : Hd) : List Instr := [.fadd h 0, .fsub h 0, .fmul h 0, .fmin h 0, .fmax h 0, .fcmp h 0, .fscale h 0]

theorem test_fires_float : ((flt2 (hd .f32 0) ++ flt2 (hd .bf16 8)).all runs) = true := by decide

theorem test_fires_float_one : ((let h := hd .f16 0
    [Instr.fabs h 0, .fneg h 0, .frcp h 0, .frsq h 0, .fsqrt h 0, .fexp2 h 0, .flog2 h 0, .fsin h 0, .fcos h 0, .ftanh h 0,
      .ferf h 0, .frnd h 0, .fclass h 0, .ffma h 0]).all runs) = true := by decide

theorem test_fires_rows : ([Instr.rsum (hd .bf16 0) 0, .rmax (hd .n8 0) 0, .rmin (hd .f32 1) 0, .scan (hd .n16 0) 0, .argmax (hd .n32 0) 0,
    .topk (hd .n32 0) 2, .maxrs (hd .f32 0) 0, .perm (hd .n8 0) 0, .bcast (hd .n16 0) 0, .slice (hd .n32 0) 0x200, .cat (hd .n8 0) 0,
    .compr (hd .n8 0) 0, .expd (hd .n8 0) 0].all runs) = true := by decide

theorem test_fires_split : firing (.split (hd .n8 0) 0) (having (ready (.split (hd .n8 0) 0)) .l [tok (zeros 16)])
    (fun c => 16 ≤ c.l.data.length) = true ∧
    firing (.split (hd .n8 0) 0) (ready (.split (hd .n8 0) 0)) (fun c => c.l.data.length < 16) = true := by decide

theorem test_fires_conversions : ([Instr.cvt (hd .f32 0) 0xC, .cvts (hd .bf16 0) 0xE, .qnt (hd .e2m1 0) 0xE, .dqnt (hd .f32 0) 9, .pack (hd .n16 0) 7,
    .unpk (hd .n32 0) 6, .cvt (hd .f32 8) 0xC].all runs) = true := by decide

theorem test_dqnt_range : (upto (256 / Elem.width .f32)).all (fun k => immBits 9 4 2 * 64 + k < 256) = true := by decide

/-! #### Markers -/

theorem test_marker_rule : matching (.add (hd .n32 0) 0) (having (ready (.add (hd .n32 0) 0)) .r [mark 2])
    (fun c => !ownMarkers (.add (hd .n32 0) 0) && c.toks.any (fun e => e.2.isMarker)) = true := by decide

/-- Slot 0 with a request outstanding, and with an operation and a load under way. -/
def busySlot (s : State) : State :=
  { s.modAt 0 (fun a => { a with node := { a.node with
      flight := [{ slot := 0, time := 0, pipe := .oth, seq := 0, op := .zero 0 1, outs := [] }] } }) with
    reqs := [(0, { h := 0, org := .slot 0 0, op := .load })], nextId := 1 }

theorem test_marker_waits : ([Instr.ldt (hd .b64 1) x0, .stv (hd .b64 0) x0, .msca (hd .e2m1 0) m0, .mldb (hd .b64 1) m0].all fun i =>
    matching i (having (busySlot (ready i)) .l [mark 1]) (fun c => !ownMarkers i && c.toks.any (fun e => e.2.isMarker) &&
      markerWaits i (having (busySlot (ready i)) .l [mark 1]) c)) = true := by decide

theorem test_marker_queues : (match execLdv (hd .b64 0) x0 (having (busySlot (ready (.ldv (hd .b64 0) x0))) .l [mark 3]) with
    | .next t => (get? 1 t.reqs).map (fun q => (q.op, q.elts.length)) | _ => none) = some (.mark 3, 0) := by decide

theorem test_own_markers : ([Instr.enter (hd .b64 0), .leave (hd .b64 0), .eos (hd .b64 0), .iseos (hd .b64 0)].all fun i =>
    matching i (having (ready i) .l [final]) (fun c => c.l.isMarker)) = true := by decide

theorem test_own_marker_step : matching (.step (hd .b64 0) 3) (having (deep (ready (.step (hd .b64 0) 3))) .l [mark 1])
    (fun c => c.l.isMarker && decide (ctr c.shape c.time c.depth + 3 < 2 ^ levelWidth c.shape c.depth)) = true := by decide

theorem test_own_marker_epoch : matching (.epoch (hd .b64 0) 3) (having (ready (.epoch (hd .b64 0) 3)) .l [mark 1])
    (fun c => c.l.isMarker && decide (epochOf c.time + 3 < 2 ^ 20)) = true := by decide

theorem test_own_marker_conversions : ([Instr.cvt (hd .f32 8) 0xC, .cvts (hd .bf16 8) 0xE, .qnt (hd .e2m1 8) 0xE, .dqnt (hd .f32 8) 9,
    .pack (hd .n16 8) 7, .unpk (hd .n32 8) 6].all fun i =>
    matching i (having (ready i) .l [mark 1]) (fun c => c.toks.any (fun e => e.2.isMarker))) = true := by decide

theorem test_merge_left : matching (.merge (hd .b64 0)) (ready (.merge (hd .b64 0)))
    (fun c => !c.a.active.det && (c.a.head c.slot .l c.time).any (fun k => !k.isMarker)) = true := by decide

theorem test_merge_right : matching (.merge (hd .b64 0)) (having (ready (.merge (hd .b64 0))) .l [mark 1])
    (fun c => (c.a.head c.slot .r c.time).any (fun k => !k.isMarker) && (c.a.head c.slot .l c.time).all (·.isMarker)) = true := by decide

theorem test_merge_markers : matching (.merge (hd .b64 0)) (having (having (ready (.merge (hd .b64 0))) .l [mark 1]) .r [final])
    (fun c => (c.a.head c.slot .r c.time).any (·.isMarker) && (c.a.head c.slot .l c.time).any (·.isMarker)) = true := by decide

/-! #### Generators -/

theorem test_cnt_zero : firing (.cnt (hd .b64 0)) (ready (.cnt (hd .b64 0))) (fun c => natAt c.l.data 0 4 = 0) = true := by decide

theorem test_cnt_starts : firing (.cnt (hd .b64 0)) (having (ready (.cnt (hd .b64 0))) .l [num 2]) (fun c => natAt c.l.data 0 4 ≠ 0) = true := by
  decide

/-- A REPEAT whose stream is one token and an end-of-stream. -/
def repeating (n : Nat) : State := having (having (ready (.repeat (hd .b64 0))) .l [num 7, final]) .r [num n]

theorem test_repeat_zero : matching (.repeat (hd .b64 0)) (repeating 0)
    (fun c => (c.a.stream c.slot c.time).isSome && !c.rt.isMarker && natAt c.rt.data 0 4 == 0) = true := by decide

theorem test_repeat_starts : matching (.repeat (hd .b64 0)) (repeating 2)
    (fun c => (match c.a.stream c.slot c.time with | some (_ :: _) => true | _ => false) && !c.rt.isMarker && natAt c.rt.data 0 4 != 0) = true := by
  decide

/-- The generator of slot 0 stands at this index. -/
def generating (s : State) (n : Nat) : State := (deep s).modAt 0 fun a => a.modSlot 0 fun x => { x with gen := some 0, index := n }

/-- What holds of the context of slot 0's generator. -/
def generator (s : State) (p : Instr → Ctx → Bool) : Bool := match genCtx s 0 0 with
  | some (i, c) => p i c
  | none => false

theorem test_cnt_emission : generator (deep (having (ready (.cnt (hd .b64 0))) .l [num 2])) (fun _ _ => true) = false ∧
    generator (generating (having (ready (.cnt (hd .b64 0))) .l [num 2]) 1) (fun i c => i == .cnt (hd .b64 0) &&
      decide ((c.a.slot 0).index < natAt c.l.data 0 4 ∧ (c.a.slot 0).index < 2 ^ levelWidth c.shape (c.depth + 1))) = true ∧
    generator (generating (having (ready (.cnt (hd .b64 0))) .l [num 2]) 2) (fun _ c =>
      decide (natAt c.l.data 0 4 ≤ (c.a.slot 0).index)) = true := by decide

theorem test_repeat_emission : generator (generating (repeating 2) 1) (fun i c => i == .repeat (hd .b64 0) &&
      decide ((c.a.slot 0).index < natAt c.rt.data 0 4 ∧ (c.a.slot 0).index < 2 ^ levelWidth c.shape (c.depth + 1)) &&
      (match c.a.stream 0 c.time with | some ks => (ks[(c.a.slot 0).tokIdx]?).isSome | none => false)) = true ∧
    generator (generating (repeating 2) 2) (fun _ c => decide (natAt c.rt.data 0 4 ≤ (c.a.slot 0).index)) = true := by decide

/-- R187: CNT with 2 emits index 0 at once, and keeps its operand until the pulse. -/
theorem test_cnt_keeps : after (exec (.cnt (hd .b64 0)) (deep (having (ready (.cnt (hd .b64 0))) .l [num 2])))
    (fun t => ((t.at 0).slot 0).index == 1 && ((t.at 0).posToks 0 .l).length == 1) = true := by decide

/-! #### Capabilities, EXIT, RESIZE -/

theorem test_hold_fires : firing (.hold (hd .b64 0) ⟨0, 0, 3⟩) (ready (.hold (hd .b64 0) ⟨0, 0, 3⟩)) (fun c =>
    decide (capCount c.a.caps 3 c.time < 65535 ∧ c.a.caps.length < 32) &&
    (sending (.hold (hd .b64 0) ⟨0, 0, 3⟩) c (both (hd .b64 0) c.l.to) ((ready (.hold (hd .b64 0) ⟨0, 0, 3⟩)).modAt c.key fun a =>
      { a with caps := capSet a.caps 3 c.time 1 })).isSome) = true := by decide

theorem test_hold_waits : firing (.hold (hd .b64 0) ⟨0, 0, 3⟩) ((ready (.hold (hd .b64 0) ⟨0, 0, 3⟩)).modAt 0 fun a =>
    { a with caps := (upto 32).map fun i => ⟨i, 0, 1⟩ }) (fun c => c.a.caps.length == 32) = true := by decide

theorem test_release_fires : firing (.release (hd .b64 0) ⟨0, 0, 3⟩)
    ((ready (.release (hd .b64 0) ⟨0, 0, 3⟩)).modAt 0 fun a => { a with caps := [⟨3, 0, 2⟩] }) (fun c =>
    capCount c.a.caps 3 c.time == 2 && (sending (.release (hd .b64 0) ⟨0, 0, 3⟩) c (both (hd .b64 0) c.l.to)
      (((ready (.release (hd .b64 0) ⟨0, 0, 3⟩)).modAt 0 fun a => { a with caps := [⟨3, 0, 2⟩] }).modAt c.key fun a =>
        { a with caps := capSet a.caps 3 c.time 1 })).isSome) = true ∧
    firing (.release (hd .b64 0) ⟨0, 0, 3⟩) (ready (.release (hd .b64 0) ⟨0, 0, 3⟩)) (fun c => capCount c.a.caps 3 c.time == 0 &&
      (sending (.release (hd .b64 0) ⟨0, 0, 3⟩) c (both (hd .b64 0) c.l.to)
        ((ready (.release (hd .b64 0) ⟨0, 0, 3⟩)).modAt c.key fun a => a.addRlx 1)).isSome) = true := by
  decide

theorem test_exit_runs : runs (.exit (hd .b64 1) s0) = true := by decide

/-- RESIZE of slot 0's P position to depth 3. -/
def resizeP : Instr := .resize (hd .b64 0) (BitVec.ofNat 30 (2 * 2 ^ 28 + 3))

theorem test_resize_fires : firing resizeP (ready resizeP) (fun c => c.a.closed (resizeEdge (BitVec.ofNat 30 (2 * 2 ^ 28 + 3))) = false) = true := by
  decide

theorem test_resize_effect : after (exec resizeP (ready resizeP)) (fun s =>
    let a := s.at 0
    (a.resizing[0]?).any (fun x => a.active.instr x.slot == some resizeP && edgeEmpty oneQuad a x.edge) && a.res == some 0 &&
    (get? 0 s.res).any (·.running) && after (exec (.resizeEffect ⟨0, 0, 0, 0⟩ 0) s) (fun t => (t.at 0).posDepth 0 .p == 3 && (t.at 0).resizing == [])) = true := by
  decide

/-! #### Irregular streams -/

theorem test_isect_markers : ([Instr.isect (hd .f32 0) 0, .union (hd .f32 0) 0].all fun i =>
    matching i (having (having (ready i) .l [mark 1]) .r [mark 2]) (fun c => c.l.isMarker && c.rt.isMarker)) = true := by decide

theorem test_isect_walks : ([(Instr.isect (hd .f32 0) 0, false), (.union (hd .f32 0) 0, true)].all fun p => firing p.1 (ready p.1) (fun c =>
    let ls := lanes 8 c.l.data
    let rs := lanes 8 c.rt.data
    let w := walk p.2 ls rs false false 65 ⟨0, 0, none, none, [], [], none⟩
    w.bad.isNone && decide (ls.length ≤ w.cl ∨ rs.length ≤ w.cr))) = true := by decide

/-- PART with 2 parts. -/
def part2 : Instr := .part (hd .n32 0) 2

theorem test_part_end : matching part2 (having (ready part2) .l [final]) (fun c => c.l.kind == .eos) = true := by decide

theorem test_part_data : matching part2 (ready part2) (fun c => !c.l.isMarker && !(c.a.slot 0).pbad &&
    decide (((c.a.slot 0).part ++ lanes 4 c.l.data).length ≤ 4097)) = true := by decide

/-- PART at an end-of-fibre behind three pointers. -/
def parting : State := (having (ready part2) .l [mark 1]).modAt 0 fun a => a.modSlot 0 fun x => { x with part := [0, 3, 4] }

theorem test_part_ranges : matching part2 parting (fun c => c.l.kind == .eof && !(c.a.slot 0).pbad &&
      (raggedRow (c.a.slot 0).part (c.a.slot 0).pskip).isNone &&
      (sendAll parting c.key (sportOf c.r c.key 0) (c.a.seqOf .vec) [markerOut c.l.rank c.time .none,
        dataOut .n64 c.time (leBytes 8 (weights (c.a.slot 0).part (c.a.slot 0).pskip).sum) .none]).isSome) = true ∧
    after (exec part2 parting) (fun s => ((s.at 0).slot 0).owed.length == 2 && (owedSend 0 0 s).isSome) = true := by decide

/-! #### The matrix node -/

theorem test_mcfg : ([0, 4].all fun m => firing (.mcfg (hd .bf16 0) m0) (having (ready (.mcfg (hd .bf16 0) m0)) .l [num (m + 64 * 2 ^ 16 + 32 * 2 ^ 23)])
    (fun c => let w := cfgWord (natAt c.l.data 0 8)
      c.a.node.cfg.isNone && !w.bad .bf16 && w.m == m)) = true := by decide

theorem test_mswp_fires : firing (.mswp (hd .b64 0) m0) (ready (.mswp (hd .b64 0) m0)) (fun c => loadsAt (ready (.mswp (hd .b64 0) m0)) c.key == []) = true := by
  decide

theorem test_mzero_fires : ([0, 5].all fun n => firing (.mzero (hd .b64 0) m0) (having (ready (.mzero (hd .b64 0) m0)) .l [num n])
    (fun c => bits (natAt c.l.data 0 8) 9 55 == 0 && bits (natAt c.l.data 0 8) 0 9 == n)) = true := by decide

theorem test_mdrn_fires : firing (.mdrn (hd .b64 0) m0) (ready (.mdrn (hd .b64 0) m0)) (fun c =>
    c.a.node.flight.all (fun f => match f.op with | .blk _ _ => true | _ => f.mark) && c.a.node.outq.all fun o => !o.data) = true := by decide

theorem test_mldb_fires : firing (.mldb (hd .bf16 0) ⟨0, false, 1, 0, 0, false, 0⟩) (ready (.mldb (hd .bf16 0) ⟨0, false, 1, 0, 0, false, 0⟩)) (fun c =>
    loadsAt (ready (.mldb (hd .bf16 0) ⟨0, false, 1, 0, 0, false, 0⟩)) c.key == [] && c.a.node.flight == [] && !c.substs) = true := by decide

/-- A firing of a row instruction: granted, no load into the current bank, nothing substituted. -/
def rowFires (i : Instr) (p : Ctx → Bool) : Bool :=
  firing i (ready i) fun c => c.a.node.grant && !rowsStopped (ready i) c.key && !c.substs && p c

theorem test_mrow_fires : ([Instr.mrow (hd .bf16 0) ⟨0, true, 0, 0, 0, false, 0⟩, .mrow (hd .s16 0) ⟨0, true, 0, 0, 0, false, 0⟩].all fun i => rowFires i fun c =>
    (sendAll (ready i) c.key (sportOf c.r c.key 2) (c.a.seqOf .row) (both (hd .bf16 0) (pulseOut c.time))).isSome) = true := by
  decide

theorem test_mrow_passes : rowFires (.mrow (hd .bf16 0) m0) (fun c =>
    let outs := if (rowCounts c.a.node .bf16).2.1 = 0 then [] else both (hd .bf16 0) (dataOut .f32 c.time (lanePayload
      ((upto 64).map fun j => if j < (rowCounts c.a.node .bf16).2.1 then
        rowLane (hd .bf16 0) (fitBytes 128 c.l.data) (c.a.node.bank c.a.node.cur) (rowCounts c.a.node .bf16).1 j else none)))
    (sendAll (ready (.mrow (hd .bf16 0) m0)) c.key (sportOf c.r c.key 2) (c.a.seqOf .row) outs).isSome) = true := by decide

theorem test_mrowa_fires : rowFires (.mrowa (hd .bf16 0) m0) (fun c =>
    decide (natAt c.l.data 0 4 + 128 ≤ 0x18000) && natAt c.l.data 0 4 % 16 == 0 && rowTurn (ready (.mrowa (hd .bf16 0) m0)) c.key c.key) = true := by
  decide

theorem test_mblk_fires : rowFires (.mblk (hd .e4m3 0) m0) (fun c =>
    ((upto 4).find? fun i => !(getD {} i c.a.node.sets).valid && !(getD {} i c.a.node.sets).filling) == some 0) = true := by decide

theorem test_row_markers : ([Instr.mrow (hd .bf16 0) m0, .mrowa (hd .bf16 0) m0, .mblk (hd .e4m3 0) m0].all fun i =>
    matching i (having (ready i) .l [mark 1]) (fun c => c.l.isMarker && !rowsStopped (ready i) c.key &&
      (sendAll (having (ready i) .l [mark 1]) c.key (sportOf c.r c.key 2) (c.a.seqOf .row) ((targetsOf i).map (markerOut c.l.rank c.time))).isSome)) = true := by
  decide

theorem test_msca_fires : firing (.msca (hd .e4m3 0) m0) ((ready (.msca (hd .e4m3 0) m0)).modNode 0 fun n => { n with sets := [(0, { valid := true })] })
    (fun c => natAt c.l.data 8 8 == 0 && (getD {} 0 c.a.node.sets).valid && !(getD {} 0 c.a.node.sets).filling) = true := by decide

/-! #### Requests and messages -/

theorem test_requests : ([Instr.ldt (hd .n64 1) x0, .stt (hd .n64 1) x0, .sts (hd .n64 0) x0, .stv (hd .b64 0) x0, .stvs (hd .n64 0) x0, .pfv (hd .b64 0) x0,
    .amo (hd .n32 0) x0, .red (hd .n32 0) x0, .scat (hd .s32 0) x0].all runs) = true := by decide

theorem test_load_requests : ([Instr.lds (hd .n64 0) x0, .gath (hd .n64 0) x0, .ldv (hd .b64 0) x0, .ldvs (hd .n64 0) x0].all fun i =>
    firing i (ready i) (fun c => decide (respCount (ready i) c.key < 32)) && runs i) = true := by decide

theorem test_arrv : ([0, 1].all fun m => firing (.arrv (hd .b64 m) x0) (ready (.arrv (hd .b64 m) x0)) (fun c => decide (natAt c.l.data 4 4 ≤ 2 ^ 30 - 1))) = true := by
  decide

theorem test_amor : firing (.amor (hd .n64 2) x0) (ready (.amor (hd .n64 2) x0)) (fun c =>
    decide (respCount (ready (.amor (hd .n64 2) x0)) c.key < 32) && (get? 0 (issued (requestOf (.amor (hd .n64 2) x0) (hd .n64 2) c (.amor 2) 8
      [{ space := .virt, addr := 0, n := 8, data := fitBytes 8 c.rt.data }]) (ready (.amor (hd .n64 2) x0))).reqs).isSome) = true := by decide

theorem test_waita : firing (.waita (hd .b64 0) x0) (ready (.waita (hd .b64 0) x0)) (fun c =>
    let s := ready (.waita (hd .b64 0) x0)
    (checkElt s c.r (.waita false) 8 { space := .scr, addr := 0, n := 8 }).isNone && decide (waitersAt s (c.r.scrHome 0).1 < 64) && meshFree s c.key) = true := by decide

/-- A bin-set descriptor of one bin of one entry, its queue at 0x100 and its count at 0x40. -/
def bins (i : Instr) : State := { ready i with mts := [(3, { scr := writeNat (writeNat [] 8 8 (2 ^ 32)) 16 8 (0x100 + 0x40 * 2 ^ 32) })] }

theorem test_bins : ([Instr.bin (hd .f32 0) x0, .binf (hd .f32 0) x0].all fun i =>
    firing i (bins i) (fun c => (binSet (bins i) c.r 0 4).bad.isNone)) = true := by decide

/-- Whether a fence's place stands among the requests once its instruction has fired. -/
def placed (i : Instr) (classes : List Nat) : Bool := firing i (ready i) fun c =>
  (get? 0 (issued (requestOf i (hd .b64 0) c (.fence classes false c.l.kind) c.l.data.length []) (ready i)).reqs).isSome

theorem test_fences : placed (.fence (hd .b64 0) ⟨0, false, 2, 0, 0, 0⟩) [2, 7] = true ∧ placed (.xfence (hd .b64 0) ⟨0, false, 0, 2, 1, 0⟩) [2] = true ∧
    firing (.sbw (hd .b64 0) { e0 with dsc := 4 }) (ready (.sbw (hd .b64 0) { e0 with dsc := 4 })) (fun c => getD 0 2 c.a.sb == 0) = true := by
  decide

/-- R151: an affine walk of one dimension of two points. -/
def walker : State := (ready (.agen (hd .b64 0) x0)).modAt 0 fun a =>
  { a with a := writeNat (writeNat (writeNat [] 0 8 (1 * 2 ^ 60 + 1 * 2 ^ 52)) 8 8 8) 16 8 2 }

theorem test_agen : firing (.agen (hd .b64 0) x0) walker (fun c =>
    let ws := readWords c.a.a 0 (agenLen (agenWord (BitVec.ofNat 64 (readNat c.a.a 0 8))))
    ((upto 2).find? fun i => (get? i c.a.agens).isNone) == some 0 && (agenBad 0 ws).isNone) = true := by decide

theorem test_messages : ([Instr.send (hd .b64 0) e0, .cpy (hd .b64 0) e0, .cpys (hd .b64 0) e0, .cpyf (hd .b64 0) e0, .cpyc (hd .b64 0) e0,
    .snap (hd .b64 0) e0, .cmbc (hd .b64 0) e0, .cmba (hd .b64 0) e0, .cmbi (hd .b64 0) e0, .cmbr (hd .b64 0) e0, .syno (hd .b64 0) e0,
    .synq (hd .b64 0) e0, .launch (hd .b64 0) 0, .join (hd .b64 0) 0].all fun i =>
    firing i (ready i) (fun c => decide (outgoing (ready i) c.key < 4))) = true := by decide

theorem test_generation_messages : ([Instr.cdmc (hd .b64 0) ⟨0, 0, 0, 0, 0⟩, .cdip (hd .b64 0) v0].all fun i =>
    firing i (ready i) (fun c => !Machine.generating (ready i) c.key && decide (outgoing (ready i) c.key < 4))) = true := by decide

/-! #### Video, progress, system -/

theorem test_video : ([Instr.cgex (hd .s16 0) v0, .cflp (hd .s16 0) v0, .ctrn (hd .s16 0) v0].all runs) = true := by decide

/-- A block record of an 8 by 8 block of kind 1 (R292). -/
def record : List Byte := leBytes 4 (3 * 2 ^ 24 + 3 * 2 ^ 27) ++ leBytes 4 1 ++ zeros 8

theorem test_bmod : firing (.bmod (hd .b64 0) v0) (having (ready (.bmod (hd .b64 0) v0)) .l [tok record]) (fun c =>
    let r := recordOf c.l.data
    r.lw == 3 && r.lh == 3 && r.kind == 1 && r.plane == 0) = true := by decide

theorem test_blkw : firing (.blkw (hd .b64 0) ⟨0, 0, 0, 0, 0⟩) (having (having (ready (.blkw (hd .b64 0) ⟨0, 0, 0, 0, 0⟩)) .l [tok record]) .r
    [tok (leBytes 2 1 ++ leBytes 2 2 ++ leBytes 2 8 ++ leBytes 2 8)]) (fun c =>
    let r := recordOf c.l.data
    r.kind == 1 && decide (r.ref.getD 0 0 < 0xFE) && r.mv == [0, 0, 0, 0] &&
    ([(1, 2), (2, 2), (1, 3), (2, 3)] : List (Int × Int)).all (fun p =>
      p.1 == (clampCell p.1 (natAt c.rt.data 4 2) : Int) && p.2 == (clampCell p.2 (natAt c.rt.data 6 2) : Int))) = true := by decide

theorem test_drift : firing (.drift (hd .b64 0) ⟨0, 0, 0, 0, 0⟩) (having (having (ready (.drift (hd .b64 0) ⟨0, 0, 0, 0, 0⟩)) .l [num 0x04030201]) .r
    [tok (zeros 16 ++ leBytes 8 (64 * 2 ^ 16) ++ leBytes 8 0)]) (fun c =>
    !bit (natAt c.rt.data 27 1) 1 && !bit (natAt c.rt.data 27 1) 2 && decide (natAt c.rt.data 26 1 ≤ 15) &&
    ((upto 4).filter (fun k => natAt c.rt.data (16 + 2 * k) 2 != 0)) == [1]) = true := by decide

theorem test_waitf_registers : matching (.waitf (hd .b64 0) p0) (ready (.waitf (hd .b64 0) p0)) (fun c =>
    (c.a.slot c.slot).wait.isNone && leastTime (c.a.posNow c.slot .l) == some c.time.toNat) = true := by decide

theorem test_waitf_releases : matching (.waitf (hd .b64 0) p0) ((ready (.waitf (hd .b64 0) p0)).modAt 0 fun a =>
    a.modSlot 0 fun x => { x with wait := some { time := 0, prb := 0, scp := 2, freed := some none } }) (fun c =>
    match (c.a.slot c.slot).wait with
    | some w => (match (c.a.posNow c.slot .l).filter (fun k => passes none k.time.toNat) with
      | k :: _ => w.freed == some none && k.time == c.time
      | [] => false)
    | none => false) = true := by decide

theorem test_front : runs (.front (hd .b64 0) p0) = true := by decide

theorem test_svc : firing (.svc (hd .b64 0) ⟨0, 2, 0⟩) { ready (.svc (hd .b64 0) ⟨0, 2, 0⟩) with clsmap := [(2, 0x83)] } (fun _ =>
    bit (getD 0 2 [(2, 0x83)]) 7) = true := by decide

theorem test_system : ([Instr.rdcr (hd .b64 0) ⟨5, 0, 0⟩, .wrcr (hd .b64 0) ⟨0x80, 0, 0⟩, .perf (hd .b64 1) ⟨0, 0, 0⟩, .perf (hd .b64 0) ⟨0, 4, 0⟩,
    .trap (hd .b64 0) ⟨0, 0, 7⟩, .brk (hd .b64 1) ⟨0, 0, 7⟩].all runs) = true := by decide

theorem test_brk_off : firing (.brk (hd .b64 0) s0) ((ready (.brk (hd .b64 0) s0)).modAt 0 fun a => { a with dbgctl := 0 })
    (fun c => !bit c.a.dbgctl.toNat 0) = true := by decide

/-- R182: CONST.n64 with 0x40 sends 0x40; R216: 37 plus the immediate 5 is 42 (the first program of the spec). -/
theorem test_add_42 : after (exec (.add ⟨.n64, 8, .pos .r 0, .none⟩ 5) (having (ready (.add ⟨.n64, 8, .pos .r 0, .none⟩ 5)) .l [num 37]))
    (fun t => ((t.at 0).posToks 0 .r).map (·.data) == [leBytes 8 42]) = true := by decide

/-- R411: TILEID of tile (0, 0, 0) of die 0 is 0; R412: WRCR of USER0. -/
theorem test_wrcr_user : after (exec (.wrcr (hd .b64 0) ⟨0x80, 0, 0⟩) (having (ready (.wrcr (hd .b64 0) ⟨0x80, 0, 0⟩)) .l [num 9]))
    (fun t => crRead t 0 0x80 == 9) = true := by decide

/-! ### Statements about service cores and the Dispatcher's port -/

/-- Core 0 with these registers. -/
def coreWith (x : Core) : State := { State.reset with cores := [(0, x)] }

/-- A quad of die 0 whose residency runs, and nothing else. -/
def quad : State := ready (.nop (hd .b64 0) s0)

theorem test_user_mode : ((coreWith { mode := 0 }).core 0).mode = 0 ∧ bit (((coreWith { mode := 0 }).core 0).csr 0x302) 2 = false := by decide

/-- R418: in user mode an Xdmx word goes to mtvec with cause 2. -/
theorem test_user_trap : after (exec (.dmxFrz 0 1 2) (coreWith { mode := 0, csrs := [(0x305, 0x100)] })) (fun t =>
    (t.core 0).pc == 0x100 && (t.core 0).mode == 3 && (t.core 0).csr 0x342 == 2) = true := by decide

/-- A service request of class 2 in a take queue. -/
def asked : Take := { cls := 2, code := 5, asid := 1, handle := 9, tok := zeroToken }

/-- rs1 1 and rs2 2 of a core. -/
def args (a b : W64) : Core := { regs := [(1, a), (2, b)] }

theorem test_gap_blocks :
    let far : W64 := BitVec.ofNat 64 (2 ^ 60)
    let s := coreWith { args (BitVec.ofNat 64 (2 ^ 38)) far with takeq := [asked] }
    (s.core 0).mode = 3 ∧ (s.core 0).pending = [] ∧ coreRange s (2 ^ 60) 8 = false ∧ coreRange s (2 ^ 60) 16 = false ∧
    ((coreWith { args 4 far with takeq := [asked] }).core 0).takeq.find? (fun t => bit 4 t.cls) = some asked ∧
    coreRoom s (2 ^ 60) asked.bytes.length = false ∧ coreRoom s (2 ^ 60) 128 = false ∧ coreRoom s 0 128 = true ∧
    pkind s (2 ^ 60) = .gap ∧ pkind s 0xF000000000000 = .control := by decide

/-- A record open at core 0. -/
def opened : Open := { fr := { cls := .notpresent, place := .at, fid := 7 }, core := some 0 }

theorem test_claimable : openOf { State.reset with faults := { table := [opened] } } 7 = some opened ∧ opened.claimed = false := by decide

theorem test_port_full : ((coreWith { pending := List.replicate 32 ⟨1, 0, 0, 0, 0, 0, [], 0⟩ }).core 0).pending.length ≥ 32 := by decide

theorem test_port_commands : coreRange (coreWith (args (BitVec.ofNat 64 (0x40 * 2 ^ 56)) 0)) 0 0 = true ∧ cmdBad (0x40 * 2 ^ 56) = false ∧
    cmdBad (0x40 * 2 ^ 56 + 1) = true := by decide

/-- A COPY and a configuration for the engine of quad 0, of ASID 0: the second has no unit there. -/
theorem test_port_messages : (cmdMsg quad 0 ⟨1, 1, 0, 0, 0, 0, [], 0⟩).isSome = true ∧ cmdMsg quad 0 ⟨1, 0x10, 0, 0, 0, 0, [], 0⟩ = none ∧
    cmdBad (1 * 2 ^ 56) = false := by decide

theorem test_port_fence : (coreWith {}).cores.all (fun e => e.2.pending.all fun _ => false) = true ∧
    ((coreWith { pending := [⟨1, 0x40, 0, 0, 0, 0, [], 0⟩] }).core 0).pending.any (fun q => (0 : W64) == 0 || q.id == 0) = true := by decide

theorem test_take_none : (((coreWith {}).core 0).takeq.take 64).find? (fun t => bit 0 t.cls) = none := by decide

theorem test_take_some : (((coreWith { takeq := [asked] }).core 0).takeq.take 64).find? (fun t => bit (4 % 2 ^ 16) t.cls) = some asked ∧
    coreRoom (coreWith {}) 0x100 asked.bytes.length = true := by decide

/-- A core whose SRAM holds a reply image of an end-of-stream, and one of a kind that is no reply. -/
def imaged (kind : Nat) : State := { quad with cores := [(0, { sram := writeNat [] 0 1 kind })] }

/-- An SVC of slot 0 of tile 0 that waits. -/
def waiting : Svc := ⟨{ id := 9, amop := 0, h := 0, asid := 0, src := .slot 0 0 }, zeroToken, 0, none⟩

theorem test_give : coreRange (imaged 4) 0 16 = true ∧ replyBad (coreRead (imaged 4) 0 0 16) = false ∧
    replyBad (coreRead (imaged 2) 0 0 16) = true ∧ get? 9 (imaged 4).svcs = none ∧ (runRes (imaged 4) 0).isSome = true ∧
    (deliverReply 9 waiting [markerOut 5 0 .none, markerOut 5 0 .none] { imaged 4 with svcs := [(9, waiting)] }).isSome = true := by decide

theorem test_resume : ((coreWith { resume := some (some 0) }).core 0).resume = some (some 0) ∧ ((coreWith {}).core 0).resume = none ∧
    dispOf 3 = none ∧ dispOf 1 = some .skip := by decide

/-- Record 0 of generation 0 in this state. -/
def tasked (t : Task) : State := { State.reset with tasks := [(0, t)] }

theorem test_frz : staleId (tasked { state := .active }) 0 = false ∧ staleId (tasked { state := .active }) (2 ^ 13) = true ∧
    freezeAccepted ((tasked { state := .active }).task 0) 1 = true ∧ (tasked { state := .active }).dsp.frzq.any (fun q => q.1 == 0) = false := by
  decide

theorem test_claim : openOf State.reset 7 = none ∧ openOf { State.reset with faults := { table := [{ opened with claimed := true }] } } 7 =
    some { opened with claimed := true } ∧ coreRoom State.reset 0 128 = true := by decide

theorem test_watch : coreRange State.reset 0 16 = true := by decide

/-- A command of core 0. -/
def command (op : Nat) (arg : W64) (body : List W64) : Cmd := ⟨1, op, 3, 0, 0, 0, body, arg⟩

/-- A state in which it waits at the port. -/
def ported (op : Nat) (arg : W64) (body : List W64) : State := coreWith { pending := [command op arg body] }

/-- A launch entry of template 5 (R76): kind 1, priority 3. -/
def entry : List W64 := [5, 0x301] ++ List.replicate 19 0

theorem test_command_launch : nextCmd (ported 0x40 0 entry) 0 0x40 = some (command 0x40 0 entry) ∧ (cmdLaunch 0 (command 0x40 0 entry)).isSome = true ∧
    cmdLaunch 0 (command 0x40 0 []) = none ∧ nextCmd (ported 0x40 0 []) 0 0x40 = some (command 0x40 0 []) := by decide

/-- A loaded file whose only residency, template 2, has a launch entry. -/
def launching : State :=
  let l : LaunchEntry := { (default : LaunchEntry) with kind := 1 }
  { State.reset with files := [(0x100, { asid := 1, res := [{ (default : Desc) with launches := [l] }], asks := [(0, 0)], tmpls := [(0, 2)] })] }

theorem test_ask : nextCmd launching 0 0x40 = none ∧ (nextAsk launching).any (fun q => q.1 == 0x100 && q.2.2.2.1 == 2 && q.2.2.2.2.kind == 1) = true := by
  decide

theorem test_command_others : [0x41, 0x42, 0x43, 0x44, 0x45].all (fun op => nextCmd (ported op 0 []) 0 op == some (command op 0 [])) = true := by decide

theorem test_command_template : cmdTemplate (ported 0x43 0 []) (command 0x43 0 []) = none ∧
    (cmdTemplate { ported 0x43 0 [] with files := [(0, { asid := 3, res := [default] })] } (command 0x43 0 [])).isSome = true ∧
    (upto 4096).find? (fun i => (get? i (State.reset).templates).isNone) = some 0 := by
  refine ⟨by decide, by decide, ?_⟩
  show (List.range (4095 + 1)).find? _ = _
  rw [List.range_succ_eq_map]; rfl

theorem test_command_drop : (get? 0 [((0 : Nat), (⟨3, default⟩ : Template))]).any (fun e => e.asid == 3) = true ∧ get? 0 (State.reset).templates = none := by
  decide

theorem test_command_completion : ({ State.reset with cmdDone := [(0, 1, false)] } : State).cmdDone.find? (fun e => e.1 == 0) = some (0, 1, false) := by
  decide

/-! ### Statements about the fabric between firings -/

/-- A tile with channel 2 to slot 0's L position, and a token on it: the instruction is FAN with T1 to the channel. -/
def channelled : State :=
  let hdr := 1 * 2 ^ 124 + 1 * 2 ^ 113 + 3 * 2 ^ 100 + 4 * 2 ^ 91 + 127 * 2 ^ 84
  { quad with ats := [(0, { (default : AT) with
      active := ⟨true, [BitVec.ofNat 64 hdr, BitVec.ofNat 64 (hdr / 2 ^ 64), 0x0000_FFFF_C000_0000,
        BitVec.ofNat 64 (2 * 2 ^ 58 + 2 * 2 ^ 31 + 63 * 2 ^ 23), 0x020202]⟩
      res := some 0
      chan := [(2, [zeroToken])] })] }

theorem test_admission : ((match chanOf channelled 0 2 with
    | some (r, w) => w.cls != 2 && (chanDest channelled r w).any (fun d => (channelled.at d.1).canTake d.2.1 d.2.2 0)
    | none => false) && (channelled.at 0).chanNow 2 == [zeroToken]) = true := by decide

/-- The same with its destination full. -/
def blocked : State := having channelled .l [zeroToken, zeroToken]

theorem test_admission_refused : (match chanOf blocked 0 2 with
    | some (r, w) => (chanDest blocked r w).any (fun d => !(blocked.at d.1).canTake d.2.1 d.2.2 0)
    | none => false) = true := by decide

/-- The channel on backing queue 0, which holds a token. -/
def backed : State :=
  let s := channelled
  { s.modAt 0 (fun a => { a with
      chan := []
      active := { a.active with words := a.active.words.set 3 (BitVec.ofNat 64 (2 * 2 ^ 58 + 2 * 2 ^ 31)) } }) with
    res := [(0, { oneQuad with
      desc := { oneQuad.desc with backqs := [⟨0, 4, 0⟩] }
      backq := [(0, ⟨0, [zeroToken], 1, none⟩)] })] }

theorem test_backq_move : ((match chanOf backed 0 2 with
    | some (r, w) => w.bq != 63 && (r.desc.backqs[w.bq]?).isSome && (getD {} w.bq r.backq).toks == [zeroToken] &&
      (backed.at 0).chanRoom w && decide (0 < (getD {} w.bq r.backq).stored) &&
      unitTurn backed r (.backq 0 0 true) [(4, zeroToken.data.length), (4 + 256, 16)]
    | none => false) && (backed.at 0).chanNow 2 == []) = true := by decide

theorem test_aged : (({ aging := 64 } : Slot).aging ≥ 64 ∧ ({ aging := 64 } : Slot).aged = false) := by decide

theorem test_agen_emission : after (exec (.agen (hd .b64 0) x0) walker) (fun s =>
    match get? 0 (s.at 0).agens, get? 0 s.res with
    | some g, some r => (match ((s.at 0).active.instr g.slot).bind instrHd, agenWalk s r 0 (hd .b64 0) 80 g with
      | some h, .ok g' => (match g'.outq with
        | _ :: _ => agenTurn s r 0 0 && (agenSend s r 0 0 g').isSome && h == hd .b64 0
        | [] => false)
      | _, _ => false) && r.running && !g.held
    | _, _ => false) = true := by decide

/-! #### Matrix results, slew, trackers -/

/-- A node with one operation on its way. -/
def noded (op : NodeOp) (row : Bool) : State :=
  quad.modNode 0 fun n => { n with flight := [{ slot := 0, time := 0, pipe := .row, seq := 0, op := op, outs := [], row := row }] }

theorem test_results : [NodeOp.acc 0 [], .sca none [] [], .zero 0 1, .blk 2 []].all (fun op =>
    ((noded op true).at 0).node.flight.any (fun f => !opBlocked ((noded op true).at 0).node.flight 0 f)) = true ∧
    ((noded (.blk 2 []) true).at 0).node.flight.findIdx? (fillsSet 2) = some 0 := by decide

/-- A node that owes an answer. -/
def owing : State := quad.modNode 0 fun n => { n with outq := [{ (default : NodeOut) with pipe := .row, row := true }] }

theorem test_owed : ((owing.at 0).node.flight[0]?).isNone = true ∧ ((sendAllOwed 0 owing).at 0).node.outq.length ≠ (owing.at 0).node.outq.length ∧
    ((owing.at 0).node.outq[0]?).any (fun o => (deliver (owing.modNode 0 fun n => n.sent 0 o) 0 o.slot o.time o.pipe o.seq o.outs).isSome) = true := by
  decide

/-- A node with a load of this many bytes left. -/
def filling (left : Nat) : State := quad.modNode 0 fun n => { n with loads := [{ (default : MLoad) with dest := [0], left := left }] }

theorem test_load_done : ([0, 256].all fun n => ((filling n).at 0).node.loads.any (fun l => l.left == n)) = true ∧
    loadTurn (filling 256) 0 0 { (default : MLoad) with dest := [0], left := 256 } = true := by decide

theorem test_slew : (let x : Slew := getD {} 0 (State.reset).slews
    x.done ≠ 0 + 1 ∧ x.tick ≠ 0 + 1) ∧ (let y : Slew := { tick := 1 }
    y.tick = 0 + 1 ∧ y.done ≠ 0 + 1) ∧
    (let z : Slew := { s := 1, idle := 0x40 }
    z.idleLimit ≤ z.idle ∧ 0 < z.s) := by decide

/-- A tracker of quad 0 with a batch, a registration, a waiter and a query. -/
def tracked : State :=
  let q : Msg := { id := 0, amop := 0, h := 0, asid := 0, src := .slot 0 0 }
  let t : Tracker := { inq := [(0, [[⟨0, 0, 0, 1⟩]])], regq := [⟨0, 0, 0, 0, 0⟩], waiters := [⟨0, 0, 0, 0, 0⟩], queries := [q] }
  { quad with trackers := [(0, t)] }

theorem test_tracker : (let t := getD {} 0 tracked.trackers
    (match getD [] 0 t.inq with
      | b :: rest => (applyBatch tracked 0 b { t with inq := if rest = [] then del 0 t.inq else put 0 rest t.inq }).isSome
      | [] => false) && t.regq.length == 1 && decide (t.waiters.length < waiterCap 0) &&
    (t.waiters[0]?).any (fun w => passes (frontier tracked 0 w.res w.prb) w.time.toNat) &&
    (t.queries.head?).any (fun m => (runRes tracked m.h).isSome && (answerQuery 0 tracked m).isSome)) = true := by
  decide

/-! ### Statements about engines -/

/-- The memory tile of the quad. -/
def mt3 : TileId := ⟨0, 0, 0, 3⟩

/-- A message of slot 0 of tile 0. -/
def sent (op : Nat) (body : List W64) : Msg := { id := 5, amop := op, h := 0, asid := 0, src := .slot 0 0, body := body }

/-- The quad with this memory tile. -/
def engine (t : MT) : State := { quad with mts := [(3, t)] }

/-- Descriptor words: one dimension of four single bytes from VA 0 to VA 0x100; `op` 5 has no source stride. -/
def moves (op : Nat) : List W64 :=
  [BitVec.ofNat 64 (2 ^ 60 + 2 ^ 58), 0, 0x100, 0, 0, 0, BitVec.ofNat 64 ((if op = 5 then 0 else 2 ^ 32) + 1), BitVec.ofNat 64 (4 * 2 ^ 32)]

/-- The same with a dimension number of 0. -/
def nothing : List W64 := (moves 1).set 0 0

/-- A stream of three tiles of four bytes into a ring of two slots of 16 bytes. -/
def streams : List W64 :=
  [BitVec.ofNat 64 (2 * 2 ^ 60 + 2 ^ 58), 0, 0x100, 0, 0, BitVec.ofNat 64 (2 * 2 ^ 48 + 16), BitVec.ofNat 64 (2 ^ 32 + 1), BitVec.ofNat 64 (4 * 2 ^ 32),
   BitVec.ofNat 64 (4 * 2 ^ 32), BitVec.ofNat 64 (3 * 2 ^ 32)]

/-- CDMC's word and a payload at the block's own place. -/
def generates (v : Nat) : List W64 := [(encodeWord (.cdmc (hd .b64 0) ⟨0, 0, 0, 0, 0⟩)).getD 0, BitVec.ofNat 64 v, 0, 0]

theorem test_engine_running : (mtRunning (engine {}) mt3.key).isSome = true ∧ (sent 1 (moves 1)).skip = false ∧
    freeCtx ((engine {}).mt 3).cctx = some 0 ∧ ((engine {}).mt 3).asideC = [] ∧ sbFull (sbTile oneQuad 3 (sent 1 (moves 1))) 0 (engine {}) = false := by
  decide

theorem test_engine_checks : descBad oneQuad 3 (sent 1 (moves 1)) 0 = none ∧ descBad oneQuad 3 (sent 5 (moves 5)) 1 = none ∧
    descBad oneQuad 3 (sent 2 streams) 2 = none ∧ genBad (sent 6 (generates 0x33)) = none ∧ descBad oneQuad 3 (sent 1 nothing) 0 = some 0 ∧
    descBad oneQuad 3 (sent 5 (moves 1)) 1 = some 6 ∧ descBad oneQuad 3 (sent 2 (moves 1)) 2 = some 0 ∧ genBad (sent 6 (generates 0)) = some 1 := by
  decide

theorem test_engine_reply : (reply (sent 1 (moves 1)) [pulseOut 0 .none]
    (sbAdd (sbTile oneQuad 3 (sent 1 (moves 1))) 0 true (engine {}))).isSome = true := by decide

theorem test_engine_stream_free : findStrm (engine {}) 3 (copyDesc streams).snum = none ∧ freeCtx ((engine {}).mt 3).sctx = some 0 := by decide

theorem test_engine_aside : (startMsg oneQuad 3 (sent 1 (moves 1)) startCopy (engine {})).isSome = true ∧
    (startMsg oneQuad 3 (sent 2 streams) startStream (engine {})).isSome = true := by decide

/-- An engine all of whose contexts copy. -/
def busy : State := engine { cctx := (upto 16).map fun i => (i, { msg := sent 1 (moves 1) }) }

theorem test_engine_busy : freeCtx (busy.mt 3).cctx = none ∧ (busy.mt 3).asideC.length < 16 ∧ (mtRunning busy 3).isSome = true := by decide

/-- An engine with a copy and a stream at their end. -/
def ending (c : Copy) (v : Strm) : State := engine { cctx := [(0, c)], sctx := [(0, v)] }

/-- A copy with a flag, and a stream with two tiles started. -/
def flagging : Copy := { msg := { sent 1 (moves 1) with flg := true } }
def streaming : Strm := { msg := sent 2 streams, credits := 0, next := 2, tiles := [(0, 50, 51), (1, 52, 53)] }

theorem test_copy_ends :
    let s := ending flagging streaming
    reqDone s flagging.rd = true ∧ reqDone s flagging.wr = true ∧ subsDone s 3 0 false 0 = true ∧ flagging.failed = false ∧
    flagging.msg.skip = false ∧ flagging.flagged = false ∧
    flagging.dec = false ∧ (endCopy oneQuad 3 0 { flagging with flagged := true, dec := true } [pulseOut 0 .none] s).isSome = true ∧
    (endCopy oneQuad 3 0 { msg := sent 6 (generates 0x33), mgen := true } (genOuts (sent 6 (generates 0x33))) s).isSome = true := by decide

/-- A subtraction on its way. -/
def subtracting : State := { engine {} with subs := [(7, ⟨0, 0x40, 4, 3, 0, false, 0⟩)] }

theorem test_subtraction : (get? 7 subtracting.subs).any (fun b => (get? b.h subtracting.res).isSome) = true := by decide

theorem test_stream_messages :
    let s := ending flagging { streaming with tiles := [] }
    let m : Msg := { sent 3 [] with count := 1 }
    findStrm s 3 m.snum = some (0, { streaming with tiles := [] }) ∧ 0 + m.count ≤ ringSlots streaming.msg ∧
    (answer 3 m [pulseOut 0 .none] (startTiles oneQuad 3 0 1 { streaming with tiles := [], credits := 1 } s)).isSome = true ∧
    answerClosed 3 s = none ∧ (answer 3 m [pulseOut 0 .none] (s.modMt 3 fun t => { t with closed := [m] })).isSome = true := by decide

theorem test_stream_tile :
    let s := ending flagging streaming
    streaming.tiles.find? (fun e => e.1 == streaming.sent) = some (0, 50, 51) ∧ reqDone s (some 50) = true ∧ subsDone s 3 0 true 0 = true ∧
    tileTime s oneQuad streaming.msg 0 = some 0 ∧
    (engineSend oneQuad 3 streaming.msg [dataOut .n64 0 (leBytes 8 0) .none] s).isSome = true ∧
    tileTime s oneQuad { streaming.msg with time := BitVec.ofNat 64 ((2 ^ 20 - 1) * 2 ^ 44) } 1 = none := by decide

theorem test_stream_close :
    let v : Strm := { streaming with tiles := [], next := 3, sent := 3 }
    let s := ending flagging v
    streamTiles v.msg ≤ v.next ∧ strmSubsDone s 3 0 = true ∧ tileTime s oneQuad v.msg v.sent = some (BitVec.ofNat 64 (3 * 2 ^ 44)) ∧
    (engineSend oneQuad 3 v.msg [markerOut 1 0 .none, pulseOut 0 .none] s).isSome = true := by decide

/-! #### Combine units -/

/-- Words of a configuration: one expert and a shared row of one f32, one slot, a time-out of 5. -/
def cmbWord : Nat := 0xE * 2 ^ 56 + 2 ^ 52

/-- A unit whose slot 0 is in a state, at time 0, for expert 2. -/
def slotted (st : Nat) : Memory :=
  let m : Memory := writeNat (writeNat [] 0x20 8 cmbWord) 0x28 8 5
  if st = 0 then m else writeNat (writeNat (writeNat m (256 + 8) 1 st) (256 + 0x0C) 1 1) (256 + 0x20) 2 2

def unit : Cmb := { h := 0, base := 0, ret := 0, det := false, foot := 1280 }

/-- The quad with a combine unit, its slot 0 in this state, and these messages. -/
def combining (st : Nat) (u : Cmb) (ms : List Msg) : State := engine { scr := slotted st, cmb := some u, cin := ms }

/-- What holds of the unit of a state. -/
def ofUnit (s : State) (p : CU → Bool) : Bool := match unitOf s mt3.key with
  | some x => p x
  | none => false

theorem test_ccfg : ofUnit (combining 0 unit [sent 0x10 [BitVec.ofNat 64 cmbWord, 5]]) (fun x =>
    (takeCin (combining 0 unit [sent 0x10 [BitVec.ofNat 64 cmbWord, 5]]) 3 [0x10, 0x11]).isSome && x.u.waiting.isNone &&
    (ccfgBad x (sent 0x10 [BitVec.ofNat 64 cmbWord, 5])).isNone && ccfgBad x (sent 0x10 [1, 5]) == some 0) = true := by decide

/-- An allocation of expert 2. -/
def allocation : Msg := { sent 0x11 [] with lpay := leBytes 2 2 ++ List.replicate 30 0xFF }

set_option maxRecDepth 4096 in
theorem test_calloc : ofUnit (combining 0 unit [allocation]) (fun x =>
    !expertsBad x (expertList (combining 0 unit [allocation]) x allocation) && slotFor (combining 0 unit []) x == some 0 &&
    (allocate x allocation 0 (combining 0 unit [])).isSome) = true := by decide

theorem test_calloc_waits : ofUnit (combining 1 unit [allocation]) (fun x => slotFor (combining 1 unit []) x == none && x.u.allocq.length == 0) = true := by
  decide

theorem test_ccfg_apply :
    let m := sent 0x10 [BitVec.ofNat 64 cmbWord, 5]
    ofUnit (combining 0 { unit with waiting := some m } []) (fun x => allFree (combining 0 unit []) x && x.u.allocq.length == 0 &&
      (answer x.mt m [pulseOut m.time m.t0, pulseOut m.time m.t1] (combining 0 unit [])).isSome) = true := by decide

theorem test_calloc_resume : ofUnit (combining 0 { unit with allocq := [allocation] } []) (fun x => x.u.allocq == [allocation] &&
    slotFor (combining 0 unit []) x == some 0) = true := by decide

/-- A delivery of a chunk. -/
def chunk (md slot expert : Nat) : Msg := { sent 0x12 [] with count := md, lpay := leBytes 8 (slot + expert * 2 ^ 16), rpay := zeros 32 }

set_option maxRecDepth 4096 in
theorem test_cins : ofUnit (combining 1 unit []) (fun x =>
    let s := combining 1 unit []
    judge s x (chunk 0 1 2) == .bad && judge (combining 0 unit []) x (chunk 0 0 2) == .late && judge s x (chunk 0 0 2) == .write 0 &&
    judge s { x with u := { x.u with got := [(0, [(0, 0)])] } } (chunk 0 0 2) == .dup && judge s x (chunk 1 0 0) == .write 16 &&
    (answer x.mt (chunk 0 0 2) [pulseOut 0 .none, dataOut .n8 0 (leBytes 8 0) .none] (writeChunk x (chunk 0 0 2) 0 s)).isSome) = true := by
  decide

theorem test_substitution : ofUnit (combining 1 unit []) (fun x => decide (0 < x.c.n) && slotState (combining 1 unit []) x 0 == 1 &&
    !deliveryFirst (combining 1 unit []) x 0 && frontierPassed (combining 1 unit []) x 0) = true := by decide

/-- The same before its probe's frontier passes, with REMC 0. -/
def late : State :=
  let s := combining 1 { unit with live := [(0, 0)] } []
  { s with
    res := [(0, { oneQuad with
      desc := { oneQuad.desc with locs := [.copy 0 0], probes := [⟨0, false, false, 0⟩], sums := [some ⟨0, 0, 0⟩] }
      ldepth := [(0, [])] })]
    trackers := [(0, { exact := [⟨0, 0, 0, 1⟩] }), (480, { exact := [⟨0, 0, 0, 1⟩] }), (484, { exact := [⟨0, 0, 0, 1⟩] })] }

theorem test_timeout : ofUnit late (fun x => slotState late x 0 == 1 && !deliveryFirst late x 0 && !frontierPassed late x 0 && x.c.tmo != 0 &&
    get? 0 x.u.live == some 0) = true := by decide

/-- Credit of 3, and an end-of-fibre marker, for the unit. -/
def credit (rank : Nat) : Msg := { sent 0x13 [] with snum := rank, lpay := leBytes 8 3 }

theorem test_crecv : ofUnit (combining 0 unit [credit 0]) (fun x => x.u.recv.isNone && (takeCin (combining 0 unit [credit 0]) 3 [0x13]).isSome) = true ∧
    ofUnit (combining 0 { unit with recv := some (0, 0, .none, .none) } [credit 1]) (fun x => x.u.recv.isSome) = true := by decide

/-- A unit with a receiver, credit and a complete slot. -/
def complete (u : Cmb) : State := combining 2 { u with recv := some (0, 0, .none, .none), order := [0], ready := [0] } []

/-- The same with credit. -/
def credited (u : Cmb) : State :=
  let s := complete u
  s.modMt 3 fun t => { t with scr := writeNat t.scr 0x18 4 1 }

theorem test_release : ofUnit (credited unit) (fun x => x.u.rel.isNone && releasable (credited unit) x == some 0 && x.u.recv.isSome) = true ∧
    ofUnit (credited { unit with rel := some (0, 0) }) (fun x => (releaseStep x 0 0 (credited { unit with rel := some (0, 0) })).isSome) = true ∧
    ofUnit (credited { unit with rel := some (0, 1) }) (fun x => (releaseStep x 0 1 (credited { unit with rel := some (0, 1) })).isSome) = true := by
  decide

theorem test_marker_release : ofUnit (combining 0 { unit with markers := [credit 1] } []) (fun x =>
    x.u.markers == [credit 1] && (upto x.c.n).all (fun i => slotState (combining 0 unit []) x i == 0) &&
    (answer x.mt (credit 1) [markerOut 1 0 .none, markerOut 1 0 .none] (combining 0 unit [])).isSome) = true := by decide

/-! #### Syntax engines and snapshots -/

/-- A syntax binding of one lane whose ring is 0x400 bytes of the scratchpad. -/
def syntaxRes : Res :=
  { oneQuad with desc := { oneQuad.desc with
      binds := [{ (default : Bind) with kind := 2, codec := 1, lanes := 1, dest := [1] }]
      allocs := [{ (default : Alloc) with buf := 3, size := 0x400 }] } }

/-- With one allocation at the binding's place, the ring is that one. -/
theorem ring_one : ringAlloc syntaxRes 0 = some { (default : Alloc) with name := [1], buf := 3, size := 0x400 } := by
  show ([({ (default : Alloc) with buf := 3, size := 0x400 } : Alloc)][Config.allocOf [1] % 1]?).map (fun a => { a with name := [1] }) = _
  rw [Nat.mod_one]; rfl

/-- A stream of codec 1: 64 bytes at VA 0, two ring slots of `slotsz` bytes. -/
def video (slotsz : Nat) : List W64 := [BitVec.ofNat 64 (2 ^ 57), 0, 0, 64, 0, BitVec.ofNat 64 (2 * 2 ^ 48 + slotsz), 0, 0]

/-- The quad with this binding. -/
def parsing (y : Syn) : State := { quad with res := [(0, syntaxRes)], syns := [(0, y)] }

theorem test_vopen : (synHead (parsing { queue := [sent 0x20 (video 256)] }) 0 0 0x20).isSome = true ∧ vopenBad syntaxRes (sent 0x20 (video 256)) = none ∧
    vopenBad syntaxRes (sent 0x20 (video 1024)) = some 2 := by
  have d : (vdesc (sent 0x20 (video 256))).bind = 0 ∧ (vdesc (sent 0x20 (video 1024))).bind = 0 := by decide
  unfold vopenBad
  simp only [d.1, d.2, ring_one]
  decide

/-- A stream in a state with credits. -/
def stream (st : Nat) : VStream := { msg := sent 0x20 (video 256), state := st, credits := 1, kept := 1 }

theorem test_synq_heads : ([0x21, 0x22, 0x23].all fun op =>
    let m : Msg := { sent op [] with count := 1 }
    (synHead (parsing { queue := [m] }) 0 0 op).isSome && (get? m.snum ((parsing {}).syn 0).streams).isNone &&
    (get? m.snum ((parsing { streams := [(0, stream 1)] }).syn 0).streams == some (stream 1)) && decide ((stream 1).credits + m.count ≤ (vdesc (stream 1).msg).slots) &&
    (synAnswer syntaxRes 0 m (synqOuts m) (parsing {})).isSome) = true := by decide

theorem test_parse_start :
    let y : Syn := { streams := [(0, stream 0)], lanes := [0] }
    (runRes (parsing y) 0).isSome = true ∧ get? 0 y.streams = some (stream 0) ∧ freeLanes y = [0] ∧
    y.streams.any (fun e => e.1 < 0 && e.2.state == 0 && !e.2.closing) = false := by decide

theorem test_picture_ready :
    let y : Syn := { streams := [(0, stream 1)] }
    current y = some (0, stream 1) ∧ (stream 1).held = false ∧ (stream 1).failed = false ∧
    (stream 1).closing = false ∧ (stream 1).status = none ∧ (stream 1).credits ≠ 0 ∧ atLimit (stream 1) = false ∧
    (stream 1).sent < (stream 1).kept ∧ tileTime (parsing y) syntaxRes (stream 1).msg 0 = some 0 := by decide

/-- A ring is free for a part of a picture, in the A buffer or in the scratchpad, and a core's stream sends nothing. -/
theorem test_picture_goes (outs : List Out) (s : State) : ([1, 3].all fun b => allocTurn syntaxRes 0 { (default : Alloc) with buf := b } 0 256 (parsing {})) = true ∧
    synSend oneQuad { sent 0x20 (video 256) with src := .core 0 1 } outs s = some (s, []) := ⟨by decide, rfl⟩

theorem test_stream_end :
    let v : VStream := { stream 1 with closing := true }
    let y : Syn := { streams := [(0, v)] }
    current y = some (0, v) ∧ endStatus v = some 3 ∧ tileTime (parsing y) syntaxRes v.msg v.sent = some 0 ∧
    (synSend syntaxRes v.msg [markerOut 1 0 .none, dataOut .n64 0 (leBytes 8 3) .none] (parsing y)).isSome = true := by decide

/-- A snapshot of one page under probe 0. -/
def snapshots : Msg := sent 0x30 [BitVec.ofNat 64 (2 * 2 ^ 50), 0x10000, 0, 0, 0, 1]

/-- The quad with a probe at the copy engine. -/
def probed : State := { quad with res := (late).res }

theorem test_snapshot_request : probed.snap = none ∧ (runRes probed 0).any (fun r => snapBad r snapshots == none && snapBad r (sent 0x30 []) == some 0) = true := by
  decide

/-- The running snapshot. -/
def snapping (marked passed copying : Bool) : Snap :=
  { msg := snapshots, cut := 0, prb := 0, scp := 2, pages := [{ src := 0, dst := 0x10000, copying := copying }], marked := marked, passed := passed }

/-- The same with the snapshot and, while a page is copied, its write request. -/
def snapped (n : Snap) : State :=
  { probed with
    snap := some n
    reqs := if n.passed then [(8, { h := 0, org := .snap 0 1, op := .store, elts := [{ space := .virt, addr := 0, n := 256, st := .done }] })] else [] }

theorem test_snapshot_steps :
    (reply snapshots [pulseOut 0 .none] (snapped (snapping false false false))).isSome = true ∧
    passes (frontier (snapped (snapping true false false)) (scopeTracker 2 (snapQuad snapshots)) 0 0) 0 = true ∧
    nextPage (snapped (snapping true false false)) (snapping true false false).pages = some 0 ∧ nextPage probed [] = none ∧
    (snapCopy (snapped (snapping true true true)) 0 1).any (fun a => a.2.elts.all (fun e => e.st == .done)) = true ∧
    nextPage (snapped (snapping true true true)) [{ src := 0, dst := 0x10000, pending := false }] = none ∧
    (endSnap (snapping true true true) [pulseOut 0 .none] false (snapped (snapping true true true))).isSome = true := by decide

/-! #### Translation -/

/-- A request of slot 0 with one element. -/
def req (op : ROp) (e : Elt) : Req := { h := 0, org := .slot 0 0, op := op, elts := [e] }

/-- The quad with it under number 6, its residency with a range of this kind over the first 2 MiB, cached or not, and
translations. -/
def asking (q : Req) (k : RKind) (cached : Bool) (ts : List Trans) : State :=
  let g : Range := ⟨0, 1, k, 3, 0⟩
  { quad with
    res := [(0, { oneQuad with desc := { oneQuad.desc with ranges := [g] } })]
    reqs := [(6, q)]
    pts := [(0, { ranges := if cached then [(0, 0, g)] else [], trans := ts })] }

/-- An element of 8 bytes at VA 8. -/
def elt8 (st : ESt) : Elt := { space := .virt, addr := 8, n := 8, st := st }

/-- What a load of 8 bytes at VA 8 finds at its PT. -/
def found (s : State) : Option Range :=
  ((getD {} (ingressPt ((req .load (elt8 .new)).org.tile s)) s.pts).ranges.find? fun x => x.1 == 0 && x.2.1 == 0 && x.2.2.covers 8).map (·.2.2)

theorem test_translate_misses :
    let s := asking (req .load (elt8 .new)) .direct false []
    behindHeld s 6 (req .load (elt8 .new)) = false ∧ mayIssue s (req .load (elt8 .new)) (elt8 .new) = true ∧ bcGrant s 0 (req .load (elt8 .new)) = true ∧ found s = none := by decide

theorem test_translate_checks :
    let s := asking (req .load (elt8 .new)) .direct true []
    found s = some ⟨0, 1, .direct, 3, 0⟩ ∧ 4 % alignOf (req .load { elt8 .new with addr := 4 }) { elt8 .new with addr := 4 } ≠ 0 ∧
    8 % alignOf (req .load (elt8 .new)) (elt8 .new) = 0 ∧ bit 3 (permBit (req .load (elt8 .new))) = true ∧ bit 3 (permBit (req (.amo 0) (elt8 .new))) = false := by
  decide

/-- A cached 64 KiB translation of VA 0. -/
def leaf (host : Bool) : Trans := ⟨0, 0, 0, 65536, 0x10000, false, false, host⟩

theorem test_translate_kinds :
    (asking (req .load (elt8 .new)) .paged true [leaf false]).pts.all (fun p => p.2.trans.any fun t =>
      t.asid == 0 && t.h == 0 && !t.host && decide (t.va ≤ 8) && decide (8 < t.va + t.size)) = true ∧
    rootOk (asking (req .load (elt8 .new)) .paged true []) (getD 0 0 (State.reset).roots) = true ∧
    cutOff (asking (req .load (elt8 .new)) .host true []) 0 8 = false ∧
    cutOff { asking (req .load (elt8 .new)) .host true [] with revoked := [⟨0, 0, 16, true, false⟩] } 0 8 = true ∧
    (asking (req .load (elt8 .new)) .host true [leaf true]).pts.all (fun p => p.2.trans.any fun t =>
      t.asid == 0 && t.h == 0 && t.host && decide (t.va ≤ 8) && decide (8 < t.va + t.size) && !(t.ro && (req .load (elt8 .new)).op.writeClass)) = true := by
  decide

theorem test_range_fetch : ([⟨0, 1, .direct, 3, 0⟩] : List Range).find? (fun g => g.covers 8) = some ⟨0, 1, .direct, 3, 0⟩ := by decide

theorem test_walk : readPte State.reset 0 0 = .absent ∧ readPte State.reset 0 (2 * 4096 + 1) = .table 0x2000 ∧
    readPte State.reset 4 (2 ^ 16 + 2) = .leaf 0x10000 0x10000 false false false := by decide

theorem test_ats : (⟨0, 4096, false⟩ : AtsGrant).size ≠ 0 ∧ ROp.load.writeClass = false ∧ ROp.store.writeClass = true ∧ (⟨0, 4096, true⟩ : AtsGrant).write = true := by
  decide

theorem test_invalidations :
    let s : State := { asking (req .load (elt8 (.held .migrating))) .paged true [] with revoked := [⟨0, 0, 16, true, true⟩] }
    s.revoked[0]? = some ⟨0, 0, 16, true, true⟩ ∧ inFlight s ⟨0, 0, 16, true, true⟩ = false ∧ s.reqs = [(6, req .load (elt8 (.held .migrating)))] ∧
    (get? 0 s.res).any (fun r => r.asid == 0) = true ∧ (State.reset).reqs = [] := by decide

/-! #### Homes and owners -/

/-- An element of 8 bytes of the scratchpad at its home. -/
def home8 : Elt := { space := .scr, addr := 0x40, n := 8, st := .home, data := leBytes 8 9 }

/-- The quad with this request at its home. -/
def atHome (q : Req) : State := { quad with reqs := [(6, q)] }

theorem test_home_access : ([ROp.load, .store, .storeTc].all fun op =>
    let q := req op home8
    let s := atHome q
    wordTurn s 6 q 0 home8 0 && commitRoom s (oneQuad.scrHome 0x40).1 0 0 && (storeBytes s q home8).isSome && !snapHolds s 0 q.timed 0x40) = true := by
  decide

theorem test_delivery :
    let q : Req := req .load { home8 with st := .done }
    let s := atHome q
    q.elts.all (fun e => e.st == .done && !e.lost) = true ∧ fenceWaits s 6 q = false ∧ detOwed s q = false ∧ s.reqs.any (fun x => decide (x.1 < 6) && x.2.stream == q.stream) = false ∧
    (sendAll { s with reqs := [] } 0 (sportOf oneQuad 0 q.pipe.port) q.seq q.outs).isSome = true := by decide

/-- The same under deterministic commitment. -/
def detHome (q : Req) : State := { atHome q with res := [(0, { oneQuad with desc := { oneQuad.desc with det := true } })] }

theorem test_owner :
    let q := req (.amo 0) home8
    let s := atHome q
    eltHome s q home8 = some 3 ∧ wordTurn s 6 q 0 home8 0 = true ∧ ownerTurn s q home8 3 = true ∧ detRoom s 3 0 0 = true ∧
    windowFull s q.port 3 {} 0 = false ∧ windowOf s 3 q.port = some {} ∧ (takeSeq s 6 0 q home8 3).isSome = true ∧ detUpdate s q 0 = false ∧
    detUpdate (detHome q) q 0 = true ∧ (unanswered s q.port 3).any (fun x => x.useq == some 1) = false ∧
    (match applyWord s 6 0 0 with
      | .ok _ => true
      | _ => false) = true ∧
    (getD (0 + 1, []) (0 % 64) ({ entries := [(0, (0, zeros 8))] } : Window).entries).1 = 0 ∧
    (getD (0 + 1, []) (0 % 64) ({} : Window).entries).1 ≠ 0 := by decide

/-- A committed store that waits, and a deterministic update of the request. -/
def held8 (u : Option (Nat × Nat × Nat)) : State :=
  let s := atHome (req (.amo 0) home8)
  s.modMt 3 fun m => { m with commit := [{ h := 0, time := 0, sport := 0, slot := 0, seq := 0, off := 0x40, data := zeros 8, upd := u }] }

theorem test_commits : minNat? (eligibleTimes (held8 none) 3 0 (tcFrontier (held8 none) 3 0)) = some 0 ∧ mtRes (held8 none) 3 = some 0 ∧
    (detEntries (held8 (some (6, 0, 0))) 3 0).length = 1 ∧ (get? 0 (held8 (some (6, 0, 0))).res).any (·.running) = true ∧
    ((detEntries (held8 (some (6, 0, 0))) 3 0).all fun c => match detBytes (held8 (some (6, 0, 0))) c with
      | some (r, ws) => unitTurn (held8 (some (6, 0, 0))) r (.det 3) ws
      | none => false) = true ∧ (getD {} 3 (held8 (some (6, 0, 0))).homes).upAt ≠ 0 + 1 ∧
    minNat? ((detEntries (held8 (some (6, 0, 0))) 3 0).map fun c => c.time.toNat) = some 0 ∧
    passes (issueFrontier (held8 (some (6, 0, 0))) 3 0) 0 = true := by decide

theorem test_retries :
    let e : Elt := { home8 with st := .done, useq := some 0, lost := true }
    let q := req (.amo 0) e
    q.since + 65536 ≤ ({ atHome q with cycle := 65536 } : State).cycle ∧ timerRuns (atHome q) 6 q = true ∧ q.tries < 5 ∧
    (q.elts.zipIdx.find? (fun x => expires (atHome { q with tries := 5 }) 6 { q with tries := 5 } x.2 x.1)).isSome = true ∧
    get? q.port ([(q.port, {})] : SMap Window) = some {} ∧ unanswered quad q.port 3 = [] := by decide

/-! #### The Dispatcher -/

/-- A template of one quad. -/
def template : Template := ⟨0, oneQuad.desc⟩

/-- A launch request of a watch slot. -/
def launches (tmpl : Nat) : LaunchReq := ⟨.watch 0 7, 0, tmpl, 255, 0, 0, 0xFFFFFFFF, 0, 7, []⟩

/-- Reset with template 0 and these requests. -/
def dispatching (ls : List LaunchReq) (js : List JoinReq) : State := { State.reset with
    templates := [(0, template)]
    dsp := { launchq := ls, joinq := js }
    tasks := [(1, { state := .waiting, join := 1 })] }

theorem test_task_create :
    let s := dispatching [launches 0] []
    s.dsp.launchq.find? (fun q => awake s q.src) = some (launches 0) ∧ launchBad s (launches 0) = none ∧ launchBad s (launches 1) = some (.range, descFlag) ∧
    (answerSrc (launches 0).src (fun _ => []) false s).isSome = true := by decide

theorem test_free_record : freeRecord State.reset = some 0 := by
  unfold freeRecord upto
  rw [show 8192 = 8191 + 1 from rfl, List.range_succ_eq_map]; rfl

/-- A watch slot with a value in its queue, for a template that is not there. -/
def watching : State := { State.reset with watch := [(4, { en := true, queue := [(7, 3, 7, 0, 0)] })] }

theorem test_watch_create : watching.dsp.launchq.find? (fun q => awake watching q.src) = none ∧
    dueWatch watching = some (4, { en := true, queue := [(7, 3, 7, 0, 0)] }) ∧
    (createWatch 4 { en := true, queue := [(7, 3, 7, 0, 0)] } watching).isSome = true := by decide

/-- Lower record i of generation 0 by 1. -/
def joins (i : Nat) : JoinReq := ⟨.retire, 0, false, i, 1⟩

theorem test_joins :
    let s := dispatching [] [joins 1]
    s.dsp.joinq.find? (fun j => awake s j.src) = some (joins 1) ∧ staleId s 1 = false ∧ (s.task 1).state = .waiting ∧ 1 ≤ (s.task 1).join ∧
    (answerSrc (joins 1).src (joinOuts 0) false s).isSome = true ∧ staleId s (2 ^ 13 + 1) = true ∧ (s.task 2).state ≠ .waiting := by decide

theorem test_reevaluate : ((tasked { state := .waiting }).task 0).state = .waiting ∧ ((tasked { state := .waiting }).task 0).waits.all (waitSat State.reset) = true := by
  decide

theorem test_watched : ({ State.reset with watchq := [(4, 7)] } : State).watchq = [(4, 7)] := by decide

/-- A ready record of template 0. -/
def readied (pre : W64) (qm : Nat) : State := { State.reset with
    templates := [(0, template)]
    tasks := [(0, { state := .ready })]
    dsp := { ctl := pre }
    dies := [(0, { (default : Die) with qmask := qm }), (1, { (default : Die) with qmask := qm }), (2, { (default : Die) with qmask := qm }),
      (3, { (default : Die) with qmask := qm })] }

/-- What holds of the record that is selected. -/
def selected (s : State) (p : Nat → Task → Desc → State → Bool) : Bool := match selectRecord s with
  | some (k, x, dsp) => (match taskDesc { s with dsp := dsp } k with
    | some d => p k x d { s with dsp := dsp }
    | none => false)
  | none => false

theorem test_select : selected (readied 0 0) (fun k x d s => place s k x d == some (0, 0, 0)) = true := by decide

/-- A record that asks for more quads than a die has. -/
def oversize : State := { readied 0 0 with templates := [(0, ⟨0, { oneQuad.desc with w := 13 }⟩)] }

theorem test_select_waits : selected oversize (fun k x d s => place s k x d == none && !bit s.dsp.ctl.toNat 0) = true := by decide

theorem test_aging :
    let s : State := { readied 0 0 with cycle := 2 ^ 20 }
    (s.task 0).state = .ready ∧ (s.task 0).prio < 6 ∧ (s.task 0).ready + 2 ^ 20 ≤ s.cycle := by decide

/-- A block of one NOP with depth 2 at its L position, and a residency of it. -/
def block : Block := ⟨0, 0, 0, (oneWordBank 0x0000_FFFF_C000_0000).words.set 3 2⟩
def blockDesc : Desc := { oneQuad.desc with shapes := [[]], blocks := [block] }

/-- A record in loading whose template has this residency. -/
def loading (d : Desc) (t : Task) : State := { State.reset with
    templates := [(0, ⟨0, d⟩)]
    tasks := [(0, { t with state := .loading })] }

theorem test_block_load :
    taskDesc (loading blockDesc {}) 0 = some blockDesc ∧ ((loading blockDesc {}).task 0).freezing = none ∧ blockDesc.blocks[0]? = some block ∧
    (blockErr blockDesc 0 { block with t := 3 }).isSome = true := by decide

theorem test_load_room : loadRoom (loading blockDesc {}) 0 = true := by decide

theorem test_block_checks : blockErr blockDesc 0 block = none ∧ residencyErr blockDesc = none := by decide

/-- The quad without tokens, its record in a state, in which it has been since cycle 0. -/
def emptied (st : TState) : State := { having quad .l [] with tasks := [(0, { state := st })], cycle := oneQuad.desc.drain }

theorem test_draining : (∀ p ∈ oneQuad.desc.outputs, frontier (emptied .active) 484 0 p.num = none) ∧ regionQuiet (emptied .active) 0 oneQuad = true ∧
    ((emptied .active).task 0).freezing = none ∧ get? 0 (emptied .active).res = some oneQuad ∧ regionQuiet (emptied .draining) 0 oneQuad = true ∧
    regionQuiet quad 0 oneQuad = false ∧ oneQuad.since + oneQuad.desc.drain ≤ quad.cycle ∧ quad.dsp.frzq.contains (0, 2) = false := by decide

/-- The quad's record with a freeze accepted. -/
def freezing (st : TState) (images : SMap Image) : State := { quad with tasks := [(0, { state := st, freezing := some 1 })], images := images }

theorem test_scan_out : settled (freezing .active []) 0 oneQuad = true ∧ ((freezing .active []).task 0).freezing = some 1 ∧
    (get? 0 (freezing .loading [(0, ⟨1, false, 0, 0, 0, 0, [], []⟩)]).images).isSome = true := by decide

theorem test_freeze_request : ({ freezing .active [] with dsp := { frzq := [(0, 1)] } } : State).dsp.frzq.contains (0, 1) = true ∧
    freezeAccepted { state := .active } 1 = true ∧ freezeAccepted { state := .ready } 1 = false := by decide

theorem test_activation :
    let s := loading blockDesc { loaded := 1 }
    regionReady s 0 (s.task 0) blockDesc = true ∧ (s.task 0).loaded = blockDesc.blocks.length ∧ pairErr s 0 blockDesc = none ∧
    (startRes 0 blockDesc s).isSome = true ∧ (pairErr s 0 { blockDesc with binds := [{ (default : Bind) with peer := [2] }] }).isSome = true := by decide

theorem test_restore :
    let im : Image := ⟨1, false, 0, 0, 0, 0, [], []⟩
    (restoreRes 0 oneQuad im { loading blockDesc { loaded := 1 } with res := [(0, oneQuad)], images := [(0, im)] }).isSome = true := by decide

/-! #### Faults, host, boot, registers -/

/-- A record on its way, of the quad's slot 0 or of no tile. -/
def record1 (p : Place) : FRec := { cls := .range, place := p, slot := 0 }

theorem test_record_entry : recTile quad { record1 .at with fid := 1 } = some 0 ∧ recTile quad { record1 .dispatcher with fid := 1 } = none ∧
    ({ quad with faults := { incoming := [record1 .at] } } : State).faults.incoming = [record1 .at] := by decide

/-- A record in the table, its class claimed by core 0. -/
def tabled (f : FRec) (c : Option Nat) : State := { quad with
    faults := { table := [{ fr := { f with fid := 7 }, core := c }], claim := [(f.cls.code, 1)] }, cycle := 170001 }

theorem test_delivery_of_records : (openOf (tabled (record1 .at) none) 7).any (fun o =>
      (deliverOpen o (tabled (record1 .at) none)).isSome && (tabled (record1 .at) none).faults.copies == [] && o.fr.cls != .migrating) = true ∧
    (openOf (tabled { record1 .at with cls := .migrating } none) 7).any (fun o =>
      (deliverOpen o (tabled { record1 .at with cls := .migrating } none)).isSome && o.core.isNone && !o.host &&
        decide ((tabled { record1 .at with cls := .migrating } none).faults.claimto + o.since < 170001)) = true := by decide

theorem test_escalation : (openOf (tabled (record1 .at) (some 0)) 7).any (fun o => o.core == some 0 && !o.esc && o.fr.isHold &&
    decide (o.since + (tabled (record1 .at) (some 0)).faults.claimto < 170001)) = true := by decide

theorem test_settle : (firstSome (fun q => settle q quad) (judgeable [⟨7, .skip, none, false, 0⟩])).isSome = true := by decide

theorem test_bar2 : 0 + 8 ≤ 2 ^ 36 ∧ allBacked State.reset 0 8 = true ∧ allBacked State.reset (2 ^ 38 - 8) 8 = false := by decide

/-- Mailbox set 0 at host address 0x4000, polled by core 0, with one new entry. -/
def mailbox : State :=
  let s := State.reset
  { s with host := { s.host with
      mem := writeNat (writeNat [] 0x4005 1 1) (0x4000 + 8) 4 1
      mbbase := [(0, 0x4001)]
      mbcore := [(0, 0)] } }

theorem test_mailbox : setBase mailbox 0 = some 0x4000 ∧ get? 0 mailbox.host.mbcore = some 0 ∧
    min 63 ((ringProd mailbox 0x4000 0 + 2 ^ 32 - getD (ringCons mailbox 0x4000 0) 0 mailbox.host.mbseen) % 2 ^ 32) ≠ 0 ∧
    ((coreWith { started := true }).core 0).started = true := by decide

theorem test_boot : (State.reset).boot.state = 0 ∧ (zeros 32).length = 32 ∧ ({ State.reset with boot := { state := 1 } } : State).boot.state = 1 := by decide

theorem test_links : [(1, 0)].any (fun v : Nat × Nat => v.1 == 1) = true ∧ quadBarred State.reset 8192 0 0 0 = false ∧
    quadUsers State.reset 0 0 0 = [] ∧ ({ State.reset with testing := [0] } : State).testing.contains 0 = true := by decide

/-! ### Statements about the whole machine -/

/-- Core 0 started at a word of its SRAM, its step next. -/
def running (w : Nat) : State := { coreWith { started := true, sram := writeNat [] 0 4 w } with agenda := [.core 0] }

theorem test_core_steps : ([(0x00C5_850B, 0), (0x02C5_850B, 1), (0x13, 2)].all fun x =>
    let s := running x.1
    (s.core 0).started && (match fetchCore { s with agenda := [], acted := false } 0 with
      | .ok bs => pendingIrq (s.core 0) == none && (match decodeCoreBytes bs with
        | .xdmx _ => x.2 == 0
        | .illegal => x.2 == 1
        | .base => x.2 == 2)
      | _ => false)) = true := by decide

/-- A core at an odd place behind its SRAM, and one with a machine external interrupt due. -/
theorem test_core_events :
    let s := coreWith { started := true, pc := BitVec.ofNat 64 (2 ^ 60) }
    (match fetchCore s 0 with
      | .error e => e.2 == 1
      | .ok _ => false) = true ∧
    pendingIrq { (default : Core) with csrs := [(0x300, 8), (0x304, 0x800), (0x344, 0x800)] } = some (11, true) := by decide

theorem test_pipe_step :
    let s := { ready (.add (hd .n32 8) 0) with agenda := [] }
    (choose s 0 (readyCands s 0 .vec)).isSome = true ∧ (readyCands s 0 .vec).length = 1 ∧ readyCands State.reset 0 .vec = [] := by
  decide

theorem test_event_step : isEvent (.pageInvalidation 0 0 0) = true ∧ isEvent (.nop (hd .b64 0) ⟨0, 0, 0⟩) = false ∧ (State.reset).agenda = [] := by decide

theorem test_encoded : (Instr.add (hd .n32 8) 5).wf = true ∧ (encodeWord (.add (hd .n32 8) 5)).isSome = true ∧ (Instr.dmxCmd 1 2 3).wf = true ∧
    (encodeCore (.dmxCmd 1 2 3)).isSome = true := by decide

theorem test_decoded : (decodeWord 0x2088_41FF_C000_0005).toOption.isSome = true ∧ decodeCore 0x00C5_850B = .xdmx (.dmxCmd 10 11 12) := by decide

theorem test_invariant : Inv State.reset ∧ step State.reset = .next (nextCycle State.reset) :=
  ⟨⟨by decide, by decide, by decide, by decide, fun _ => ⟨Nat.zero_le 7, Nat.two_pow_pos 120⟩, fun _ => by show 0x100 < 2 ^ 16; decide, by decide,
    fun _ => ⟨.inr (.inr rfl), rfl⟩⟩, rfl⟩

theorem test_frame : (encodeWord (.add (hd .n32 8) 0)).isSome = true ∧ runs (.add (hd .n32 8) 0) = true := by decide

theorem test_memory_frame :
    let q := req .store { home8 with space := .virt }
    let u := req (.amo 0) home8
    writesMemory (.nop (hd .b64 0) ⟨0, 0, 0⟩) = false ∧ q.elts[0 / 4]? = some { home8 with space := .virt } ∧ (atHome q).mem.wf = true ∧
    after (exec (.homeAccess 6 0 false) (atHome q)) (fun t => t.acted) = true ∧ after (exec (.ownerUpdate 6 0 false) (atHome u)) (fun t => t.acted) = true ∧
    after (exec (.dmxTake 0 1 2) (coreWith {})) (fun _ => true) = true ∧ after (exec (.dmxClaim 0 1 2) (coreWith {})) (fun _ => true) = true := by decide

theorem test_quarantine : bit (((readied 0 5).die 0).qmask) 2 = true ∧ after (exec (.dspstClear) (readied 0 5)) (fun _ => true) = true := by decide

theorem test_quarantine_placement : (place (readied 0 1) 0 { state := .ready } oneQuad.desc) = some (0, 1, 0) := by decide

theorem test_choice :
    let s := quad
    let rs : List Cand := [⟨1, 5, .nop (hd .b64 0) ⟨0, 0, 0⟩⟩, ⟨0, 5, .nop (hd .b64 0) ⟨0, 0, 0⟩⟩, ⟨2, 3, .nop (hd .b64 0) ⟨0, 0, 0⟩⟩]
    (choose s 0 rs).map (·.slot) = some 2 ∧ (choose (s.modAt 0 fun a => a.modSlot 1 fun x => { x with aging := 64 }) 0 rs).map (·.slot) = some 1 ∧
    ((s.at 0).active.instr 0).map pipeOf = some .vec := by decide

/-- R196 on n8 and s8: -7 / 2 is -3 and leaves -1. -/
theorem test_division : idiv .s8 0xF9 2 = 0xFD ∧ irem .s8 0xF9 2 = 0xFF ∧ Elem.isFlt .s8 = false ∧ idiv .s8 0x80 0xFF = 0x80 ∧ idiv .n8 7 0 = 0xFF := by decide

theorem test_integers : rawOf .s8 300 = 44 ∧ rawOf .s8 (clampInt .s8 300) = 127 ∧ rawOf .s8 (clampInt .s8 (-300)) = 0x80 ∧ intMin .s8 ≤ -128 ∧
    immElem .s8 0x3FFFFFFF = 0xFF := by decide

theorem test_time_order : ([8, 16] : List Nat).length ≤ 4 ∧ ([8, 16] : List Nat).sum ≤ 44 ∧ bits (5 * 2 ^ 20 : Nat) 0 (44 - 24) = 0 ∧
    (7 : Nat) < 2 ^ levelWidth [8, 16] 2 ∧ ctr [8, 16] (setCtr [8, 16] 0 2 7) 2 = 7 := by decide

theorem test_scale : decodeE8 0x7F = .fin false 1 0 ∧ (0xFE : Nat) < 256 := by decide
/-- A core of mode 3 at pc 0: addi x1, x0, 5 and its 16-bit form c.li x1, 5; the standard's words. -/
theorem test_base_isa : ([(leBytes 4 0x00500093, 4), (leBytes 2 0x4095, 2)].all fun w =>
    after (runBase 0 w.1 (coreWith { started := true })) (fun t => (t.core 0).reg 1 == 5 && (t.core 0).pc.toNat == w.2)) = true := by decide

/-- An environment call of machine mode goes to mtvec with cause 11. -/
theorem test_base_ecall : after (runBase 0 (leBytes 4 0x73) (coreWith { started := true, csrs := [(0x305, 0x100)] })) (fun t =>
    (t.core 0).pc == 0x100 && (t.core 0).csr 0x342 == 11) = true := by decide

/-- The taps of a phase sum to 64 in the first two filters and to 128 in the others. -/
theorem test_filter_taps : (upto 16).all (fun p => ([0, 1].all fun f => (filterTaps f p).length == 0 || (filterTaps f p).sum == 64) &&
    [2, 3, 4, 5, 6, 7].all fun f => (filterTaps f p).sum == 128) = true := by decide

/-- R86: W, H, cause and the subrecord count stand in the first 8 of the 64 bytes of the section's head. -/
theorem test_frz_head : (frzSection 2 3 1 0 0 []).length = 64 ∧ (frzSection 2 3 1 0 0 []).take 8 = [2, 3, 0, 1, 0, 0, 0, 0] := by decide

/-- R8: dies 0 and 3 join over die 1, by two saddles; LT 31 is the spare. -/
theorem test_saddles : (diePath 0 3).length = 2 ∧ diePath 0 1 = [0] ∧ ltRole 0 31 = .spare ∧ portLt 5 = (1, 28) := by decide

/-! ### Turns at the ports and in the banks, and what a unit does without one -/

/-- A ring of the scratchpad whose bank has been used in this cycle. -/
def usedBank (s : State) (off : Nat) : State := unitTake oneQuad (.sub 1) [(off, 8)] s

theorem test_bank_turns : unitTurn quad oneQuad (.sub 7) [(0x40, 8)] = true ∧ unitTurn (usedBank quad 0x40) oneQuad (.sub 7) [(0x40, 8)] = false ∧
    allocTurn syntaxRes 0 { (default : Alloc) with buf := 3 } 0 256 (usedBank (parsing {}) 0) = false := by decide

theorem test_ports : pipeTurn quad 0 = true ∧ rowTurn quad 0 0 = true ∧ pipeTurn (quad.modAt 0 fun a => a.usePort 0 2 256) 0 = false := by decide

/-- The head of a unit, and every area that a slot's delivery, substitution and release use, at their turn. -/
theorem test_unit_turns : ofUnit (combining 1 unit []) (fun x =>
    [[(0, 64)], [(0, 64), (slotOff x 0, 192)], [(0, 64), (slotOff x 0, 192), accArea x 0], chunkAreas (combining 1 unit []) x (chunk 0 0 2) 0].all fun areas =>
      unitTurn (combining 1 unit []) x.r (.cmb 3 2) (areas.map fun a => (x.u.base + a.1, a.2))) = true := by decide

/-- A token waits at the source of backing queue 0, which is empty. -/
theorem test_backq_source : ({ src := some zeroToken } : BackQ).toks = [] ∧ (backed.at 0).exited = false := by decide

/-- R151: a walk by pointers needs its next pointer word, in the A buffer and in the scratchpad. -/
theorem test_pointer_turn : ([1, 0].all fun psp =>
    let g : Agen := { (default : Agen) with words := [BitVec.ofNat 64 (1 * 2 ^ 60 + psp * 2 ^ 51), 0, 0, 1] }
    ptrTurn quad oneQuad 0 0 g) = true := by decide

/-- R192: while the target of the pulses takes no token the pulses wait. -/
theorem test_resize_full : sendAll (having quad .l [zeroToken, zeroToken]) 0 0 0 [pulseOut 0 (.pos .l 0)] = none := by decide

theorem test_fence_done (q : Req) (k : Nat) : ({ q with op := .fence [2, 7] false .data, org := .slot k 0, dead := false } : Req).dead = false ∧
    ([] : List (Nat × Req)).all (fun e => e.2.elts.all Elt.performed) = true := ⟨rfl, rfl⟩

/-! ### The Dispatcher, the host and the cores -/

/-- A record of lower priority fills each die. -/
def preempting : State :=
  let s := readied 1 0
  let d : Desc := { oneQuad.desc with w := 12, h := 10 }
  { s with
    templates := [(0, ⟨0, d⟩)]
    tasks := (0, { state := .ready, prio := 7 }) :: (upto 4).map fun i => (1 + i, { state := .active, prio := 0, die := i })
    res := (upto 4).map fun i => (1 + i, { oneQuad with die := i, desc := d }) }

theorem test_select_preempts : selected preempting (fun k x d s => place s k x d == none && bit s.dsp.ctl.toNat 0 && (victimFor s k x d).isSome) = true := by
  decide

theorem test_save_refused : saveRefused State.reset 0 oneQuad.desc = false ∧
    saveRefused { State.reset with saved := [(ridOf State.reset 0, zeros 64)] } 0 oneQuad.desc = true := by decide

theorem test_control_space : pkind State.reset 0xF000000000000 = .control ∧ coreRange State.reset (2 ^ 38 - 8) 16 = false := by decide

theorem test_bar0 : ([(0, 8), (0x208, 8), (0x11000, 8), (0x20000, 8), (0x2FFF8, 8), (2 ^ 20 - 8, 8)].all fun x : Nat × Nat =>
      decide (x.1 + x.2 ≤ 2 ^ 20) && decide (x.2 = 8 ∧ x.1 % 8 = 0)) = true ∧ ¬(4 = 8 ∧ 0x208 % 8 = 0) ∧ ¬(8 = 8 ∧ 0x20C % 8 = 0) := by decide

theorem test_polls : get? 0 ({ mailbox with host := { mailbox.host with mbcore := [] } }).host.mbcore = none ∧
    setBase { mailbox with host := { mailbox.host with mbcore := [] } } 0 = some 0x4000 ∧
    mailbox.host.silent 0 = false ∧ ({ mbver := [(0, 0xFFFF)] } : HostSt).silent 0 = true := by decide

/-- A core whose word reads uncorrectable, and a residency that a det commit belongs to. -/
theorem test_bad_word : ((running 0x13).core 0).started = true ∧ pendingIrq ((running 0x13).core 0) = none ∧
    (match fetchCore (running 0x13) 0 with
      | .ok _ => true
      | .error _ => false) = true ∧ (State.reset).focus.bad = none := by decide

/-- R424: what a take writes is the head of 32 bytes and the payload. -/
theorem test_take_length : asked.bytes.length = 40 ∧ (32 : Nat) + (zeros 256).length = 288 := ⟨by decide, by rw [zeros, List.length_replicate]⟩
end Sys2Proof.Tests
end

section
/-! PROOFS. Instruction words (R22 to R41, R418): decoding and encoding are inverse to one another, in both directions and through the
bytes that the hardware stores. -/

namespace Sys2Proof.Proofs.Words

open Sys2Proof Sys2Proof.Laws

/-! ### Little-endian bytes (R3) -/

theorem leNat_leBytes : ∀ n v : Nat, leNat (leBytes n v) = v % 256 ^ n
  | 0, v => by rw [leBytes, leNat, Nat.pow_zero, Nat.mod_one]
  | n + 1, v => by
    have hb : (BitVec.ofNat 8 v).toNat = v % 256 := BitVec.toNat_ofNat ..
    rw [leBytes, leNat, hb, leNat_leBytes n, Nat.pow_succ', Nat.mod_mul]

theorem length_leBytes : ∀ n v : Nat, (leBytes n v).length = n
  | 0, _ => rfl
  | n + 1, v => by rw [leBytes, List.length_cons, length_leBytes n]

theorem take_leBytes (n v : Nat) : (leBytes n v).take n = leBytes n v := List.take_of_length_le (length_leBytes n v).le

theorem decodeFabricBytes_leBytes (w : W64) : decodeFabricBytes (leBytes 8 w.toNat) = decodeWord w := by
  have hw : leNat (leBytes 8 w.toNat) = w.toNat := (leNat_leBytes 8 _).trans (Nat.mod_eq_of_lt w.isLt)
  rw [decodeFabricBytes, take_leBytes, hw, BitVec.ofNat_toNat, BitVec.setWidth_eq]

theorem decodeCoreBytes_leBytes (w : BitVec 32) : decodeCoreBytes (leBytes 4 w.toNat) = decodeCore w := by
  have hw : leNat (leBytes 4 w.toNat) = w.toNat := (leNat_leBytes 4 _).trans (Nat.mod_eq_of_lt w.isLt)
  rw [decodeCoreBytes, take_leBytes, hw, BitVec.ofNat_toNat, BitVec.setWidth_eq]

/-- A fabric word that decodes is read by the table decoder from its eight bytes. -/
theorem decodeTableWord_of_decodeWord {w : W64} {i : Instr} (h : decodeWord w = .ok i) :
    decodeTableWord 64 w.toNat = some i := by
  simp [decodeTableWord, decodeFabricBytes_leBytes, h]

/-- An Xdmx word is read by the table decoder from its four bytes. -/
theorem decodeTableWord_of_decodeCore {w : BitVec 32} {i : Instr} (h : decodeCore w = .xdmx i) :
    decodeTableWord 32 w.toNat = some i := by
  simp [decodeTableWord, decodeCoreBytes_leBytes, h]

/-! ### Decoding what was encoded -/

/-- The round trip of every instruction, by its constructor; commands and events have no word. -/
theorem roundTrip (i : Instr) : RoundTrip.Statement i := by
  cases i
  case nop h x => exact RoundTrip.nop h x
  case exit h x => exact RoundTrip.exit h x
  case mov h => exact RoundTrip.mov h
  case const h imm => exact RoundTrip.const h imm
  case consth h imm => exact RoundTrip.consth h imm
  case fan h x => exact RoundTrip.fan h x
  case sink h => exact RoundTrip.sink h
  case route h => exact RoundTrip.route h
  case merge h => exact RoundTrip.merge h
  case select h => exact RoundTrip.select h
  case gate h => exact RoundTrip.gate h
  case enter h => exact RoundTrip.enter h
  case step h imm => exact RoundTrip.step h imm
  case leave h => exact RoundTrip.leave h
  case epoch h imm => exact RoundTrip.epoch h imm
  case timeof h => exact RoundTrip.timeof h
  case cnt h => exact RoundTrip.cnt h
  case eos h => exact RoundTrip.eos h
  case iseos h => exact RoundTrip.iseos h
  case hold h x => exact RoundTrip.hold h x
  case release h x => exact RoundTrip.release h x
  case resize h imm => exact RoundTrip.resize h imm
  case add h imm => exact RoundTrip.add h imm
  case sub h imm => exact RoundTrip.sub h imm
  case mul h imm => exact RoundTrip.mul h imm
  case mulh h imm => exact RoundTrip.mulh h imm
  case mad h imm => exact RoundTrip.mad h imm
  case div h imm => exact RoundTrip.div h imm
  case rem h imm => exact RoundTrip.rem h imm
  case neg h imm => exact RoundTrip.neg h imm
  case abs h imm => exact RoundTrip.abs h imm
  case min h imm => exact RoundTrip.min h imm
  case max h imm => exact RoundTrip.max h imm
  case adds h imm => exact RoundTrip.adds h imm
  case subs h imm => exact RoundTrip.subs h imm
  case and h imm => exact RoundTrip.and h imm
  case or h imm => exact RoundTrip.or h imm
  case xor h imm => exact RoundTrip.xor h imm
  case andn h imm => exact RoundTrip.andn h imm
  case shl h imm => exact RoundTrip.shl h imm
  case shr h imm => exact RoundTrip.shr h imm
  case rotl h imm => exact RoundTrip.rotl h imm
  case clz h imm => exact RoundTrip.clz h imm
  case popc h imm => exact RoundTrip.popc h imm
  case bfx h imm => exact RoundTrip.bfx h imm
  case bfi h imm => exact RoundTrip.bfi h imm
  case cmp h imm => exact RoundTrip.cmp h imm
  case hash h imm => exact RoundTrip.hash h imm
  case fadd h imm => exact RoundTrip.fadd h imm
  case fsub h imm => exact RoundTrip.fsub h imm
  case fmul h imm => exact RoundTrip.fmul h imm
  case ffma h imm => exact RoundTrip.ffma h imm
  case fmin h imm => exact RoundTrip.fmin h imm
  case fmax h imm => exact RoundTrip.fmax h imm
  case fcmp h imm => exact RoundTrip.fcmp h imm
  case fabs h imm => exact RoundTrip.fabs h imm
  case fneg h imm => exact RoundTrip.fneg h imm
  case frcp h imm => exact RoundTrip.frcp h imm
  case frsq h imm => exact RoundTrip.frsq h imm
  case fsqrt h imm => exact RoundTrip.fsqrt h imm
  case fexp2 h imm => exact RoundTrip.fexp2 h imm
  case flog2 h imm => exact RoundTrip.flog2 h imm
  case fsin h imm => exact RoundTrip.fsin h imm
  case fcos h imm => exact RoundTrip.fcos h imm
  case ftanh h imm => exact RoundTrip.ftanh h imm
  case ferf h imm => exact RoundTrip.ferf h imm
  case fscale h imm => exact RoundTrip.fscale h imm
  case frnd h imm => exact RoundTrip.frnd h imm
  case fclass h imm => exact RoundTrip.fclass h imm
  case rsum h imm => exact RoundTrip.rsum h imm
  case rmax h imm => exact RoundTrip.rmax h imm
  case rmin h imm => exact RoundTrip.rmin h imm
  case scan h imm => exact RoundTrip.scan h imm
  case perm h imm => exact RoundTrip.perm h imm
  case bcast h imm => exact RoundTrip.bcast h imm
  case slice h imm => exact RoundTrip.slice h imm
  case cat h imm => exact RoundTrip.cat h imm
  case split h imm => exact RoundTrip.split h imm
  case compr h imm => exact RoundTrip.compr h imm
  case expd h imm => exact RoundTrip.expd h imm
  case argmax h imm => exact RoundTrip.argmax h imm
  case topk h imm => exact RoundTrip.topk h imm
  case maxrs h imm => exact RoundTrip.maxrs h imm
  case cvt h imm => exact RoundTrip.cvt h imm
  case cvts h imm => exact RoundTrip.cvts h imm
  case qnt h imm => exact RoundTrip.qnt h imm
  case dqnt h imm => exact RoundTrip.dqnt h imm
  case pack h imm => exact RoundTrip.pack h imm
  case unpk h imm => exact RoundTrip.unpk h imm
  case mcfg h x => exact RoundTrip.mcfg h x
  case mldb h x => exact RoundTrip.mldb h x
  case mswp h x => exact RoundTrip.mswp h x
  case mrow h x => exact RoundTrip.mrow h x
  case mrowa h x => exact RoundTrip.mrowa h x
  case mblk h x => exact RoundTrip.mblk h x
  case msca h x => exact RoundTrip.msca h x
  case mzero h x => exact RoundTrip.mzero h x
  case mdrn h x => exact RoundTrip.mdrn h x
  case ldt h x => exact RoundTrip.ldt h x
  case stt h x => exact RoundTrip.stt h x
  case lds h x => exact RoundTrip.lds h x
  case sts h x => exact RoundTrip.sts h x
  case agen h x => exact RoundTrip.agen h x
  case gath h x => exact RoundTrip.gath h x
  case scat h x => exact RoundTrip.scat h x
  case waita h x => exact RoundTrip.waita h x
  case arrv h x => exact RoundTrip.arrv h x
  case fence h x => exact RoundTrip.fence h x
  case xfence h x => exact RoundTrip.xfence h x
  case ldv h x => exact RoundTrip.ldv h x
  case stv h x => exact RoundTrip.stv h x
  case ldvs h x => exact RoundTrip.ldvs h x
  case stvs h x => exact RoundTrip.stvs h x
  case pfv h x => exact RoundTrip.pfv h x
  case amo h x => exact RoundTrip.amo h x
  case amor h x => exact RoundTrip.amor h x
  case red h x => exact RoundTrip.red h x
  case bin h x => exact RoundTrip.bin h x
  case binf h x => exact RoundTrip.binf h x
  case send h x => exact RoundTrip.send h x
  case cpy h x => exact RoundTrip.cpy h x
  case cpys h x => exact RoundTrip.cpys h x
  case cpyf h x => exact RoundTrip.cpyf h x
  case cpyc h x => exact RoundTrip.cpyc h x
  case sbw h x => exact RoundTrip.sbw h x
  case snap h x => exact RoundTrip.snap h x
  case cmbc h x => exact RoundTrip.cmbc h x
  case cmba h x => exact RoundTrip.cmba h x
  case cmbi h x => exact RoundTrip.cmbi h x
  case cmbr h x => exact RoundTrip.cmbr h x
  case syno h x => exact RoundTrip.syno h x
  case synq h x => exact RoundTrip.synq h x
  case bmod h x => exact RoundTrip.bmod h x
  case cgex h x => exact RoundTrip.cgex h x
  case cflp h x => exact RoundTrip.cflp h x
  case ctrn h x => exact RoundTrip.ctrn h x
  case blkw h x => exact RoundTrip.blkw h x
  case drift h x => exact RoundTrip.drift h x
  case cdmc h x => exact RoundTrip.cdmc h x
  case cdip h x => exact RoundTrip.cdip h x
  case waitf h x => exact RoundTrip.waitf h x
  case front h x => exact RoundTrip.front h x
  case launch h imm => exact RoundTrip.launch h imm
  case join h imm => exact RoundTrip.join h imm
  case isect h imm => exact RoundTrip.isect h imm
  case union h imm => exact RoundTrip.union h imm
  case part h imm => exact RoundTrip.part h imm
  case trap h x => exact RoundTrip.trap h x
  case brk h x => exact RoundTrip.brk h x
  case rdcr h x => exact RoundTrip.rdcr h x
  case wrcr h x => exact RoundTrip.wrcr h x
  case perf h x => exact RoundTrip.perf h x
  case svc h x => exact RoundTrip.svc h x
  case dmxCmd rd rs1 rs2 => exact RoundTrip.dmxCmd rd rs1 rs2
  case dmxFence rd rs1 rs2 => exact RoundTrip.dmxFence rd rs1 rs2
  case dmxTake rd rs1 rs2 => exact RoundTrip.dmxTake rd rs1 rs2
  case dmxGive rd rs1 rs2 => exact RoundTrip.dmxGive rd rs1 rs2
  case dmxResume rd rs1 rs2 => exact RoundTrip.dmxResume rd rs1 rs2
  case dmxFrz rd rs1 rs2 => exact RoundTrip.dmxFrz rd rs1 rs2
  case dmxClaim rd rs1 rs2 => exact RoundTrip.dmxClaim rd rs1 rs2
  case dmxWatch rd rs1 rs2 => exact RoundTrip.dmxWatch rd rs1 rs2
  -- REPEAT, whose constructor's name is a keyword, is the first case left; behind it stand the commands and events.
  next h => exact RoundTrip.repeat h
  all_goals exact RoundTrip.ofNone _ rfl rfl

/-- Settles O47: the round trip of each constructor, carried to the stored bytes. -/
theorem encodedInstructionsDecode : Obligations.EncodedInstructionsDecode := by
  intro i hwf
  obtain ⟨hword, hcore⟩ := roundTrip i hwf
  exact ⟨fun w hw => ⟨hword w hw, decodeTableWord_of_decodeWord (hword w hw)⟩,
    fun w hw => ⟨hcore w hw, decodeTableWord_of_decodeCore (hcore w hw)⟩⟩

/-! ### Encoding what was decoded: the fields -/

theorem code_ofCode (c : BitVec 4) : (Elem.ofCode c.toNat).code = c := by revert c; decide

theorem code_of_decode {b : BitVec 9} {t : Target} (h : Target.decode b = some t) : t.code = b := by
  have all : ∀ b : BitVec 9, ∀ t ∈ Target.decode b, t.code = b := by decide
  exact all b t h

theorem bit_beq_one (b : BitVec 1) : Bool.bit (b == 1) = b := by revert b; decide

theorem memX_encode_decode (x : BitVec 30) : (MemX.decode x).encode = x := by
  simp (disch := decide) only [MemX.decode, MemX.encode, bit_beq_one, BitVec.extractLsb'_append_extractLsb'_eq_extractLsb']
  exact BitVec.extractLsb'_eq_self

theorem engX_encode_decode (x : BitVec 30) : (EngX.decode x).encode = x := by
  simp (disch := decide) only [EngX.decode, EngX.encode, bit_beq_one, BitVec.extractLsb'_append_extractLsb'_eq_extractLsb']
  exact BitVec.extractLsb'_eq_self

theorem matX_encode_decode (x : BitVec 30) : (MatX.decode x).encode = x := by
  simp (disch := decide) only [MatX.decode, MatX.encode, bit_beq_one, BitVec.extractLsb'_append_extractLsb'_eq_extractLsb']
  exact BitVec.extractLsb'_eq_self

theorem vidX_encode_decode (x : BitVec 30) : (VidX.decode x).encode = x := by
  simp (disch := decide) only [VidX.decode, VidX.encode, BitVec.extractLsb'_append_extractLsb'_eq_extractLsb']
  exact BitVec.extractLsb'_eq_self

theorem sysX_encode_decode (x : BitVec 30) : (SysX.decode x).encode = x := by
  simp (disch := decide) only [SysX.decode, SysX.encode, BitVec.extractLsb'_append_extractLsb'_eq_extractLsb']
  exact BitVec.extractLsb'_eq_self

/-- PRB words hold 0 in their low 15 bits (R35). -/
theorem prbX_encode_of_decode {x : BitVec 30} {y : PrbX} (h : PrbX.decode x = .ok y) : y.encode = x := by
  unfold PrbX.decode at h
  split at h
  · cases h
  · rename_i hlow
    cases h
    rw [ne_eq, not_not] at hlow
    simp (disch := decide) only [PrbX.encode, ← hlow, BitVec.extractLsb'_append_extractLsb'_eq_extractLsb']
    exact BitVec.extractLsb'_eq_self

/-- T3 words hold 0 in their low 3 bits and three targets above (R30). -/
theorem t3X_encode_of_decode {x : BitVec 30} {y : T3X} (h : T3X.decode x = .ok y) : y.encode = x := by
  unfold T3X.decode at h
  split at h
  · cases h
  · rename_i hlow
    rw [ne_eq, not_not] at hlow
    split at h
    · rename_i ha hb hc
      cases h
      simp (disch := decide) only [T3X.encode, code_of_decode ha, code_of_decode hb, code_of_decode hc, ← hlow,
        BitVec.extractLsb'_append_extractLsb'_eq_extractLsb']
      exact BitVec.extractLsb'_eq_self
    · cases h

/-! ### Encoding what was decoded: the words -/

/-- Whatever `r` decodes an opcode and its fields to, their word is that instruction's. -/
def Encodes (op : Nat) (h : Hd) (x : BitVec 30) (r : Except DecodeErr Instr) : Prop :=
  ∀ i, r = .ok i → encodeWord i = some (packWord (BitVec.ofNat 8 op) h x)

section Families

variable {op : Nat} {h : Hd} {x : BitVec 30}

theorem encodes_error (e : DecodeErr) : Encodes op h x (.error e) := by
  intro i hi
  cases hi

theorem encodes_imm {i : Instr} (he : encodeWord i = some (packWord (BitVec.ofNat 8 op) h x)) : Encodes op h x (.ok i) := by
  intro j hj
  cases hj
  exact he

/-- Family N (R28): only X = 0 decodes. -/
theorem encodes_plain {i : Instr} (he : encodeWord i = some (packWord (BitVec.ofNat 8 op) h 0)) : Encodes op h x (famN x i) := by
  unfold famN
  split
  · rename_i hx
    subst hx
    exact encodes_imm he
  · exact encodes_error _

/-- A family whose X decodes without loss. -/
theorem encodes_x {α : Type} {decode : BitVec 30 → α} {encode : α → BitVec 30} {f : α → Instr} (hx : encode (decode x) = x)
    (he : ∀ y, encodeWord (f y) = some (packWord (BitVec.ofNat 8 op) h (encode y))) : Encodes op h x (.ok (f (decode x))) :=
  encodes_imm ((he (decode x)).trans (by rw [hx]))

/-- A family whose X may be refused. -/
theorem encodes_map {α : Type} {decode : BitVec 30 → Except DecodeErr α} {encode : α → BitVec 30} {f : α → Instr}
    (hx : ∀ y, decode x = .ok y → encode y = x)
    (he : ∀ y, encodeWord (f y) = some (packWord (BitVec.ofNat 8 op) h (encode y))) : Encodes op h x ((decode x).map f) := by
  cases hd : decode x with
  | error e => exact encodes_error e
  | ok y => exact encodes_imm ((he y).trans (by rw [hx y hd]))

end Families

/-- The inversion of the decoder's table, each arm by its family: case `h_n` is the n-th arm of `decodeOp`, in the order of R39, the
last one the reserved opcodes. -/
theorem decodeOp_encodes (op : Nat) (h : Hd) (x : BitVec 30) : Encodes op h x (decodeOp op h x) := by
  unfold decodeOp
  split
  case h_1 =>
    split
    · exact encodes_x (sysX_encode_decode x) fun _ => rfl
    · exact encodes_x (sysX_encode_decode x) fun _ => rfl
    · exact encodes_error _
  case h_2 | h_6 | h_7 | h_8 | h_9 | h_10 | h_11 | h_13 | h_15 | h_16 | h_17 | h_18 | h_19 => exact encodes_plain rfl
  case h_3 | h_4 | h_12 | h_14 | h_22 | h_23 | h_24 | h_25 | h_26 | h_27 | h_28 | h_29 | h_30 | h_31 | h_32 | h_33 | h_34 |
      h_35 | h_36 | h_37 | h_38 | h_39 | h_40 | h_41 | h_42 | h_43 | h_44 | h_45 | h_46 | h_47 | h_48 | h_49 | h_50 | h_51 |
      h_52 | h_53 | h_54 | h_55 | h_56 | h_57 | h_58 | h_59 | h_60 | h_61 | h_62 | h_63 | h_64 | h_65 | h_66 | h_67 | h_68 |
      h_69 | h_70 | h_71 | h_72 | h_73 | h_74 | h_75 | h_76 | h_77 | h_78 | h_79 | h_80 | h_81 | h_82 | h_83 | h_84 | h_85 |
      h_86 | h_87 | h_88 | h_89 | h_143 | h_144 | h_145 | h_146 | h_147 => exact encodes_imm rfl
  case h_5 => exact encodes_map (fun _ => t3X_encode_of_decode) fun _ => rfl
  case h_20 | h_21 | h_141 | h_142 => exact encodes_map (fun _ => prbX_encode_of_decode) fun _ => rfl
  case h_90 | h_91 | h_92 | h_93 | h_94 | h_95 | h_96 | h_97 | h_98 => exact encodes_x (matX_encode_decode x) fun _ => rfl
  case h_99 | h_100 | h_101 | h_102 | h_103 | h_104 | h_105 | h_106 | h_107 | h_108 | h_109 | h_110 | h_111 | h_112 | h_113 |
      h_114 | h_115 | h_116 | h_117 | h_118 | h_119 =>
    exact encodes_x (memX_encode_decode x) fun _ => rfl
  case h_120 | h_121 | h_122 | h_123 | h_124 | h_125 | h_126 | h_127 | h_128 | h_129 | h_130 | h_131 | h_132 =>
    exact encodes_x (engX_encode_decode x) fun _ => rfl
  case h_133 | h_134 | h_135 | h_136 | h_137 | h_138 | h_139 | h_140 => exact encodes_x (vidX_encode_decode x) fun _ => rfl
  case h_148 | h_149 | h_150 | h_151 | h_152 | h_153 => exact encodes_x (sysX_encode_decode x) fun _ => rfl
  case h_154 => exact encodes_error _

/-- A fabric word is its fields (R22). -/
theorem packWord_fields {w : W64} {t0 t1 : Target} (h0 : Target.decode (w.extractLsb' 39 9) = some t0)
    (h1 : Target.decode (w.extractLsb' 30 9) = some t1) :
    packWord (BitVec.ofNat 8 (w.extractLsb' 56 8).toNat)
      ⟨Elem.ofCode (w.extractLsb' 52 4).toNat, w.extractLsb' 48 4, t0, t1⟩ (w.extractLsb' 0 30) = w := by
  simp (disch := decide) only [packWord, code_ofCode, code_of_decode h0, code_of_decode h1, BitVec.ofNat_toNat, BitVec.setWidth_eq,
    BitVec.extractLsb'_append_extractLsb'_eq_extractLsb']
  exact BitVec.extractLsb'_eq_self

theorem encodeWord_of_decodeWord {w : W64} {i : Instr} (h : decodeWord w = .ok i) : encodeWord i = some w := by
  unfold decodeWord at h
  split at h
  · rename_i h0 h1
    rw [decodeOp_encodes _ _ _ i h, packWord_fields h0 h1]
  · split at h <;> cases h

/-- An Xdmx word that decodes is its fields (R418). -/
theorem packCore_fields {w : BitVec 32} (hop : w.extractLsb' 0 7 = 0x0B) (h7 : w.extractLsb' 25 7 = 0) :
    packCore (w.extractLsb' 12 3) (w.extractLsb' 7 5) (w.extractLsb' 15 5) (w.extractLsb' 20 5) = w := by
  simp (disch := decide) only [packCore, ← hop, ← h7, BitVec.extractLsb'_append_extractLsb'_eq_extractLsb']
  exact BitVec.extractLsb'_eq_self

/-- The eight values of funct3 (R419). -/
theorem encodeCore_of_packCore {f : BitVec 3} {rd rs1 rs2 : BitVec 5} {i : Instr}
    (h : decodeCore (packCore f rd rs1 rs2) = .xdmx i) : encodeCore i = some (packCore f rd rs1 rs2) := by
  rw [packCore_decode] at h
  obtain ⟨k, hk⟩ := f
  interval_cases k
  all_goals
    cases h
    rfl

theorem encodeCore_of_decodeCore {w : BitVec 32} {i : Instr} (h : decodeCore w = .xdmx i) : encodeCore i = some w := by
  have hop : w.extractLsb' 0 7 = 0x0B := by
    by_contra hne
    rw [decodeCore, if_pos hne] at h
    cases h
  have h7 : w.extractLsb' 25 7 = 0 := by
    by_contra hne
    rw [decodeCore, if_neg (not_not.2 hop), if_pos hne] at h
    cases h
  rw [← packCore_fields hop h7] at h ⊢
  exact encodeCore_of_packCore h

/-- Settles O48: the decoder's table inverted arm by arm, and the eight values of funct3. -/
theorem decodedWordsEncode : Obligations.DecodedWordsEncode :=
  ⟨fun _ _ => encodeWord_of_decodeWord, fun _ _ => encodeCore_of_decodeCore⟩

/-- Settles O46: each word is evaluated by the decoder. -/
theorem specWordsDecode : Obligations.SpecWordsDecode := by
  unfold Obligations.SpecWordsDecode
  decide

end Sys2Proof.Proofs.Words
end

section
/-! PROOFS. The integer instructions lane by lane (R216, R217, R222 to R225). -/

namespace Sys2Proof.Proofs.IntegerLanes

open Sys2Proof Sys2Proof.Machine Sys2Proof.Safety Sys2Proof.Laws

variable {i : Instr} {s : State} {c : Ctx} {h : Hd} {imm : BitVec 30} {ty : Elem} {f : Nat → Nat → Nat}

/-- The operand form of a lanewise instruction (R217): the rows of L and R, the shorter widened. -/
theorem lanes2_operand (hm : h.md.toNat < 8) (hf : Fires i s c) (hx : exec i s = lanes2 i h imm ty f s) :
    Sends i s c (both h (dataOut ty c.time (packLanes h.sh.width
      (zip2 f (widen h.sh.width (max c.l.data.length c.rt.data.length) c.l.data)
        (widen h.sh.width (max c.l.data.length c.rt.data.length) c.rt.data))))) := by
  simpa only [operands2_rows _ c hm] using lanes2_completes hf hx

/-- The immediate form (R27): the immediate stands beside every lane of L. -/
theorem lanes2_immediate (hm : 8 ≤ h.md.toNat) (hf : Fires i s c) (hx : exec i s = lanes2 i h imm ty f s) :
    Sends i s c (both h (dataOut ty c.time (packLanes h.sh.width
      ((lanes h.sh.width c.l.data).map fun a => f a (immElem h.sh imm))))) := by
  simpa only [operands2_imm _ c hm, zip2_replicate] using lanes2_completes hf hx

/-- The lanewise instructions of two operands that have an immediate form and the type of SH, but ADD, each with its function. -/
def binaryOps (h : Hd) (imm : BitVec 30) : List (Instr × (Nat → Nat → Nat)) :=
  [(.sub h imm, isub h.sh), (.mul h imm, imul h.sh), (.mulh h imm, imulh h.sh), (.div h imm, idiv h.sh), (.rem h imm, irem h.sh),
    (.min h imm, imin h.sh), (.max h imm, imax h.sh), (.adds h imm, iadds h.sh), (.subs h imm, isubs h.sh), (.and h imm, iand h.sh),
    (.or h imm, ior h.sh), (.xor h imm, ixor h.sh), (.andn h imm, iandn h.sh), (.shl h imm, ishl h.sh), (.shr h imm, ishr h.sh),
    (.rotl h imm, irotl h.sh)]

theorem exec_binaryOps : ∀ p ∈ binaryOps h imm, exec p.1 s = lanes2 p.1 h imm h.sh p.2 s := by
  simp only [binaryOps, List.forall_mem_cons]
  exact ⟨rfl, rfl, rfl, rfl, rfl, rfl, rfl, rfl, rfl, rfl, rfl, rfl, rfl, rfl, rfl, rfl, List.forall_mem_nil _⟩

/-- The lanewise instructions of one operand, each with its function; HASH takes the tile's seed. -/
def unaryOps (h : Hd) (imm : BitVec 30) : List (Instr × (Ctx → Nat → Nat)) :=
  [(.neg h imm, fun _ => ineg h.sh), (.abs h imm, fun _ => iabs h.sh), (.clz h imm, fun _ => iclz h.sh),
    (.popc h imm, fun _ => ipopc h.sh), (.bfx h imm, fun _ => ibfx h.sh (immBits imm 0 6) (immBits imm 6 7)),
    (.hash h imm, fun c => hash32 c.a.detseed)]

theorem exec_unaryOps : ∀ p ∈ unaryOps h imm, exec p.1 s = lanes1 p.1 h h.sh p.2 s := by
  simp only [unaryOps, List.forall_mem_cons]
  exact ⟨rfl, rfl, rfl, rfl, rfl, rfl, List.forall_mem_nil _⟩

/-- ADD with two counts in the operand form (R228). -/
theorem add_counts (hm : h.md.toNat < 8) (hf : Fires (.add h imm) s c) (hl : c.l.kind = .count) (hr : c.rt.kind = .count) :
    Sends (.add h imm) s c (both h fun t => ⟨t, .count, .n32, c.time, countAdd c.l.data c.rt.data⟩) := by
  refine completes_fire hf (rfl : execAdd h imm s = _) ?_
  simp only [hm, hl, hr, decide_true, beq_self_eq_true, Bool.and_self, if_true]
  rfl

/-- ADD adds lane by lane wherever its operands are not two counts of the operand form. -/
theorem add_lanes (hf : Fires (.add h imm) s c) (hn : ¬(h.md.toNat < 8 ∧ c.l.kind = .count ∧ c.rt.kind = .count)) :
    Sends (.add h imm) s c (both h (dataOut h.sh c.time (packLanes h.sh.width
      (zip2 (iadd h.sh) (operands2 h (immElem h.sh imm) c).1 (operands2 h (immElem h.sh imm) c).2)))) := by
  refine completes_fire hf (rfl : execAdd h imm s = _) ?_
  have hn' : (decide (h.md.toNat < 8) && c.l.kind == .count && c.rt.kind == .count) = false := by
    simpa [and_assoc] using hn
  simp only [hn', Bool.false_eq_true, if_false]
  rfl

/-- BFI has the operand form alone (R223). -/
theorem bfi_lanes (hf : Fires (.bfi h imm) s c) :
    Sends (.bfi h imm) s c (both h (dataOut h.sh c.time (packLanes h.sh.width
      (zip2 (ibfi (immBits imm 0 6) (immBits imm 6 7)) (widen h.sh.width (max c.l.data.length c.rt.data.length) c.l.data)
        (widen h.sh.width (max c.l.data.length c.rt.data.length) c.rt.data))))) :=
  completes_fire hf (rfl : execBfi h imm s = _) rfl

/-- ADD in the immediate form. -/
theorem add_immediate (hm : 8 ≤ h.md.toNat) (hf : Fires (.add h imm) s c) :
    Sends (.add h imm) s c (both h (dataOut h.sh c.time (packLanes h.sh.width
      ((lanes h.sh.width c.l.data).map fun a => iadd h.sh a (immElem h.sh imm))))) := by
  have hsend := add_lanes hf fun hc => absurd hc.1 (Nat.not_lt.2 hm)
  rwa [operands2_imm _ c hm, zip2_replicate] at hsend

/-- ADD in the operand form. -/
theorem add_operand (hm : h.md.toNat < 8) (hf : Fires (.add h imm) s c) (hn : ¬(c.l.kind = .count ∧ c.rt.kind = .count)) :
    Sends (.add h imm) s c (both h (dataOut h.sh c.time (packLanes h.sh.width
      (zip2 (iadd h.sh) (widen h.sh.width (max c.l.data.length c.rt.data.length) c.l.data)
        (widen h.sh.width (max c.l.data.length c.rt.data.length) c.rt.data))))) := by
  have hsend := add_lanes hf fun hc => hn hc.2
  rwa [operands2_rows _ c hm] at hsend

/-- What CMP answers for two elements (R224). -/
def cmpElem (h : Hd) (a b : Nat) : Nat := if intCond (h.md.toNat % 8) (intOf h.sh a) (intOf h.sh b) then 1 else 0

theorem exec_cmp : exec (.cmp h imm) s = lanes2 (.cmp h imm) h imm (unsignedOf h.sh) (cmpElem h) s := rfl

/-- The unary instructions with their functions at one firing. -/
theorem unary_lanes : ∀ p ∈ (unaryOps h imm).map fun p => (p.1, p.2 c), Fires p.1 s c →
    Sends p.1 s c (both h (dataOut h.sh c.time (packLanes h.sh.width ((lanes h.sh.width c.l.data).map p.2)))) :=
  List.forall_mem_map.2 fun p hp hf => lanes1_completes hf (exec_unaryOps p hp)

/-- Settles O3: each instruction is its lanewise form, in the operand form, the immediate form, and with one or three operands. -/
theorem integerLanes : Obligations.IntegerLanes := by
  refine ⟨fun s c h imm hm => ⟨add_operand hm, add_counts hm, ?_, ?_, bfi_lanes⟩, fun s c h imm hm => ⟨?_, ?_⟩,
    fun s c h imm => ⟨?_, ?_⟩⟩
  case refine_1 => exact fun p hp hf => lanes2_operand hm hf (exec_binaryOps (imm := imm) p hp)
  case refine_2 => exact fun hf => lanes2_operand hm hf (exec_cmp (imm := imm))
  case refine_3 =>
    intro p hp hf
    rcases List.mem_cons.1 hp with rfl | hp
    · exact add_immediate hm hf
    · exact lanes2_immediate hm hf (exec_binaryOps (imm := imm) p hp)
  case refine_4 => exact fun hf => lanes2_immediate (f := cmpElem h) hm hf exec_cmp
  case refine_5 => exact unary_lanes (imm := imm)
  case refine_6 => exact fun hf => lanes3_completes hf (rfl : execMad h imm s = _)

end Sys2Proof.Proofs.IntegerLanes
end

section
/-! PROOFS. Integer results (R195), immediates (R27) and HASH (R225). -/

namespace Sys2Proof.Proofs.IntegerResults

open Sys2Proof Sys2Proof.Machine

/-! ### Results modulo 2^width (R195) -/

theorem nbits_pos (e : Elem) : 0 < e.nbits := by cases e <;> decide

theorem two_pow_nbits (e : Elem) : (2 ^ e.nbits : Int) = 2 * 2 ^ (e.nbits - 1) := by
  rw [← pow_succ', Nat.sub_add_cancel (nbits_pos e)]

theorem rawOf_cast (e : Elem) (v : Int) : (rawOf e v : Int) = v % 2 ^ e.nbits :=
  Int.toNat_of_nonneg (Int.emod_nonneg _ (by positivity))

theorem rawOf_lt (e : Elem) (v : Int) : rawOf e v < 2 ^ e.nbits := by
  have h := Int.emod_lt_of_pos v (b := 2 ^ e.nbits) (by positivity)
  rw [← rawOf_cast] at h
  exact_mod_cast h

/-- The integer of a raw element is the element modulo 2^width. -/
theorem intOf_modEq (e : Elem) (r : Nat) : intOf e r ≡ r [ZMOD 2 ^ e.nbits] := by
  unfold intOf
  split
  · exact Int.modEq_iff_dvd.2 (by simp)
  · exact Int.ModEq.refl _

theorem intOf_rawOf_modEq (e : Elem) (v : Int) : intOf e (rawOf e v) ≡ v [ZMOD 2 ^ e.nbits] :=
  (intOf_modEq e _).trans (by rw [rawOf_cast]; exact Int.mod_modEq v _)

/-- The integers of a type are the 2^width from its least one on. -/
theorem intMax_eq (e : Elem) : intMax e = intMin e + 2 ^ e.nbits - 1 := by
  have h2 := two_pow_nbits e
  unfold intMax intMin
  split <;> omega

theorem intOf_mem_range (e : Elem) {r : Nat} (h : r < 2 ^ e.nbits) : intMin e ≤ intOf e r ∧ intOf e r ≤ intMax e := by
  have h2 := two_pow_nbits e
  have hr : (r : Int) < 2 ^ e.nbits := by exact_mod_cast h
  have hhalf : r ≥ 2 ^ (e.nbits - 1) ↔ (2 ^ (e.nbits - 1) : Int) ≤ r := by norm_cast
  rw [intMax_eq]
  unfold intOf intMin
  cases e.signed
  · simp only [Bool.false_and, Bool.false_eq_true, if_false]
    omega
  · simp only [Bool.true_and, decide_eq_true_eq, hhalf, if_true]
    split <;> omega

/-- Integers of the type's range that agree modulo 2^width are equal. -/
theorem eq_of_modEq_of_range {e : Elem} {a b : Int} (h : a ≡ b [ZMOD 2 ^ e.nbits]) (ha : intMin e ≤ a ∧ a ≤ intMax e)
    (hb : intMin e ≤ b ∧ b ≤ intMax e) : a = b := by
  rw [intMax_eq] at ha hb
  have hd := Int.eq_zero_of_abs_lt_dvd h.dvd (abs_lt.2 ⟨by omega, by omega⟩)
  omega

theorem intOf_rawOf_of_range {e : Elem} {v : Int} (hv : intMin e ≤ v ∧ v ≤ intMax e) : intOf e (rawOf e v) = v :=
  eq_of_modEq_of_range (intOf_rawOf_modEq e v) (intOf_mem_range e (rawOf_lt e v)) hv

theorem clampInt_mem_range (e : Elem) (v : Int) : intMin e ≤ clampInt e v ∧ clampInt e v ≤ intMax e := by
  have hmax := intMax_eq e
  have hpos : (0 : Int) < 2 ^ e.nbits := by positivity
  unfold clampInt
  split
  · omega
  · split <;> omega

/-! ### Immediates (R27) -/

/-- The sign-extended immediate is the signed immediate modulo every power of two up to 2^64. -/
theorem signExtend_modEq (imm : BitVec 30) {k : Nat} (hk : k ≤ 64) :
    ((imm.signExtend 64).toNat : Int) ≡ imm.toInt [ZMOD 2 ^ k] := by
  have h64 : ((imm.signExtend 64).toNat : Int) ≡ imm.toInt [ZMOD 2 ^ 64] := by
    have hi : (imm.signExtend 64).toInt = imm.toInt := BitVec.toInt_signExtend_of_le (by decide)
    rw [← hi, BitVec.toInt_eq_toNat_bmod]
    exact (Int.bmod_emod ..).symm
  exact h64.of_dvd (pow_dvd_pow 2 hk)

/-- A remainder by 2^k is its number modulo 2^k. -/
theorem mod_bound_congr {a k : Nat} {v : Int} (h : (a : Int) ≡ v [ZMOD 2 ^ k]) :
    a % 2 ^ k < 2 ^ k ∧ (((a % 2 ^ k : Nat) : Int) - v) % (2 ^ k : Int) = 0 := by
  refine ⟨Nat.mod_lt _ (Nat.two_pow_pos k), ?_⟩
  have hm : ((a % 2 ^ k : Nat) : Int) ≡ a [ZMOD 2 ^ k] := by
    push_cast
    exact Int.mod_modEq _ _
  exact Int.emod_eq_zero_of_dvd (hm.trans h).symm.dvd

theorem immElem_spec {e : Elem} (imm : BitVec 30) (hf : Elem.isFlt e = false) (he : e ≠ .e2m1) :
    immElem e imm < 2 ^ e.nbits ∧
    ((immElem e imm : Int) - (if e.signed || e = .b64 then imm.toInt else (imm.toNat : Int))) % (2 ^ e.nbits : Int) = 0 := by
  cases e
  case s8 | s16 | s32 | s64 | b64 => exact mod_bound_congr (signExtend_modEq imm (by decide))
  case n8 | n16 | n32 | n64 => exact mod_bound_congr (Int.ModEq.refl _)
  case e2m1 => exact absurd rfl he
  case e4m3 | e5m2 | bf16 | f16 | f32 | e8m0 => cases hf

/-! ### HASH (R225) -/

theorem xorShift_injective {k : Nat} (hk : 0 < k) {x y : Nat} (h : xorShift x k = xorShift y k) : x = y := by
  have hz : x ^^^ y = (x ^^^ y) / 2 ^ k := by
    rw [← Nat.shiftRight_eq_div_pow, Nat.shiftRight_xor_distrib, Nat.shiftRight_eq_div_pow, Nat.shiftRight_eq_div_pow]
    unfold xorShift at h
    calc x ^^^ y = (x ^^^ x / 2 ^ k) ^^^ (x / 2 ^ k) ^^^ y := by rw [Nat.xor_assoc x, Nat.xor_self, Nat.xor_zero]
      _ = (y ^^^ y / 2 ^ k) ^^^ (x / 2 ^ k) ^^^ y := by rw [h]
      _ = x / 2 ^ k ^^^ y / 2 ^ k := by
        rw [Nat.xor_comm _ y, ← Nat.xor_assoc, ← Nat.xor_assoc, Nat.xor_self, Nat.zero_xor, Nat.xor_comm]
  have h0 : x ^^^ y = 0 := by
    by_contra hne
    exact absurd hz.symm (Nat.div_lt_self (Nat.pos_of_ne_zero hne) (Nat.one_lt_two_pow hk.ne')).ne
  exact Nat.xor_eq_zero_iff.1 h0

theorem xorShift_lt {n x : Nat} (k : Nat) (h : x < 2 ^ n) : xorShift x k < 2 ^ n :=
  Nat.xor_lt_two_pow h ((Nat.div_le_self _ _).trans_lt h)

/-- Multiplying by an odd number is one-to-one modulo 2^n. -/
theorem mul_mod_injective {c n x y : Nat} (hc : Nat.Coprime (2 ^ n) c) (hx : x < 2 ^ n) (hy : y < 2 ^ n)
    (h : x * c % 2 ^ n = y * c % 2 ^ n) : x = y :=
  (Nat.ModEq.cancel_right_of_coprime hc h).eq_of_lt_of_lt hx hy

/-- One round of HASH, a multiplication and a shift, is one-to-one on 32 bits. -/
theorem hashRound_injective {c k x y : Nat} (hc : Nat.Coprime (2 ^ 32) c) (hk : 0 < k) (hx : x < 2 ^ 32) (hy : y < 2 ^ 32)
    (h : xorShift (x * c % 2 ^ 32) k = xorShift (y * c % 2 ^ 32) k) : x = y :=
  mul_mod_injective hc hx hy (xorShift_injective hk h)

theorem hashRound_lt (c k x : Nat) : xorShift (x * c % 2 ^ 32) k < 2 ^ 32 := xorShift_lt k (Nat.mod_lt _ (by decide))

theorem hash32_injective {seed : W64} {u v : Nat} (hu : u < 2 ^ 32) (hv : v < 2 ^ 32) (h : hash32 seed u = hash32 seed v) :
    u = v := by
  have hlow : seed.toNat % 2 ^ 32 < 2 ^ 32 := Nat.mod_lt _ (by decide)
  have hhigh : seed.toNat / 2 ^ 32 < 2 ^ 32 := by have := seed.isLt; omega
  have h3 := hashRound_injective (by decide) (by decide) (Nat.xor_lt_two_pow (hashRound_lt ..) hhigh)
    (Nat.xor_lt_two_pow (hashRound_lt ..) hhigh) h
  have h2 := hashRound_injective (by decide) (by decide) (hashRound_lt ..) (hashRound_lt ..) (Nat.xor_left_injective h3)
  have h1 := hashRound_injective (by decide) (by decide) (Nat.xor_lt_two_pow hu hlow) (Nat.xor_lt_two_pow hv hlow) h2
  exact Nat.xor_left_injective h1

/-- Settles O56: results agree with the exact ones modulo 2^width, in a range of 2^width integers; each step of HASH is one-to-one. -/
theorem integerResults : Obligations.IntegerResults :=
  ⟨fun e v _ => ⟨rawOf_lt e v, Int.emod_eq_zero_of_dvd (intOf_rawOf_modEq e v).symm.dvd,
    fun hmin hmax => intOf_rawOf_of_range ⟨hmin, hmax⟩, intOf_rawOf_of_range (clampInt_mem_range e v)⟩,
   fun _ imm hf he => immElem_spec imm hf he, fun _ _ _ hu hv => hash32_injective hu hv, by decide⟩

end Sys2Proof.Proofs.IntegerResults
end

section
/-! PROOFS. The frame of a firing (R40, R179, R411 to R413): what no fabric instruction writes, as one value that every operation of
a firing leaves as it is. -/

namespace Sys2Proof.Proofs.Frame

open Sys2Proof Sys2Proof.Machine Sys2Proof.Safety Sys2Proof.Laws

/-! ### What is kept -/

/-- The words of a tile that no firing writes: its buffers, its configuration, its fault registers, DBGCTL. -/
def tileWords (a : AT) := ((a.w, a.a, a.q), (a.active, a.inactive, a.res, a.next), (a.faultst, a.faultad), a.dbgctl)

/-- The registers of a tile that WRCR writes. -/
def userWords (a : AT) := (a.detseed, a.perfsel, (a.driftLim, a.driftCost), a.user)

/-- What is kept of a tile; with `u` the registers of WRCR too. -/
def tileKept (u : Bool) (a : AT) := (tileWords a, if u then some (userWords a) else none)

/-- What is kept of the machine beside its tiles. -/
def restKept (s : State) :=
  ((s.agenda, s.cycle, s.mem, s.pts, s.homes, s.revoked), (s.share, s.hostWins, s.extents), (s.bccap, s.roots, s.subs),
    (s.watch, s.watchq), (s.snap, s.templates), (s.images, s.saved, s.files), s.clsmap, fun d => { s.die d with ue := 0 },
    (s.fuses, s.repair, s.slews, s.links, s.testing), (s.host, s.boot), fun c => { s.core c with takeq := [] })

/-- What is kept of the machine. -/
def kept (u : Bool) (s : State) := (restKept s, fun k => tileKept u (s.at k))

theorem tileUntouched_of_kept {u : Bool} {a b : AT} (h : tileKept u b = tileKept u a) : TileUntouched a b := by
  simp only [tileKept, tileWords, Prod.mk.injEq] at h
  obtain ⟨⟨⟨hw, ha, hq⟩, ⟨hactive, hinactive, hres, hnext⟩, ⟨hst, had⟩, hdebug⟩, -⟩ := h
  exact ⟨by rw [hw, ha, hq], by rw [hactive, hinactive, hres, hnext], by rw [hst, had], hdebug⟩

theorem userRegs_of_kept {a b : AT} (h : tileKept true b = tileKept true a) : UserRegs a b := by
  simp only [tileKept, userWords, if_true, Option.some.injEq, Prod.mk.injEq] at h
  obtain ⟨-, hseed, hperf, ⟨hlim, hcost⟩, huser⟩ := h
  exact ⟨hseed, hperf, by rw [hlim, hcost], huser⟩

theorem untouched_of_kept {s t : State} (h : restKept t = restKept s) : Untouched s t := by
  simp only [restKept, Prod.mk.injEq] at h
  obtain ⟨⟨agenda, cycle, mem, pts, homes, revoked⟩, ⟨share, wins, extents⟩, ⟨bccap, roots, subs⟩, ⟨watch, watchq⟩,
    ⟨snap, templates⟩, ⟨images, saved, files⟩, clsmap, dies, ⟨fuses, repair, slews, links, testing⟩, ⟨host, boot⟩, core⟩ := h
  exact
    { agenda, cycle, mem, pts, homes, revoked, bccap, roots, subs, snap, templates, clsmap
      window := by rw [share, wins, extents]
      watch := by rw [watch, watchq]
      images := by rw [images, saved, files]
      dies := congrFun dies
      boards := by rw [fuses, repair, slews, links, testing]
      host := by rw [host, boot]
      core := congrFun core }

/-! ### The updates of the state -/

section Updates

variable {u : Bool}

theorem kept_setAt (s : State) (k : Nat) (a : AT) (h : tileKept u a = tileKept u (s.at k)) :
    kept u (s.setAt k a) = kept u s := by
  refine Prod.ext rfl (funext fun j => ?_)
  by_cases hj : j = k
  · subst hj
    simp only [kept, at_setAt_same, h]
  · simp only [kept, at_setAt_ne hj]

theorem kept_modAt (s : State) (k : Nat) (f : AT → AT) (h : tileKept u (f (s.at k)) = tileKept u (s.at k)) :
    kept u (s.modAt k f) = kept u s := kept_setAt s k _ h

theorem kept_modNode (s : State) (k : Nat) (f : Node → Node) : kept u (s.modNode k f) = kept u s := kept_modAt s k _ rfl

theorem kept_modSlot (s : State) (k n : Nat) (f : Slot → Slot) : kept u (s.modAt k fun a => a.modSlot n f) = kept u s :=
  kept_modAt s k _ rfl

theorem kept_raise (s : State) (f : FRec) : kept u (s.raise f) = kept u s := rfl

theorem kept_setReq (s : State) (id : Nat) (r : Req) : kept u (s.setReq id r) = kept u s := rfl

theorem kept_queueBehind (id : Nat) (r : Req) (s : State) : kept u (queueBehind id r s) = kept u s := rfl

theorem kept_holdSlot (k n : Nat) (hd : SlotHold) (f : FRec) (s : State) : kept u (holdSlot k n hd f s).act = kept u s :=
  kept_modSlot s k n _

theorem kept_noteUe (d : Nat) (s : State) : kept u (noteUe d s) = kept u s := by
  have hd : (fun e => { (noteUe d s).die e with ue := 0 }) = fun e => { s.die e with ue := 0 } := by
    funext e
    by_cases he : e = d
    · subst he
      simp [noteUe, State.die, State.modDie]
    · simp [noteUe, State.die, State.modDie, getD_upd_ne _ he]
  simp only [kept, restKept, hd]
  rfl

theorem kept_giveCore (s : State) (c : Nat) (t : Take) : kept u (s.giveCore c t) = kept u s := by
  have hc : (fun e => { (s.giveCore c t).core e with takeq := [] }) = fun e => { s.core e with takeq := [] } := by
    funext e
    by_cases he : e = c
    · subst he
      simp [State.giveCore, State.core]
    · simp [State.giveCore, State.core, getD_upd_ne _ he]
  simp only [kept, restKept, hc]
  rfl

theorem kept_post (s : State) (k : Nat) (ps : List Post) : kept u (s.post k ps) = kept u s := by
  unfold State.post
  split <;> rfl

theorem kept_modRes (s : State) (h : Nat) (f : Res → Res) : kept u (s.modRes h f) = kept u s := by
  unfold State.modRes
  split <;> rfl

theorem kept_deliver (s : State) (d : Dest) (m : Msg) : kept u (s.deliver d m) = kept u s := by
  cases d <;> rfl

/-! ### Sending and consuming (R173, R175) -/

theorem tileKept_takeToken (a : AT) (n : Nat) (q : Pos) (t : Token) : tileKept u (a.takeToken n q t) = tileKept u a := by
  unfold AT.takeToken
  split <;> rfl

theorem kept_sendOne {s s' : State} {k : Nat} {tgt : Target} {tok : Token} {ps : List Post}
    (h : sendOne s k tgt tok = some (s', ps)) : kept u s' = kept u s := by
  cases tgt with
  | none =>
    cases h
    rfl
  | pos q n =>
    simp only [sendOne] at h
    split at h
    · cases h
      exact kept_setAt s k _ (tileKept_takeToken ..)
    · cases h
  | chan c =>
    have hpush : kept u (s.setAt k ((s.at k).pushChan c.toNat tok)) = kept u s := kept_setAt s k _ rfl
    simp only [sendOne] at h
    repeat' split at h
    all_goals cases h
    · exact kept_setAt s k _ rfl
    · exact kept_setAt s _ _ (tileKept_takeToken ..)
    · exact kept_setAt s _ _ (tileKept_takeToken ..)
    · exact hpush
    · exact hpush
    · exact kept_modRes s _ _
    · exact kept_modRes s _ _

theorem kept_sendAll {k : Nat} {sport : BitVec 12} {seq : BitVec 16} {gen : List (List Nat)} {outs : List Out} {s s' : State}
    {ps : List Post} (h : sendAll s k sport seq outs gen = some (s', ps)) : kept u s' = kept u s := by
  induction outs generalizing s ps with
  | nil =>
    cases h
    rfl
  | cons o os ih =>
    unfold sendAll at h
    split at h
    · cases h
    · rename_i s1 ps1 h1
      split at h
      · cases h
      · rename_i s2 ps2 h2
        cases h
        exact (ih h2).trans (kept_sendOne h1)

theorem tileKept_consume (a : AT) (n : Nat) (t : Time) (eat : List Pos) : tileKept u (consume a n t eat).1 = tileKept u a := by
  induction eat generalizing a with
  | nil => rfl
  | cons q qs ih => exact ih _

theorem tileKept_markFired (a : AT) (p : Pipe) (n : Nat) : tileKept u (a.markFired p n) = tileKept u a := by
  cases p <;> rfl

end Updates

/-! ### Firings -/

/-- The state that a meaning leaves before its tokens are sent. -/
def stateOf (r : FireRes) (s : State) : State := match r with
  | .idle => s
  | .fired _ _ _ t => t
  | .hold _ _ t => t

/-- A meaning's answer at `s` writes nothing of what is kept. -/
def Keeps (u : Bool) (s : State) (r : FireRes) : Prop := kept u (stateOf r s) = kept u s

/-- A meaning that writes nothing of what is kept, whatever it stands on. -/
def Clean (u : Bool) (body : Ctx → State → FireRes) : Prop := ∀ c s, Keeps u s (body c s)

/-- Executing `i` leaves what is kept as it is. -/
def Quiet (u : Bool) (i : Instr) : Prop := ∀ s t, exec i s = .next t → kept u t = kept u s

section Firings

variable {u : Bool} {i : Instr} {mark body : Ctx → State → FireRes}

theorem keeps_idle {s : State} : Keeps u s .idle := rfl

theorem keeps_fired {s t : State} {eat : List Pos} {outs : List Out} {posts : List Post} (h : kept u t = kept u s) :
    Keeps u s (.fired eat outs posts t) := h

theorem keeps_send {s t : State} {c : Ctx} {outs : List Out} (h : kept u t = kept u s) : Keeps u s (c.send outs t) := h

theorem keeps_hold {s t : State} {hd : SlotHold} {f : FRec} (h : kept u t = kept u s) : Keeps u s (.hold hd f t) := h

theorem keeps_holdWith {s : State} {c : Ctx} {cls : FClass} {fflg : Nat} {addr : W64} {gen : List Nat} {skip : List Out} :
    Keeps u s (c.holdWith i cls fflg addr gen skip s) := rfl

theorem keeps_holdSubst {s : State} {c : Ctx} {cls : FClass} {buf addr : Nat} : Keeps u s (c.holdSubst i cls buf addr s) := rfl

theorem keeps_holdWord {s : State} {c : Ctx} {buf addr byte : Nat} : Keeps u s (c.holdWord i buf addr byte s) :=
  kept_noteUe (keyDie c.key) s

theorem Keeps.ite {s : State} {p : Prop} [Decidable p] {a b : FireRes} (ha : Keeps u s a) (hb : Keeps u s b) :
    Keeps u s (if p then a else b) := by
  split
  · exact ha
  · exact hb

theorem Keeps.kept_of_fired {s t : State} {r : FireRes} {eat : List Pos} {outs : List Out} {posts : List Post} (hr : Keeps u s r)
    (h : r = .fired eat outs posts t) : kept u t = kept u s := by
  subst h
  exact hr

theorem kept_finish (c : Ctx) (r : FireRes) (s : State) (h : Keeps u s r) :
    kept u (finish i c r s) = kept u s := by
  cases r with
  | idle => rfl
  | hold hd f t => exact (kept_holdSlot ..).trans h
  | fired eat outs posts t =>
    unfold finish
    split
    · rename_i heq
      cases heq
    · rename_i heq
      cases heq
    · rename_i heq
      cases heq
      split
      · rfl
      · rename_i s1 ps hsend
        refine (kept_post ..).trans ((kept_setAt s1 c.key _ ?_).trans ((kept_sendAll hsend).trans h))
        exact (tileKept_markFired ..).trans (tileKept_consume ..)

theorem kept_fireOwn (hb : Clean u body) {s t : State} (h : fireOwn i body s = .next t) : kept u t = kept u s := by
  unfold fireOwn at h
  split at h
  · cases h
    rfl
  · rename_i c _
    split at h
    · cases h
      refine (kept_holdSlot ..).trans ?_
      split
      · exact kept_noteUe ..
      · rfl
    · cases h
      exact kept_finish c _ s (hb c s)

theorem kept_countLost (c : Ctx) (s : State) : kept u (c.countLost s) = kept u s := kept_modAt s c.key _ rfl

theorem clean_markerRule (mt : Ctx → Time) : Clean u fun c s => markerRule i (mt c) c s := kept_countLost

theorem quiet_own (hx : ∀ s, exec i s = fireOwn i body s) (hb : Clean u body) : Quiet u i :=
  fun s _ h => kept_fireOwn hb ((hx s).symm.trans h)

theorem quiet_with (hx : ∀ s, exec i s = fireWith i mark body s) (hm : Clean u mark) (hb : Clean u body) : Quiet u i :=
  quiet_own hx fun c s => (hm c s).ite (hb c s)

theorem quiet_fire (hx : ∀ s, exec i s = fire i body s) (hb : Clean u body) : Quiet u i :=
  quiet_with hx (clean_markerRule fun c => c.time) hb

theorem quiet_node (hx : ∀ s, exec i s = fireNode i mark body s) (hm : Clean u mark) (hb : Clean u body) : Quiet u i :=
  quiet_with hx (fun c s => (hm c s).ite (clean_markerRule (fun c => c.time) c s)) hb

/-! ### Requests (R109, R147) -/

theorem kept_countIssue (n : Nat) (q : Req) (s : State) : kept u (countIssue n q s) = kept u s := by
  unfold countIssue
  split
  · exact kept_modAt s _ _ rfl
  · rfl

theorem kept_holdElt (id n : Nat) (cls : FClass) (fflg : Nat) (holder : Nat × Nat × Nat) (gen : Option (List Nat)) (s : State) :
    kept u (holdElt id n cls fflg holder gen s) = kept u s := by
  unfold holdElt
  split
  · rfl
  · split
    · rfl
    · exact (kept_raise ..).trans ((kept_queueBehind ..).trans (kept_setReq ..))

theorem kept_issueElts (id : Nat) (ns : List Nat) (s : State) : kept u (issueElts id ns s) = kept u s := by
  induction ns generalizing s with
  | nil => rfl
  | cons n ns ih =>
    unfold issueElts
    split
    · rfl
    · split
      · split
        · exact ih s
        · split
          · exact (ih _).trans (kept_holdElt ..)
          · refine (ih _).trans ?_
            show kept u (ite _ _ _) = _
            split
            · exact kept_countIssue ..
            · rfl
      · exact ih s

theorem kept_newReq (s : State) (r : Req) : kept u (s.newReq r).2 = kept u s := kept_issueElts ..

theorem keeps_request (h : Hd) (op : ROp) (size : Nat) (elts : List Elt) (c : Ctx) {s s0 : State} (hs : kept u s0 = kept u s) :
    Keeps u s (c.request i h op size elts s0) :=
  Keeps.ite keeps_idle (keeps_fired ((kept_newReq ..).trans hs))

theorem quiet_stream {h : Hd} (hx : ∀ s, exec i s = fireStream i h body s) (hb : Clean u body) : Quiet u i :=
  quiet_with hx (fun c s => Keeps.ite (keeps_request h _ 8 [] c (kept_countLost c s)) (clean_markerRule (fun c => c.time) c s)) hb

end Firings

/-! ### Meanings that answer in several ways and write nothing -/

section Branching

variable {u : Bool}

theorem quiet_add (h : Hd) (imm : BitVec 30) : Quiet u (.add h imm) :=
  quiet_fire (fun s => (rfl : execAdd h imm s = _)) fun _ _ => Keeps.ite (keeps_send rfl) (keeps_send rfl)

theorem quiet_rsum (h : Hd) (imm : BitVec 30) : Quiet u (.rsum h imm) :=
  quiet_fire (fun s => (rfl : execRsum h imm s = _)) fun _ _ => Keeps.ite (keeps_send rfl) (keeps_send rfl)

theorem quiet_bmod (h : Hd) (x : VidX) : Quiet u (.bmod h x) :=
  quiet_fire (fun s => (rfl : execBmod h x s = _)) fun _ _ => Keeps.ite keeps_holdWith (keeps_send rfl)

theorem quiet_sbw (h : Hd) (x : EngX) : Quiet u (.sbw h x) :=
  quiet_fire (fun s => (rfl : execSbw h x s = _)) fun _ _ => Keeps.ite keeps_idle (keeps_send rfl)

theorem quiet_merge (h : Hd) : Quiet u (.merge h) := by
  refine quiet_own (fun s => (rfl : execMerge h s = _)) fun c s => ?_
  have take {p : Prop} [Decidable p] (q : Pos) (k : Token) : Keeps u s (if p then .idle else .fired [q] (both h k.to) [] s) :=
    Keeps.ite keeps_idle (keeps_fired rfl)
  dsimp only
  split
  · exact Keeps.ite (take _ _) (Keeps.ite (take _ _) (keeps_fired rfl))
  · exact Keeps.ite keeps_idle (take _ _)
  · exact Keeps.ite keeps_idle (take _ _)
  · exact keeps_idle

theorem keeps_sendAtTime (h : Hd) (c : Ctx) (t : Time) (s : State) : Keeps u s (sendAtTime h c t s) :=
  Keeps.ite (keeps_send rfl) (keeps_send rfl)

theorem quiet_enter (h : Hd) : Quiet u (.enter h) :=
  quiet_own (fun s => (rfl : execEnter h s = _)) fun c s => keeps_sendAtTime h c c.time s

theorem quiet_leave (h : Hd) : Quiet u (.leave h) :=
  quiet_own (fun s => (rfl : execLeave h s = _)) fun c s => keeps_sendAtTime h c _ s

theorem quiet_step (h : Hd) (imm : BitVec 30) : Quiet u (.step h imm) :=
  quiet_own (fun s => (rfl : execStep h imm s = _)) fun _ _ => Keeps.ite keeps_holdWith (keeps_sendAtTime ..)

theorem quiet_epoch (h : Hd) (imm : BitVec 30) : Quiet u (.epoch h imm) :=
  quiet_own (fun s => (rfl : execEpoch h imm s = _)) fun _ _ => Keeps.ite keeps_holdWith (keeps_sendAtTime ..)

end Branching

/-! ### Generators, capabilities and the end of a tile (R187 to R192) -/

section Control

variable {u : Bool}

theorem quiet_cnt (h : Hd) : Quiet u (.cnt h) :=
  quiet_own (fun s => (rfl : execCnt h s = _)) fun c s =>
    Keeps.ite (clean_markerRule (fun c => c.time) c s) (Keeps.ite (keeps_send rfl) (keeps_fired (kept_modSlot ..)))

theorem quiet_repeat (h : Hd) : Quiet u (.repeat h) := by
  refine quiet_own (fun s => (rfl : execRepeat h s = _)) fun c s => ?_
  dsimp only
  split
  · exact keeps_idle
  · refine Keeps.ite (keeps_fired rfl) (Keeps.ite (keeps_fired rfl) ?_)
    split
    · exact keeps_idle
    · exact keeps_fired (kept_modSlot ..)

theorem tileKept_endCfg (a : AT) : tileKept u a.endCfg.1 = tileKept u a := by
  unfold AT.endCfg
  split
  · split <;> rfl
  · rfl

theorem quiet_exit (h : Hd) (x : SysX) : Quiet u (.exit h x) :=
  quiet_fire (fun s => (rfl : execExit h x s = _)) fun c s => keeps_fired
    (kept_setAt (dropTileWaiters c.key s) c.key _ ((tileKept_endCfg _).trans (tileKept_consume (s.at c.key) c.slot c.time [.l])))

theorem quiet_hold (h : Hd) (x : PrbX) : Quiet u (.hold h x) :=
  quiet_fire (fun s => (rfl : execHold h x s = _)) fun c s => Keeps.ite keeps_idle (keeps_fired (kept_modAt s c.key _ rfl))

theorem quiet_release (h : Hd) (x : PrbX) : Quiet u (.release h x) :=
  quiet_fire (fun s => (rfl : execRelease h x s = _)) fun c s =>
    Keeps.ite (keeps_send (kept_modAt s c.key _ rfl)) (keeps_fired (kept_modAt s c.key _ rfl))

theorem quiet_resize (h : Hd) (imm : BitVec 30) : Quiet u (.resize h imm) :=
  quiet_fire (fun s => (rfl : execResize h imm s = _)) fun c s => Keeps.ite keeps_idle (keeps_fired (kept_modAt s c.key _ rfl))

end Control

/-! ### Conversions, walks and partitions: what a slot carries on (R245 to R249) -/

section Slots

variable {u : Bool} {i : Instr} {h : Hd}

/-- A conversion writes its slot's counts alone (R245). -/
theorem quiet_conv {f : Ctx → List Out × List StEvent} (hx : ∀ s, exec i s = fireConv i h f s) : Quiet u i := by
  refine quiet_own hx fun c s => Keeps.ite ?_ (keeps_send ?_)
  · exact Keeps.ite (keeps_fired ((kept_modSlot ..).trans (kept_countLost c s))) (keeps_fired (kept_countLost c s))
  · split
    · exact kept_modSlot ..
    · rfl

theorem quiet_walk {union : Bool} (hx : ∀ s, exec i s = fireMerge i h union s) : Quiet u i := by
  refine quiet_own hx fun c s => Keeps.ite (keeps_fired (kept_modSlot ..)) ?_
  dsimp only
  split
  · exact keeps_hold rfl
  · exact Keeps.ite keeps_idle (keeps_fired (kept_modSlot ..))

theorem quiet_part (imm : BitVec 30) : Quiet u (.part h imm) := by
  refine quiet_own (fun s => (rfl : execPart h imm s = _)) fun c s => ?_
  refine Keeps.ite (keeps_fired (kept_modSlot ..)) (Keeps.ite ?_ (Keeps.ite (keeps_fired (kept_modSlot ..)) ?_))
  · exact Keeps.ite (keeps_fired rfl) (Keeps.ite (keeps_hold rfl) (keeps_fired (kept_modSlot ..)))
  · split
    · exact keeps_hold rfl
    · exact Keeps.ite keeps_idle (keeps_fired ((kept_modSlot ..).trans (kept_modSlot ..)))

end Slots

/-! ### The matrix node (R254 to R267) -/

section Node

variable {u : Bool} {h : Hd} {x : MatX}

theorem kept_clearSubst (c : Ctx) (s : State) : kept u (clearSubst c s) = kept u s := by
  unfold clearSubst
  split
  · exact kept_modSlot ..
  · rfl

theorem quiet_mcfg : Quiet u (.mcfg h x) :=
  quiet_own (fun s => (rfl : execMcfg h x s = _)) fun c s =>
    Keeps.ite keeps_idle (Keeps.ite (clean_markerRule (fun c => c.time) c s)
      (Keeps.ite keeps_holdWith (Keeps.ite (keeps_send rfl) (keeps_fired (kept_modNode ..)))))

theorem clean_loadMarker (i : Instr) : Clean u (loadMarker i) :=
  fun c s => keeps_fired ((kept_modNode ..).trans (kept_countLost c s))

theorem clean_opMarker (i : Instr) : Clean u (opMarker i) :=
  fun c s => keeps_fired ((kept_modNode ..).trans (kept_countLost c s))

theorem clean_rowMarker (i : Instr) : Clean u (rowMarker i) :=
  fun _ _ => Keeps.ite keeps_idle (keeps_fired (kept_modNode ..))

theorem quiet_mldb : Quiet u (.mldb h x) := by
  refine quiet_node (fun s => (rfl : execMldb h x s = _)) (clean_loadMarker _) fun c s => ?_
  refine Keeps.ite keeps_idle (Keeps.ite keeps_idle (Keeps.ite keeps_holdSubst ?_))
  split
  · exact keeps_holdWord
  · exact keeps_fired ((kept_modNode ..).trans (kept_clearSubst c s))

theorem quiet_mswp : Quiet u (.mswp h x) :=
  quiet_fire (fun s => (rfl : execMswp h x s = _)) fun _ _ => Keeps.ite keeps_idle (keeps_send (kept_modNode ..))

theorem keeps_fireRow (c : Ctx) (row : List Byte) (s : State) : Keeps u s (fireRow h x c row s) := by
  have push {p : Prop} [Decidable p] (f : Node → Node) : Keeps u s
      (if p then .idle else .fired [.l] [] (c.stay 1) ((clearSubst c s).modNode c.key f)) :=
    Keeps.ite keeps_idle (keeps_fired ((kept_modNode ..).trans (kept_clearSubst c s)))
  exact Keeps.ite (Keeps.ite (push _) (push _)) (Keeps.ite (push _) (push _))

theorem quiet_mrow : Quiet u (.mrow h x) :=
  quiet_own (fun s => (rfl : execMrow h x s = _)) fun c s =>
    Keeps.ite keeps_idle (Keeps.ite (clean_rowMarker _ c s) (keeps_fireRow ..))

theorem quiet_mrowa : Quiet u (.mrowa h x) := by
  refine quiet_own (fun s => (rfl : execMrowa h x s = _)) fun c s => ?_
  refine Keeps.ite keeps_idle (Keeps.ite (clean_rowMarker _ c s) (Keeps.ite (keeps_fireRow ..) (Keeps.ite keeps_holdSubst
    (Keeps.ite keeps_holdSubst (Keeps.ite keeps_idle ?_)))))
  dsimp only
  split
  · exact keeps_holdWord
  · split
    · rename_i hrow
      exact keeps_fired ((kept_modAt _ _ _ rfl).trans ((keeps_fireRow ..).kept_of_fired hrow))
    · exact keeps_fireRow ..

theorem quiet_mblk : Quiet u (.mblk h x) := by
  refine quiet_own (fun s => (rfl : execMblk h x s = _)) fun c s => ?_
  refine Keeps.ite keeps_idle (Keeps.ite (clean_rowMarker _ c s) ?_)
  dsimp only
  split
  · exact keeps_idle
  · exact keeps_fired (kept_modNode ..)

theorem quiet_msca : Quiet u (.msca h x) :=
  quiet_node (fun s => (rfl : execMsca h x s = _)) (clean_opMarker _) fun _ _ =>
    Keeps.ite keeps_holdWith (Keeps.ite keeps_idle (Keeps.ite keeps_holdWith (keeps_fired (kept_modNode ..))))

theorem quiet_mzero : Quiet u (.mzero h x) :=
  quiet_node (fun s => (rfl : execMzero h x s = _)) (clean_opMarker _) fun _ _ =>
    Keeps.ite keeps_holdWith (Keeps.ite (keeps_send rfl) (keeps_fired (kept_modNode ..)))

theorem quiet_mdrn : Quiet u (.mdrn h x) :=
  quiet_own (fun s => (rfl : execMdrn h x s = _)) fun c s =>
    Keeps.ite keeps_idle (Keeps.ite (clean_markerRule (fun c => c.time) c s) (keeps_send rfl))

end Node

/-! ### Requests (R105 to R113, R155 to R163, R362 to R369) -/

section Requests

variable {u : Bool} {i : Instr} {h : Hd} {x : MemX}

/-- A memory instruction that does nothing but issue its request. -/
theorem quiet_request {op : ROp} {size : Nat} {elts : Ctx → List Elt}
    (hx : ∀ s, exec i s = fireStream i h (fun c s => c.request i h op size (elts c) s) s) : Quiet u i :=
  quiet_stream hx fun c _ => keeps_request h op size _ c rfl

/-- The same where the response buffer must have room (R148). -/
theorem quiet_requestResp {op : ROp} {size : Nat} {elts : Ctx → List Elt}
    (hx : ∀ s, exec i s = fireStream i h (fun c s => if !respFree s c.key then .idle else c.request i h op size (elts c) s) s) :
    Quiet u i :=
  quiet_stream hx fun c _ => Keeps.ite keeps_idle (keeps_request h op size _ c rfl)

theorem quiet_agen : Quiet u (.agen h x) := by
  refine quiet_fire (fun s => (rfl : execAgen h x s = _)) fun c s => ?_
  dsimp only
  split
  · exact keeps_idle
  · refine Keeps.ite keeps_idle ?_
    split
    · exact keeps_holdWord
    · exact keeps_holdWith
    · exact keeps_fired ((kept_modAt _ _ _ rfl).trans (kept_clearSubst c s))

theorem quiet_waita : Quiet u (.waita h x) :=
  quiet_fire (fun s => (rfl : execWaita h x s = _)) fun c _ => Keeps.ite keeps_idle (keeps_request h _ _ _ c rfl)

theorem quiet_arrv : Quiet u (.arrv h x) :=
  quiet_stream (fun s => (rfl : execArrv h x s = _)) fun c _ => Keeps.ite keeps_holdWith (keeps_request h _ _ _ c rfl)

theorem keeps_fence (c : Ctx) (classes : List Nat) (tl : Bool) (s : State) : Keeps u s (c.fence i h classes tl s) := by
  unfold Ctx.fence
  split
  · rename_i hreq
    refine keeps_fired (Eq.trans ?_ ((keeps_request h _ _ _ c rfl).kept_of_fired hreq))
    split <;> rfl
  · exact keeps_request h _ _ _ c rfl

theorem quiet_fence : Quiet u (.fence h x) :=
  quiet_stream (fun s => (rfl : execFence h x s = _)) fun c s => keeps_fence c _ _ s

theorem quiet_xfence : Quiet u (.xfence h x) :=
  quiet_stream (fun s => (rfl : execXfence h x s = _)) fun c s => keeps_fence c _ _ s

theorem quiet_amor : Quiet u (.amor h x) := by
  refine quiet_stream (fun s => (rfl : execAmor h x s = _)) fun c _ => Keeps.ite keeps_idle ?_
  split
  · rename_i hreq
    refine keeps_fired (Eq.trans ?_ ((keeps_request h _ _ _ c rfl).kept_of_fired hreq))
    split <;> rfl
  · exact keeps_request h _ _ _ c rfl

theorem quiet_bin : Quiet u (.bin h x) := by
  refine quiet_stream (fun s => (rfl : execBin h x s = _)) fun c s => ?_
  dsimp only
  split
  · exact keeps_holdWith
  · exact keeps_request h _ _ _ c rfl

theorem quiet_binf : Quiet u (.binf h x) := by
  refine quiet_stream (fun s => (rfl : execBinf h x s = _)) fun c s => ?_
  dsimp only
  split
  · exact keeps_holdWith
  · exact keeps_request h _ _ _ c rfl

end Requests

/-! ### Messages (R114 to R118) -/

section Messages

variable {u : Bool} {i : Instr} {h : Hd} {x : EngX}

theorem keeps_post {c : Ctx} {d : Dest} {f : Msg → Msg} {s s0 : State} (hs : kept u s0 = kept u s) :
    Keeps u s (c.post i h d f s0) :=
  Keeps.ite keeps_idle (keeps_fired ((kept_deliver ..).trans ((kept_modAt _ _ _ rfl).trans hs)))

theorem keeps_postDesc {c : Ctx} {d : Memory → Dest} {f : Msg → Msg} {s : State} : Keeps u s (c.postDesc i h x d f s) := by
  refine Keeps.ite keeps_idle ?_
  split
  · exact keeps_holdWord
  · exact keeps_post ((kept_modAt _ _ _ rfl).trans (kept_clearSubst c s))

theorem quiet_post {d : Ctx → Dest} {f : Ctx → Msg → Msg} (hx : ∀ s, exec i s = fire i (fun c s => c.post i h (d c) (f c) s) s) :
    Quiet u i :=
  quiet_fire hx fun _ _ => keeps_post rfl

theorem quiet_postDesc {d : Ctx → Memory → Dest} {f : Ctx → Msg → Msg}
    (hx : ∀ s, exec i s = fire i (fun c s => c.postDesc i h x (d c) (f c) s) s) : Quiet u i :=
  quiet_fire hx fun _ _ => keeps_postDesc

theorem quiet_sendGen (hx : ∀ s, exec i s = sendGen i h s) : Quiet u i :=
  quiet_fire hx fun _ _ => Keeps.ite keeps_idle (keeps_post rfl)

theorem quiet_cmbr : Quiet u (.cmbr h x) := quiet_own (fun s => (rfl : execCmbr h x s = _)) fun _ _ => keeps_post rfl

end Messages

/-! ### Progress, the Dispatcher and the system instructions (R340 to R342, R389, R390, R411 to R416, R423) -/

section System

variable {u : Bool} {h : Hd} {imm : BitVec 30}

theorem quiet_front (x : PrbX) : Quiet u (.front h x) :=
  quiet_fire (fun s => (rfl : execFront h x s = _)) fun _ _ => keeps_fired rfl

theorem quiet_launch : Quiet u (.launch h imm) :=
  quiet_fire (fun s => (rfl : execLaunch h imm s = _)) fun _ _ => Keeps.ite keeps_idle (keeps_fired rfl)

theorem quiet_join : Quiet u (.join h imm) :=
  quiet_fire (fun s => (rfl : execJoin h imm s = _)) fun _ _ => Keeps.ite keeps_idle (keeps_fired rfl)

theorem quiet_brk (x : SysX) : Quiet u (.brk h x) := by
  refine quiet_fire (fun s => (rfl : execBrk h x s = _)) fun c s => Keeps.ite (keeps_hold ?_) (keeps_send rfl)
  split <;> rfl

theorem quiet_perf (x : SysX) : Quiet u (.perf h x) := by
  refine quiet_fire (fun s => (rfl : execPerf h x s = _)) fun c s => keeps_send ?_
  split
  · exact kept_modAt _ _ _ rfl
  · rfl

theorem quiet_svc (x : SysX) : Quiet u (.svc h x) :=
  quiet_fire (fun s => (rfl : execSvc h x s = _)) fun _ _ => Keeps.ite keeps_idle (Keeps.ite keeps_holdWith
    (keeps_fired (kept_giveCore ..)))

theorem tileKept_crWrite (a : AT) (n : Nat) (v : W64) : tileKept false (crWrite a n v) = tileKept false a := by
  unfold crWrite
  repeat' split
  all_goals rfl

/-- WRCR keeps all but the registers that it names (R415). -/
theorem quiet_wrcr (x : SysX) : Quiet false (.wrcr h x) :=
  quiet_fire (fun s => (rfl : execWrcr h x s = _)) fun _ _ => keeps_send (kept_modAt _ _ _ (tileKept_crWrite ..))

/-- WAITF registers at the tracker, waits, or fires (R341). -/
theorem quiet_waitf (x : PrbX) : Quiet u (.waitf h x) := by
  intro s t ht
  change execWaitf h x s = .next t at ht
  unfold execWaitf at ht
  dsimp only at ht
  split at ht
  · cases ht
    rfl
  · rename_i c _
    split at ht
    · split at ht
      · cases ht
        rfl
      · cases ht
        exact kept_modSlot s c.key c.slot _
    · split at ht
      · cases ht
        rfl
      · split at ht
        · cases ht
          rfl
        · split at ht
          · cases ht
            rfl
          · refine kept_fireOwn (fun c s => keeps_send ?_) ht
            split
            · exact kept_modSlot ..
            · rfl

end System

/-! ### Every fabric instruction -/

/-- Every fabric instruction leaves what is kept as it is, the registers of WRCR too unless it is WRCR. -/
theorem quiet_of_fabric {u : Bool} (i : Instr) (hi : (encodeWord i).isSome = true) (hu : u = true → ∀ h x, i ≠ .wrcr h x) :
    Quiet u i := by
  cases i
  case nop | mov | const | consth | fan | sink | route | select | gate | timeof | sub | mul | mulh | mad | div | rem | neg | abs |
      min | max | adds | subs | and | or | xor | andn | shl | shr | rotl | clz | popc | bfx | bfi | cmp | hash | fadd | fsub | fmul |
      ffma | fmin | fmax | fcmp | fabs | fneg | frcp | frsq | fsqrt | fexp2 | flog2 | fsin | fcos | ftanh | ferf | fscale | frnd |
      fclass | rmax | rmin | scan | perm | bcast | slice | cat | split | compr | expd | argmax | topk | maxrs | cgex | cflp | ctrn |
      blkw | drift | trap | rdcr =>
    exact quiet_fire (fun _ => rfl) fun _ _ => rfl
  case eos | iseos => exact quiet_own (fun _ => rfl) fun _ _ => rfl
  case cvt h imm => exact quiet_conv fun s => (rfl : execCvt h imm s = _)
  case cvts h imm => exact quiet_conv fun s => (rfl : execCvts h imm s = _)
  case qnt h imm => exact quiet_conv fun s => (rfl : execQnt h imm s = _)
  case dqnt h imm => exact quiet_conv fun s => (rfl : execDqnt h imm s = _)
  case pack h imm => exact quiet_conv fun s => (rfl : execPack h imm s = _)
  case unpk h imm => exact quiet_conv fun s => (rfl : execUnpk h imm s = _)
  case isect | union => exact quiet_walk fun _ => rfl
  case ldt | stt | sts | scat | stv | stvs | pfv | amo | red => exact quiet_request fun _ => rfl
  case lds | gath | ldv | ldvs => exact quiet_requestResp fun _ => rfl
  case cpyf | cpyc | cmba | cmbi | synq => exact quiet_post fun _ => rfl
  case send | cpy | cpys | snap | cmbc | syno => exact quiet_postDesc fun _ => rfl
  case cdmc | cdip => exact quiet_sendGen fun _ => rfl
  case exit h x => exact quiet_exit h x
  case merge h => exact quiet_merge h
  case enter h => exact quiet_enter h
  case step h imm => exact quiet_step h imm
  case leave h => exact quiet_leave h
  case epoch h imm => exact quiet_epoch h imm
  case cnt h => exact quiet_cnt h
  case hold h x => exact quiet_hold h x
  case release h x => exact quiet_release h x
  case resize h imm => exact quiet_resize h imm
  case add h imm => exact quiet_add h imm
  case rsum h imm => exact quiet_rsum h imm
  case mcfg => exact quiet_mcfg
  case mldb => exact quiet_mldb
  case mswp => exact quiet_mswp
  case mrow => exact quiet_mrow
  case mrowa => exact quiet_mrowa
  case mblk => exact quiet_mblk
  case msca => exact quiet_msca
  case mzero => exact quiet_mzero
  case mdrn => exact quiet_mdrn
  case agen => exact quiet_agen
  case waita => exact quiet_waita
  case arrv => exact quiet_arrv
  case fence => exact quiet_fence
  case xfence => exact quiet_xfence
  case amor => exact quiet_amor
  case bin => exact quiet_bin
  case binf => exact quiet_binf
  case sbw h x => exact quiet_sbw h x
  case cmbr => exact quiet_cmbr
  case bmod h x => exact quiet_bmod h x
  case waitf h x => exact quiet_waitf x
  case front h x => exact quiet_front x
  case launch => exact quiet_launch
  case join => exact quiet_join
  case part h imm => exact quiet_part imm
  case brk h x => exact quiet_brk x
  case wrcr h x =>
    cases u with
    | false => exact quiet_wrcr x
    | true => exact absurd rfl (hu rfl h x)
  case perf h x => exact quiet_perf x
  case svc h x => exact quiet_svc x
  -- REPEAT, whose constructor's name is a keyword, is the first case left; the rows behind it have no fabric word.
  next h => exact quiet_repeat h
  all_goals cases hi

/-- Settles O51: what is kept is one value, which no fabric instruction changes; WRCR changes it in the registers that it names. -/
theorem fabricFrame : Obligations.FabricFrame := by
  intro i s t hi ht
  have hkept : kept false t = kept false s := quiet_of_fabric i hi (fun h => absurd h Bool.false_ne_true) s t ht
  obtain ⟨hrest, htiles⟩ := Prod.mk.inj hkept
  refine ⟨untouched_of_kept hrest, fun k => tileUntouched_of_kept (congrFun htiles k), fun hw k => ?_⟩
  have huser : kept true t = kept true s := quiet_of_fabric i hi (fun _ => hw) s t ht
  exact userRegs_of_kept (congrFun (Prod.mk.inj huser).2 k)

end Sys2Proof.Proofs.Frame
end

section
/-! PROOFS. The commands of a service core to the Dispatcher (R68, R421, R422): one lemma for each way in which a command's step can
go. -/

namespace Sys2Proof.Proofs.DispatcherCommands

open Sys2Proof Sys2Proof.Machine

variable {s : State} {core : Nat} {q : Cmd}

/-! ### Launches (R68, R421) -/

theorem cmdCreateTask_refused (hq : nextCmd s core 0x40 = some q) (hl : cmdLaunch core q = none) :
    exec (.cmdCreateTask core) s = .next (finishCmd core q.id 2 0 s).act := by
  show execCmdCreateTask core s = _
  simp only [execCmdCreateTask, hq, hl]

theorem cmdCreateTask_launches {l : LaunchReq} (hq : nextCmd s core 0x40 = some q) (hl : cmdLaunch core q = some l) :
    exec (.cmdCreateTask core) s =
      .next ((sentOn core q.id 0 s).modDsp fun d => { d with launchq := d.launchq ++ [l] }).act := by
  show execCmdCreateTask core s = _
  simp only [execCmdCreateTask, hq, hl]

/-- With no command at the port the step serves the next entry that a loaded file asks for (log 27). -/
theorem cmdCreateTask_serves (hq : nextCmd s core 0x40 = none) : exec (.cmdCreateTask core) s = .next (serveAsk s) := by
  show execCmdCreateTask core s = _
  simp only [execCmdCreateTask, hq]

/-- A launch entry of a file joins the Dispatcher's queue, and its file is busy until the record is made. -/
theorem serveAsk_launch {a i tmpl : Nat} {f : SkFile} {l : LaunchEntry} (ha : nextAsk s = some (a, f, i, tmpl, l)) (hl : l.kind = 1) :
    serveAsk s = ((s.modFile a fun f' => { f' with asks := f.asks.drop 1, busy := true }).modDsp fun d =>
      { d with launchq := d.launchq ++ [askLaunch a f i tmpl l] }).act := by
  simp only [serveAsk, ha, hl, if_true]

/-! ### Joins (R390, R421) -/

/-- A JOIN takes its argument word and no body words (log 30). -/
theorem cmdJoin_eq (set : Bool) : cmdJoin core set q s = if q.body = []
    then (sentOn core q.id 0 s).modDsp fun d =>
      { d with joinq := d.joinq ++ [⟨.cmd core q.id, q.asid, set, q.arg.toNat % 2 ^ 32, bits q.arg.toNat 32 32⟩] }
    else finishCmd core q.id 2 0 s := by
  simp only [cmdJoin, List.isEmpty_iff]

theorem cmdJoinInit_joins (hq : nextCmd s core 0x41 = some q) : exec (.cmdJoinInit core) s = .next (cmdJoin core true q s).act := by
  show execCmdJoinInit core s = _
  simp only [execCmdJoinInit, hq]

theorem cmdJoinDec_joins (hq : nextCmd s core 0x42 = some q) : exec (.cmdJoinDec core) s = .next (cmdJoin core false q s).act := by
  show execCmdJoinDec core s = _
  simp only [execCmdJoinDec, hq]

/-! ### Templates (R378, R421) -/

theorem cmdRegisterTemplate_refused (hq : nextCmd s core 0x43 = some q) (hd : cmdTemplate s q = none) :
    exec (.cmdRegisterTemplate core) s = .next (finishCmd core q.id 2 0 s).act := by
  show execCmdRegisterTemplate core s = _
  simp only [execCmdRegisterTemplate, hq, hd]

/-- A residency becomes the lowest free template; an ASID without a weight takes the residency's. -/
theorem cmdRegisterTemplate_registers {d : Desc} {i : Nat} (hq : nextCmd s core 0x43 = some q) (hd : cmdTemplate s q = some d)
    (hi : (upto 4096).find? (fun i => (get? i s.templates).isNone) = some i) :
    exec (.cmdRegisterTemplate core) s = .next (applied core q.id (BitVec.ofNat 64 i) { s with
      templates := put i ⟨q.asid, d⟩ s.templates
      files := (s.modFile d.file fun f => { f with tmpls := put (bits q.arg.toNat 58 6) i f.tmpls }).files
      dsp := if getD 0 q.asid s.dsp.weights = 0 then { s.dsp with weights := put q.asid d.wgt s.dsp.weights } else s.dsp }).act := by
  show execCmdRegisterTemplate core s = _
  simp only [execCmdRegisterTemplate, hq, hd, hi]
  by_cases hw : getD 0 q.asid s.dsp.weights = 0
  · simp only [hw, if_true]
    rfl
  · simp only [hw, if_false]
    rfl

theorem cmdDropTemplate_refused (hq : nextCmd s core 0x44 = some q) (ht : get? q.arg.toNat s.templates = none) :
    exec (.cmdDropTemplate core) s = .next (finishCmd core q.id 2 0 s).act := by
  show execCmdDropTemplate core s = _
  simp only [execCmdDropTemplate, hq, ht]

/-- A template of the command's ASID waits for its last record to go, and is dropped then. -/
theorem cmdDropTemplate_drops {e : Template} (hq : nextCmd s core 0x44 = some q) (ht : get? q.arg.toNat s.templates = some e)
    (ha : e.asid = q.asid) (hb : q.body = []) :
    exec (.cmdDropTemplate core) s = .next (if s.tasks.any (fun t => t.2.state != .free && t.2.tmpl == q.arg.toNat) then s
      else (applied core q.id 0 { s with templates := del q.arg.toNat s.templates }).act) := by
  have hok : (decide (e.asid ≠ q.asid) || !q.body.isEmpty) = false := by simp [ha, hb]
  show execCmdDropTemplate core s = _
  simp only [execCmdDropTemplate, hq, ht, hok, Bool.false_eq_true, if_false]
  exact (apply_ite _ _ _ _).symm

/-! ### Weights and completions (R421, R422) -/

/-- A weight is 1 to 255, given as the argument word. -/
theorem cmdSetWeight_sets (hq : nextCmd s core 0x45 = some q) :
    exec (.cmdSetWeight core) s = .next (if 1 ≤ q.arg.toNat ∧ q.arg.toNat ≤ 255 ∧ q.body = []
      then applied core q.id 0 (s.modDsp fun d => { d with weights := put q.asid q.arg.toNat d.weights })
      else finishCmd core q.id 2 0 s).act := by
  have hbad : (decide (q.arg.toNat = 0) || decide (q.arg.toNat > 255) || !q.body.isEmpty) = true ↔
      ¬(1 ≤ q.arg.toNat ∧ q.arg.toNat ≤ 255 ∧ q.body = []) := by
    cases q.body with
    | nil => simp; omega
    | cons w ws => simp
  show execCmdSetWeight core s = _
  simp only [execCmdSetWeight, hq, hbad]
  split_ifs <;> rfl

/-- The oldest completion of a core returns with the value that its command carries. -/
theorem commandCompletion_returns {id : Nat} {aborted : Bool}
    (he : s.cmdDone.find? (fun e => e.1 == core) = some (core, id, aborted)) :
    exec (.commandCompletion core) s = .next (finishCmd core id (if aborted then 1 else 0)
      ((((s.core core).pending.find? fun q => q.id == id).map (·.arg)).getD 0)
      { s with cmdDone := removeFirst (fun x => x == (core, id, aborted)) s.cmdDone }).act := by
  show execCommandCompletion core s = _
  simp only [execCommandCompletion, he]

/-- Settles O25: each command's step is one of the ways above. -/
theorem dispatcherCommands : Obligations.DispatcherCommands := by
  intro s core q
  refine ⟨cmdCreateTask_refused, fun l => cmdCreateTask_launches, ?launchEntry, ?joinInit, ?joinDec, cmdRegisterTemplate_refused,
    fun d i => cmdRegisterTemplate_registers, fun e => cmdDropTemplate_drops, cmdDropTemplate_refused, cmdSetWeight_sets,
    fun id aborted => commandCompletion_returns⟩
  case launchEntry =>
    intro a f i tmpl l hq ha hl
    rw [cmdCreateTask_serves hq, serveAsk_launch ha hl]
  case joinInit =>
    intro hq
    rw [cmdJoinInit_joins hq, cmdJoin_eq]
  case joinDec =>
    intro hq
    rw [cmdJoinDec_joins hq, cmdJoin_eq]

end Sys2Proof.Proofs.DispatcherCommands
end

section
/-! PROOFS. Freeze requests, scan-out, activation and restore (R387, R398 to R404): one lemma for each way in which a step can go. -/

namespace Sys2Proof.Proofs.FreezeAndActivation

open Sys2Proof Sys2Proof.Machine

variable {s s' : State} {h cause : Nat} {d : Desc} {r : Res}

/-! ### The freeze (R398, R403) -/

/-- An accepted request stops the region's tiles, or abandons the load in progress. -/
theorem freezeRequest_accepted (hc : s.dsp.frzq.contains (h, cause) = true) (ha : freezeAccepted (s.task h) cause = true) :
    let s1 := (s.modDsp fun d => { d with frzq := removeFirst (fun e => e == (h, cause)) d.frzq }).modTask h fun t =>
      { t with freezing := some cause }
    exec (.freezeRequest h cause) s = .next (if (s.task h).state == .loading then dropLoads h s1
      else s1.modRes h fun r => { r with running := false }).act := by
  show execFreezeRequest h cause s = _
  unfold execFreezeRequest
  rw [hc]
  exact if_pos ha

/-- A request that is not accepted ends; where no other freeze of the record is under way, pre-emptions that wait for it end too. -/
theorem freezeRequest_ignored (hc : s.dsp.frzq.contains (h, cause) = true) (ha : freezeAccepted (s.task h) cause = false) :
    let s0 := s.modDsp fun d => { d with frzq := removeFirst (fun e => e == (h, cause)) d.frzq }
    exec (.freezeRequest h cause) s = .next (if (s.task h).freezing.isSome then s0.act
      else (s0.modDsp fun d => { d with preempt := d.preempt.filter fun p => p.1 != h }).act) := by
  intro s0
  have hn : freezeAccepted (s0.task h) cause ≠ true := ne_true_of_eq_false ha
  show execFreezeRequest h cause s = _
  unfold execFreezeRequest
  rw [hc]
  exact (if_neg hn).trans (apply_ite _ _ _ _).symm

/-! ### Scan-out (R400 to R403) -/

section ScanOut

variable (ht : (s.task h).freezing = some cause)

include ht

/-- A restore that is frozen before it was active keeps the image it had (log 28). -/
theorem scanOut_restore (hs : (s.task h).state = .loading) (hi : (get? h s.images).isSome = true) :
    exec (.scanOut h) s = .next (freezeTask h s).act := by
  show execScanOut h s = _
  simp only [execScanOut, ht, hs, hi, beq_self_eq_true, if_true]

/-- An abandoned load leaves an image that names its load (log 28). -/
theorem scanOut_load (hs : (s.task h).state = .loading) (hi : get? h s.images = none) (hd : taskDesc s h = some d) :
    exec (.scanOut h) s = .next (freezeTask h { (saveLoad h d cause s) with
      images := put h { cause := cause, loading := true, loaded := (s.task h).loaded, die := (s.task h).die, x0 := (s.task h).rx,
                        y0 := (s.task h).ry } s.images }).act := by
  show execScanOut h s = _
  simp only [execScanOut, ht, hs, hi, hd, beq_self_eq_true, if_true, Option.isSome_none, Bool.false_eq_true, if_false]
  rfl

end ScanOut

/-- A settled region written to its save area: its commit buffers, its streams and the FRZ section (R86, R401). -/
def saveRegion (h cause : Nat) (r : Res) (s : State) : State :=
  saveImage h r cause (freezeStreams h ((mtsOf r.desc r.die r.x0 r.y0).foldl (fun s k => saveRemc k s) s))

/-- The image of a region: its tiles as they stand. -/
def regionImage (cause : Nat) (r : Res) (s : State) : Image :=
  { cause := cause, die := r.die, x0 := r.x0, y0 := r.y0
    ats := (atsOf r.desc r.die r.x0 r.y0).foldl (fun m k => put k (s.at k).frozen m) []
    mts := (mtsOf r.desc r.die r.x0 r.y0).foldl (fun m k => put k (s.mt k) m) [] }

/-- What a scan-out leaves before the record freezes: an empty region, the image, the counts at the package root alone. -/
def scannedOut (h cause : Nat) (r : Res) (s : State) : State :=
  let s1 := dropWaiters h (dropCounts h 0 483 (vacate r (saveRegion h cause r s)))
  { s1 with
    images := put h (regionImage cause r (saveRegion h cause r s)) s1.images
    reqs := s1.reqs.map fun e => if e.2.h = h && !e.2.ofSnap then (e.1, { e.2 with elts := e.2.elts.map Elt.frozen }) else e }

/-- A settled region is scanned out; by the drain limit its residency is retired with a report. -/
theorem scanOut_region (ht : (s.task h).freezing = some cause) (hs : (s.task h).state ≠ .loading) (hr : get? h s.res = some r)
    (hq : settled s h r = true) :
    let s2 := scannedOut h cause r s
    exec (.scanOut h) s = .next (claimAfter h (if cause = 2 then retireRes h (s2.raise (undrained s2 h)) else freezeTask h s2)).act := by
  have hl : ((s.task h).state == .loading) = false := by simpa using hs
  show execScanOut h s = _
  simp only [execScanOut, ht, hl, hr, hq, Bool.not_true, Bool.false_eq_true, if_false]
  by_cases hc : cause = 2
  · rw [if_pos hc, if_pos hc]
    rfl
  · rw [if_neg hc, if_neg hc]
    rfl

/-! ### Activation and restore (R387, R404) -/

/-- A record's load is over: every block is loaded, no freeze is under way and its region is quiet. -/
structure LoadComplete (s : State) (h : Nat) (d : Desc) : Prop where
  desc : taskDesc s h = some d
  loading : (s.task h).state = .loading
  unfrozen : (s.task h).freezing = none
  loaded : (s.task h).loaded = d.blocks.length
  quiet : regionReady s h (s.task h) d = true

/-- No condition of R387 keeps the activation of a complete load waiting. -/
theorem LoadComplete.not_waiting (hl : LoadComplete s h d) :
    ((s.task h).state != .loading || (s.task h).freezing.isSome || decide ((s.task h).loaded ≠ d.blocks.length)
      || !regionReady s h (s.task h) d) = false := by
  simp [hl.loading, hl.unfrozen, hl.loaded, hl.quiet]

/-- An image that R86 has restore refuse ends the load with LOADCHK (log 28). -/
theorem activation_refused {im : Image} (hl : LoadComplete s h d) (hi : get? h s.images = some im) (hr : get? h s.res = some r)
    (hs : saveRefused s h d = true) : exec (.activation h) s = .next (failLoad h d { sec := 0x10 } s).act := by
  show execActivation h s = _
  simp only [execActivation, hl.desc, hl.not_waiting, hi, hr, hs, Bool.false_eq_true, if_false, if_true]

theorem activation_restores {im : Image} (hl : LoadComplete s h d) (hi : get? h s.images = some im) (hr : get? h s.res = some r)
    (hs : saveRefused s h d = false) (hs' : restoreRes h r im s = some s') :
    exec (.activation h) s = .next (s'.modTask h fun t => { t with state := .active, image := false }).act := by
  show execActivation h s = _
  simp only [execActivation, hl.desc, hl.not_waiting, hi, hr, hs, hs', Bool.false_eq_true, if_false]

/-- A binding whose pairing fails ends the load (R64). -/
theorem activation_unpaired {e : LoadErr} (hl : LoadComplete s h d) (hi : get? h s.images = none)
    (he : pairErr s (s.task h).asid d = some e) : exec (.activation h) s = .next (failLoad h d e s).act := by
  show execActivation h s = _
  simp only [execActivation, hl.desc, hl.not_waiting, hi, he, Bool.false_eq_true, if_false]

theorem activation_starts (hl : LoadComplete s h d) (hi : get? h s.images = none) (he : pairErr s (s.task h).asid d = none)
    (hs' : startRes h d s = some s') :
    exec (.activation h) s = .next (({ (pairAll h d (s.task h).asid s') with images := del h s'.images } : State).modTask h fun t =>
      { t with state := .active, image := false }).act := by
  show execActivation h s = _
  simp only [execActivation, hl.desc, hl.not_waiting, hi, he, hs', Bool.false_eq_true, if_false]

/-- Settles O41: a freeze is accepted or ignored; a scan-out is of a restore, of a load or of a settled region; a complete load is
refused, restored, unpaired or started. -/
theorem freezeAndActivation : Obligations.FreezeAndActivation := by
  intro s h cause d r s'
  refine ⟨fun hc => ⟨freezeRequest_accepted hc, freezeRequest_ignored hc⟩,
    fun ht => ⟨scanOut_restore ht, scanOut_load ht, scanOut_region ht⟩, fun hd hs hf hn hq => ?_⟩
  have hl : LoadComplete s h d := ⟨hd, hs, hf, hn, hq⟩
  exact ⟨fun im hi hr => ⟨activation_refused hl hi hr, activation_restores hl hi hr⟩,
    fun hi => ⟨fun e => activation_unpaired hl hi, activation_starts hl hi⟩⟩

end Sys2Proof.Proofs.FreezeAndActivation
end

section
/-! PROOFS. File load, the host's windows and mailboxes, attestation, boot and reset (R84, R426 to R428, R436, R439, R440). -/

namespace Sys2Proof.Proofs.HostBootAndReset

open Sys2Proof Sys2Proof.Machine

variable {s : State} {addr asid offset size set core base : Nat} {nonce : List (BitVec 8)} {w : W64} {image : BootImage}

/-! ### Files (R84) -/

theorem skeinFileLoad_registers {ds : List Desc} (h : readFile s addr asid = .ok ds) :
    exec (.skeinFileLoad addr asid) s = .next { s with
      acted := true, broughtUp := true, files := put addr { asid := asid, res := ds, asks := fileAsks ds } s.files } := by
  show execSkeinFileLoad addr asid s = _
  unfold execSkeinFileLoad
  rw [h]
  rfl

theorem skeinFileLoad_reports {e : FileErr} (h : readFile s addr asid = .error e) :
    exec (.skeinFileLoad addr asid) s = .next (({ s with broughtUp := true } : State).raise
      { cls := .loadchk, asid := asid, place := .loader, gen := [e.sec, e.rec'] }).act := by
  show execSkeinFileLoad addr asid s = _
  unfold execSkeinFileLoad
  rw [h]

/-! ### BAR2 (R426) -/

/-- The host gets an answer. -/
def answered (ok : Bool) (bs : List Byte) (s : State) : State := (s.modHost fun h => { h with resp := h.resp ++ [⟨ok, bs⟩] }).act

section Bar2

variable (hn : offset + size ≤ 2 ^ 36)

include hn

theorem bar2Access_gap (data : Option (List (BitVec 8))) (hb : allBacked s (s.host.win2base + offset) size = false) :
    exec (.bar2Access offset size data) s = .next (answered false [] s) := by
  show execBar2Access offset size data s = _
  simp only [execBar2Access, if_neg (Nat.not_lt.2 hn), hb, Bool.not_false, if_true]
  rfl

theorem bar2Access_read (hb : allBacked s (s.host.win2base + offset) size = true) :
    exec (.bar2Access offset size none) s = .next (answered true (readBytes s.mem (s.host.win2base + offset) size) s) := by
  show execBar2Access offset size none s = _
  simp only [execBar2Access, if_neg (Nat.not_lt.2 hn), hb, Bool.not_true, Bool.false_eq_true, if_false]
  rfl

theorem bar2Access_write (bs : List Byte) (hb : allBacked s (s.host.win2base + offset) size = true) :
    exec (.bar2Access offset size (some bs)) s = .next (answered true [] (dropResv (s.host.win2base + offset) size
      { s with mem := writeBytes s.mem (s.host.win2base + offset) (bs.take size) })) := by
  show execBar2Access offset size (some bs) s = _
  simp only [execBar2Access, if_neg (Nat.not_lt.2 hn), hb, Bool.not_true, Bool.false_eq_true, if_false]
  rfl

end Bar2

/-! ### BAR0 (R426) -/

theorem bar0Ok_iff : bar0Ok offset size = true ↔ size = 8 ∧ offset % 8 = 0 := by
  simp only [bar0Ok, Bool.and_eq_true, beq_iff_eq]

theorem bar0Read_misaligned (h : ¬(size = 8 ∧ offset % 8 = 0)) : bar0Read s offset size = 0 := by
  rw [← bar0Ok_iff, Bool.not_eq_true] at h
  simp only [bar0Read, h, Bool.not_false, if_true]

theorem bar0Write_misaligned (h : ¬(size = 8 ∧ offset % 8 = 0)) : bar0Write offset size w s = .next s := by
  rw [← bar0Ok_iff, Bool.not_eq_true] at h
  simp only [bar0Write, h, Bool.not_false, if_true]

theorem bar0Write_mbpoll (h : size = 8 ∧ offset % 8 = 0) (ho : offset = 0x208) : bar0Write offset size w s = setMbpoll w s := by
  subst ho
  simp only [bar0Write, bar0Ok_iff.2 h]
  rfl

theorem bar0Write_resume (h : size = 8 ∧ offset % 8 = 0) (ho : offset = 0x11000) :
    bar0Write offset size w s = execHostResumeWrite w s := by
  subst ho
  simp only [bar0Write, bar0Ok_iff.2 h]
  rfl

/-- The claim window lies above every other register. -/
theorem bar0Write_claim (h : size = 8 ∧ offset % 8 = 0) (hl : 0x20000 ≤ offset) (hu : offset < 0x30000) :
    bar0Write offset size w s = .next (setClaim ((offset - 0x20000) / 8) w s).act := by
  have hbase : ¬(0x100 ≤ offset ∧ offset ≤ 0x138) := by omega
  have hwin : offset ≠ 0x200 := by omega
  have hpoll : offset ≠ 0x208 := by omega
  have hwatch : ¬(0x10000 ≤ offset ∧ offset ≤ 0x107F8) := by omega
  have hresume : offset ≠ 0x11000 := by omega
  have hclaim : 0x20000 ≤ offset ∧ offset < 0x30000 := ⟨hl, hu⟩
  simp only [bar0Write, bar0Ok_iff.2 h, hbase, hwin, hpoll, hwatch, hresume, hclaim, and_self, Bool.not_true, Bool.false_eq_true,
    if_false, if_true]

section Bar0

variable (hn : offset + size ≤ 2 ^ 20)

include hn

theorem bar0_read : exec (.registerWrite (.bar0 offset size false) w) s =
    .next (answered true (leBytes size (bar0Read s offset size).toNat) s) := by
  show bar0Access offset size false w s = _
  simp only [bar0Access, if_neg (Nat.not_lt.2 hn), Bool.false_eq_true, if_false]
  rfl

theorem bar0_write : exec (.registerWrite (.bar0 offset size true) w) s = bar0Write offset size w s := by
  show bar0Access offset size true w s = _
  simp only [bar0Access, if_neg (Nat.not_lt.2 hn), if_true]

end Bar0

/-! ### Mailboxes (R427, R428) -/

/-- A set without a core gets what waits into its device-to-host ring and delivers nothing (log 33). -/
theorem mailboxPoll_unbound (hb : setBase s set = some base) (hc : get? set s.host.mbcore = none) :
    exec (.mailboxPoll set) s = .next (ringRetry base set s) := by
  show execMailboxPoll set s = _
  simp only [execMailboxPoll, hb, hc]

/-- The core of a set gets every entry that is new, at most the 63 that the ring holds (log 33). -/
theorem mailboxPoll_delivers (hb : setBase s set = some base) (hc : get? set s.host.mbcore = some core) :
    let s0 := ringRetry base set s
    let seen := getD (ringCons s0 base 0) set s0.host.mbseen
    let n := min 63 ((ringProd s0 base 0 + 2 ^ 32 - seen) % 2 ^ 32)
    n ≠ 0 → exec (.mailboxPoll set) s = .next ((deliverEntries base set core n seen s0).modHost fun h =>
      { h with mbseen := put set ((seen + n) % 2 ^ 32) h.mbseen }).act := by
  intro s0 seen n hn
  show execMailboxPoll set s = _
  simp only [execMailboxPoll, hb, hc]
  exact if_neg hn

/-- A core that runs settles the version of its set: 1.0 with a host of major 1, else 0xFFFF. -/
theorem mailboxStart_settles (hb : setBase s set = some base) (hc : get? set s.host.mbcore = some core)
    (hs : (s.core core).started = true) :
    let v := if bits (readNat s.host.mem (base + 4) 2) 8 8 = 1 then 0x0100 else 0xFFFF
    exec (.mailboxStart set core) s = .next (s.modHost fun h =>
      { h with mem := writeNat h.mem (base + 6) 2 v, mbver := put set v h.mbver }).act := by
  intro v
  show execMailboxStart set core s = _
  simp only [execMailboxStart, hb, hc, hs, ne_eq, not_true_eq_false, decide_false, Bool.not_true, Bool.or_self, Bool.false_eq_true,
    if_false]
  rfl

/-! ### Attestation and boot (R439, R440) -/

/-- What a report of the running firmware says, before it is signed. -/
def reportBody (s : State) (set : Nat) (nonce : List (BitVec 8)) : Report :=
  { set := set, devid := 0x00019612, podid := s.host.podid, rom := Config.romDigest, fw := s.boot.digest
    tmpls := templateDigests s, secVer := s.boot.secVer, featr := featr s, nonce := nonce, rsa := [], slh := [] }

theorem devid_running (h : s.boot.state = 1) : devid s = 0x00019612 := by
  simp only [devid, h, OfNat.one_ne_ofNat, if_false]

/-- A signed report goes out behind what waits for the ring of an enabled set that is served. -/
theorem attestationRequest_reports (hb : setBase s set = some base) (hs : s.host.silent set = false) (hn : nonce.length = 32)
    (hr : s.boot.state = 1) :
    let r := reportBody s set nonce
    let r := { r with rsa := Config.reportSig 1 r.message, slh := Config.reportSig 2 r.message }
    exec (.attestationRequest set nonce) s = .next (pushRing base set (getD [] set s.host.outq ++ r.entries)
      (s.modHost fun h => { h with reports := h.reports ++ [r] })).act := by
  show execAttestationRequest set nonce s = _
  simp only [execAttestationRequest, hb, hs, hn, hr, devid_running hr, ne_eq, not_true_eq_false, decide_false, Bool.or_self,
    Bool.false_eq_true, if_false]
  rfl

/-- Firmware that verifies starts the service cores. -/
theorem firmwareVerify_starts (hb : s.boot.state = 0) (hg : firmwareOk s image = true) :
    exec (.firmwareVerify image) s = .next ((upto 32).foldl (fun (t : State) c => t.modCore c fun x => { x with started := true })
      { s with boot := { s.boot with state := 1, secVer := image.secVer.toNat, digest := image.digest } }).act := by
  show execFirmwareVerify image s = _
  simp only [execFirmwareVerify, hb, hg, ne_eq, not_true_eq_false, if_false, if_true]

/-- Firmware that does not starts none. -/
theorem firmwareVerify_refuses (hb : s.boot.state = 0) (hg : firmwareOk s image = false) :
    exec (.firmwareVerify image) s = .next ({ s with boot := { s.boot with state := 2 } } : State).act := by
  show execFirmwareVerify image s = _
  simp only [execFirmwareVerify, hb, hg, ne_eq, not_true_eq_false, Bool.false_eq_true, if_false]

theorem devid_refused (h : s.boot.state = 2) : devid s = 0 := by
  simp only [devid, h, if_true]

/-- Settles O43: the accesses, polls and requests of the host are the lemmas above; the boot goes by what `firmwareOk` says; the state
after a reset is the one written out in `execReset`. -/
theorem hostBootAndReset : Obligations.HostBootAndReset := by
  refine ⟨fun s addr asid offset size set core base nonce => ⟨?load, fun hn => ⟨bar2Access_gap hn, bar2Access_read hn, bar2Access_write hn⟩,
    fun w hn => ⟨bar0_read hn, fun h => ⟨bar0Read_misaligned h, (bar0_write hn).trans (bar0Write_misaligned h)⟩,
      fun h ho => (bar0_write hn).trans (bar0Write_mbpoll h ho), fun h ho => (bar0_write hn).trans (bar0Write_resume h ho),
      fun h hl hu => (bar0_write hn).trans (bar0Write_claim h hl hu)⟩,
    mailboxPoll_unbound, fun hb hc => ⟨mailboxPoll_delivers hb hc, mailboxStart_settles hb hc⟩, attestationRequest_reports⟩,
    fun s image => ⟨fun hb => ?boot, rfl⟩⟩
  case load =>
    cases h : readFile s addr asid with
    | ok ds => exact skeinFileLoad_registers h
    | error e => exact skeinFileLoad_reports h
  case boot =>
    cases hg : firmwareOk s image with
    | true => exact ⟨_, firmwareVerify_starts hb hg, fun _ => rfl, fun hf => absurd (hg.symm.trans hf) (by decide)⟩
    | false =>
      exact ⟨_, firmwareVerify_refuses hb hg, fun ht => absurd (hg.symm.trans ht) (by decide), fun _ => ⟨rfl, devid_refused rfl, rfl⟩⟩

end Sys2Proof.Proofs.HostBootAndReset
end

section
/-! PROOFS. The memory instructions issue their requests (R109 to R111, R147, R148, R156 to R160, R363, R365). -/

namespace Sys2Proof.Proofs.MemoryRequestsIssue

open Sys2Proof Sys2Proof.Machine Sys2Proof.Safety Sys2Proof.Laws

variable {i : Instr} {h : Hd} {op : ROp} {size : Nat} {s : State} {c : Ctx}

/-- An instruction whose body is its request issues it. -/
theorem issues_of_request {elts : Ctx → List Elt}
    (hx : exec i s = fireStream i h (fun c s => c.request i h op size (elts c) s) s) (hf : Fires i s c) :
    Issues i s c (requestOf i h c op size (elts c)) :=
  fun hm => completes_fireStream hf hx (request_fired hm)

theorem respFree_of_lt (hr : respCount s c.key < 32) : respFree s c.key = true := decide_eq_true hr

/-- A load, whose request needs an entry of the response buffer, issues it while one is free. -/
theorem issues_of_load {elts : Ctx → List Elt} (hr : respCount s c.key < 32)
    (hx : exec i s = fireStream i h (fun c s => if !respFree s c.key then .idle else c.request i h op size (elts c) s) s)
    (hf : Fires i s c) : Issues i s c (requestOf i h c op size (elts c)) := fun hm => by
  refine completes_fireStream hf hx ?_
  simp only [respFree_of_lt hr, Bool.not_true, Bool.false_eq_true, if_false]
  exact request_fired hm

/-- ARRV issues its request unless it posts an expected count past 30 bits. -/
theorem issues_arrv {x : MemX} (hf : Fires (.arrv h x) s c) (hn : h.md = 0 → natAt c.l.data 4 4 ≤ 2 ^ 30 - 1) :
    Issues (.arrv h x) s c (requestOf (.arrv h x) h c (.arrv (h.md == 1)) 8
      [{ space := .scr, addr := natAt c.l.data 0 4 + x.off.toNat, n := 8, data := leBytes 8 (natAt c.l.data 4 4) }]) := fun hm => by
  refine completes_fireStream hf (rfl : _ = execArrv h x s) ?_
  have hbig : (decide (h.md = 0) && decide (natAt c.l.data 4 4 > 2 ^ 30 - 1)) = false := by
    simp only [Bool.and_eq_false_imp, decide_eq_true_eq, decide_eq_false_iff_not, Nat.not_lt]
    exact hn
  simp only [hbig, Bool.false_eq_true, if_false]
  exact request_fired hm

/-- SCAT's elements: lane i has the offset in its low word and the value above (R159). -/
def scatElts (h : Hd) (x : MemX) (c : Ctx) : List Elt := (upto (laneCount c.l)).map fun i =>
  { lane := i, space := .scr, addr := natAt c.l.data (8 * i) 4 + x.off.toNat, n := h.sh.width,
    data := sliceBytes c.l.data (8 * i + 4) h.sh.width }

/-- Settles O15: each instruction is its request, a load's behind the response buffer's room, ARRV's behind the check of its count. -/
theorem memoryRequestsIssue : Obligations.MemoryRequestsIssue := by
  intro s c h x
  refine ⟨fun v off => ⟨rfl, rfl⟩, ?requests, fun hr => ?loads, issues_arrv⟩
  case requests =>
    simp only [List.forall_mem_cons]
    exact ⟨issues_of_request (elts := fun c => blockElt (.buf c.key (bufOf h)) c x []) rfl,
      issues_of_request (elts := fun c => blockElt (.buf c.key (bufOf h)) c x (storeData c x)) rfl,
      issues_of_request (elts := fun c => blockElt .scr c x (storeData c x)) rfl,
      issues_of_request (elts := fun c => blockElt .virt c x (storeData c x)) rfl,
      issues_of_request (elts := fun c => gatherElts .virt c.l x.off.toNat (sizeBytes x.lsz.toNat) h.sh.width fun i =>
        sliceBytes c.rt.data (i * h.sh.width) h.sh.width) rfl,
      issues_of_request (elts := fun c => [{ space := .virt, addr := effAddr .virt (natAt c.l.data 0 8) x.off.toNat, n := 1 }]) rfl,
      issues_of_request (elts := fun c => blockElt (if 8 ≤ h.md.toNat then .scr else .virt) c x (c.rt.data.take (sizeBytes x.lsz.toNat))) rfl,
      issues_of_request (elts := fun c => blockElt .virt c x (c.rt.data.take (sizeBytes x.lsz.toNat))) rfl,
      issues_of_request (elts := scatElts h x) rfl, List.forall_mem_nil _⟩
  case loads =>
    simp only [List.forall_mem_cons]
    exact ⟨issues_of_load (elts := fun c => blockElt .scr c x []) hr rfl,
      issues_of_load (elts := fun c => gatherElts (if h.md = 1 then .buf c.key 1 else .scr) c.l x.off.toNat (sizeBytes x.lsz.toNat)
        h.sh.width fun _ => []) hr rfl,
      issues_of_load (elts := fun c => blockElt .virt c x []) hr rfl,
      issues_of_load (elts := fun c => gatherElts .virt c.l x.off.toNat (sizeBytes x.lsz.toNat) h.sh.width fun _ => []) hr rfl,
      List.forall_mem_nil _⟩

end Sys2Proof.Proofs.MemoryRequestsIssue
end

section
/-! PROOFS. Page and host invalidations (R102, R104). -/

namespace Sys2Proof.Proofs.Invalidations

open Sys2Proof Sys2Proof.Machine Sys2Proof.Safety Sys2Proof.Laws

variable {s : State} {asid va len id index : Nat} {q : Req} {e : Elt} {r : Res} {v : Revoked}

/-- The completion of an invalidation is given once none of its requests is on its way; a truncation stays in force. -/
theorem invalidateCompletion_gives (hv : s.revoked[index]? = some v) (ho : v.owed = true) (hf : inFlight s v = false) :
    exec (.invalidateCompletion index) s = .next { s with
      acted := true
      revoked := if v.cut then s.revoked.set index { v with owed := false } else s.revoked.eraseIdx index } := by
  show execInvalidateCompletion index s = _
  cases hc : v.cut <;> simp [execInvalidateCompletion, hv, ho, hf, hc, State.act]

/-- With no request outstanding the second invalidation only drops translations. -/
theorem migrationRewalk_idle (hs : s.reqs = []) :
    exec (.migrationRewalk asid va len) s = .next (dropTrans asid va len false s).act := by
  show execMigrationRewalk asid va len s = _
  simp only [execMigrationRewalk, hs, List.foldl_nil]

section Held

variable (hs : s.reqs = [(id, q)]) (hq : q.elts = [e]) (hr : get? q.h s.res = some r) (ha : r.asid = asid)
  (he : e.st = .held .migrating) (hlo : va ≤ e.addr) (hhi : e.addr < va + len)

include hs hq hr ha he hlo hhi

/-- The one request held on the page stays held while its leaf is migrating. -/
theorem migrationRewalk_stays {pa size : Nat} {disc ro : Bool}
    (hw : walkAll (dropTrans asid va len false s) e.addr 5 0 (getD 0 asid s.roots) = .leaf pa size true disc ro) :
    exec (.migrationRewalk asid va len) s = .next (dropTrans asid va len false s).act := by
  show execMigrationRewalk asid va len s = _
  have hres : (dropTrans asid va len false s).res = s.res := rfl
  have hroots : (dropTrans asid va len false s).roots = s.roots := rfl
  simp only [execMigrationRewalk, hs, hq, List.foldl_cons, List.foldl_nil, hres, hr, ha, ne_eq, not_true_eq_false, if_false,
    List.zipIdx_cons, List.zipIdx_nil, he, beq_self_eq_true, hlo, hhi, decide_true, Bool.and_self, if_true, hroots, hw]

/-- Walked again to anything else, it goes on and its record closes. -/
theorem migrationRewalk_goes
    (hw : ∀ pa size disc ro, walkAll (dropTrans asid va len false s) e.addr 5 0 (getD 0 asid s.roots) ≠ .leaf pa size true disc ro) :
    exec (.migrationRewalk asid va len) s =
      .next (closeElt id 0 true ((dropTrans asid va len false s).setReq id (q.setElt 0 { e with st := .new }))).act := by
  show execMigrationRewalk asid va len s = _
  have hres : (dropTrans asid va len false s).res = s.res := rfl
  have hroots : (dropTrans asid va len false s).roots = s.roots := rfl
  have hreqs : get? id (dropTrans asid va len false s).reqs = some q := by
    show get? id s.reqs = some q
    simp only [hs, get?, if_true]
  simp only [execMigrationRewalk, hs, hq, List.foldl_cons, List.foldl_nil, hres, hr, ha, ne_eq, not_true_eq_false, if_false,
    List.zipIdx_cons, List.zipIdx_nil, he, beq_self_eq_true, hlo, hhi, decide_true, Bool.and_self, if_true, hroots, hreqs]

end Held

/-- Settles O36: what an invalidation drops and owes is its definition; then the completion, and the second walk. -/
theorem invalidations : Obligations.Invalidations := by
  intro s asid va len index v
  refine ⟨rfl, rfl, rfl, invalidateCompletion_gives, migrationRewalk_idle, fun id q e r hs hq hr ha he hlo hhi => ?held⟩
  case held =>
    dsimp only
    split
    · exact migrationRewalk_stays hs hq hr ha he hlo hhi ‹_›
    · rename_i hw
      exact migrationRewalk_goes hs hq hr ha he hlo hhi hw

end Sys2Proof.Proofs.Invalidations
end

section
/-! PROOFS. Translation at the ingress PT, step by step (R96 to R101, R103, R104, R109). -/

namespace Sys2Proof.Proofs.TranslationGoesOn

open Sys2Proof Sys2Proof.Machine Sys2Proof.Safety Sys2Proof.Laws

/-- An element with its request and its residency, not behind a hold of its stream. -/
structure Standing (s : State) (id i : Nat) (q : Req) (e : Elt) (r : Res) : Prop where
  req : get? id s.reqs = some q
  elt : q.elts[i]? = some e
  res : get? q.h s.res = some r
  free : behindHeld s id q = false

/-- What the PT at which a request enters has cached. -/
def cachedAt (s : State) (q : Req) : Pt := getD {} (ingressPt (q.org.tile s)) s.pts

/-- The range that it has cached of an element's address. -/
def rangeAt (s : State) (q : Req) (e : Elt) (r : Res) : Option (Nat × Nat × Range) :=
  (cachedAt s q).ranges.find? fun x => x.1 == r.asid && x.2.1 == q.h && x.2.2.covers e.addr

/-- The leaf of a page table that it has cached of it. -/
def leafAt (s : State) (q : Req) (e : Elt) (r : Res) : Option Trans := (cachedAt s q).trans.find? fun t =>
  t.asid == r.asid && t.h == q.h && !t.host && decide (t.va ≤ e.addr) && decide (e.addr < t.va + t.size)

/-- The host's translation that it has cached of it, one that serves the access. -/
def hostAt (s : State) (q : Req) (e : Elt) (r : Res) : Option Trans := (cachedAt s q).trans.find? fun t =>
  t.asid == r.asid && t.h == q.h && t.host && decide (t.va ≤ e.addr) && decide (e.addr < t.va + t.size) && !(t.ro && q.op.writeClass)

variable {s : State} {id i : Nat} {q : Req} {e : Elt} {r : Res} {g : Range}

/-! ### INGRESS_TRANSLATE (R96 to R98) -/

section Ingress

/-- The steps of an access that its range permits, by the range's kind. -/
def byKind (s : State) (id i : Nat) (q : Req) (e : Elt) (r : Res) (g : Range) : Result :=
  let p := ingressPt (q.org.tile s)
  match g.kind with
  | .direct => toHome id i p q e (g.pa + (e.addr - g.va)) 0 s
  | .paged => match leafAt s q e r with
    | some t => useLeaf id i p q e (t.pa + (e.addr - t.va)) t.ro t.disc s
    | none =>
      let root := getD 0 r.asid s.roots
      if rootOk s root then .next (s.setReq id (q.setElt i { e with st := .walk 0 root })).act
      else failElt id i p q .notpresent 1 s
  | .host =>
    if cutOff s r.asid e.addr && !e.again then failElt id i p q .revoked 0 s
    else match hostAt s q e r with
      | some t => toHome id i p q e (t.pa + (e.addr - t.va)) 0 s
      | none => .next (s.setReq id (q.setElt i { e with st := .ats })).act

/-- The checks of R98 in their order. -/
def checks (s : State) (id i : Nat) (q : Req) (e : Elt) (r : Res) : Result :=
  let p := ingressPt (q.org.tile s)
  if e.addr ≥ 2 ^ 56 then failElt id i p q .range 0 s
  else if e.addr % alignOf q e ≠ 0 then failElt id i p q .align 0 s
  else match rangeAt s q e r with
    | none => .next (s.setReq id (q.setElt i { e with st := .fetch })).act
    | some (_, _, g) => if !bit g.perm (permBit q) then failElt id i p q .perm 0 s else byKind s id i q e r g

variable (hs : Standing s id i q e r) (hnew : e.st = .new) (hvirt : e.space = .virt) (hissue : mayIssue s q e = true)
  (hgrant : bcGrant s (ingressPt (q.org.tile s)) q = true)

include hs hnew hvirt hissue hgrant in
/-- An element that its PT grants goes through the checks. -/
theorem ingressTranslate_checks : exec (.ingressTranslate id i) s = checks s id i q e r := by
  show execIngressTranslate id i s = _
  have hgo : ¬(e.st ≠ .new || e.space ≠ .virt || behindHeld s id q || !mayIssue s q e
      || !bcGrant s (ingressPt (q.org.tile s)) q) = true := by
    simp [hs.free, hnew, hvirt, hissue, hgrant]
  simp only [execIngressTranslate, hs.req, hs.elt, hs.res]
  exact if_neg hgo

theorem checks_range (ha : 2 ^ 56 ≤ e.addr) : checks s id i q e r = failElt id i (ingressPt (q.org.tile s)) q .range 0 s := if_pos ha

theorem checks_align (ha : e.addr < 2 ^ 56) (hal : e.addr % alignOf q e ≠ 0) :
    checks s id i q e r = failElt id i (ingressPt (q.org.tile s)) q .align 0 s :=
  (if_neg (Nat.not_le.2 ha)).trans (if_pos hal)

section Sound

variable (ha : e.addr < 2 ^ 56) (hal : e.addr % alignOf q e = 0)

include ha hal

theorem checks_miss (hr : rangeAt s q e r = none) :
    checks s id i q e r = .next (s.setReq id (q.setElt i { e with st := .fetch })).act := by
  simp only [checks, Nat.not_le.2 ha, hal, ne_eq, not_true_eq_false, if_false, hr]

variable {a h : Nat}

theorem checks_perm (hr : rangeAt s q e r = some (a, h, g)) (hp : bit g.perm (permBit q) = false) :
    checks s id i q e r = failElt id i (ingressPt (q.org.tile s)) q .perm 0 s := by
  simp only [checks, Nat.not_le.2 ha, hal, ne_eq, not_true_eq_false, if_false, hr, hp, Bool.not_false, if_true]

theorem checks_hit (hr : rangeAt s q e r = some (a, h, g)) (hp : bit g.perm (permBit q) = true) :
    checks s id i q e r = byKind s id i q e r g := by
  simp only [checks, Nat.not_le.2 ha, hal, ne_eq, not_true_eq_false, if_false, hr, hp, Bool.not_true, Bool.false_eq_true]

end Sound

theorem byKind_direct (hg : g.kind = .direct) :
    byKind s id i q e r g = toHome id i (ingressPt (q.org.tile s)) q e (g.pa + (e.addr - g.va)) 0 s := by
  simp only [byKind, hg]

theorem byKind_leaf {t : Trans} (hg : g.kind = .paged) (ht : leafAt s q e r = some t) : byKind s id i q e r g =
    useLeaf id i (ingressPt (q.org.tile s)) q e (t.pa + (e.addr - t.va)) t.ro t.disc s := by
  simp only [byKind, hg, ht]

theorem byKind_walk (hg : g.kind = .paged) (ht : leafAt s q e r = none) (hroot : rootOk s (getD 0 r.asid s.roots) = true) :
    byKind s id i q e r g = .next (s.setReq id (q.setElt i { e with st := .walk 0 (getD 0 r.asid s.roots) })).act := by
  simp only [byKind, hg, ht, hroot, if_true]

theorem byKind_revoked (hg : g.kind = .host) (hc : cutOff s r.asid e.addr = true) (hn : e.again = false) :
    byKind s id i q e r g = failElt id i (ingressPt (q.org.tile s)) q .revoked 0 s := by
  simp only [byKind, hg, hc, hn, Bool.not_false, Bool.and_self, if_true]

/-- A truncation that stands, or one that the host has lifted for this element, refuses nothing. -/
theorem not_refused (hu : cutOff s r.asid e.addr = false ∨ e.again = true) : (cutOff s r.asid e.addr && !e.again) = false := by
  rcases hu with hu | hu <;> simp only [hu, Bool.false_and, Bool.not_true, Bool.and_false]

theorem byKind_hostHit {t : Trans} (hg : g.kind = .host) (hu : cutOff s r.asid e.addr = false ∨ e.again = true)
    (ht : hostAt s q e r = some t) :
    byKind s id i q e r g = toHome id i (ingressPt (q.org.tile s)) q e (t.pa + (e.addr - t.va)) 0 s := by
  simp only [byKind, hg, not_refused hu, Bool.false_eq_true, if_false, ht]

theorem byKind_ats (hg : g.kind = .host) (hu : cutOff s r.asid e.addr = false ∨ e.again = true) (ht : hostAt s q e r = none) :
    byKind s id i q e r g = .next (s.setReq id (q.setElt i { e with st := .ats })).act := by
  simp only [byKind, hg, not_refused hu, Bool.false_eq_true, if_false, ht]

end Ingress

/-! ### What comes back: a range, a table's entry, the host's completion (R97, R99 to R101) -/

/-- How a walk goes on from a table's entry at a level. -/
def walked (s : State) (id i : Nat) (q : Req) (e : Elt) (r : Res) (level : Nat) (pte : Pte) : Result :=
  let p := ingressPt (q.org.tile s)
  match pte with
  | .bad => failElt id i p q .notpresent 1 s
  | .absent => failElt id i p q .notpresent 0 s
  | .table t => .next (s.setReq id (q.setElt i { e with st := .walk (level + 1) t })).act
  | .leaf pa size mig disc ro =>
    if mig then failElt id i p q .migrating 0 s
    else
      let va := e.addr / size * size
      let s1 := s.setReq id (q.setElt i { e with st := .new })
      useLeaf id i p q { e with st := .new } (pa + (e.addr - va)) ro disc
        (if disc then s1 else s1.modPt p fun x => { x with trans := cacheIn 256 x.trans ⟨r.asid, q.h, va, size, pa, ro, disc, false⟩ })

section Answers

variable (hs : Standing s id i q e r)

include hs

theorem rangeTableFetch_caches (hst : e.st = .fetch) (hg : r.desc.ranges.find? (fun g => g.covers e.addr) = some g) :
    exec (.rangeTableFetch id i) s = .next ((s.setReq id (q.setElt i { e with st := .new })).modPt (ingressPt (q.org.tile s))
      fun t => { t with ranges := cacheIn 1024 t.ranges (r.asid, q.h, g) }).act := by
  show execRangeTableFetch id i s = _
  simp only [execRangeTableFetch, hs.req, hs.elt, hs.res, hs.free, hst, hg, ne_eq, not_true_eq_false, decide_false, Bool.or_self,
    Bool.false_eq_true, if_false]

theorem atsCompletion_uses {a : AtsGrant} (hst : e.st = .ats) (hsize : a.size ≠ 0) (hw : q.op.writeClass = true → a.write = true) :
    let va := e.addr / a.size * a.size
    exec (.atsCompletion id i (some a)) s = toHome id i (ingressPt (q.org.tile s)) q { e with st := .new } (a.pa + (e.addr - va)) 0
      ((endCut r.asid e.addr (s.setReq id (q.setElt i { e with st := .new }))).modPt (ingressPt (q.org.tile s))
        fun x => { x with trans := cacheIn 256 x.trans ⟨r.asid, q.h, va, a.size, a.pa, !a.write, false, true⟩ }) := by
  intro va
  have hgrant : ((q.op.writeClass && !a.write) || decide (a.size = 0)) = false := by
    cases hc : q.op.writeClass
    · simp only [hsize, Bool.false_and, decide_false, Bool.or_self]
    · simp only [hw hc, hsize, Bool.not_true, Bool.and_false, decide_false, Bool.or_self]
  show execAtsCompletion id i (some a) s = _
  simp only [execAtsCompletion, hs.req, hs.elt, hs.res, hs.free, hst, hgrant, ne_eq, not_true_eq_false, Bool.false_eq_true, if_false]
  rfl

variable {level table : Nat} (hst : e.st = .walk level table) (hb : s.focus.bad = none)

include hst hb

/-- What a walk's read of an entry gives. -/
theorem pageWalkRead_reads : exec (.pageWalkRead id i) s =
    walked s id i q e r level (readPte s level (readNat s.mem (table + 8 * pteIndex level e.addr) 8)) := by
  show execPageWalkRead id i s = _
  simp only [execPageWalkRead, hs.req, hs.elt, hs.res, hs.free, hst, hb, Option.isSome_none, Bool.false_eq_true, if_false]
  rfl

end Answers

/-- Settles O35: an access granted at its PT goes through the checks and then by its range's kind; then what comes back to it. -/
theorem translationGoesOn : Obligations.TranslationGoesOn := by
  intro s id i q e r g p pt goes cached leaf hostHit mayUse hreq helt hres hfree
  have hs : Standing s id i q e r := ⟨hreq, helt, hres, hfree⟩
  refine ⟨fun hnew hvirt hissue hgrant => ?ingress, rangeTableFetch_caches hs, fun level table hst hb => ?walk,
    fun a hst hsize hw => atsCompletion_uses hs hst hsize hw⟩
  case ingress =>
    rw [ingressTranslate_checks hs hnew hvirt hissue hgrant]
    exact ⟨checks_range, checks_align, checks_miss, fun ha hal hr => ⟨checks_perm ha hal hr, fun hp => checks_hit ha hal hr hp ▸
      ⟨byKind_direct, fun _ => byKind_leaf, byKind_walk, byKind_revoked, fun _ => byKind_hostHit, byKind_ats⟩⟩⟩
  case walk =>
    dsimp only
    rw [pageWalkRead_reads hs hst hb]
    exact ⟨fun t h => by rw [h]; rfl, fun pa size ro h => by rw [h]; rfl, fun pa size ro h => by rw [h]; rfl,
      fun pa size disc ro h => by rw [h]; rfl, fun h => by rw [h]; rfl, fun h => by rw [h]; rfl⟩

end Sys2Proof.Proofs.TranslationGoesOn
end

section
/-! PROOFS. Accesses at their homes, and the answers that they bring a slot (R109, R145, R146, R148, R156, R157, R161). -/

namespace Sys2Proof.Proofs.HomesPerformAccesses

open Sys2Proof Sys2Proof.Machine Sys2Proof.Safety Sys2Proof.Laws

variable {s : State} {id i w : Nat} {q : Req} {e : Elt}

/-! ### What a performed word leaves of a slot's request -/

theorem reqs_notifyWatch : (notifyWatch e w s).reqs = s.reqs := by
  unfold notifyWatch
  induction e.marks generalizing s with
  | nil => rfl
  | cons k ks ih =>
    rw [List.foldl_cons, ih]
    split <;> rfl

/-- Only an engine's burst owes a subtraction (R126). -/
theorem burstDone_slot {k slot : Nat} (hq : get? id s.reqs = some q) (ho : q.org = .slot k slot) : burstDone id i s = s := by
  unfold burstDone
  rw [hq]
  dsimp only
  split
  · rename_i heq
    exact absurd (ho.symm.trans heq) Origin.noConfusion
  · rfl

/-! ### HOME_ACCESS -/

/-- What the home does with a word of a request that has its turn. -/
def performs (s : State) (id i w : Nat) (q : Req) (e : Elt) (bad : Bool) : Result :=
  let o := e.wordOff w
  let n := e.wordLen w
  let served (s : State) : State := (serveWord id q e w s).act
  let did (e : Elt) (s : State) : State := s.setReq id (q.setElt i (e.didWord w))
  let uncorr : State := served (holdElt id i .uncorr 0 (homeHolder s q e) (some [o]) (ueAt q e bad s))
  match q.op with
  | .load =>
    if bad then .next uncorr
    else .next (served (did { e with data := spliceBytes (fitBytes e.n e.data) o (eltRead s q e o n) } s))
  | .loadTc => .next (served ((ueAt q e bad s).setReq id (q.setElt i (acceptLoad e w bad))))
  | .waita _ =>
    if bad then .next uncorr
    else match eltHome s q e with
      | none => .next s
      | some mt => .next (served (observe id ((s.setReq id (q.setElt i { e with st := .wait })).modMt mt fun m =>
          { m with waiters := m.waiters ++ [id] })))
  | .store =>
    if e.space == .virt && snapHolds s q.h q.timed e.addr then .next (s.setReq id (q.setElt i { e with st := .paged })).act
    else match storeBytes s q e with
      | none => .next s
      | some d => .next (served (burstDone id i (notifyWatch e w (did e (eltWrite s q e o (sliceBytes d o n))))))
  | .storeTc => match q.org, get? q.h s.res with
    | .slot k slot, some r =>
      let mt := (r.scrHome e.addr).1
      if commitRoom s mt q.h q.time then
        let c : CEnt :=
          { h := q.h, time := q.time, sport := sportOf r k q.pipe.port, slot := slot, seq := q.seq, lane := w, off := e.addr + o,
            data := sliceBytes e.data o n }
        .next (served ((did e s).modMt mt fun m => { m with commit := m.commit ++ [c] }))
      else .next s
    | _, _ => .next s
  | _ => .next s

section Access

variable (hreq : get? id s.reqs = some q) (helt : q.elts[i]? = some e) (hw : w < 4) (hturn : wordTurn s id q i e w = true)

include hreq helt hw hturn

/-- At its turn, the request's operation is done on the word. -/
theorem homeAccess_turn {bad : Bool} : exec (.homeAccess id (4 * i + w) bad) s = performs s id i w q e bad := by
  have hi : (4 * i + w) / 4 = i := by omega
  have hw4 : (4 * i + w) % 4 = w := by omega
  show execHomeAccess id (4 * i + w) bad s = _
  simp only [execHomeAccess, hi, hw4, hreq, helt, hturn, Bool.not_true, Bool.false_eq_true, if_false]
  rfl

end Access

section Operations

variable {bad : Bool}

/-- A store of a slot is written where no pending page of a snapshot keeps it. -/
theorem performs_store {k slot : Nat} {d : List Byte} (hop : q.op = .store) (horg : q.org = .slot k slot)
    (hd : storeBytes s q e = some d) (hfree : e.space = .virt → snapHolds s q.h q.timed e.addr = false) :
    performs s id i w q e bad = .next (serveWord id q e w (notifyWatch e w
      ((eltWrite s q e (e.wordOff w) (sliceBytes d (e.wordOff w) (e.wordLen w))).setReq id (q.setElt i (e.didWord w))))).act := by
  have hsnap : (e.space == .virt && snapHolds s q.h q.timed e.addr) = false := by
    simpa only [Bool.and_eq_false_imp, beq_iff_eq] using hfree
  have hreq : get? id (notifyWatch e w
      ((eltWrite s q e (e.wordOff w) (sliceBytes d (e.wordOff w) (e.wordLen w))).setReq id (q.setElt i (e.didWord w)))).reqs
      = some (q.setElt i (e.didWord w)) := by
    rw [reqs_notifyWatch, setReq_reqs, get?_put_same]
  simp only [performs, hop, hsnap, Bool.false_eq_true, if_false, hd, burstDone_slot hreq horg]

/-- A committed store joins the commit buffer of its home while that has an entry. -/
theorem performs_storeTc {k slot : Nat} {r : Res} (hop : q.op = .storeTc) (horg : q.org = .slot k slot) (hres : get? q.h s.res = some r)
    (hroom : commitRoom s (r.scrHome e.addr).1 q.h q.time = true) :
    performs s id i w q e bad = .next (serveWord id q e w ((s.setReq id (q.setElt i (e.didWord w))).modMt (r.scrHome e.addr).1 fun m =>
      { m with commit := m.commit ++ [({ h := q.h, time := q.time, sport := sportOf r k q.pipe.port, slot := slot, seq := q.seq, lane := w,
                                         off := e.addr + e.wordOff w, data := sliceBytes e.data (e.wordOff w) (e.wordLen w) } : CEnt)] })).act := by
  simp only [performs, hop, horg, hres, hroom, if_true]

end Operations

/-! ### RESPONSE_DELIVERY -/

/-- The change of count with which a request's pointstamp ends (R324). -/
def ending (q : Req) : List Post := match q.loc with
  | some l => [⟨q.h, l, q.time, -1⟩]
  | none => []

/-- The answer of a slot's request, all of it done and nothing before it, goes to its targets, and its count ends. -/
theorem responseDelivery_answers {k slot : Nat} {r : Res} {s' : State} {ps : List Post} (hreq : get? id s.reqs = some q)
    (horg : q.org = .slot k slot) (hres : get? q.h s.res = some r) (hrun : r.running = true)
    (hdone : q.elts.all (fun e => e.st == .done && !e.lost) = true) (hfence : fenceWaits s id q = false)
    (hdet : q.op.isUpdate = true → detOwed s q = false)
    (hfirst : q.ordered = true → s.reqs.any (fun x => decide (x.1 < id) && x.2.stream == q.stream) = false)
    (hsend : sendAll { s with reqs := del id s.reqs } k (sportOf r k q.pipe.port) q.seq q.outs = some (s', ps)) :
    exec (.responseDelivery id) s = .next (s'.post k (ending q ++ ps)).act := by
  have hupd : (q.op.isUpdate && detOwed s q) = false := by simpa only [Bool.and_eq_false_imp] using hdet
  have hord : (q.ordered && s.reqs.any fun x => decide (x.1 < id) && x.2.stream == q.stream) = false := by
    simpa only [Bool.and_eq_false_imp] using hfirst
  show execResponseDelivery id s = _
  simp only [execResponseDelivery, deliverSlot, hreq, horg, hres, hrun, hdone, hfence, hupd, hord, hsend, Bool.not_true, Bool.or_self,
    Bool.false_eq_true, if_false]
  rfl

/-- Settles O37: at its turn a word is performed by its operation; an answer is delivered. -/
theorem homesPerformAccesses : Obligations.HomesPerformAccesses := by
  intro s id i w q e o n did served hreq
  refine ⟨fun helt hw hturn => ?access, fun k slot r s' ps => responseDelivery_answers hreq⟩
  case access =>
    have hx (bad : Bool) : exec (.homeAccess id (4 * i + w) bad) s = performs s id i w q e bad := homeAccess_turn hreq helt hw hturn
    refine ⟨fun hop => ⟨?load, ?loadBad⟩, fun bad hop => ?loadTc, fun clr mt hop hmt => ?waita,
      fun bad k slot d hop horg hd hfree => (hx bad).trans (performs_store hop horg hd hfree),
      fun bad k slot r hop horg hres hroom => (hx bad).trans (performs_storeTc hop horg hres hroom)⟩
    case load => simp only [hx, performs, hop, Bool.false_eq_true, if_false]; rfl
    case loadBad => simp only [hx, performs, hop, if_true]; rfl
    case loadTc => simp only [hx, performs, hop]; rfl
    case waita => simp only [hx, performs, hop, Bool.false_eq_true, if_false, hmt]; rfl

end Sys2Proof.Proofs.HomesPerformAccesses
end

section
/-! PROOFS. What the invariant reads of a state, and the operations that leave it as it is. -/

namespace Sys2Proof.Proofs.Vital

open Sys2Proof Sys2Proof.Machine Sys2Proof.Safety Sys2Proof.Laws

/-! ### What the invariant reads -/

/-- Of the service cores: privilege mode and SRAM. -/
def coreView (m : SMap Core) (c : Nat) : Nat × Memory := ((getD {} c m).mode, (getD {} c m).sram)

/-- Of the dies: throttle level and quarantine mask. -/
def dieView (m : SMap Die) (d : Nat) : Nat × Nat := ((getD {} d m).throt, (getD {} d m).qmask)

/-- Of a state: the memories, the share, the boot state, BCCAP, DSPCTL, and that of the dies and the cores. -/
def vital (s : State) :=
  ((s.mem, s.host.mem), (s.share, s.boot.state), s.bccap, s.dsp.ctl, dieView s.dies, coreView s.cores)

theorem coreView_upd {c : Nat} {f : Core → Core} {m : SMap Core} (hmode : ∀ x, (f x).mode = x.mode) (hsram : ∀ x, (f x).sram = x.sram) :
    coreView (upd {} c f m) = coreView m := by
  funext d
  by_cases hd : d = c
  · subst hd
    simp only [coreView, getD_upd_same, hmode, hsram]
  · simp only [coreView, getD_upd_ne _ hd]

theorem coreView_map {g : Nat × Core → Nat × Core} (hkey : ∀ e, (g e).1 = e.1) (hmode : ∀ e, (g e).2.mode = e.2.mode)
    (hsram : ∀ e, (g e).2.sram = e.2.sram) (m : SMap Core) : coreView (m.map g) = coreView m := by
  funext c
  induction m with
  | nil => rfl
  | cons e m ih =>
    simp only [coreView, List.map_cons, getD, hkey] at ih ⊢
    split
    · rw [hmode, hsram]
    · exact ih

theorem dieView_upd {d : Nat} {f : Die → Die} {m : SMap Die} (hthrot : ∀ x, (f x).throt = x.throt) (hqmask : ∀ x, (f x).qmask = x.qmask) :
    dieView (upd {} d f m) = dieView m := by
  funext e
  by_cases he : e = d
  · subst he
    simp only [dieView, getD_upd_same, hthrot, hqmask]
  · simp only [dieView, getD_upd_ne _ he]

/-! ### Updates of a state -/

/-- An update of fields of which the invariant reads nothing, and of others where it reads nothing. -/
@[simp] theorem vital_with (s : State)
    {agenda focus acted free nextId cycle ats mts pts homes revoked shareSet broughtUp hostWins extents bcs roots reqs tickets
    useqs mseqs subs held syns cmdDone watch watchq snap snapq res trackers posts tasks templates dsp images saved files faults
    cores svcs clsmap dies fuses repair slews links host testing}
    (hdsp : dsp.ctl = s.dsp.ctl) (hhost : host.mem = s.host.mem) (hcores : coreView cores = coreView s.cores)
    (hdies : dieView dies = dieView s.dies) :
    vital
      { agenda, focus, acted, free, nextId, cycle, mem := s.mem, ats, mts, pts, homes, revoked, share := s.share, shareSet,
        broughtUp, hostWins, extents, bccap := s.bccap, bcs, roots, reqs, tickets, useqs, mseqs, subs, held, syns, cmdDone,
        watch, watchq, snap, snapq, res, trackers, posts, tasks, templates, dsp, images, saved, files, faults, cores, svcs,
        clsmap, dies, fuses, repair, slews, links, host, boot := s.boot, testing } = vital s := by
  simp only [vital, hdsp, hhost, hcores, hdies]

theorem vital_ite {p : Prop} [Decidable p] {a b s : State} (ha : vital a = vital s) (hb : vital b = vital s) :
    vital (if p then a else b) = vital s := by
  split
  · exact ha
  · exact hb

/-- What a step of a fold keeps, the fold keeps. -/
theorem foldl_keeps {α β γ : Type} (g : β → γ) {f : β → α → β} (hf : ∀ b x, g (f b x) = g b) (l : List α) (b : β) :
    g (l.foldl f b) = g b := by
  induction l generalizing b with
  | nil => rfl
  | cons x l ih => exact (ih _).trans (hf b x)

theorem vital_foldl {α : Type} {f : State → α → State} (hf : ∀ s x, vital (f s x) = vital s) (l : List α) (s : State) :
    vital (l.foldl f s) = vital s :=
  foldl_keeps vital hf l s

/-- What holds at first and after each step that goes on holds at the end, if every step went on. -/
theorem foldl_bind_induction {α β : Type} {P : β → Prop} {f : α → β → Option β} (hf : ∀ x b c, P b → f x b = some c → P c)
    {l : List α} {o : Option β} {c : β} (ho : ∀ b, o = some b → P b) (h : l.foldl (fun o x => o.bind (f x)) o = some c) : P c := by
  induction l generalizing o with
  | nil => exact ho c h
  | cons x l ih =>
    refine ih (fun b hb => ?_) h
    obtain ⟨a, ha, hab⟩ := Option.bind_eq_some_iff.1 hb
    exact hf x a b (ho a ha) hab

theorem vital_getD {o : Option State} {a s : State} (ha : vital a = vital s) (ho : ∀ t, o = some t → vital t = vital s) :
    vital (o.getD a) = vital s := by
  cases o with
  | none => exact ha
  | some t => exact ho t rfl

theorem exists_of_firstSome {α β : Type} {f : α → Option β} {l : List α} {b : β} (h : firstSome f l = some b) :
    ∃ a ∈ l, f a = some b := by
  induction l with
  | nil => cases h
  | cons x l ih =>
    unfold firstSome at h
    split at h
    · rename_i hx
      exact ⟨x, List.mem_cons_self, hx.trans h⟩
    · obtain ⟨a, ha, hb⟩ := ih h
      exact ⟨a, List.mem_cons_of_mem x ha, hb⟩

/-- An operation that may have to wait and, where it goes on, leaves what the invariant reads. -/
def KeepsVital (f : State → Option State) : Prop := ∀ s t, f s = some t → vital t = vital s

section Updates

variable (s : State)

@[simp] theorem vital_act : vital s.act = vital s := rfl
@[simp] theorem vital_setAt (k : Nat) (a : AT) : vital (s.setAt k a) = vital s := rfl
@[simp] theorem vital_modAt (k : Nat) (f : AT → AT) : vital (s.modAt k f) = vital s := rfl
@[simp] theorem vital_modNode (k : Nat) (f : Node → Node) : vital (s.modNode k f) = vital s := rfl
@[simp] theorem vital_setMt (k : Nat) (m : MT) : vital (s.setMt k m) = vital s := rfl
@[simp] theorem vital_modMt (k : Nat) (f : MT → MT) : vital (s.modMt k f) = vital s := rfl
@[simp] theorem vital_putCopy (k ctx : Nat) (x : Copy) : vital (s.putCopy k ctx x) = vital s := rfl
@[simp] theorem vital_putStrm (k ctx : Nat) (x : Strm) : vital (s.putStrm k ctx x) = vital s := rfl
@[simp] theorem vital_modTask (h : Nat) (f : Task → Task) : vital (s.modTask h f) = vital s := rfl
@[simp] theorem vital_raise (f : FRec) : vital (s.raise f) = vital s := rfl
@[simp] theorem vital_modFaults (f : FaultCtl → FaultCtl) : vital (s.modFaults f) = vital s := rfl
@[simp] theorem vital_modHome (h : Nat) (f : Home → Home) : vital (s.modHome h f) = vital s := rfl
@[simp] theorem vital_modPt (p : Nat) (f : Pt → Pt) : vital (s.modPt p f) = vital s := rfl
@[simp] theorem vital_modBc (u : Nat) (f : Bc → Bc) : vital (s.modBc u f) = vital s := rfl
@[simp] theorem vital_setReq (id : Nat) (r : Req) : vital (s.setReq id r) = vital s := rfl
@[simp] theorem vital_setSyn (k : Nat) (y : Syn) : vital (s.setSyn k y) = vital s := rfl
@[simp] theorem vital_setStream (k sig : Nat) (v : VStream) : vital (s.setStream k sig v) = vital s := rfl

@[simp] theorem vital_modRes (h : Nat) (f : Res → Res) : vital (s.modRes h f) = vital s := by
  unfold State.modRes
  split <;> rfl

@[simp] theorem vital_modDsp {f : Dsp → Dsp} (hf : ∀ d, (f d).ctl = d.ctl) : vital (s.modDsp f) = vital s :=
  vital_with s (hf s.dsp) rfl rfl rfl

@[simp] theorem vital_modHost {f : HostSt → HostSt} (hf : ∀ h, (f h).mem = h.mem) : vital (s.modHost f) = vital s :=
  vital_with s rfl (hf s.host) rfl rfl

@[simp] theorem vital_modDie (d : Nat) {f : Die → Die} (hthrot : ∀ x, (f x).throt = x.throt) (hqmask : ∀ x, (f x).qmask = x.qmask) :
    vital (s.modDie d f) = vital s :=
  vital_with s rfl rfl rfl (dieView_upd hthrot hqmask)

@[simp] theorem vital_modCore (c : Nat) {f : Core → Core} (hmode : ∀ x, (f x).mode = x.mode) (hsram : ∀ x, (f x).sram = x.sram) :
    vital (s.modCore c f) = vital s :=
  vital_with s rfl rfl (coreView_upd hmode hsram) rfl

@[simp] theorem vital_giveCore (c : Nat) (t : Take) : vital (s.giveCore c t) = vital s :=
  vital_modCore s c (fun _ => rfl) fun _ => rfl

end Updates

end Sys2Proof.Proofs.Vital
end

section
/-! PROOFS. What the invariant reads stays as it is: the common operations, requests and messages. -/

namespace Sys2Proof.Proofs.Vital

open Sys2Proof Sys2Proof.Machine Sys2Proof.Safety Sys2Proof.Laws
open Sys2Proof.Proofs.Frame (stateOf)

/-! ### Operations on a state -/

@[simp] theorem vital_draw (s : State) : vital s.draw.2 = vital s := rfl

@[simp] theorem vital_newId (s : State) : vital s.newId.2 = vital s := rfl

@[simp] theorem vital_scrWrite (r : Res) (s : State) (a : Nat) (bs : List Byte) : vital (scrWrite r s a bs) = vital s := by
  induction bs generalizing s a with
  | nil => rfl
  | cons b bs ih => exact ih _ _

@[simp] theorem vital_forgetPast (r : Res) (a n : Nat) (s : State) : vital (forgetPast r a n s) = vital s := by
  grind only [forgetPast, vital_modMt]

@[simp] theorem vital_scrPut (r : Res) (s : State) (a : Nat) (bs : List Byte) : vital (scrPut r s a bs) = vital s :=
  (vital_foldl (fun _ _ => vital_forgetPast ..) _ _).trans (vital_scrWrite r s a bs)

@[simp] theorem vital_post (s : State) (k : Nat) (ps : List Post) : vital (State.post s k ps) = vital s := by
  unfold State.post
  split <;> rfl

@[simp] theorem vital_sendBatch (s : State) (k : Nat) (ps : List Post) : vital (sendBatch s k ps) = vital s := by
  unfold sendBatch
  split <;> rfl

@[simp] theorem vital_sendBatches (s : State) : vital (sendBatches s) = vital s :=
  vital_ite rfl (vital_foldl (fun _ _ => vital_sendBatch ..) _ _)

@[simp] theorem vital_pushBackq (h q : Nat) (k : Token) (s : State) : vital (pushBackq h q k s) = vital s := by
  simp [pushBackq]

theorem vital_sendOne {s t : State} {k : Nat} {tgt : Target} {tok : Token} {ps : List Post} (ht : sendOne s k tgt tok = some (t, ps)) :
    vital t = vital s := by
  cases tgt with
  | none | pos => grind only [sendOne, vital_setAt]
  | chan c =>
    simp only [sendOne] at ht
    repeat' split at ht
    all_goals
      cases ht
      try simp only [vital_setAt, vital_modRes, vital_pushBackq]

@[simp] theorem vital_countRefused (tries : List (State → Bool)) (s : State) : vital (countRefused tries s) = vital s :=
  vital_ite rfl (vital_foldl (fun _ _ => vital_modAt ..) _ _)

theorem vital_sendAll {s t : State} {k : Nat} {sport : BitVec 12} {seq : BitVec 16} {outs : List Out} {gen : List (List Nat)}
    {ps : List Post} (ht : sendAll s k sport seq outs gen = some (t, ps)) : vital t = vital s := by
  induction outs generalizing s ps with
  | nil => cases ht; rfl
  | cons o os ih => grind only [sendAll, → vital_sendOne]

theorem vital_mtSend {s t : State} {r : Res} {k : Nat} {outs : List Out} {ps : List Post} (ht : mtSend s r k outs = some (t, ps)) :
    vital t = vital s := by
  obtain ⟨⟨u, qs⟩, hsent, rfl, -⟩ : ∃ x, _ ∧ _ := by simpa only [mtSend, Option.map_eq_some_iff, Prod.mk.injEq] using ht
  refine (vital_foldl (fun _ _ => vital_modMt ..) _ _).trans (foldl_bind_induction (P := fun x => vital x.1 = vital s) ?_ ?_ hsent)
  · grind only [→ vital_sendAll, Option.map_eq_some_iff]
  · grind only

@[simp] theorem vital_markFailed (s : State) (h : Nat) (t : Time) : vital (State.markFailed s h t) = vital s := by
  simp [State.markFailed]

@[simp] theorem vital_noteCe (d : Nat) (s : State) : vital (noteCe d s) = vital s := by
  unfold noteCe
  split <;> simp

@[simp] theorem vital_noteUe (die : Nat) (s : State) : vital (noteUe die s) = vital s := by
  simp [noteUe]

@[simp] theorem vital_dropResv (pa n : Nat) (s : State) : vital (dropResv pa n s) = vital s := by
  refine vital_ite (vital_with s rfl rfl (coreView_map (fun e => ?_) (fun e => ?_) (fun e => ?_) _) rfl) rfl
  all_goals
    dsimp only
    split <;> rfl

@[simp] theorem vital_holdSlot (k slot : Nat) (hd : SlotHold) (f : FRec) (s : State) : vital (holdSlot k slot hd f s) = vital s := rfl

/-- A firing keeps what its meaning keeps. -/
theorem vital_finish {i : Instr} {c : Ctx} {r : FireRes} {s : State} (hr : vital (stateOf r s) = vital s) :
    vital (finish i c r s) = vital s := by
  cases r with
  | idle => rfl
  | hold | fired => grind only [finish, stateOf, vital_act, vital_holdSlot, vital_post, vital_setAt, → vital_sendAll]

@[simp] theorem vital_countLost (c : Ctx) (s : State) : vital (c.countLost s) = vital s := rfl

theorem vital_fireOwn {i : Instr} {body : Ctx → State → FireRes} {s t : State}
    (hbody : ∀ c, vital (stateOf (body c s) s) = vital s) (ht : fireOwn i body s = .next t) : vital t = vital s := by
  have hfire (c : Ctx) : vital (finish i c (body c s) s) = vital s := vital_finish (hbody c)
  grind only [fireOwn, vital_act, vital_holdSlot, vital_noteUe]

/-! ### Control of a tile -/

@[simp] theorem vital_dropTileWaiters (k : Nat) (s : State) : vital (dropTileWaiters k s) = vital s := rfl

@[simp] theorem vital_setGen (c : Ctx) (nxt : Option (Nat × Nat)) (s : State) : vital (setGen c nxt s) = vital s := rfl

theorem vital_execCntEmission {tile : TileId} {slot : Nat} {s t : State} (ht : execCntEmission tile slot s = .next t) :
    vital t = vital s := by
  unfold execCntEmission at ht
  split at ht
  · cases ht
    refine vital_finish ?_
    grind only [stateOf, genWrap, Ctx.holdWith, vital_setGen]
  · cases ht
    rfl

theorem vital_execRepeatEmission {tile : TileId} {slot : Nat} {s t : State} (ht : execRepeatEmission tile slot s = .next t) :
    vital t = vital s := by
  unfold execRepeatEmission at ht
  split at ht
  · split at ht
    · cases ht
      rfl
    · cases ht
      refine vital_finish ?_
      grind only [stateOf, genWrap, Ctx.holdWith, vital_setGen]
  · cases ht
    rfl

theorem vital_execResizeEffect {tile : TileId} {index : Nat} {s t : State} (ht : execResizeEffect tile index s = .next t) :
    vital t = vital s := by
  grind only [execResizeEffect, → vital_sendAll, vital_setAt, vital_act, vital_post]

/-! ### Requests -/

@[simp] theorem vital_queueBehind (id : Nat) (r : Req) (s : State) : vital (queueBehind id r s) = vital s := rfl

@[simp] theorem vital_holdElt (id i : Nat) (cls : FClass) (fflg : Nat) (holder : Nat × Nat × Nat) (gen : Option (List Nat)) (s : State) :
    vital (holdElt id i cls fflg holder gen s) = vital s := by
  grind only [holdElt, vital_raise, vital_queueBehind, vital_setReq]

@[simp] theorem vital_countIssue (code : Nat) (q : Req) (s : State) : vital (countIssue code q s) = vital s := by
  unfold countIssue
  split <;> rfl

@[simp] theorem vital_issueElts (id : Nat) (is : List Nat) (s : State) : vital (issueElts id is s) = vital s := by
  induction is generalizing s with
  | nil => rfl
  | cons i is ih => grind only [issueElts, vital_setReq, vital_holdElt, vital_countIssue]

@[simp] theorem vital_newReq (s : State) (r : Req) : vital (s.newReq r).2 = vital s := vital_issueElts ..

/-! ### The mesh -/

@[simp] theorem vital_useBank (q : Req) (e : Elt) (w : Nat) (s : State) : vital (useBank q e w s) = vital s := by
  unfold useBank
  split <;> rfl

@[simp] theorem vital_unitTake (r : Res) (unit : UnitId) (ranges : List (Nat × Nat)) (s : State) :
    vital (unitTake r unit ranges s) = vital s := by
  refine vital_ite (vital_foldl (fun _ _ => ?_) _ _) ((vital_with _ rfl rfl rfl rfl).trans (vital_foldl (fun _ _ => ?_) _ _))
  · exact vital_modMt ..
  · exact vital_modMt ..

@[simp] theorem vital_unitWait (r : Res) (unit : UnitId) (ranges : List (Nat × Nat)) (s : State) :
    vital (unitWait r unit ranges s) = vital s :=
  vital_ite rfl ((vital_with _ rfl rfl rfl rfl).trans (vital_foldl (fun _ _ => vital_modMt ..) _ _))

theorem vital_atBanks {r : Res} {unit : UnitId} {ranges : List (Nat × Nat)} {s : State} {go : State → State}
    (hgo : ∀ s, vital (go s) = vital s) : vital (atBanks r unit ranges s go) = vital s :=
  vital_ite ((hgo _).trans (vital_unitTake ..)) (vital_unitWait ..)

@[simp] theorem vital_useSeq (q : Req) (e : Elt) (n : Nat) (s : State) : vital (useSeq q e n s) = vital s := by
  unfold useSeq
  split <;> rfl

@[simp] theorem vital_issueQueued (s : State) : vital (issueQueued s) = vital s :=
  vital_foldl (fun _ _ => vital_ite rfl (vital_issueElts ..)) _ _

theorem vital_meshElt (id i : Nat) (m : MeshRun) : vital (meshElt id i m).state = vital m.state := by
  grind only [meshElt, vital_useSeq, vital_setReq, vital_modMt]

@[simp] theorem vital_meshStep (s : State) : vital (meshStep s) = vital s :=
  (foldl_keeps (fun m : MeshRun => vital m.state) (fun m (x : Nat × Nat) => vital_meshElt x.1 x.2 m) _ _).trans (vital_issueQueued s)

/-! ### Arrivals -/

@[simp] theorem vital_setScrWord (s : State) (r : Res) (off v : Nat) : vital (setScrWord s r off v) = vital s := by
  simp [setScrWord]

@[simp] theorem vital_observe (id : Nat) (s : State) : vital (observe id s) = vital s := by
  grind only [observe, vital_setReq, vital_modMt, vital_setScrWord]

@[simp] theorem vital_wake (h off : Nat) (s : State) : vital (wake h off s) = vital s := by
  unfold wake
  split
  · rfl
  · exact vital_foldl (fun _ _ => vital_observe ..) _ _

end Sys2Proof.Proofs.Vital
end

section
/-! PROOFS. What the invariant reads stays as it is: the matrix tiles, translation and the homes. -/

namespace Sys2Proof.Proofs.Vital

open Sys2Proof Sys2Proof.Machine Sys2Proof.Safety Sys2Proof.Laws

/-! ### The matrix tiles -/

@[simp] theorem vital_clearSubst (c : Ctx) (s : State) : vital (clearSubst c s) = vital s := by
  unfold clearSubst
  split <;> rfl

theorem vital_deliver {s : State} {k slot : Nat} {t : Time} {p : Pipe} {seq : BitVec 16} {outs : List Out} {u : State}
    (ht : deliver s k slot t p seq outs = some u) : vital u = vital s := by
  grind only [deliver, → vital_sendAll, vital_act, vital_post]

@[simp] theorem vital_sendOwed (k index : Nat) (s : State) : vital (sendOwed k index s) = vital s := by
  simp only [sendOwed]
  split
  · rfl
  · exact vital_ite rfl (vital_getD rfl fun _ ht => (vital_deliver ht).trans (vital_modNode ..))

@[simp] theorem vital_sendAllOwed (k : Nat) (s : State) : vital (sendAllOwed k s) = vital s := by
  refine vital_foldl (fun s x => ?_) _ _
  simp

@[simp] theorem vital_finishOp (k : Nat) (o : NodeOut) (s : State) : vital (finishOp k o s) = vital s := by
  simp [finishOp]

@[simp] theorem vital_readLoad (k index : Nat) (l : MLoad) (s : State) : vital (readLoad k index l s) = vital s := rfl

theorem vital_execMldbLoadDone {tile : TileId} {index : Nat} {s t : State} (ht : execMldbLoadDone tile index s = .next t) :
    vital t = vital s := by
  simp only [execMldbLoadDone] at ht
  split at ht
  · cases ht
    rfl
  · split at ht
    · grind only [vital_act, vital_readLoad]
    · split at ht
      · cases ht
        rfl
      · cases ht
        exact (vital_finishOp ..).trans (vital_foldl (fun _ _ => vital_modNode ..) _ _)

@[simp] theorem vital_opResult (k index : Nat) (f : InFlight) (s : State) : vital (opResult k index f s) = vital s := by
  simp [opResult]

theorem vital_owedStep {k : Nat} {s t : State} (ht : owedStep k s = .next t) : vital t = vital s := by
  grind only [owedStep, vital_sendAllOwed, vital_act]

theorem vital_execRowResult {tile : TileId} {index : Nat} {s t : State} (ht : execRowResult tile index s = .next t) :
    vital t = vital s := by
  grind only [execRowResult, vital_opResult, → vital_owedStep]

theorem vital_execMblkSetValid {tile : TileId} {set : Nat} {s t : State} (ht : execMblkSetValid tile set s = .next t) :
    vital t = vital s := by
  grind only [execMblkSetValid, vital_opResult, vital_modNode]

theorem vital_execMscaResult {tile : TileId} {index : Nat} {s t : State} (ht : execMscaResult tile index s = .next t) :
    vital t = vital s := by
  grind only [execMscaResult, vital_opResult]

theorem vital_execMzeroDone {tile : TileId} {index : Nat} {s t : State} (ht : execMzeroDone tile index s = .next t) :
    vital t = vital s := by
  grind only [execMzeroDone, vital_opResult]

/-! ### The address generators -/

theorem vital_agenSend {s : State} {r : Res} {k ctx : Nat} {g : Agen} {t : State} (ht : agenSend s r k ctx g = some t) :
    vital t = vital s := by
  grind only [agenSend, vital_modAt, vital_post, → vital_sendAll, Option.map_eq_some_iff]

@[simp] theorem vital_ptrTake (r : Res) (k ctx : Nat) (g : Agen) (s : State) : vital (ptrTake r k ctx g s) = vital s := by
  grind only [ptrTake, vital_modAt, vital_unitTake]

@[simp] theorem vital_ptrWait (r : Res) (k ctx : Nat) (g : Agen) (s : State) : vital (ptrWait r k ctx g s) = vital s := by
  unfold ptrWait
  split <;> simp

theorem vital_agenStep {r : Res} {k ctx : Nat} {h : Hd} {g : Agen} {o : Option Agen} {s t : State}
    (ht : agenStep r k ctx h g s = (t, o)) : vital t = vital s := by
  grind only [agenStep, vital_act, vital_raise, vital_modAt, vital_noteUe]

theorem vital_execAgenEmission {tile : TileId} {ctx : Nat} {s t : State} (ht : execAgenEmission tile ctx s = .next t) :
    vital t = vital s := by
  have hptr (r : Res) (g : Agen) : vital (if g.needs then ptrTake r tile.key ctx g s else s) = vital s :=
    vital_ite (vital_ptrTake ..) rfl
  simp only [execAgenEmission] at ht
  repeat' split at ht
  any_goals grind only [vital_ptrWait]
  all_goals
    have hstep := vital_agenStep ‹agenStep .. = _›
    grind only [vital_act, → vital_agenSend]

/-! ### Translation -/

@[simp] theorem vital_endElt (id i : Nat) (s : State) : vital (endElt id i s) = vital s := by
  grind only [endElt, vital_setReq]

@[simp] theorem vital_dropPrefetch (id i h : Nat) (s : State) : vital (dropPrefetch id i h s) = vital s := by
  simp [dropPrefetch]

theorem vital_failElt {id i p : Nat} {q : Req} {cls : FClass} {fflg : Nat} {s t : State} (ht : failElt id i p q cls fflg s = .next t) :
    vital t = vital s := by
  unfold failElt at ht
  split at ht <;> cases ht <;> simp

@[simp] theorem vital_bcCount (u : Nat) (q : Req) (s : State) : vital (bcCount u q s) = vital s := by
  unfold bcCount
  split <;> rfl

@[simp] theorem vital_bcWatch (u : Nat) (s : State) : vital (bcWatch u s) = vital s := by
  grind only [bcWatch, vital_modBc]

@[simp] theorem vital_bcCycle (s : State) : vital (bcCycle s) = vital s := by
  refine vital_foldl (fun s x => ?_) _ _
  simp

theorem vital_toHome {id i p : Nat} {q : Req} {e : Elt} {pa fflg : Nat} {s t : State} (ht : toHome id i p q e pa fflg s = .next t) :
    vital t = vital s := by
  grind only [toHome, → vital_failElt, vital_act, vital_endElt, vital_countIssue, vital_setReq, vital_bcCount, vital_useSeq, vital_with]

theorem vital_useLeaf {id i p : Nat} {q : Req} {e : Elt} {pa : Nat} {ro disc : Bool} {s t : State}
    (ht : useLeaf id i p q e pa ro disc s = .next t) : vital t = vital s := by
  grind only [useLeaf, → vital_failElt, vital_act, vital_endElt, vital_countIssue, vital_modRes, → vital_toHome]

theorem vital_execIngressTranslate {req elem : Nat} {s t : State} (ht : execIngressTranslate req elem s = .next t) :
    vital t = vital s := by
  simp only [execIngressTranslate] at ht
  repeat' split at ht
  all_goals grind only [vital_act, vital_setReq, → vital_failElt, → vital_toHome, → vital_useLeaf]

theorem vital_execRangeTableFetch {req elem : Nat} {s t : State} (ht : execRangeTableFetch req elem s = .next t) : vital t = vital s := by
  grind only [execRangeTableFetch, → vital_failElt, vital_act, vital_modPt, vital_setReq]

theorem vital_execPageWalkRead {req elem : Nat} {s t : State} (ht : execPageWalkRead req elem s = .next t) : vital t = vital s := by
  simp only [execPageWalkRead] at ht
  repeat' split at ht
  all_goals grind only [vital_act, vital_setReq, → vital_failElt, vital_holdElt, vital_dropPrefetch, → vital_useLeaf, vital_noteUe,
    vital_modPt]

@[simp] theorem vital_endCut (asid va : Nat) (s : State) : vital (endCut asid va s) = vital s := rfl

theorem vital_execAtsCompletion {req elem : Nat} {grant : Option AtsGrant} {s t : State}
    (ht : execAtsCompletion req elem grant s = .next t) : vital t = vital s := by
  grind only [execAtsCompletion, → vital_failElt, vital_modPt, vital_endCut, vital_setReq, vital_act, → vital_toHome]

@[simp] theorem vital_dropTrans (asid va len : Nat) (host : Bool) (s : State) : vital (dropTrans asid va len host s) = vital s := rfl

@[simp] theorem vital_revokeWaiting (asid va len : Nat) (s : State) : vital (revokeWaiting asid va len s) = vital s := by
  refine vital_foldl (fun s e => ?_) _ _
  split
  · rfl
  · exact vital_ite rfl (vital_foldl (fun s x => by grind only [vital_dropPrefetch, vital_holdElt]) _ _)

theorem vital_execAtsInvalidateRequest {asid va len : Nat} {s t : State} (ht : execAtsInvalidateRequest asid va len s = .next t) :
    vital t = vital s := by
  grind only [execAtsInvalidateRequest, vital_revokeWaiting, vital_dropTrans, vital_act, vital_with]

theorem vital_execHostRangeTruncate {asid va newEnd : Nat} {s t : State} (ht : execHostRangeTruncate asid va newEnd s = .next t) :
    vital t = vital s := by
  grind only [execHostRangeTruncate, vital_revokeWaiting, vital_dropTrans, vital_act, vital_with]

theorem vital_execInvalidateCompletion {index : Nat} {s t : State} (ht : execInvalidateCompletion index s = .next t) :
    vital t = vital s := by
  grind only [execInvalidateCompletion, vital_act, vital_with]

theorem vital_execPageInvalidation {asid va len : Nat} {s t : State} (ht : execPageInvalidation asid va len s = .next t) :
    vital t = vital s := by
  grind only [execPageInvalidation, vital_act, vital_dropTrans]

@[simp] theorem vital_closeElt (id i : Nat) (walked : Bool) (s : State) : vital (closeElt id i walked s) = vital s := rfl

theorem vital_execMigrationRewalk {asid va len : Nat} {s t : State} (ht : execMigrationRewalk asid va len s = .next t) :
    vital t = vital s := by
  cases ht
  refine Eq.trans (vital_foldl (fun s e => ?_) _ _) (vital_dropTrans ..)
  split
  · rfl
  · exact vital_ite rfl (vital_foldl (fun s x => by grind only [vital_closeElt, vital_setReq]) _ _)

/-! ### The homes -/

@[simp] theorem vital_putMasked (r : Res) (s : State) (a : Nat) (keep : List Bool) (bs : List Byte) :
    vital (putMasked r s a keep bs) = vital s :=
  vital_ite (vital_scrPut ..) (vital_foldl (fun _ _ => vital_scrPut ..) _ _)

@[simp] theorem vital_passPort (q : Req) (e : Elt) (n : Nat) (s : State) : vital (passPort q e n s) = vital s := by
  unfold passPort
  split <;> rfl

@[simp] theorem vital_burstDone (id i : Nat) (s : State) : vital (burstDone id i s) = vital s := by
  grind only [burstDone, vital_with]

theorem vital_execArrivalSubtraction {work : Nat} {s t : State} (ht : execArrivalSubtraction work s = .next t) :
    vital t = vital s := by
  unfold execArrivalSubtraction at ht
  split at ht
  · cases ht
    rfl
  · split at ht
    · cases ht
      rfl
    · cases ht
      refine vital_atBanks fun s => ?_
      simp only [vital_act, vital_wake, vital_setScrWord, vital_with]

@[simp] theorem vital_notifyWatch (e : Elt) (w : Nat) (s : State) : vital (notifyWatch e w s) = vital s := by
  refine vital_foldl (fun s x => ?_) _ _
  split <;> simp

@[simp] theorem vital_ueAt (q : Req) (e : Elt) (bad : Bool) (s : State) : vital (ueAt q e bad s) = vital s := by
  unfold ueAt
  split <;> simp

@[simp] theorem vital_homeCount (q : Req) (e : Elt) (s : State) : vital (homeCount q e s) = vital s := by
  unfold homeCount
  split <;> simp

@[simp] theorem vital_serveWord (id : Nat) (q : Req) (e : Elt) (w : Nat) (s : State) : vital (serveWord id q e w s) = vital s := by
  grind only [serveWord, vital_homeCount, vital_passPort, vital_useBank, vital_setReq]

theorem vital_deliverSlot {req : Nat} {s t : State} (ht : deliverSlot req s = .next t) : vital t = vital s := by
  grind only [deliverSlot, → vital_sendAll, vital_act, vital_post, vital_with]

@[simp] theorem vital_commitLoad (mt h t id i : Nat) (s : State) : vital (commitLoad mt h t id i s) = vital s := by
  grind only [commitLoad, vital_setReq, vital_holdElt]

@[simp] theorem vital_commitLoads (mt h t : Nat) (s : State) : vital (commitLoads mt h t s) = vital s :=
  vital_foldl (fun _ _ => vital_foldl (fun _ _ => vital_commitLoad ..) _ _) _ _

@[simp] theorem vital_commitStore (r : Res) (mt h t : Nat) (c : CEnt) (s : State) : vital (commitStore r mt h t c s) = vital s := by
  simp [commitStore]

@[simp] theorem vital_tryStore (r : Res) (mt h t : Nat) (c : CEnt) (s : State) : vital (tryStore r mt h t c s) = vital s := by
  grind only [tryStore, vital_commitStore, vital_modMt, vital_unitTake]

@[simp] theorem vital_commitStores (mt h t : Nat) (s : State) : vital (commitStores mt h t s) = vital s := by
  unfold commitStores
  split
  · rfl
  · have hstores {cs : List CEnt} {r : Res} : vital (cs.foldl (fun s c => tryStore r mt h t c s) s) = vital s :=
      vital_foldl (fun _ _ => vital_tryStore ..) _ _
    dsimp only
    split
    · exact hstores
    · exact (vital_unitWait ..).trans hstores

theorem vital_execTcCommit {mt : TileId} {s t : State} (ht : execTcCommit mt s = .next t) : vital t = vital s := by
  grind only [execTcCommit, vital_act, vital_commitStores, vital_commitLoads]

end Sys2Proof.Proofs.Vital
end

section
/-! PROOFS. What the invariant reads stays as it is: the engines: copies, combine, progress, video streams. -/

namespace Sys2Proof.Proofs.Vital

open Sys2Proof Sys2Proof.Machine Sys2Proof.Safety Sys2Proof.Laws

/-! ### Messages to an engine -/

@[simp] theorem vital_deliver_S (s : State) (d : Dest) (m : Msg) : vital (State.deliver s d m) = vital s := by
  unfold State.deliver
  split <;> rfl

@[simp] theorem vital_numbered (s : State) (m : Msg) : vital (s.numbered m).2 = vital s := rfl

/-! ### The copy engine -/

theorem vital_reply {m : Msg} {outs : List Out} {s t : State} {ps : List Post} (ht : reply m outs s = some (t, ps)) :
    vital t = vital s := by
  grind only [reply, → vital_sendAll]

@[simp] theorem vital_coreDone (m : Msg) (aborted : Bool) (s : State) : vital (coreDone m aborted s) = vital s := by
  unfold coreDone
  split <;> rfl

theorem vital_answer {mt : Nat} {m : Msg} {outs : List Out} {s t : State} (ht : answer mt m outs s = some t) : vital t = vital s := by
  grind only [answer, vital_coreDone, vital_post, → vital_reply, Option.map_eq_some_iff]

@[simp] theorem vital_markSlot (m : Msg) (f : List Nat → List Nat) (s : State) : vital (markSlot m f s) = vital s := by
  unfold markSlot
  split <;> rfl

@[simp] theorem vital_holdMsg (r : Res) (mt : Nat) (m : Msg) (word : Nat) (s : State) : vital (holdMsg r mt m word s) = vital s := by
  simp [holdMsg]

@[simp] theorem vital_holdMsgWord (r : Res) (mt : Nat) (m : Msg) (addr byte : Nat) (s : State) :
    vital (holdMsgWord r mt m addr byte s) = vital s := by
  simp [holdMsgWord]

@[simp] theorem vital_sbAdd (k : Option Nat) (sb : Nat) (up : Bool) (s : State) : vital (sbAdd k sb up s) = vital s := by
  unfold sbAdd
  split <;> rfl

@[simp] theorem vital_skipSub (r : Res) (mt ctx : Nat) (strm : Bool) (m : Msg) (s : State) :
    vital (skipSub r mt ctx strm m s) = vital s := by
  grind only [skipSub, vital_with]

theorem vital_startCopy (r : Res) (mt ctx : Nat) (m : Msg) : KeepsVital (startCopy r mt ctx m) := by
  intro s t ht
  grind only [startCopy, → vital_reply, vital_sbAdd, vital_newReq, vital_putCopy, vital_skipSub, vital_act, vital_post]

theorem vital_startTile (r : Res) (mt ctx : Nat) (c : Strm) (s : State) : vital (startTile r mt ctx c s).2 = vital s :=
  (vital_newReq ..).trans (vital_newReq ..)

@[simp] theorem vital_startTiles (r : Res) (mt ctx n : Nat) (c : Strm) (s : State) :
    vital (startTiles r mt ctx n c s) = vital s := by
  induction n generalizing c s with
  | zero => rfl
  | succ n ih => exact vital_ite rfl ((ih _ _).trans (vital_startTile ..))

theorem vital_startStream (r : Res) (mt ctx : Nat) (m : Msg) : KeepsVital (startStream r mt ctx m) := by
  intro s t ht
  cases ht
  exact (vital_skipSub ..).trans ((vital_startTiles ..).trans (vital_post ..))

theorem vital_startMsg {r : Res} {mt : Nat} {m : Msg} {start : Res → Nat → Nat → Msg → State → Option State}
    (hstart : ∀ r k ctx m, KeepsVital (start r k ctx m)) : KeepsVital (startMsg r mt m start) := by
  intro s t ht
  grind only [startMsg, KeepsVital]

theorem vital_takeHead {mt : Nat} {ops : List Nat} {bad : Res → Msg → Option Nat}
    {start : Res → Nat → Nat → Msg → State → Option State} {s t : State} (hstart : ∀ r k ctx m, KeepsVital (start r k ctx m))
    (ht : takeHead mt ops bad start s = .next t) : vital t = vital s := by
  have hmsg (r : Res) (m : Msg) := vital_startMsg (r := r) (mt := mt) (m := m) hstart
  grind only [takeHead, KeepsVital, vital_act, vital_holdMsg, vital_modMt]

theorem vital_execCopy {mt : TileId} {s t : State} (ht : execCopy mt s = .next t) : vital t = vital s :=
  vital_takeHead vital_startCopy ht

theorem vital_execFill {mt : TileId} {s t : State} (ht : execFill mt s = .next t) : vital t = vital s :=
  vital_takeHead vital_startCopy ht

theorem vital_execSopen {mt : TileId} {s t : State} (ht : execSopen mt s = .next t) : vital t = vital s :=
  vital_takeHead vital_startStream ht

@[simp] theorem vital_addXsc (h n : Nat) (s : State) : vital (addXsc h n s) = vital s := by
  simp [addXsc]

theorem vital_execSfree {mt : TileId} {s t : State} (ht : execSfree mt s = .next t) : vital t = vital s := by
  grind only [execSfree, vital_modMt, vital_addXsc, vital_startTiles, → vital_answer, vital_act]

theorem vital_answerClosed {k : Nat} {s t : State} (ht : answerClosed k s = some t) : vital t = vital s := by
  obtain ⟨m, -, hm⟩ := exists_of_firstSome ht
  grind only [Option.map_eq_some_iff, → vital_answer, vital_modMt]

theorem vital_execSclose {mt : TileId} {s t : State} (ht : execSclose mt s = .next t) : vital t = vital s := by
  simp only [execSclose] at ht
  repeat' split at ht
  all_goals grind only [→ vital_answerClosed, vital_act, vital_modMt, vital_putStrm, → vital_answer]

@[simp] theorem vital_dropReq (id : Option Nat) (s : State) : vital (dropReq id s) = vital s := by
  unfold dropReq
  split <;> rfl

theorem vital_endCopy {r : Res} {mt ctx : Nat} {c : Copy} {outs : List Out} {s t : State} (ht : endCopy r mt ctx c outs s = some t) :
    vital t = vital s := by
  grind only [endCopy, vital_dropReq, vital_modMt, vital_act, vital_coreDone, vital_post, → vital_reply, Option.map_eq_some_iff]

theorem vital_execCopyCompletion {mt : TileId} {ctx : Nat} {s t : State} (ht : execCopyCompletion mt ctx s = .next t) :
    vital t = vital s := by
  grind only [execCopyCompletion, vital_newReq, vital_act, vital_putCopy, vital_sbAdd, → vital_endCopy]

theorem vital_engineSend {r : Res} {mt : Nat} {m : Msg} {outs : List Out} {s t : State} {ps : List Post}
    (ht : engineSend r mt m outs s = some (t, ps)) : vital t = vital s := by
  grind only [engineSend, → vital_sendAll, vital_modMt]

theorem vital_execStreamTileDone {mt : TileId} {ctx : Nat} {s t : State} (ht : execStreamTileDone mt ctx s = .next t) :
    vital t = vital s := by
  simp only [execStreamTileDone] at ht
  repeat' split at ht
  all_goals grind only [vital_act, vital_raise, vital_putStrm, vital_dropReq, → vital_engineSend, vital_post]

theorem vital_execStreamClose {mt : TileId} {ctx : Nat} {s t : State} (ht : execStreamClose mt ctx s = .next t) :
    vital t = vital s := by
  have hdrop (tiles : List (Nat × Nat × Nat)) :
      vital (tiles.foldl (fun s e => dropReq (some e.2.2) (dropReq (some e.2.1) s)) s) = vital s :=
    vital_foldl (fun _ _ => (vital_dropReq ..).trans (vital_dropReq ..)) _ _
  simp only [execStreamClose] at ht
  repeat' split at ht
  all_goals grind only [vital_act, vital_raise, vital_putStrm, vital_modMt, → vital_engineSend, vital_coreDone, vital_post]

theorem vital_startGen (r : Res) (mt ctx : Nat) (m : Msg) : KeepsVital (startGen r mt ctx m) := by
  intro s t ht
  cases ht
  exact (vital_post ..).trans (vital_newReq ..)

theorem vital_execMgen {mt : TileId} {s t : State} (ht : execMgen mt s = .next t) : vital t = vital s :=
  vital_takeHead vital_startGen ht

theorem vital_execMatrixGenDone {mt : TileId} {ctx : Nat} {s t : State} (ht : execMatrixGenDone mt ctx s = .next t) :
    vital t = vital s := by
  grind only [execMatrixGenDone, → vital_endCopy]

theorem vital_execSetAsideStart {mt : TileId} {strm : Bool} {s t : State} (ht : execSetAsideStart mt strm s = .next t) :
    vital t = vital s := by
  have hmsg (k : Nat) (r : Res) (m : Msg) :
      KeepsVital (startMsg r k m (if m.amop = 2 then startStream else if m.amop = 6 then startGen else startCopy)) := by
    refine vital_startMsg ?_
    grind only [vital_startStream, vital_startGen, vital_startCopy]
  grind only [execSetAsideStart, KeepsVital, vital_modMt]

/-! ### The combine unit -/

@[simp] theorem vital_wrn (x : CU) (off n v : Nat) (s : State) : vital (wrn x off n v s) = vital s := by
  simp [wrn]

@[simp] theorem vital_headAdd (x : CU) (off n : Nat) (s : State) : vital (headAdd x off n s) = vital s := by
  simp [headAdd]

@[simp] theorem vital_modCmb (mt : Nat) (f : Cmb → Cmb) (s : State) : vital (modCmb mt f s) = vital s := rfl

@[simp] theorem vital_noteRemc (x : CU) (i : Nat) (s : State) : vital (noteRemc x i s) = vital s := by
  unfold noteRemc
  split <;> simp

@[simp] theorem vital_wrHead (x : CU) (i off n v : Nat) (s : State) : vital (wrHead x i off n v s) = vital s := by
  simp [wrHead]

theorem vital_cmbStep {x : CU} {op : Nat} {areas : List (Nat × Nat)} {next : State → Option State} {taken : Option (Msg × State)}
    {s t : State} (hnext : KeepsVital next) (htaken : ∀ e, taken = some e → vital e.2 = vital s)
    (ht : cmbStep x op areas s next taken = .next t) : vital t = vital s := by
  have hgo (r : Res) (unit : UnitId) (ranges : List (Nat × Nat)) (o : State) (ho : vital o = vital s) :
      vital ((next (unitTake r unit ranges s)).getD o) = vital s :=
    vital_getD ho fun _ h => (hnext _ _ h).trans (vital_unitTake ..)
  simp only [cmbStep] at ht
  repeat' split at ht
  all_goals grind only [vital_act, vital_unitWait, vital_unitTake, vital_noteUe, vital_holdMsgWord]

@[simp] theorem vital_writeAcc (x : CU) (i : Nat) (acc : List Nat) (s : State) : vital (writeAcc x i acc s) = vital s := by
  simp [writeAcc]

@[simp] theorem vital_extend (x : CU) (i n : Nat) (s : State) : vital (extend x i n s) = vital s := by
  induction n generalizing s with
  | zero => rfl
  | succ n ih => grind only [extend, vital_wrHead, vital_writeAcc]

@[simp] theorem vital_closeSlot (x : CU) (i st : Nat) (s : State) : vital (closeSlot x i st s) = vital s := by
  simp [closeSlot]

@[simp] theorem vital_tryComplete (x : CU) (i : Nat) (s : State) : vital (tryComplete x i s) = vital s := by
  grind only [tryComplete, vital_extend, vital_closeSlot, vital_writeAcc]

@[simp] theorem vital_substitute (x : CU) (i flag ctr : Nat) (s : State) : vital (substitute x i flag ctr s) = vital s := by
  simp [substitute]

theorem vital_takeCin {s t : State} {mt : Nat} {ops : List Nat} {m : Msg} (ht : takeCin s mt ops = some (m, t)) :
    vital t = vital s := by
  grind only [takeCin, vital_modMt]

theorem vital_execCcfg {mt : TileId} {s t : State} (ht : execCcfg mt s = .next t) : vital t = vital s := by
  grind only [execCcfg, → vital_takeCin, vital_act, vital_holdMsg, vital_modCmb]

@[simp] theorem vital_freeHeads (x : CU) (n : Nat) (s : State) : vital (freeHeads x n s) = vital s := by
  induction n generalizing s with
  | zero => rfl
  | succ n ih => exact (ih _).trans (vital_scrPut ..)

theorem vital_execCcfgApply {mt : TileId} {s t : State} (ht : execCcfgApply mt s = .next t) : vital t = vital s := by
  simp only [execCcfgApply] at ht
  repeat' split at ht
  any_goals grind only
  case _ =>
    refine vital_cmbStep (fun s t hs => ?_) (by grind only) ht
    grind only [Option.map_eq_some_iff, → vital_answer, vital_modCmb, vital_freeHeads, vital_wrn, vital_act]

theorem vital_allocate (x : CU) (m : Msg) (i : Nat) : KeepsVital (allocate x m i) := by
  intro s t ht
  grind only [allocate, Option.map_eq_some_iff, → vital_reply, vital_tryComplete, vital_modCmb, vital_headAdd, vital_wrn, vital_scrPut,
    vital_act, vital_post, vital_coreDone]

theorem vital_execCalloc {mt : TileId} {s t : State} (ht : execCalloc mt s = .next t) : vital t = vital s := by
  simp only [execCalloc] at ht
  split at ht
  · rename_i x m s1 _ hcin
    have h1 := vital_takeCin hcin
    repeat' split at ht
    case _ => grind only
    case _ => grind only [vital_act, vital_holdMsg]
    case _ =>
      refine vital_cmbStep (fun s t hs => ?_) (by grind only) ht
      grind only [vital_allocate, KeepsVital, → vital_takeCin]
    all_goals grind only [vital_act, vital_modCmb]
  · grind only

theorem vital_execCallocResume {mt : TileId} {s t : State} (ht : execCallocResume mt s = .next t) : vital t = vital s := by
  unfold execCallocResume at ht
  repeat' split at ht
  case _ => grind only
  case _ =>
    refine vital_cmbStep (fun s t hs => ?_) (by grind only) ht
    exact (vital_allocate _ _ _ _ _ hs).trans (vital_modCmb ..)
  case _ => grind only

@[simp] theorem vital_writeChunk (x : CU) (m : Msg) (j : Nat) (s : State) : vital (writeChunk x m j s) = vital s := by
  grind only [writeChunk, vital_scrPut, vital_wrHead, vital_modCmb, vital_tryComplete]

theorem vital_execCins {mt : TileId} {s t : State} (ht : execCins mt s = .next t) : vital t = vital s := by
  simp only [execCins] at ht
  split at ht
  · rename_i x m s1 _ hcin
    have h1 := vital_takeCin hcin
    have hnext (st : Nat) (f : State → State) (hf : ∀ s, vital (f s) = vital s) : KeepsVital (fun s =>
        (takeCin s x.mt [0x12]).bind (fun e =>
          (answer x.mt m [pulseOut m.time m.t0, dataOut .n8 m.time (leBytes 8 st) m.t1] (f e.2)).map State.act)) := by
      intro s t hs
      grind only [Option.bind_eq_some_iff, Option.map_eq_some_iff, → vital_takeCin, → vital_answer, vital_act]
    split at ht
    · grind only [vital_act, vital_holdMsg]
    · exact vital_cmbStep (hnext _ _ fun s => vital_headAdd ..) (by grind only) ht
    · exact vital_cmbStep (hnext _ _ fun s => vital_headAdd ..) (by grind only) ht
    · exact vital_cmbStep (hnext _ _ fun s => vital_writeChunk ..) (by grind only) ht
  · grind only

theorem keepsVital_substitute (x : CU) (i st ctr : Nat) : KeepsVital fun s => some (substitute x i st ctr s).act := by
  intro s t hs
  cases hs
  exact vital_substitute ..

theorem vital_execCombineFrontierSubst {mt : TileId} {slot : Nat} {s t : State}
    (ht : execCombineFrontierSubst mt slot s = .next t) : vital t = vital s := by
  unfold execCombineFrontierSubst at ht
  repeat' split at ht
  · grind only
  · exact vital_cmbStep (keepsVital_substitute _ _ _ _) (by grind only) ht
  · grind only

theorem vital_execCombineTimeout {mt : TileId} {slot : Nat} {s t : State} (ht : execCombineTimeout mt slot s = .next t) :
    vital t = vital s := by
  unfold execCombineTimeout at ht
  repeat' split at ht
  · grind only
  · exact vital_cmbStep (keepsVital_substitute _ _ _ _) (by grind only) ht
  · grind only

@[simp] theorem vital_register (x : CU) (m : Msg) (s : State) : vital (register x m s) = vital s := by
  unfold register
  split <;> rfl

theorem vital_execCrecv {mt : TileId} {s t : State} (ht : execCrecv mt s = .next t) : vital t = vital s := by
  unfold execCrecv at ht
  split at ht
  · rename_i x m s1 _ hcin
    have h1 := vital_takeCin hcin
    split at ht
    · grind only [vital_act, vital_modCmb, vital_register]
    · refine vital_cmbStep (fun s t hs => ?_) (by grind only) ht
      grind only [Option.map_eq_some_iff, → vital_takeCin, vital_act, vital_post, vital_coreDone, vital_headAdd, vital_register]
  · grind only

theorem vital_cmbSend {x : CU} {outs : List Out} {s t : State} {ps : List Post} (ht : cmbSend x outs s = some (t, ps)) :
    vital t = vital s := by
  grind only [cmbSend, → vital_sendAll, vital_modMt]

theorem keepsVital_releaseStep (x : CU) (i ch : Nat) : KeepsVital (releaseStep x i ch) := by
  intro s t ht
  simp only [releaseStep] at ht
  repeat' split at ht
  all_goals grind only [Option.map_eq_some_iff, → vital_cmbSend, vital_modCmb, vital_act, vital_post, vital_wrn, vital_headAdd,
    vital_wrHead]

theorem vital_execCombineRelease {mt : TileId} {s t : State} (ht : execCombineRelease mt s = .next t) : vital t = vital s := by
  unfold execCombineRelease at ht
  split at ht
  · grind only
  · split at ht
    · exact vital_cmbStep (keepsVital_releaseStep _ _ _) (by grind only) ht
    · repeat' split at ht
      case _ => grind only
      case _ => grind only
      case _ =>
        refine vital_cmbStep (fun s t hs => ?_) (by grind only) ht
        cases hs
        simp only [vital_act, vital_modCmb, vital_wrHead]

theorem vital_releaseMarker {x : CU} {s : State} {m : Msg} {t : State} (ht : releaseMarker x s m = some t) : vital t = vital s := by
  grind only [releaseMarker, → vital_answer, vital_modCmb]

theorem vital_execCombineMarkerRelease {mt : TileId} {s t : State} (ht : execCombineMarkerRelease mt s = .next t) :
    vital t = vital s := by
  unfold execCombineMarkerRelease at ht
  split at ht
  · grind only
  · split at ht
    · obtain ⟨m, -, hm⟩ := exists_of_firstSome ‹_›
      grind only [→ vital_releaseMarker, vital_act]
    · grind only

@[simp] theorem vital_saveRemc (mt : Nat) (s : State) : vital (saveRemc mt s) = vital s := by
  unfold saveRemc
  split
  · rfl
  · exact vital_foldl (fun _ _ => vital_noteRemc ..) _ _

/-! ### The progress trackers -/

@[simp] theorem vital_enqueue (s : State) (trk input : Nat) (b : List Post) : vital (State.enqueue s trk input b) = vital s := rfl

theorem vital_execTrackerBatch {trk input : Nat} {s t : State} (ht : execTrackerBatch trk input s = .next t) : vital t = vital s := by
  grind only [execTrackerBatch, vital_act, vital_enqueue, vital_with]

theorem vital_execWaitfRegister {trk : Nat} {s t : State} (ht : execWaitfRegister trk s = .next t) : vital t = vital s := by
  grind only [execWaitfRegister, vital_act, vital_with]

theorem vital_execFrontierRelease {trk index : Nat} {s t : State} (ht : execFrontierRelease trk index s = .next t) : vital t = vital s := by
  grind only [execFrontierRelease, vital_act, vital_modAt, vital_with]

theorem vital_answerQuery {trk : Nat} {s : State} {m : Msg} {t : State} (ht : answerQuery trk s m = some t) : vital t = vital s := by
  grind only [answerQuery, → vital_answer, vital_with]

theorem vital_execFrontQuery {trk : Nat} {s t : State} (ht : execFrontQuery trk s = .next t) : vital t = vital s := by
  unfold execFrontQuery at ht
  split at ht
  · obtain ⟨m, -, hm⟩ := exists_of_firstSome ‹_›
    cases ht
    exact (vital_act _).trans (vital_answerQuery hm)
  · grind only

/-! ### Video streams -/

@[simp] theorem vital_readMore (h bind sig : Nat) (v : VStream) (s : State) : vital (readMore h bind sig v s) = vital s := by
  unfold readMore
  split <;> simp

theorem vital_deliverSyn {req : Nat} {s t : State} (ht : deliverSyn req s = .next t) : vital t = vital s := by
  grind only [deliverSyn, vital_act, vital_setStream, vital_with]

theorem vital_execResponseDelivery {req : Nat} {s t : State} (ht : execResponseDelivery req s = .next t) : vital t = vital s := by
  grind only [execResponseDelivery, → vital_deliverSyn, → vital_deliverSlot]

theorem vital_synAnswer {r : Res} {bind : Nat} {m : Msg} {outs : List Out} {s t : State} (ht : synAnswer r bind m outs s = some t) :
    vital t = vital s := by
  grind only [synAnswer, → vital_answer]

theorem vital_synHead {s t : State} {h bind op : Nat} {r : Res} {m : Msg} (ht : synHead s h bind op = some (r, m, t)) :
    vital t = vital s := by
  grind only [synHead, vital_setSyn]

theorem vital_execVopen {res bind : Nat} {s t : State} (ht : execVopen res bind s = .next t) : vital t = vital s := by
  grind only [execVopen, → vital_synHead, vital_act, vital_holdMsg, vital_setSyn, vital_post]

theorem vital_execVqry {res bind : Nat} {s t : State} (ht : execVqry res bind s = .next t) : vital t = vital s := by
  grind only [execVqry, → vital_synHead, → vital_synAnswer, vital_act]

theorem vital_execVfree {res bind : Nat} {s t : State} (ht : execVfree res bind s = .next t) : vital t = vital s := by
  grind only [execVfree, → vital_synHead, vital_addXsc, vital_setStream, → vital_synAnswer, vital_act]

theorem vital_execVclose {res bind : Nat} {s t : State} (ht : execVclose res bind s = .next t) : vital t = vital s := by
  grind only [execVclose, → vital_synHead, → vital_synAnswer, vital_act, vital_setStream]

theorem vital_execStreamParseStart {res bind sigma : Nat} {s t : State} (ht : execStreamParseStart res bind sigma s = .next t) :
    vital t = vital s := by
  grind only [execStreamParseStart, vital_act, vital_readMore]

@[simp] theorem vital_laneCycle (h bind sig : Nat) (s : State) : vital (laneCycle h bind sig s) = vital s := by
  grind only [laneCycle, vital_setStream, vital_readMore]

@[simp] theorem vital_synCycle (s : State) : vital (synCycle s) = vital s :=
  vital_foldl (fun _ _ => vital_foldl (fun _ _ => vital_laneCycle ..) _ _) _ _

theorem vital_synSend {r : Res} {m : Msg} {outs : List Out} {s t : State} {ps : List Post} (ht : synSend r m outs s = some (t, ps)) :
    vital t = vital s := by
  grind only [synSend, → vital_mtSend]

@[simp] theorem vital_allocWait (r : Res) (key : Nat) (a : Alloc) (off n : Nat) (s : State) :
    vital (allocWait r key a off n s) = vital s := by
  unfold allocWait
  split <;> simp

@[simp] theorem vital_writeAlloc (r : Res) (key : Nat) (a : Alloc) (off : Nat) (bs : List Byte) (s : State) :
    vital (writeAlloc r key a off bs s) = vital s := by
  unfold writeAlloc
  split <;> simp

theorem vital_execPictureDelivery {res bind : Nat} {s t : State} (ht : execPictureDelivery res bind s = .next t) :
    vital t = vital s := by
  simp only [execPictureDelivery] at ht
  repeat' split at ht
  all_goals grind only [vital_act, vital_setStream, vital_raise, vital_allocWait, vital_writeAlloc, → vital_synSend, vital_post]

@[simp] theorem vital_endStream (k sig st : Nat) (v : VStream) (s : State) : vital (endStream k sig st v s) = vital s := by
  simp [endStream]

theorem vital_execSyntaxStreamEnd {res bind sigma : Nat} {s t : State} (ht : execSyntaxStreamEnd res bind sigma s = .next t) :
    vital t = vital s := by
  simp only [execSyntaxStreamEnd] at ht
  repeat' split at ht
  all_goals grind only [vital_act, vital_setStream, vital_raise, vital_endStream, → vital_synSend, vital_coreDone, vital_post]

end Sys2Proof.Proofs.Vital
end

section
/-! PROOFS. What the invariant reads stays as it is: the Dispatcher: tasks, files, admission, snapshots. -/

namespace Sys2Proof.Proofs.Vital

open Sys2Proof Sys2Proof.Machine Sys2Proof.Safety Sys2Proof.Laws

/-! ### The Dispatcher -/

@[simp] theorem vital_quadFreed (s : State) : vital (quadFreed s) = vital s := rfl

theorem vital_answerSrc {src : LSrc} {outs : Msg → List Out} {aborted : Bool} {s t : State} (ht : answerSrc src outs aborted s = some t) :
    vital t = vital s := by
  unfold answerSrc at ht
  grind only [→ vital_answer, vital_coreDone, vital_with]

@[simp] theorem vital_holdReq (q : DReq) (src : LSrc) (asid : Nat) (cls : FClass) (fflg : Nat) (s : State) :
    vital (holdReq q src asid cls fflg s) = vital s := rfl

theorem vital_execWaitReevaluate {h : Nat} {s t : State} (ht : execWaitReevaluate h s = .next t) : vital t = vital s := by
  grind only [execWaitReevaluate, vital_act, vital_modTask]

@[simp] theorem vital_newRecord (s : State) (i : Nat) (q : LaunchReq) : vital (newRecord s i q) = vital s := rfl

@[simp] theorem vital_launchovf (slot cause asid : Nat) (v : W64) (s : State) : vital (launchovf slot cause asid v s) = vital s := rfl

@[simp] theorem vital_noteMade (q : LaunchReq) (id : Nat) (s : State) : vital (noteMade q id s) = vital s := by
  grind only [noteMade, vital_with]

theorem vital_createFrom {q : LaunchReq} {s t : State} (ht : createFrom q s = some t) : vital t = vital s := by
  unfold createFrom at ht
  repeat' split at ht
  all_goals grind only [vital_holdReq, → vital_answerSrc, vital_noteMade, vital_newRecord]

theorem vital_createWatch {slot : Nat} {w : Watch} {s t : State} (ht : createWatch slot w s = some t) : vital t = vital s := by
  grind only [createWatch, vital_launchovf, vital_newRecord, vital_with]

theorem vital_execTaskCreate {s t : State} (ht : execTaskCreate s = .next t) : vital t = vital s := by
  grind only [execTaskCreate, → vital_createFrom, vital_modDsp, vital_act, → vital_createWatch]

theorem vital_applyJoin {j : JoinReq} {s t : State} (ht : applyJoin j s = some t) : vital t = vital s := by
  simp only [applyJoin] at ht
  split at ht
  · exact (vital_answerSrc ht).trans (vital_modDsp s fun _ => rfl)
  · split at ht
    · cases ht
      exact vital_holdReq ..
    · exact (vital_answerSrc ht).trans ((vital_modTask ..).trans (vital_ite (vital_modDsp s (fun _ => rfl)) rfl))

theorem vital_execJoinApply {s t : State} (ht : execJoinApply s = .next t) : vital t = vital s := by
  grind only [execJoinApply, → vital_applyJoin, vital_modDsp, vital_act]

@[simp] theorem vital_claim (h die x y : Nat) (s : State) : vital (claim h die x y s) = vital s := rfl

theorem selectRecord_ctl {s : State} {h : Nat} {x : Task} {dsp : Dsp} (hsel : selectRecord s = some (h, x, dsp)) :
    dsp.ctl = s.dsp.ctl := by
  simp only [selectRecord] at hsel
  repeat' split at hsel
  all_goals cases hsel
  all_goals rfl

theorem vital_execTaskSelect {s t : State} (ht : execTaskSelect s = .next t) : vital t = vital s := by
  unfold execTaskSelect at ht
  split at ht
  · cases ht
    rfl
  · rename_i h x dsp hsel
    have hdsp : vital { s with dsp := dsp } = vital s := vital_with s (selectRecord_ctl hsel) rfl rfl rfl
    dsimp only at ht
    split at ht
    · cases ht
      exact hdsp
    · split at ht
      · cases ht
        exact (vital_act _).trans ((vital_claim ..).trans hdsp)
      · cases ht
        refine (vital_act _).trans ((vital_modTask ..).trans (Eq.trans (vital_ite ?_ rfl) hdsp))
        split
        · exact vital_modDsp _ fun _ => rfl
        · rfl

theorem vital_execPriorityAging {h : Nat} {s t : State} (ht : execPriorityAging h s = .next t) : vital t = vital s := by
  grind only [execPriorityAging, vital_act, vital_modTask]

@[simp] theorem vital_freeTask (h : Nat) (s : State) : vital (freeTask h s) = vital s := by
  grind only [freeTask, vital_modDsp, vital_quadFreed, vital_modTask]

@[simp] theorem vital_dropLoads (h : Nat) (s : State) : vital (dropLoads h s) = vital s := rfl

@[simp] theorem vital_dropCounts (h lo hi : Nat) (s : State) : vital (dropCounts h lo hi s) = vital s := rfl

@[simp] theorem vital_dropWaiters (h : Nat) (s : State) : vital (dropWaiters h s) = vital s := rfl

@[simp] theorem vital_vacate (r : Res) (s : State) : vital (vacate r s) = vital s :=
  (vital_foldl (fun _ _ => vital_modMt ..) _ _).trans (vital_foldl (fun _ _ => vital_modAt ..) _ _)

@[simp] theorem vital_retireRes (h : Nat) (s : State) : vital (retireRes h s) = vital s := by
  unfold retireRes
  split <;> simp

@[simp] theorem vital_failLoad (h : Nat) (d : Desc) (e : LoadErr) (s : State) : vital (failLoad h d e s) = vital s := by
  simp [failLoad]

theorem vital_execBlockLoad {h : Nat} {s t : State} (ht : execBlockLoad h s = .next t) : vital t = vital s := by
  grind only [execBlockLoad, vital_act, vital_failLoad, vital_modTask, vital_modAt]

theorem vital_execEnterDraining {h : Nat} {s t : State} (ht : execEnterDraining h s = .next t) : vital t = vital s := by
  grind only [execEnterDraining, vital_act, vital_modRes, vital_modTask]

theorem vital_execRetire {h : Nat} {s t : State} (ht : execRetire h s = .next t) : vital t = vital s := by
  grind only [execRetire, vital_act, vital_retireRes, vital_vacate]

theorem vital_execDrainLimitExpiry {h : Nat} {s t : State} (ht : execDrainLimitExpiry h s = .next t) : vital t = vital s := by
  grind only [execDrainLimitExpiry, vital_act, vital_modDsp]

@[simp] theorem vital_watchStore (slot : Nat) (v : W64) (s : State) : vital (watchStore slot v s) = vital s := by
  grind only [watchStore, vital_launchovf, vital_with]

theorem vital_execWatchedStore {s t : State} (ht : execWatchedStore s = .next t) : vital t = vital s := by
  unfold execWatchedStore at ht
  split at ht <;> cases ht <;> simp

theorem vital_execWatchWindowWrite {slot : Nat} {value : BitVec 64} {s t : State} (ht : execWatchWindowWrite slot value s = .next t) :
    vital t = vital s := by
  unfold execWatchWindowWrite at ht
  split at ht <;> cases ht <;> simp

theorem vital_execDspstClear {s t : State} (ht : execDspstClear s = .next t) : vital t = vital s := by
  grind only [execDspstClear, vital_act, vital_modDsp]

/-! ### Skein files -/

theorem vital_execSkeinFileLoad {addr asid : Nat} {s t : State} (ht : execSkeinFileLoad addr asid s = .next t) : vital t = vital s := by
  unfold execSkeinFileLoad at ht
  split at ht <;> cases ht <;> simp

/-! ### Admission of tokens -/

theorem vital_execTokenAdmission {tile : TileId} {chan : Nat} {s t : State} (ht : execTokenAdmission tile chan s = .next t) :
    vital t = vital s := by
  grind only [execTokenAdmission, vital_modAt, vital_modMt, vital_act, vital_post]

@[simp] theorem vital_spillOne (h : Nat) (e : Nat × BackQ) (s : State) : vital (spillOne h e s) = vital s := by
  grind only [spillOne, vital_atBanks, vital_modRes, vital_scrPut]

@[simp] theorem vital_spillCycle (s : State) : vital (spillCycle s) = vital s :=
  vital_foldl (fun _ _ => vital_ite rfl (vital_foldl (fun _ _ => vital_spillOne ..) _ _)) _ _

theorem vital_execBackqMove {tile : TileId} {chan : Nat} {s t : State} (ht : execBackqMove tile chan s = .next t) : vital t = vital s := by
  grind only [execBackqMove, vital_modRes, vital_act, vital_post, vital_setAt, vital_atBanks]

theorem vital_execSlotAged {tile : TileId} {slot : Nat} {s t : State} (ht : execSlotAged tile slot s = .next t) : vital t = vital s := by
  grind only [execSlotAged, vital_act, vital_modAt]

/-! ### The irregular streams -/

@[simp] theorem vital_keepWalk (c : Ctx) (w : Walk) (eatL eatR : Bool) (s : State) : vital (keepWalk c w eatL eatR s) = vital s := rfl

theorem vital_owedSend {k slot : Nat} {s t : State} (ht : owedSend k slot s = some t) : vital t = vital s := by
  grind only [owedSend, vital_modAt, vital_post, → vital_sendAll, Option.map_eq_some_iff]

@[simp] theorem vital_owedCycle (s : State) : vital (owedCycle s) = vital s :=
  vital_foldl (fun _ _ => vital_foldl (fun _ _ => vital_ite rfl (vital_getD (vital_countRefused ..) fun _ => vital_owedSend)) _ _) _ _

/-! ### The image of a frozen residency -/

@[simp] theorem vital_saveImage (h : Nat) (r : Res) (cause : Nat) (s : State) : vital (saveImage h r cause s) = vital s := by
  refine (vital_foldl (fun _ _ => vital_raise ..) _ _).trans (vital_ite ?_ ?_)
  · exact vital_with s rfl rfl rfl rfl
  · exact (vital_noteUe ..).trans (vital_with s rfl rfl rfl rfl)

@[simp] theorem vital_saveLoad (h : Nat) (d : Desc) (cause : Nat) (s : State) : vital (saveLoad h d cause s) = vital s := rfl

/-! ### Updates at their owner -/

@[simp] theorem vital_wakeRange (q : Req) (e : Elt) (o n : Nat) (s : State) : vital (wakeRange q e o n s) = vital s :=
  vital_ite rfl (vital_foldl (fun _ _ => vital_wake ..) _ _)

@[simp] theorem vital_takeBank (r : Res) (off : Nat) (s : State) : vital (takeBank r off s) = vital s := rfl

@[simp] theorem vital_addDet (home : Nat) (c : CEnt) (s : State) : vital (addDet home c s) = vital s := by
  unfold addDet
  split <;> rfl

@[simp] theorem vital_movePend (id : Nat) (s : State) : vital (movePend id s) = vital s := by
  grind only [movePend, vital_post, vital_setReq]

@[simp] theorem vital_acceptDet (s : State) (id i w home : Nat) (q : Req) (e : Elt) : vital (acceptDet s id i w home q e) = vital s := by
  grind only [acceptDet, vital_act, vital_movePend, vital_setReq, vital_addDet]

@[simp] theorem vital_noteApplied (home port : Nat) (win : Window) (seq req i : Nat) (s : State) :
    vital (noteApplied home port win seq req i s) = vital s := by
  grind only [noteApplied, vital_modHome]

@[simp] theorem vital_useOwner (home : Nat) (s : State) : vital (useOwner home s) = vital s := rfl

@[simp] theorem vital_dropDet (home : Nat) (c : CEnt) (s : State) : vital (dropDet home c s) = vital s := by
  unfold dropDet
  split <;> rfl

theorem vital_execEndToEndTimeout {req : Nat} {s t : State} (ht : execEndToEndTimeout req s = .next t) : vital t = vital s := by
  unfold execEndToEndTimeout at ht
  split at ht
  · cases ht
    rfl
  · repeat' split at ht
    all_goals cases ht
    all_goals try rfl
    exact vital_foldl (fun _ _ => vital_dropPrefetch ..) _ _

@[simp] theorem vital_ackCycle (s : State) : vital (ackCycle s) = vital s := rfl

@[simp] theorem vital_loseAnswer (req elem : Nat) (s : State) : vital (loseAnswer req elem s) = vital s := by
  grind only [loseAnswer, vital_setReq]

theorem vital_execMarkOnlyPacket {home port : Nat} {s t : State} (ht : execMarkOnlyPacket home port s = .next t) : vital t = vital s := by
  grind only [execMarkOnlyPacket, vital_act, vital_modHome]

/-! ### Freezing -/

theorem vital_execFreezeRequest {h cause : Nat} {s t : State} (ht : execFreezeRequest h cause s = .next t) : vital t = vital s := by
  grind only [execFreezeRequest, State.modDsp, vital_with, vital_modTask, vital_act, vital_dropLoads, vital_modRes]

@[simp] theorem vital_claimAfter (victim : Nat) (s : State) : vital (claimAfter victim s) = vital s :=
  (vital_foldl (fun _ _ => vital_ite (vital_claim ..) rfl) _ _).trans (vital_modDsp s fun _ => rfl)

@[simp] theorem vital_freezeTask (h : Nat) (s : State) : vital (freezeTask h s) = vital s := rfl

@[simp] theorem vital_freezeStreams (h : Nat) (s : State) : vital (freezeStreams h s) = vital s := rfl

@[simp] theorem vital_giveLanes (h : Nat) (r : Res) (s : State) : vital (giveLanes h r s) = vital s := by
  refine vital_foldl (fun s x => ?_) _ _
  simp

theorem vital_execScanOut {h : Nat} {s t : State} (ht : execScanOut h s = .next t) : vital t = vital s := by
  have hremc (l : List Nat) : vital (l.foldl (fun s k => saveRemc k s) s) = vital s := vital_foldl (fun _ _ => vital_saveRemc ..) _ _
  simp only [execScanOut] at ht
  repeat' split at ht
  all_goals grind only [vital_act, vital_with, vital_freezeTask, vital_saveLoad, vital_saveImage, vital_freezeStreams, vital_dropWaiters,
    vital_dropCounts, vital_vacate, vital_claimAfter, vital_retireRes, vital_raise]

@[simp] theorem vital_moveQueries (h : Nat) (f : Nat → Nat) (s : State) : vital (moveQueries h f s) = vital s := by
  refine vital_foldl (fun s x => ?_) _ _
  simp

@[simp] theorem vital_moveOutside (h : Nat) (f : Nat → Nat) (s : State) : vital (moveOutside h f s) = vital s := by
  simp [moveOutside]

@[simp] theorem vital_pairAll (h : Nat) (d : Desc) (asid : Nat) (s : State) : vital (pairAll h d asid s) = vital s := by
  refine vital_foldl (fun s x => ?_) _ _
  split <;> simp

@[simp] theorem vital_loadTbi (r : Res) (i : TbImage) (s : State) : vital (loadTbi r i s) = vital s := rfl

@[simp] theorem vital_loadCmb (h : Nat) (r : Res) (c : CmbDecl) (s : State) : vital (loadCmb h r c s) = vital s := by
  simp [loadCmb]

theorem vital_addCounts {trk : Nat} {ps : List Post} {s t : State} (ht : addCounts trk ps s = some t) : vital t = vital s := by
  obtain ⟨x, -, rfl⟩ := Option.map_eq_some_iff.1 ht
  exact vital_with s rfl rfl rfl rfl

theorem vital_startRes {h : Nat} {d : Desc} {s t : State} (ht : startRes h d s = some t) : vital t = vital s := by
  simp only [startRes] at ht
  split at ht
  · cases ht
  · rename_i s1 hcounts
    obtain ⟨s2, hs2, h2⟩ := Option.bind_eq_some_iff.1 hcounts
    obtain ⟨s3, hs3, h3⟩ := Option.bind_eq_some_iff.1 hs2
    cases ht
    refine (vital_setAt ..).trans ((vital_addCounts h2).trans ((vital_addCounts h3).trans ((vital_addCounts hs3).trans ?_)))
    refine (vital_giveLanes ..).trans ?_
    refine (vital_foldl (fun _ _ => vital_loadCmb ..) _ _).trans ?_
    refine (vital_foldl (fun _ _ => vital_scrPut ..) _ _).trans ?_
    refine (vital_foldl (fun _ _ => vital_loadTbi ..) _ _).trans ?_
    refine (vital_foldl (fun _ _ => vital_modMt ..) _ _).trans ?_
    refine (vital_foldl (fun _ _ => vital_foldl (fun _ _ => vital_modAt ..) _ _) _ _).trans ?_
    exact vital_with s rfl rfl rfl rfl

@[simp] theorem vital_freshWindows (r : Res) (s : State) : vital (freshWindows r s) = vital s := rfl

theorem vital_restoreRes {h : Nat} {r0 : Res} {im : Image} {s t : State} (ht : restoreRes h r0 im s = some t) :
    vital t = vital s := by
  simp only [restoreRes] at ht
  split at ht
  · cases ht
  · rename_i s1 hcounts
    refine (vital_addCounts ht).trans (foldl_bind_induction (P := fun x => vital x = vital s) ?_ ?_ hcounts)
    · exact fun _ _ _ hb hc => (vital_addCounts hc).trans hb
    · intro b hb
      cases hb
      refine (vital_foldl (fun _ _ => vital_setMt ..) _ _).trans ((vital_foldl (fun _ _ => vital_modAt ..) _ _).trans ?_)
      exact (vital_giveLanes ..).trans ((vital_freshWindows ..).trans ((vital_moveOutside ..).trans (vital_with s rfl rfl rfl rfl)))

theorem vital_execActivation {h : Nat} {s t : State} (ht : execActivation h s = .next t) : vital t = vital s := by
  grind only [execActivation, vital_act, vital_modTask, vital_failLoad, → vital_restoreRes, → vital_startRes, vital_pairAll, vital_with]

/-! ### Snapshots -/

@[simp] theorem vital_holdSnap (r : Res) (m : Msg) (word : Nat) (s : State) : vital (holdSnap r m word s) = vital s := by
  simp [holdSnap]

theorem vital_execSnapshotRequest {s t : State} (ht : execSnapshotRequest s = .next t) : vital t = vital s := by
  grind only [execSnapshotRequest, vital_act, vital_holdSnap, vital_with]

theorem vital_execSnapshotMarked {s t : State} (ht : execSnapshotMarked s = .next t) : vital t = vital s := by
  grind only [execSnapshotMarked, → vital_reply, vital_act, vital_post, vital_with]

@[simp] theorem vital_startPage (n : Snap) (p : Nat) (s : State) : vital (startPage n p s) = vital s := by
  unfold startPage
  split <;> simp

theorem vital_execSnapshotCut {s t : State} (ht : execSnapshotCut s = .next t) : vital t = vital s := by
  grind only [execSnapshotCut, vital_act, vital_startPage, vital_with]

@[simp] theorem vital_releasePage (src : Nat) (s : State) : vital (releasePage src s) = vital s := rfl

@[simp] theorem vital_dropSnapReqs (s : State) : vital (dropSnapReqs s) = vital s := rfl

theorem vital_endSnap {n : Snap} {outs : List Out} {aborted : Bool} {s t : State} (ht : endSnap n outs aborted s = some t) :
    vital t = vital s := by
  grind only [endSnap, Option.map_eq_some_iff, vital_dropSnapReqs, → vital_reply, vital_coreDone, vital_post, vital_with]

theorem vital_execSnapshotPageCopied {page : Nat} {s t : State} (ht : execSnapshotPageCopied page s = .next t) : vital t = vital s := by
  unfold execSnapshotPageCopied at ht
  grind only [vital_releasePage, vital_dropSnapReqs, vital_act, vital_startPage, → vital_endSnap]

theorem vital_abortSnap {s t : State} (ht : abortSnap s = some t) : vital t = vital s := by
  have hpages (l : List SnapPage) : vital (l.foldl (fun s g => releasePage g.src s) s) = vital s :=
    vital_foldl (fun _ _ => vital_releasePage ..) _ _
  grind only [abortSnap, Option.map_eq_some_iff, → vital_endSnap, vital_markFailed]

end Sys2Proof.Proofs.Vital
end

section
/-! PROOFS. What the invariant reads stays as it is: faults, registers, cores, boards and the cycle. -/

namespace Sys2Proof.Proofs.Vital

open Sys2Proof Sys2Proof.Machine Sys2Proof.Safety Sys2Proof.Laws

/-! ### Faults -/

theorem vital_execFaultRecordEntry {s t : State} (ht : execFaultRecordEntry s = .next t) : vital t = vital s := by
  grind only [execFaultRecordEntry, vital_modFaults, vital_act, vital_modAt]

@[simp] theorem vital_modOpen (fid : Nat) (f : Open → Open) (s : State) : vital (modOpen fid f s) = vital s := rfl

@[simp] theorem vital_dropOpen (fid : Nat) (s : State) : vital (dropOpen fid s) = vital s := rfl

theorem vital_execClaimEscalation {fid : Nat} {s t : State} (ht : execClaimEscalation fid s = .next t) : vital t = vital s := by
  grind only [execClaimEscalation, vital_act, vital_modOpen]

theorem vital_endSlot {r : Res} {k slot : Nat} {t : Time} {i : Instr} {outs : List Out} {s u : State}
    (ht : endSlot r k slot t i outs s = some u) : vital u = vital s := by
  grind only [endSlot, vital_setAt, → vital_sendAll, vital_post]

theorem vital_slotDisp {k slot : Nat} {d : Disp} {s t : State} (ht : slotDisp k slot d s = some t) : vital t = vital s := by
  simp only [slotDisp] at ht
  repeat' split at ht
  all_goals grind only [→ vital_endSlot, vital_setAt, vital_markFailed, Option.map_eq_some_iff]

theorem vital_agenDisp {k ctx : Nat} {d : Disp} {s t : State} (ht : agenDisp k ctx d s = some t) : vital t = vital s := by
  grind only [agenDisp, vital_setAt, vital_markFailed, vital_post, → vital_sendAll, Option.map_eq_some_iff]

@[simp] theorem vital_dropCtxElts (mt ctx : Nat) (strm : Bool) (s : State) : vital (dropCtxElts mt ctx strm s) = vital s := rfl

@[simp] theorem vital_failCtx (mt ctx : Nat) (strm : Bool) (s : State) : vital (failCtx mt ctx strm s) = vital s := rfl

@[simp] theorem vital_failMsg (m : Msg) (s : State) : vital (failMsg m s) = vital s := by
  unfold failMsg
  split <;> simp

theorem vital_abortReq {id : Nat} {q : Req} {s t : State} (ht : abortReq id q s = some t) : vital t = vital s := by
  grind only [abortReq, vital_markFailed, vital_setReq, vital_dropCtxElts, vital_failCtx, vital_failMsg, vital_setStream,
    → vital_abortSnap, vital_with]

@[simp] theorem vital_afterSkip (id i : Nat) (s : State) : vital (afterSkip id i s) = vital s := by
  grind only [afterSkip, vital_burstDone, vital_movePend]

@[simp] theorem vital_skipPage (q : Req) (s : State) : vital (skipPage q s) = vital s :=
  (vital_foldl (fun _ _ => vital_foldl (fun _ _ => vital_ite rfl (vital_closeElt ..)) _ _) _ _).trans (vital_with s rfl rfl rfl rfl)

@[simp] theorem vital_retryElt (id i : Nat) (q : Req) (e : Elt) (cls : FClass) (s : State) : vital (retryElt id i q e cls s) = vital s := by
  grind only [retryElt, vital_setReq, vital_modPt, vital_issueElts]

@[simp] theorem vital_skipCopy (id i : Nat) (q : Req) (e : Elt) (cls : FClass) (f : FRec) (s : State) :
    vital (skipCopy id i q e cls f s) = vital s := by
  refine vital_foldl (fun s x => ?_) _ _
  split <;> simp

theorem vital_elemDisp {id i : Nat} {f : FRec} {d : Disp} {s t : State} (ht : elemDisp id i f d s = some t) :
    vital t = vital s := by
  simp only [elemDisp] at ht
  repeat' split at ht
  all_goals grind only [vital_retryElt, vital_skipPage, vital_skipCopy, vital_afterSkip, vital_setReq, → vital_abortReq,
    Option.map_eq_some_iff]

theorem vital_requestDisp {id : Nat} {d : Disp} {s t : State} (ht : requestDisp id d s = some t) : vital t = vital s := by
  simp only [requestDisp] at ht
  split at ht
  · cases ht
    rfl
  · split at ht
    · cases ht
      rfl
    · split at ht
      · cases ht
        exact (vital_issueElts ..).trans (vital_setReq ..)
      · cases ht
        exact (vital_foldl (fun _ _ => vital_afterSkip ..) _ _).trans (vital_setReq ..)
      · obtain ⟨u, hu, rfl⟩ := Option.map_eq_some_iff.1 ht
        exact (vital_foldl (fun _ _ => vital_afterSkip ..) _ _).trans ((vital_abortReq hu).trans (vital_setReq ..))

theorem vital_strmDisp {mt ctx : Nat} {d : Disp} {s t : State} (ht : strmDisp mt ctx d s = some t) : vital t = vital s := by
  grind only [strmDisp, vital_startTiles, vital_putStrm, vital_failMsg, vital_dropCtxElts, vital_failCtx, vital_dropReq, vital_coreDone,
    vital_post, → vital_engineSend, vital_modMt, Option.map_eq_some_iff]

theorem vital_streamDisp {h bind sig : Nat} {d : Disp} {s t : State} (ht : streamDisp h bind sig d s = some t) : vital t = vital s := by
  grind only [streamDisp, vital_setStream, vital_failMsg, vital_endStream, vital_coreDone, vital_post, → vital_synSend,
    Option.map_eq_some_iff]

@[simp] theorem vital_putBack (mt : Nat) (m : Msg) (s : State) : vital (putBack mt m s) = vital s := by
  grind only [putBack, vital_modMt, vital_with]

theorem vital_msgDisp {id : Nat} {d : Disp} {s t : State} (ht : msgDisp id d s = some t) : vital t = vital s := by
  simp only [msgDisp] at ht
  repeat' split at ht
  all_goals grind only [vital_with, vital_markSlot, vital_putBack, → vital_answer, → vital_reply, vital_failMsg, vital_coreDone,
    vital_post, Option.map_eq_some_iff]

theorem vital_dreqDisp {id : Nat} {d : Disp} {s t : State} (ht : dreqDisp id d s = some t) : vital t = vital s := by
  grind only [dreqDisp, vital_modDsp, → vital_answerSrc, vital_failMsg, Option.map_eq_some_iff]

theorem vital_applyDisp {f : FRec} {d : Disp} {s t : State} (ht : applyDisp f d s = some t) : vital t = vital s := by
  grind only [applyDisp, → vital_slotDisp, → vital_agenDisp, → vital_elemDisp, → vital_strmDisp, → vital_msgDisp, → vital_streamDisp,
    → vital_requestDisp, → vital_dreqDisp]

@[simp] theorem vital_tellIssuer (q : DispReq) (code : Nat) (s : State) : vital (tellIssuer q code s) = vital s := by
  unfold tellIssuer
  split
  · refine vital_with s rfl rfl (coreView_upd (fun x => ?_) fun x => ?_) rfl <;> split <;> rfl
  · exact vital_ite (vital_with s rfl rfl rfl rfl) rfl

@[simp] theorem vital_closeRec (o : Open) (q : DispReq) (s : State) : vital (closeRec o q s) = vital s := by
  grind only [closeRec, vital_dropOpen, vital_modFaults]

@[simp] theorem vital_addStale (s : State) : vital (addStale s) = vital s := rfl

theorem vital_settle {q : DispReq} {s t : State} (ht : settle q s = some t) : vital t = vital s := by
  grind only [settle, vital_modFaults, vital_addStale, vital_tellIssuer, vital_closeRec, → vital_applyDisp, Option.map_eq_some_iff]

theorem vital_execDisposition {s t : State} (ht : execDisposition s = .next t) : vital t = vital s := by
  unfold execDisposition at ht
  split at ht
  · obtain ⟨q, -, hq⟩ := exists_of_firstSome ‹_›
    cases ht
    exact (vital_act _).trans (vital_settle hq)
  · cases ht
    rfl

theorem vital_execHostResumeWrite {value : BitVec 64} {s t : State} (ht : execHostResumeWrite value s = .next t) :
    vital t = vital s := by
  grind only [execHostResumeWrite, vital_newId, vital_with, vital_modFaults, vital_act]

/-! ### Registers and counts -/

@[simp] theorem vital_clearDspst (s : State) : vital (clearDspst s) = vital s := rfl

@[simp] theorem vital_setClaim (word : Nat) (v : W64) (s : State) : vital (setClaim word v s) = vital s := by
  unfold setClaim
  split <;> rfl

/-! ### Service cores -/

@[simp] theorem vital_retireDmx (c : Nat) (rd : BitVec 5) (v : W64) (s : State) : vital (retireDmx c rd v s) = vital s := by
  refine (vital_act _).trans (vital_modCore s c (fun x => ?_) fun x => ?_)
  · unfold Core.setReg
    split <;> rfl
  · unfold Core.setReg
    split <;> rfl

@[simp] theorem vital_finishCmd (c id st : Nat) (v : W64) (s : State) : vital (finishCmd c id st v s) = vital s :=
  vital_modCore s c (fun _ => rfl) fun _ => rfl

@[simp] theorem vital_sentOn (c id : Nat) (v : W64) (s : State) : vital (sentOn c id v s) = vital s := by
  simp [sentOn]

@[simp] theorem vital_applied (c id : Nat) (v : W64) (s : State) : vital (applied c id v s) = vital s := by
  simp [applied]

/-- A command that waits in its core. -/
theorem vital_pend (c : Nat) (q : Cmd) (s : State) :
    vital (s.modCore c fun x => { x with nextCmd := nextCmdId q.id, pending := x.pending ++ [q] }) = vital s :=
  vital_modCore s c (fun _ => rfl) fun _ => rfl

@[simp] theorem vital_issueCmd (c : Nat) (q : Cmd) (bad : Bool) (s : State) : vital (issueCmd c q bad s) = vital s := by
  unfold issueCmd
  dsimp only
  refine vital_ite ((vital_finishCmd ..).trans (vital_pend ..)) (vital_ite (vital_pend ..) ?_)
  split
  · exact (vital_finishCmd ..).trans (vital_pend ..)
  · refine (vital_deliver_S ..).trans ((vital_with _ rfl rfl rfl rfl).trans ?_)
    exact (vital_numbered ..).trans ((vital_sentOn ..).trans (vital_pend ..))

@[simp] theorem vital_modFile (s : State) (a : Nat) (f : SkFile → SkFile) : vital (State.modFile s a f) = vital s := rfl

@[simp] theorem vital_serveAsk (s : State) : vital (serveAsk s) = vital s := by
  grind only [serveAsk, vital_act, vital_modDsp, vital_modFile, vital_with]

theorem vital_execCmdCreateTask {core : Nat} {s t : State} (ht : execCmdCreateTask core s = .next t) : vital t = vital s := by
  grind only [execCmdCreateTask, vital_serveAsk, vital_act, vital_finishCmd, vital_modDsp, vital_sentOn]

@[simp] theorem vital_cmdJoin (core : Nat) (set : Bool) (q : Cmd) (s : State) : vital (cmdJoin core set q s) = vital s := by
  unfold cmdJoin
  split <;> simp

theorem vital_execCmdJoinInit {core : Nat} {s t : State} (ht : execCmdJoinInit core s = .next t) : vital t = vital s := by
  unfold execCmdJoinInit at ht
  split at ht <;> cases ht <;> simp

theorem vital_execCmdJoinDec {core : Nat} {s t : State} (ht : execCmdJoinDec core s = .next t) : vital t = vital s := by
  unfold execCmdJoinDec at ht
  split at ht <;> cases ht <;> simp

theorem vital_execCmdRegisterTemplate {core : Nat} {s t : State} (ht : execCmdRegisterTemplate core s = .next t) : vital t = vital s := by
  grind only [execCmdRegisterTemplate, vital_modDsp, vital_act, vital_applied, vital_finishCmd, vital_with]

theorem vital_execCmdDropTemplate {core : Nat} {s t : State} (ht : execCmdDropTemplate core s = .next t) : vital t = vital s := by
  grind only [execCmdDropTemplate, vital_act, vital_finishCmd, vital_applied, vital_with]

theorem vital_execCmdSetWeight {core : Nat} {s t : State} (ht : execCmdSetWeight core s = .next t) : vital t = vital s := by
  grind only [execCmdSetWeight, vital_act, vital_finishCmd, vital_applied, vital_modDsp]

theorem vital_execCommandCompletion {core : Nat} {s t : State} (ht : execCommandCompletion core s = .next t) : vital t = vital s := by
  unfold execCommandCompletion at ht
  split at ht <;> cases ht <;> simp

theorem vital_deliverReply {handle : Nat} {v : Svc} {outs : List Out} {s t : State} (ht : deliverReply handle v outs s = some t) :
    vital t = vital s := by
  simp only [deliverReply] at ht
  repeat' split at ht
  all_goals grind only [→ vital_mtSend, vital_post, vital_with, Option.map_eq_some_iff]

/-! ### The base instruction set -/

@[simp] theorem vital_breakResv (c : Nat) (as : List Nat) (s : State) : vital (breakResv c as s) = vital s := by
  have hdrop : vital (as.foldl (fun s a => if a < 0x80000 then s else dropResv a 1 s) s) = vital s :=
    vital_foldl (fun _ _ => vital_ite rfl (vital_dropResv ..)) _ _
  refine vital_ite hdrop ((vital_modCore _ c (fun x => ?_) fun x => ?_).trans hdrop)
  all_goals split <;> rfl

@[simp] theorem vital_retireRv (c len : Nat) (wrote : Bool) (next : Option W64) (s : State) :
    vital (retireRv c len wrote next s) = vital s := by
  refine vital_modCore s c (fun x => ?_) fun x => ?_
  all_goals
    dsimp only
    split <;> rfl

/-! ### Boards -/

theorem vital_onTile {i : TileId} {f : AT → AT} {s t : State} (ht : onTile i f s = .next t) : vital t = vital s := by
  unfold onTile at ht
  split at ht <;> cases ht <;> simp

theorem vital_onDie {d : Nat} {f : Die → Die} {s t : State} (ht : onDie d f s = .next t) (hthrot : ∀ x, (f x).throt = x.throt)
    (hqmask : ∀ x, (f x).qmask = x.qmask) : vital t = vital s := by
  unfold onDie at ht
  split at ht <;> cases ht
  · exact vital_modDie s d hthrot hqmask
  · rfl

theorem vital_onRes {h : Nat} {f : Res → Res} {s t : State} (ht : onRes h f s = .next t) : vital t = vital s := by
  unfold onRes at ht
  split at ht <;> cases ht <;> simp

theorem vital_execTokstatClear {tile : TileId} {s t : State} (ht : execTokstatClear tile s = .next t) : vital t = vital s := by
  grind only [execTokstatClear, → vital_onTile]

theorem vital_execResstClear {res : Nat} {s t : State} (ht : execResstClear res s = .next t) : vital t = vital s := by
  grind only [execResstClear, → vital_onRes]

theorem vital_execFailtReset {res : Nat} {s t : State} (ht : execFailtReset res s = .next t) : vital t = vital s := by
  grind only [execFailtReset, → vital_onRes]

theorem vital_execErrcntClear {die : Nat} {s t : State} (ht : execErrcntClear die s = .next t) : vital t = vital s :=
  vital_onDie ht (fun _ => rfl) fun _ => rfl

theorem vital_execPerfselWrite {tile : TileId} {k : Nat} {value : W64} {s t : State} (ht : execPerfselWrite tile k value s = .next t) :
    vital t = vital s := by
  grind only [execPerfselWrite, → vital_onTile]

theorem vital_execSlewTableWrite {die crn : Nat} {value : W64} {s t : State} (ht : execSlewTableWrite die crn value s = .next t) :
    vital t = vital s := by
  unfold execSlewTableWrite at ht
  split at ht
  · refine vital_onDie ht (fun x => ?_) fun x => ?_
    all_goals
      unfold setSlewWord
      repeat' split
      all_goals rfl
  · cases ht
    rfl

@[simp] theorem vital_setMbbase (i : Nat) (v : W64) (s : State) : vital (setMbbase i v s) = vital s := by
  grind only [setMbbase, vital_modHost]

@[simp] theorem vital_setWin2base (v : W64) (s : State) : vital (setWin2base v s) = vital s := rfl

theorem vital_setMbpoll {v : W64} {s t : State} (ht : setMbpoll v s = .next t) : vital t = vital s := by
  unfold setMbpoll at ht
  split at ht <;> cases ht <;> simp

theorem vital_bar0Write {offset size : Nat} {value : W64} {s t : State} (ht : bar0Write offset size value s = .next t) :
    vital t = vital s := by
  grind only [bar0Write, vital_act, vital_setMbbase, vital_setWin2base, → vital_setMbpoll, vital_watchStore, → vital_execHostResumeWrite,
    vital_setClaim]

theorem vital_bar0Access {offset size : Nat} {write : Bool} {value : W64} {s t : State}
    (ht : bar0Access offset size write value s = .next t) : vital t = vital s := by
  grind only [bar0Access, → vital_bar0Write, vital_act, vital_modHost]

@[simp] theorem vital_deliverEntries (base set core n i : Nat) (s : State) :
    vital (deliverEntries base set core n i s) = vital s := by
  induction n generalizing i s with
  | zero => rfl
  | succ n ih => exact (ih _ _).trans ((vital_giveCore ..).trans (vital_with s rfl rfl rfl rfl))

theorem vital_execFlitReplay {flit : Flit} {kept : Bool} {s t : State} (ht : execFlitReplay flit kept s = .next t) :
    vital t = vital s := by
  cases flit with
  | token tile chan =>
    simp only [execFlitReplay] at ht
    split at ht <;> cases ht
    · refine (vital_act _).trans ((vital_modDie _ _ (fun x => ?_) fun x => ?_).trans (vital_ite (vital_modAt ..) rfl)) <;> rfl
    · rfl
  | service die => exact vital_onDie ht (fun _ => rfl) fun _ => rfl
  | saddle die n =>
    simp only [execFlitReplay] at ht
    split at ht
    · exact vital_onDie ht (fun _ => rfl) fun _ => rfl
    · cases ht
      rfl
  | sorpen die n => exact vital_onDie ht (fun _ => rfl) fun _ => rfl

theorem vital_execLaneRetrain {link : Nat} {failsAgain : Bool} {s t : State} (ht : execLaneRetrain link failsAgain s = .next t) :
    vital t = vital s := by
  unfold execLaneRetrain at ht
  split at ht <;> cases ht <;> simp

theorem vital_execLinkTraining {link : Nat} {peer : List (Nat × Nat)} {s t : State} (ht : execLinkTraining link peer s = .next t) :
    vital t = vital s := by
  unfold execLinkTraining at ht
  split at ht
  · cases ht
    rfl
  · split at ht <;> cases ht
    · exact vital_with s rfl rfl rfl rfl
    · refine (vital_act _).trans ((vital_modDie _ _ (fun x => ?_) fun x => ?_).trans (vital_with s ?_ ?_ ?_ ?_)) <;> rfl

theorem vital_execCxlLinkFailure {port : Nat} {s t : State} (ht : execCxlLinkFailure port s = .next t) : vital t = vital s := by
  grind only [execCxlLinkFailure, vital_act, vital_with]

/-! ### Slew -/

@[simp] theorem vital_modNodeOf (k : Nat) (f : Node → Node) (s : State) : vital (modNodeOf k f s) = vital s := rfl

@[simp] theorem vital_grantNodes (limit : Nat) (ks : List Nat) (s : State) (n : Nat) :
    vital (grantNodes limit ks s n) = vital s := by
  induction ks generalizing s n with
  | nil => rfl
  | cons k ks ih => exact vital_ite ((ih _ _).trans (vital_modNodeOf ..)) (ih _ _)

@[simp] theorem vital_fillNode (k : Nat) (s : State) : vital (fillNode k s) = vital s := by
  grind only [fillNode, vital_modNodeOf, vital_modAt]

theorem vital_execSlewCycle {die dom : Nat} {s t : State} (ht : execSlewCycle die dom s = .next t) : vital t = vital s := by
  have hfill (ks : List Nat) (s : State) : vital (ks.foldl (fun s k => fillNode k s) s) = vital s :=
    vital_foldl (fun _ _ => vital_fillNode ..) _ _
  grind only [execSlewCycle, vital_act, vital_with, vital_grantNodes]

theorem vital_execSlewTick {die dom : Nat} {s t : State} (ht : execSlewTick die dom s = .next t) : vital t = vital s := by
  simp only [execSlewTick] at ht
  split at ht
  · rw [← Host.Outcome.next.inj ht]
  · rw [← Host.Outcome.next.inj ht, vital_act, vital_with _ rfl rfl rfl rfl]
    exact vital_foldl (fun _ _ => vital_modNodeOf ..) _ _

theorem vital_execSlewIdleExpiry {die dom : Nat} {s t : State} (ht : execSlewIdleExpiry die dom s = .next t) : vital t = vital s := by
  grind only [execSlewIdleExpiry, vital_act, vital_with]

/-! ### Refused sends -/

@[simp] theorem vital_noteRefused (i : Instr) (s : State) : vital (noteRefused i s) = vital s := by
  unfold noteRefused
  split <;> simp

/-! ### A cycle -/

@[simp] theorem vital_deliverKept (handle : Nat) (v : Svc) (s : State) : vital (deliverKept handle v s) = vital s := by
  unfold deliverKept
  split
  · rfl
  · exact vital_ite rfl (vital_getD rfl fun _ => vital_deliverReply)

@[simp] theorem vital_tick (s : State) : vital (tick s) = vital s := by
  have hkept : vital (s.svcs.foldl (fun s e => deliverKept e.1 e.2 s) s) = vital s := vital_foldl (fun _ _ => vital_deliverKept ..) _ _
  simp only [tick, vital_bcCycle, vital_spillCycle, vital_meshStep, vital_synCycle, vital_ackCycle, vital_with, vital_sendBatches,
    vital_owedCycle, hkept]

/-! ### The next cycle -/

@[simp] theorem vital_nextCycle (s : State) : vital (nextCycle s) = vital s :=
  (vital_with (tick s) rfl rfl rfl rfl).trans (vital_tick s)

end Sys2Proof.Proofs.Vital
end

section
/-! PROOFS. What the invariant reads stays as it is in every firing of a fabric instruction. -/

namespace Sys2Proof.Proofs.Vital

open Sys2Proof Sys2Proof.Machine Sys2Proof.Safety Sys2Proof.Laws

open Sys2Proof.Proofs.Frame (stateOf)

/-- A meaning that leaves what the invariant reads, in whatever way it answers. -/
def KeepsFire (body : Ctx → State → FireRes) : Prop := ∀ c s, vital (stateOf (body c s) s) = vital s

/-- Executing `i` leaves what the invariant reads. -/
def KeepsInstr (i : Instr) : Prop := ∀ s t, exec i s = .next t → vital t = vital s

section Firings

variable {i : Instr} {h : Hd} {mark body : Ctx → State → FireRes}

theorem keepsInstr_own (hx : ∀ s, exec i s = fireOwn i body s) (hb : KeepsFire body) : KeepsInstr i :=
  fun s _ ht => vital_fireOwn (fun c => hb c s) ((hx s).symm.trans ht)

theorem keepsFire_markerRule (mt : Ctx → Time) : KeepsFire fun c s => markerRule i (mt c) c s := fun _ _ => rfl

theorem keepsFire_ite {p : Ctx → State → Prop} [∀ c s, Decidable (p c s)] (hm : KeepsFire mark) (hb : KeepsFire body) :
    KeepsFire fun c s => if p c s then mark c s else body c s := by
  intro c s
  dsimp only
  split
  · exact hm c s
  · exact hb c s

theorem keepsInstr_with (hx : ∀ s, exec i s = fireWith i mark body s) (hm : KeepsFire mark) (hb : KeepsFire body) : KeepsInstr i :=
  keepsInstr_own hx (keepsFire_ite hm hb)

theorem keepsInstr_fire (hx : ∀ s, exec i s = fire i body s) (hb : KeepsFire body) : KeepsInstr i :=
  keepsInstr_with hx (keepsFire_markerRule fun c => c.time) hb

theorem keepsInstr_node (hx : ∀ s, exec i s = fireNode i mark body s) (hm : KeepsFire mark) (hb : KeepsFire body) : KeepsInstr i :=
  keepsInstr_with hx (keepsFire_ite hm (keepsFire_markerRule fun c => c.time)) hb

theorem vital_request {c : Ctx} {op : ROp} {size : Nat} {elts : List Elt} {s s0 : State} (hs : vital s0 = vital s) :
    vital (stateOf (c.request i h op size elts s0) s) = vital s := by
  grind only [stateOf, Ctx.request, vital_newReq]

theorem keepsInstr_stream (hx : ∀ s, exec i s = fireStream i h body s) (hb : KeepsFire body) : KeepsInstr i :=
  keepsInstr_with hx (keepsFire_ite (fun c s => vital_request (vital_countLost c s)) (keepsFire_markerRule fun c => c.time)) hb

theorem vital_ctxPost {c : Ctx} {d : Dest} {f : Msg → Msg} {s s0 : State} (hs : vital s0 = vital s) :
    vital (stateOf (c.post i h d f s0) s) = vital s := by
  grind only [stateOf, Ctx.post, vital_deliver_S, vital_modAt, vital_numbered, vital_with]

theorem keepsFire_postDesc {x : EngX} {d : Ctx → Memory → Dest} {f : Ctx → Msg → Msg} :
    KeepsFire fun c s => c.postDesc i h x (d c) (f c) s := by
  intro c s
  simp only [Ctx.postDesc]
  split
  · rfl
  · split
    · exact vital_noteUe ..
    · exact vital_ctxPost ((vital_modAt ..).trans (vital_clearSubst c s))

theorem keepsInstr_request {op : ROp} {size : Nat} {elts : Ctx → List Elt}
    (hx : ∀ s, exec i s = fireStream i h (fun c s => c.request i h op size (elts c) s) s) : KeepsInstr i :=
  keepsInstr_stream hx fun _ _ => vital_request rfl

/-- The same where the response buffer must have room (R148). -/
theorem keepsInstr_requestResp {op : ROp} {size : Nat} {elts : Ctx → List Elt}
    (hx : ∀ s, exec i s = fireStream i h (fun c s => if !respFree s c.key then .idle else c.request i h op size (elts c) s) s) :
    KeepsInstr i :=
  keepsInstr_stream hx (keepsFire_ite (fun _ _ => rfl) fun _ _ => vital_request rfl)

theorem keepsInstr_post {d : Ctx → Dest} {f : Ctx → Msg → Msg}
    (hx : ∀ s, exec i s = fire i (fun c s => c.post i h (d c) (f c) s) s) : KeepsInstr i :=
  keepsInstr_fire hx fun _ _ => vital_ctxPost rfl

theorem keepsInstr_postDesc {x : EngX} {d : Ctx → Memory → Dest} {f : Ctx → Msg → Msg}
    (hx : ∀ s, exec i s = fire i (fun c s => c.postDesc i h x (d c) (f c) s) s) : KeepsInstr i :=
  keepsInstr_fire hx keepsFire_postDesc

theorem keepsInstr_sendGen (hx : ∀ s, exec i s = sendGen i h s) : KeepsInstr i :=
  keepsInstr_fire hx (keepsFire_ite (fun _ _ => rfl) fun _ _ => vital_ctxPost rfl)

/-- A conversion writes its slot's counts alone (R245). -/
theorem keepsInstr_conv {f : Ctx → List Out × List StEvent} (hx : ∀ s, exec i s = fireConv i h f s) : KeepsInstr i := by
  refine keepsInstr_own hx fun c s => ?_
  grind only [stateOf, markerRule, Ctx.send, vital_countLost, vital_modAt]

theorem keepsInstr_walk {union : Bool} (hx : ∀ s, exec i s = fireMerge i h union s) : KeepsInstr i := by
  refine keepsInstr_own hx fun c s => ?_
  grind only [stateOf, Ctx.holdWith, keepWalk, vital_modAt]

theorem vital_of_request {c : Ctx} {op : ROp} {size : Nat} {elts : List Elt} {eat : List Pos} {outs : List Out} {posts : List Post}
    {s t : State} (ht : c.request i h op size elts s = .fired eat outs posts t) : vital t = vital s := by
  grind only [Ctx.request, vital_newReq]

theorem vital_fence (c : Ctx) (classes : List Nat) (tl : Bool) (s : State) :
    vital (stateOf (c.fence i h classes tl s) s) = vital s := by
  have hreq := vital_request (i := i) (h := h) (c := c) (op := .fence classes tl c.l.kind) (size := c.l.data.length) (elts := [])
    (rfl : vital s = vital s)
  grind only [stateOf, Ctx.fence, vital_setReq]

theorem vital_fireRow (c : Ctx) (x : MatX) (row : List Byte) (s : State) : vital (stateOf (fireRow h x c row s) s) = vital s := by
  simp only [fireRow]
  repeat' split
  all_goals grind only [stateOf, vital_modNode, vital_clearSubst]

theorem keepsInstr_mrowa {x : MatX} : KeepsInstr (.mrowa h x) := by
  refine keepsInstr_own (fun s => (rfl : execMrowa h x s = _)) fun c s => ?_
  grind only [stateOf, rowMarker, vital_modNode, vital_fireRow, Ctx.holdSubst, Ctx.holdWord, vital_noteUe, vital_modAt]

theorem keepsInstr_amor {x : MemX} : KeepsInstr (.amor h x) := by
  refine keepsInstr_stream (fun s => (rfl : execAmor h x s = _)) fun c s => ?_
  grind only [stateOf, vital_request, → vital_of_request, vital_setReq]

theorem keepsInstr_waitf {x : PrbX} : KeepsInstr (.waitf h x) := by
  intro s t ht
  change execWaitf h x s = .next t at ht
  simp only [execWaitf] at ht
  split at ht
  · cases ht
    rfl
  · split at ht
    · grind only [vital_act, vital_modAt, vital_with]
    · split at ht
      · grind only
      · split at ht
        · grind only
        · split at ht
          · grind only
          · refine vital_fireOwn (fun c => ?_) ht
            exact vital_ite (vital_modAt ..) rfl

end Firings

/-- Every fabric instruction leaves what the invariant reads. -/
theorem keepsInstr_of_fabric (i : Instr) (hi : (encodeWord i).isSome = true) : KeepsInstr i := by
  cases i
  case nop | mov | const | consth | fan | sink | route | select | gate | timeof | sub | mul | mulh | mad | div | rem | neg | abs |
      min | max | adds | subs | and | or | xor | andn | shl | shr | rotl | clz | popc | bfx | bfi | cmp | hash | fadd | fsub | fmul |
      ffma | fmin | fmax | fcmp | fabs | fneg | frcp | frsq | fsqrt | fexp2 | flog2 | fsin | fcos | ftanh | ferf | fscale | frnd |
      fclass | rmax | rmin | scan | perm | bcast | slice | cat | split | compr | expd | argmax | topk | maxrs | cgex | cflp | ctrn |
      blkw | drift | trap | rdcr =>
    exact keepsInstr_fire (fun _ => rfl) fun _ _ => rfl
  case eos | iseos => exact keepsInstr_own (fun _ => rfl) fun _ _ => rfl
  case cvt h imm => exact keepsInstr_conv fun s => (rfl : execCvt h imm s = _)
  case cvts h imm => exact keepsInstr_conv fun s => (rfl : execCvts h imm s = _)
  case qnt h imm => exact keepsInstr_conv fun s => (rfl : execQnt h imm s = _)
  case dqnt h imm => exact keepsInstr_conv fun s => (rfl : execDqnt h imm s = _)
  case pack h imm => exact keepsInstr_conv fun s => (rfl : execPack h imm s = _)
  case unpk h imm => exact keepsInstr_conv fun s => (rfl : execUnpk h imm s = _)
  case isect | union => exact keepsInstr_walk fun _ => rfl
  case ldt | stt | sts | scat | stv | stvs | pfv | amo | red => exact keepsInstr_request fun _ => rfl
  case lds | gath | ldv | ldvs => exact keepsInstr_requestResp fun _ => rfl
  case cpyf | cpyc | cmba | cmbi | synq => exact keepsInstr_post fun _ => rfl
  case send | cpy | cpys | snap | cmbc | syno => exact keepsInstr_postDesc fun _ => rfl
  case cdmc | cdip => exact keepsInstr_sendGen fun _ => rfl
  case merge | enter | leave | step | epoch | cnt | part | mcfg | mrow | mblk | mdrn =>
    refine keepsInstr_own (fun _ => rfl) fun c s => ?_
    grind only [stateOf, markerRule, rowMarker, sendAtTime, timewrap, Ctx.send, Ctx.holdWith, vital_countLost, vital_modAt,
      vital_modNode, vital_fireRow]
  case hold | release | resize | add | rsum | bmod | sbw | mswp | agen | waita | brk | perf | svc | wrcr =>
    refine keepsInstr_fire (fun _ => rfl) fun c s => ?_
    grind only [stateOf, reduced, trapHold, Ctx.send, Ctx.holdWith, Ctx.holdWord, vital_noteUe, vital_modAt, vital_modNode,
      vital_clearSubst, vital_request, vital_giveCore, vital_with]
  case mldb | msca | mzero =>
    refine keepsInstr_node (fun _ => rfl) (fun _ _ => rfl) fun c s => ?_
    grind only [stateOf, Ctx.send, Ctx.holdWith, Ctx.holdSubst, Ctx.holdWord, vital_noteUe, vital_clearSubst, vital_modNode]
  case arrv | bin | binf =>
    refine keepsInstr_stream (fun _ => rfl) fun c s => ?_
    grind only [stateOf, Ctx.holdWith, vital_request]
  case fence | xfence => exact keepsInstr_stream (fun _ => rfl) fun c s => vital_fence ..
  case exit => exact keepsInstr_fire (fun _ => rfl) fun c s => (vital_setAt ..).trans (vital_dropTileWaiters ..)
  case cmbr => exact keepsInstr_own (fun _ => rfl) fun c s => vital_ctxPost rfl
  case front => exact keepsInstr_fire (fun _ => rfl) fun c s => vital_with s rfl rfl rfl rfl
  case launch | join =>
    exact keepsInstr_fire (fun _ => rfl) (keepsFire_ite (fun _ _ => rfl) fun c s => vital_with s rfl rfl rfl rfl)
  case amor => exact keepsInstr_amor
  case mrowa => exact keepsInstr_mrowa
  case waitf => exact keepsInstr_waitf
  -- REPEAT, whose constructor's name is a keyword, is the first case left; the rows behind it have no fabric word.
  next h =>
    refine keepsInstr_own (fun _ => rfl) fun c s => ?_
    grind only [stateOf, vital_modAt]
  all_goals cases hi

end Sys2Proof.Proofs.Vital
end

section
/-! PROOFS. The invariant's parts, and the steps that write a register, a core or the host's memory. -/

namespace Sys2Proof.Proofs.InvariantKept

open Sys2Proof Sys2Proof.Machine Sys2Proof.Safety Sys2Proof.Laws Sys2Proof.Proofs.Vital

/-! ### The invariant's parts -/

/-- What the invariant says of a die. -/
def DieOk (x : Die) : Prop := x.throt ≤ 7 ∧ x.qmask < 2 ^ 120

/-- What the invariant says of a core. -/
def CoreOk (x : Core) : Prop := (x.mode = 0 ∨ x.mode = 1 ∨ x.mode = 3) ∧ x.sram.wf = true

section Parts

variable {s t : State}

theorem inv_of_vital (h : vital t = vital s) (hs : Inv s) : Inv t := by
  simp only [vital, Prod.mk.injEq] at h
  obtain ⟨⟨hmem, hhost⟩, ⟨hshare, hboot⟩, hbccap, hctl, hdies, hcores⟩ := h
  refine
    { mem := hmem ▸ hs.mem
      hostMem := hhost ▸ hs.hostMem
      share := hshare ▸ hs.share
      boot := hboot ▸ hs.boot
      die := fun d => ?_
      bccap := fun d => hbccap ▸ hs.bccap d
      dspctl := hctl ▸ hs.dspctl
      core := fun c => ?_ }
  · have hd := congrFun hdies d
    simp only [dieView, Prod.mk.injEq] at hd
    exact hd.1 ▸ hd.2 ▸ hs.die d
  · have hc := congrFun hcores c
    simp only [coreView, Prod.mk.injEq] at hc
    exact hc.1 ▸ hc.2 ▸ hs.core c

theorem dieOk_of_inv (hs : Inv s) (d : Nat) : DieOk (s.die d) := hs.die d

theorem coreOk_of_inv (hs : Inv s) (c : Nat) : CoreOk (s.core c) := hs.core c

theorem inv_withMem (hs : Inv s) {m : Memory} (hm : m.wf = true) : Inv { s with mem := m } := { hs with mem := hm }

theorem inv_modDie (hs : Inv s) {d : Nat} {f : Die → Die} (hf : DieOk (s.die d) → DieOk (f (s.die d))) : Inv (s.modDie d f) := by
  refine { hs with die := fun e => ?_ }
  show DieOk (getD {} e (upd {} d f s.dies))
  by_cases he : e = d
  · subst he
    rw [getD_upd_same]
    exact hf (dieOk_of_inv hs e)
  · rw [getD_upd_ne _ he]
    exact dieOk_of_inv hs e

theorem inv_modCore (hs : Inv s) {c : Nat} {f : Core → Core} (hf : CoreOk (s.core c) → CoreOk (f (s.core c))) :
    Inv (s.modCore c f) := by
  refine { hs with core := fun e => ?_ }
  show CoreOk (getD {} e (upd {} c f s.cores))
  by_cases he : e = c
  · subst he
    rw [getD_upd_same]
    exact hf (coreOk_of_inv hs e)
  · rw [getD_upd_ne _ he]
    exact coreOk_of_inv hs e

theorem inv_setBccap (hs : Inv s) (d : Nat) (v : W64) : Inv (setBccap d v s) := by
  refine { hs with bccap := fun e => ?_ }
  show getD 0x100 e (put d (v.toNat % 2 ^ 16) s.bccap) < 2 ^ 16
  by_cases he : e = d
  · subst he
    rw [getD_put_same]
    exact Nat.mod_lt _ (by decide)
  · rw [getD_put_ne _ he]
    exact hs.bccap e

end Parts

/-! ### Steps that leave device memory and keep the invariant -/

/-- From `s` to `t` device memory stays as it is, and the invariant, if `s` has it. -/
def Steady (s t : State) : Prop := t.mem = s.mem ∧ (Inv s → Inv t)

section Steady

variable {s t u : State}

theorem Steady.refl (s : State) : Steady s s := ⟨rfl, id⟩

theorem Steady.trans (h : Steady s t) (h' : Steady t u) : Steady s u := ⟨h'.1.trans h.1, h'.2 ∘ h.2⟩

theorem Steady.of_vital (h : vital t = vital s) : Steady s t := ⟨congrArg (fun v => v.1.1) h, inv_of_vital h⟩

/-- What leaves what the invariant reads may come after. -/
theorem Steady.vital (h : Steady s t) (h' : Vital.vital u = Vital.vital t) : Steady s u := h.trans (.of_vital h')

theorem Steady.ite {p : Prop} [Decidable p] (ht : Steady s t) (hu : Steady s u) : Steady s (if p then t else u) := by
  split
  · exact ht
  · exact hu

theorem Steady.foldl {α : Type} {f : State → α → State} (hf : ∀ s x, Steady s (f s x)) (l : List α) (s : State) :
    Steady s (l.foldl f s) := by
  induction l generalizing s with
  | nil => exact .refl s
  | cons x l ih => exact (hf s x).trans (ih _)

theorem steady_modDie {d : Nat} {f : Die → Die} (hf : ∀ x, DieOk x → DieOk (f x)) : Steady s (s.modDie d f) :=
  ⟨rfl, fun hs => inv_modDie hs (hf _)⟩

theorem steady_modCore {c : Nat} {f : Core → Core} (hf : CoreOk (s.core c) → CoreOk (f (s.core c))) : Steady s (s.modCore c f) :=
  ⟨rfl, fun hs => inv_modCore hs hf⟩

theorem steady_setBccap (d : Nat) (v : W64) : Steady s (setBccap d v s) := ⟨rfl, fun hs => inv_setBccap hs d v⟩

/-- The host's memory written: canonical before, canonical after. -/
theorem steady_hostMem {m : Memory} (hm : s.host.mem.wf = true → m.wf = true) : Steady s { s with host := { s.host with mem := m } } :=
  ⟨rfl, fun hs => { hs with hostMem := hm hs.hostMem }⟩

end Steady

/-! ### Dies (R417, R431, R437, R439) -/

theorem dieOk_throt {x : Die} (hx : DieOk x) {v : Nat} (hv : v ≤ 7) : DieOk { x with throt := v } := ⟨hv, hx.2⟩

theorem dieOk_setQmask {x : Die} (hx : DieOk x) (word : Nat) (v : W64) : DieOk (setQmask word v x) := by
  have hv := v.isLt
  unfold setQmask
  split
  · exact ⟨hx.1, Nat.or_lt_two_pow hx.2 (by omega)⟩
  · exact ⟨hx.1, Nat.or_lt_two_pow hx.2 (by omega)⟩

theorem dieOk_quarantine {x : Die} (hx : DieOk x) {quad : Nat} (hq : quad < 120) : DieOk { x with qmask := x.qmask ||| 2 ^ quad } :=
  ⟨hx.1, Nat.or_lt_two_pow hx.2 (Nat.pow_lt_pow_right (by decide) hq)⟩

/-! ### Cores (R417, R418) -/

theorem coreOk_takeTrap {x : Core} (hx : CoreOk x) (cause : Nat) (v : W64) : CoreOk (x.takeTrap cause v) := by
  unfold Core.takeTrap
  split
  · exact ⟨.inr (.inl rfl), hx.2⟩
  · exact ⟨.inr (.inr rfl), hx.2⟩

theorem coreOk_takeIrq {x : Core} (hx : CoreOk x) (i : Nat) (machine : Bool) : CoreOk (x.takeIrq i machine) := by
  unfold Core.takeIrq
  cases machine
  · exact coreOk_takeTrap (x := { x with resume := none, csrs := put 0x302 (BitVec.ofNat 64 (2 ^ i)) x.csrs }) hx i 0
  · exact coreOk_takeTrap (x := { x with resume := none, csrs := put 0x302 0 x.csrs }) hx i 0

theorem bits_lt (v lo len : Nat) : bits v lo len < 2 ^ len := Nat.mod_lt _ (Nat.two_pow_pos len)

theorem coreOk_returnTrap {x : Core} (hx : CoreOk x) (machine : Bool) : CoreOk (x.returnTrap machine) := by
  have hmpp := bits_lt (x.csr 0x300) 11 2
  have hspp := bits_lt (x.csr 0x300) 8 1
  unfold Core.returnTrap
  cases machine
  · refine ⟨?_, hx.2⟩
    simp only [Bool.false_eq_true, if_false]
    omega
  · refine ⟨?_, hx.2⟩
    simp only [if_true]
    split <;> omega

theorem steady_takeTrap (s : State) (c cause : Nat) (v : W64) : Steady s (s.modCore c fun x => x.takeTrap cause v) :=
  steady_modCore fun hx => coreOk_takeTrap hx cause v

theorem steady_illegal (s : State) (c : Nat) : Steady s (s.illegal c) :=
  (Steady.of_vital (vital_draw s)).trans (steady_takeTrap s.draw.2 c 2 _)

theorem steady_badSram (c cause : Nat) (v : W64) (s : State) : Steady s (badSram c cause v s) :=
  (Steady.of_vital (vital_noteUe (c / 8) s)).trans (steady_takeTrap _ c cause v)

theorem steady_gapStop {c k a n : Nat} {s t : State} (ht : gapStop c k a n s = .next t) : Steady s t := by
  cases ht
  exact (steady_takeTrap s c _ _).vital (vital_act _)

/-! ### Control space and the registers (R381, R393, R428, R439) -/

theorem steady_tileWrite (k n : Nat) (v : W64) (s : State) : Steady s (tileWrite k n v s) := by
  unfold tileWrite
  split
  · split
    · exact .of_vital (vital_modRes ..)
    · exact .refl s
  · split
    · split
      · exact .of_vital (vital_modRes ..)
      · exact .refl s
    · refine .ite (.of_vital rfl) (.ite (.of_vital rfl) (.ite (steady_setBccap _ _) (.ite ?_ (.of_vital rfl))))
      refine steady_modDie fun x hx => ?_
      unfold setSlewWord
      repeat' split
      all_goals exact hx

theorem steady_dspctl (v : W64) (s : State) : Steady s (s.modDsp fun d => { d with ctl := v &&& 1 }) := by
  refine ⟨rfl, fun hs => { hs with dspctl := ?_ }⟩
  show v &&& 1 &&& 1 = v &&& 1
  rw [BitVec.and_assoc, BitVec.and_self]

theorem steady_ctlWrite (w : CtlWord) (v : W64) (s : State) : Steady s (ctlWrite w v s) := by
  cases w with
  | tile k n => exact .ite (steady_tileWrite ..) (.refl s)
  | errcnt d => exact .ite (steady_modDie fun _ hx => hx) (.refl s)
  | bccap d => exact .ite (steady_setBccap d v) (.refl s)
  | throt d => exact .ite (steady_modDie fun _ hx => dieOk_throt hx (by omega)) (.refl s)
  | qmask d n => exact .ite (steady_modDie fun _ hx => dieOk_setQmask hx n v) (.refl s)
  | dspctl => exact steady_dspctl v s
  | dspst => exact .of_vital (vital_clearDspst s)
  | watch n b => exact .ite (.of_vital rfl) (.refl s)
  | clsmap n => exact .ite (.of_vital rfl) (.refl s)
  | claim n => exact .of_vital (vital_setClaim ..)
  | claimto => exact .of_vital rfl
  | root a => exact .ite (.of_vital rfl) (.refl s)
  | fault | other => exact .refl s

theorem steady_controlStore (a : Nat) (b : Byte) (s : State) : Steady s (controlStore a b s) := by
  unfold controlStore
  split
  · exact .of_vital rfl
  · split
    · exact .refl s
    · exact steady_ctlWrite ..

theorem steady_next {s t u : State} (hu : (.next t : Result) = .next u) (h : Steady s t) : Steady s u := by
  cases hu
  exact h

theorem steady_onDie {d : Nat} {f : Die → Die} {s t : State} (hf : ∀ x, DieOk x → DieOk (f x)) (ht : onDie d f s = .next t) :
    Steady s t := by
  unfold onDie at ht
  split at ht
  · exact steady_next ht ((steady_modDie hf).vital (vital_act _))
  · exact steady_next ht (.refl s)

theorem steady_execBccapWrite {die : Nat} {v : W64} {s t : State} (ht : execBccapWrite die v s = .next t) : Steady s t := by
  unfold execBccapWrite at ht
  split at ht
  · exact steady_next ht ((steady_setBccap die v).vital (vital_act _))
  · exact steady_next ht (.refl s)

theorem steady_execThrotWrite {die : Nat} {v : W64} {s t : State} (ht : execThrotWrite die v s = .next t) : Steady s t :=
  steady_onDie (fun _ hx => dieOk_throt hx (by omega)) ht

theorem steady_execOvercurrentAlert {die : Nat} {s t : State} (ht : execOvercurrentAlert die s = .next t) : Steady s t :=
  steady_onDie (fun _ hx => dieOk_throt hx (by decide)) ht

theorem steady_execQmaskSet {die word : Nat} {v : W64} {s t : State} (ht : execQmaskSet die word v s = .next t) : Steady s t := by
  unfold execQmaskSet at ht
  split at ht
  · exact steady_onDie (fun _ hx => dieOk_setQmask hx word v) ht
  · exact steady_next ht (.refl s)

theorem steady_execIdleSelfTest {die quad : Nat} {a : SelfTest} {s t : State} (ht : execIdleSelfTest die quad a s = .next t) :
    Steady s t := by
  simp only [execIdleSelfTest] at ht
  split at ht
  · exact steady_next ht (.refl s)
  · rename_i hquad
    cases a with
    | claim =>
      simp only at ht
      split at ht
      · exact steady_next ht (.refl s)
      · exact steady_next ht (.of_vital rfl)
    | giveBack =>
      simp only at ht
      split at ht
      · exact steady_next ht (.of_vital rfl)
      · exact steady_next ht (.refl s)
    | quarantine =>
      simp only at ht
      split at ht
      · refine steady_next ht (((Steady.of_vital (vital_with s rfl rfl rfl rfl)).trans (steady_modDie fun x hx => ?_)).vital (vital_act _))
        exact dieOk_quarantine hx (by omega)
      · exact steady_next ht (.refl s)

theorem steady_ifNext {p : Bool} {s t u : State} (hu : (if p then .next t.act else .next s : Result) = .next u)
    (h : p = true → Steady s t) : Steady s u := by
  split at hu
  · exact steady_next hu ((h ‹_›).vital (vital_act _))
  · exact steady_next hu (.refl s)

theorem steady_execRegisterWrite {reg : RegName} {v : W64} {s t : State} (ht : execRegisterWrite reg v s = .next t) : Steady s t := by
  cases reg with
  | interleave =>
    refine steady_ifNext ht fun hp => ⟨rfl, fun hs => { hs with share := ?_ }⟩
    simp only [Bool.and_eq_true, decide_eq_true_eq] at hp
    exact hp.1.2
  | dspctl => exact steady_next ht ((steady_dspctl v s).vital (vital_act _))
  | asidRoot | claim | clsmap | mbCore | port | hostWindow => exact steady_ifNext ht fun _ => .of_vital rfl
  | claimto | podid => exact steady_next ht (.of_vital rfl)
  | mbbase i => exact steady_ifNext ht fun _ => .of_vital (vital_setMbbase ..)
  | win2base => exact steady_next ht (.of_vital ((vital_act _).trans (vital_setWin2base ..)))
  | mbpoll => exact .of_vital (vital_setMbpoll ht)
  | dbgctl | detseed | driftLimit | driftCost => exact .of_vital (vital_onTile ht)
  | user tile k =>
    simp only [execRegisterWrite] at ht
    split at ht
    · exact .of_vital (vital_onTile ht)
    · exact steady_next ht (.refl s)
  | bar0 => exact .of_vital (vital_bar0Access ht)

/-! ### The host's memory: mailboxes and fault rings (R393, R426, R427, R442) -/

theorem steady_advanceRing (k : Take) (s : State) : Steady s (advanceRing k s) :=
  .ite (.refl s) (steady_hostMem fun hm => wf_writeNat hm _ _ _)

theorem steady_toFaultRing {f : FRec} {s t : State} (ht : toFaultRing f s = some t) : Steady s t := by
  unfold toFaultRing at ht
  split at ht
  · cases ht
  · dsimp only at ht
    split at ht
    · cases ht
    · rw [← Option.some.inj ht]
      refine steady_hostMem fun hm => ?_
      exact wf_writeNat (wf_writeBytes _ hm _) _ _ _

theorem steady_pushRing (base set : Nat) (es : List (List Byte)) (s : State) : Steady s (pushRing base set es s) := by
  induction es generalizing s with
  | nil => exact .of_vital rfl
  | cons e es ih =>
    unfold pushRing
    dsimp only
    split
    · exact .of_vital (vital_modHost s fun _ => rfl)
    · exact (steady_hostMem fun hm => wf_writeNat (wf_writeBytes _ hm _) _ _ _).trans (ih _)

theorem steady_ringRetry (base set : Nat) (s : State) : Steady s (ringRetry base set s) := by
  unfold ringRetry
  split
  · exact .refl s
  · exact (steady_pushRing ..).vital (vital_act _)

theorem steady_deliverOpen {o : Open} {s t : State} (ht : deliverOpen o s = some t) : Steady s t := by
  simp only [deliverOpen] at ht
  split at ht
  · cases ht
  · split at ht
    · cases ht
    · split at ht
      · cases ht
        exact .of_vital ((vital_modOpen ..).trans (vital_giveCore ..))
      · obtain ⟨u, hu, rfl⟩ := Option.map_eq_some_iff.1 ht
        exact (steady_toFaultRing hu).vital (vital_ite (vital_modOpen ..) (vital_dropOpen ..))

theorem steady_single {fid : Nat} {s t : State} (ht : execFaultDelivery.single fid s = .next t) : Steady s t := by
  unfold execFaultDelivery.single at ht
  split at ht
  · exact steady_next ht (.refl s)
  · split at ht
    · exact steady_next ht (.refl s)
    · split at ht
      · exact steady_next ht ((steady_deliverOpen ‹_›).vital (vital_act _))
      · exact steady_next ht (.refl s)

theorem steady_execFaultDelivery {fid : Nat} {s t : State} (ht : execFaultDelivery fid s = .next t) : Steady s t := by
  unfold execFaultDelivery at ht
  split at ht
  · split at ht
    · split at ht
      · exact steady_next ht (((Steady.of_vital (vital_modFaults ..)).trans (steady_toFaultRing ‹_›)).vital (vital_act _))
      · exact steady_next ht (.refl s)
    · exact steady_single ht
  · exact steady_single ht

theorem steady_execMigratingDelivery {fid : Nat} {s t : State} (ht : execMigratingDelivery fid s = .next t) : Steady s t := by
  unfold execMigratingDelivery at ht
  split at ht
  · exact steady_next ht (.refl s)
  · split at ht
    · exact steady_next ht (.refl s)
    · split at ht
      · exact steady_next ht ((steady_deliverOpen ‹_›).vital (vital_act _))
      · exact steady_next ht (.refl s)

theorem steady_execMailboxPoll {set : Nat} {s t : State} (ht : execMailboxPoll set s = .next t) : Steady s t := by
  unfold execMailboxPoll at ht
  split at ht
  · exact steady_next ht (steady_ringRetry ..)
  · rename_i base core _ _
    have hretry := steady_ringRetry base set s
    generalize ringRetry base set s = s1 at ht hretry
    dsimp only at ht
    split at ht
    · exact steady_next ht hretry
    · refine steady_next ht (hretry.vital ((vital_act _).trans ((vital_modHost _ fun h => ?_).trans (vital_deliverEntries ..))))
      rfl
  · exact steady_next ht (.refl s)

theorem steady_execMailboxStart {set core : Nat} {s t : State} (ht : execMailboxStart set core s = .next t) : Steady s t := by
  unfold execMailboxStart at ht
  split at ht
  · exact steady_next ht (.refl s)
  · split at ht
    · exact steady_next ht (.refl s)
    · rw [← Host.Outcome.next.inj ht]
      exact (steady_hostMem fun hm => wf_writeNat hm _ _ _).vital (vital_with _ rfl rfl rfl rfl)

theorem steady_execAttestationRequest {set : Nat} {nonce : List (BitVec 8)} {s t : State}
    (ht : execAttestationRequest set nonce s = .next t) : Steady s t := by
  unfold execAttestationRequest at ht
  split at ht
  · exact steady_next ht (.refl s)
  · split at ht
    · exact steady_next ht (.refl s)
    · refine steady_next ht (((Steady.of_vital (vital_modHost s fun h => ?_)).trans (steady_pushRing ..)).vital (vital_act _))
      rfl

theorem steady_execFirmwareVerify {image : BootImage} {s t : State} (ht : execFirmwareVerify image s = .next t) : Steady s t := by
  have hboot (b : Boot) (hb : b.state ≤ 2) : Steady s { s with boot := b } := ⟨rfl, fun hs => { hs with boot := hb }⟩
  unfold execFirmwareVerify at ht
  split at ht
  · exact steady_next ht (.refl s)
  · split at ht
    · refine steady_next ht (((hboot _ ?_).vital (vital_foldl (fun s c => ?_) _ _)).vital (vital_act _))
      · exact Nat.le_succ 1
      · exact vital_modCore s c (fun _ => rfl) fun _ => rfl
    · refine steady_next ht ((hboot _ ?_).vital (vital_act _))
      exact Nat.le_refl 2

end Sys2Proof.Proofs.InvariantKept
end

section
/-! PROOFS. The rows of the table that leave device memory keep the invariant. -/

namespace Sys2Proof.Proofs.InvariantKept

open Sys2Proof Sys2Proof.Machine Sys2Proof.Safety Sys2Proof.Laws Sys2Proof.Proofs.Vital

/-! ### The Xdmx instructions that write no memory (R419 to R425) -/

/-- In user mode an Xdmx instruction is illegal; elsewhere it does what its body does. -/
theorem steady_dmx {rs1 rs2 : BitVec 5} {body : Nat → W64 → W64 → State → Result} {s t : State}
    (ht : dmx rs1 rs2 body s = .next t) (hbody : ∀ c a b, body c a b s = .next t → Steady s t) : Steady s t := by
  simp only [dmx] at ht
  split at ht
  · exact steady_next ht ((steady_illegal ..).vital (vital_act _))
  · exact hbody _ _ _ ht

section Dmx

variable {rd rs1 rs2 : BitVec 5} {s t : State}

theorem steady_execDmxCmd (ht : execDmxCmd rd rs1 rs2 s = .next t) : Steady s t := by
  refine steady_dmx ht fun c a b hb => ?_
  dsimp only at hb
  split at hb
  · exact steady_next hb (.refl s)
  · split at hb
    · exact steady_gapStop hb
    · exact steady_next hb (.of_vital ((vital_retireDmx ..).trans (vital_issueCmd ..)))

theorem steady_execDmxFence (ht : execDmxFence rd rs1 rs2 s = .next t) : Steady s t := by
  refine steady_dmx ht fun c a b hb => ?_
  dsimp only at hb
  split at hb
  · exact steady_next hb (.refl s)
  · exact steady_next hb (.of_vital (vital_retireDmx ..))

theorem steady_execDmxGive (ht : execDmxGive rd rs1 rs2 s = .next t) : Steady s t := by
  refine steady_dmx ht fun c a b hb => ?_
  dsimp only at hb
  split at hb
  · exact steady_gapStop hb
  · split at hb
    · exact steady_next hb (.of_vital (vital_retireDmx ..))
    · split at hb
      · exact steady_next hb (.of_vital (vital_retireDmx ..))
      · split at hb
        · exact steady_next hb (.of_vital (vital_retireDmx ..))
        · split at hb
          · exact steady_gapStop hb
          · split at hb
            · exact steady_next hb (.of_vital ((vital_retireDmx ..).trans (vital_with s rfl rfl rfl rfl)))
            · split at hb
              · exact steady_next hb (.of_vital ((vital_retireDmx ..).trans (vital_deliverReply ‹_›)))
              · exact steady_next hb (.refl s)

theorem steady_execDmxResume (ht : execDmxResume rd rs1 rs2 s = .next t) : Steady s t := by
  refine steady_dmx ht fun c a b hb => ?_
  dsimp only at hb
  split at hb
  · exact steady_next hb (.of_vital ((vital_retireDmx ..).trans (vital_modCore s c (fun _ => rfl) fun _ => rfl)))
  · exact steady_next hb (.refl s)
  · split at hb
    · exact steady_next hb (.of_vital (vital_retireDmx ..))
    · exact steady_next hb (.of_vital ((vital_act _).trans (vital_modCore _ c (fun _ => rfl) fun _ => rfl)))

theorem steady_execDmxFrz (ht : execDmxFrz rd rs1 rs2 s = .next t) : Steady s t := by
  refine steady_dmx ht fun c a b hb => ?_
  dsimp only at hb
  repeat' split at hb
  iterate 3 exact steady_next hb (.of_vital (vital_retireDmx ..))
  exact steady_next hb (.of_vital ((vital_retireDmx ..).trans (vital_modDsp s fun _ => rfl)))

theorem steady_execDmxWatch (ht : execDmxWatch rd rs1 rs2 s = .next t) : Steady s t := by
  refine steady_dmx ht fun c a b hb => ?_
  dsimp only at hb
  split at hb
  · exact steady_next hb (.of_vital (vital_retireDmx ..))
  · split at hb
    · exact steady_gapStop hb
    · exact steady_next hb (.of_vital ((vital_retireDmx ..).trans (vital_with s rfl rfl rfl rfl)))

end Dmx

/-! ### Every row of the table that leaves device memory -/

theorem steady_of_exec {i : Instr} {s t : State} (hi : writesMemory i = false) (ht : exec i s = .next t) : Steady s t := by
  by_cases hf : (encodeWord i).isSome = true
  · exact .of_vital (keepsInstr_of_fabric i hf s t ht)
  · cases i
    case dmxCmd => exact steady_execDmxCmd ht
    case dmxFence => exact steady_execDmxFence ht
    case dmxGive => exact steady_execDmxGive ht
    case dmxResume => exact steady_execDmxResume ht
    case dmxFrz => exact steady_execDmxFrz ht
    case dmxWatch => exact steady_execDmxWatch ht
    case cmdCreateTask => exact .of_vital (vital_execCmdCreateTask ht)
    case cmdJoinInit => exact .of_vital (vital_execCmdJoinInit ht)
    case cmdJoinDec => exact .of_vital (vital_execCmdJoinDec ht)
    case cmdRegisterTemplate => exact .of_vital (vital_execCmdRegisterTemplate ht)
    case cmdDropTemplate => exact .of_vital (vital_execCmdDropTemplate ht)
    case cmdSetWeight => exact .of_vital (vital_execCmdSetWeight ht)
    case commandCompletion => exact .of_vital (vital_execCommandCompletion ht)
    case copy => exact .of_vital (vital_execCopy ht)
    case sopen => exact .of_vital (vital_execSopen ht)
    case sfree => exact .of_vital (vital_execSfree ht)
    case sclose => exact .of_vital (vital_execSclose ht)
    case fill => exact .of_vital (vital_execFill ht)
    case mgen => exact .of_vital (vital_execMgen ht)
    case setAsideStart => exact .of_vital (vital_execSetAsideStart ht)
    case arrivalSubtraction => exact .of_vital (vital_execArrivalSubtraction ht)
    case copyCompletion => exact .of_vital (vital_execCopyCompletion ht)
    case streamTileDone => exact .of_vital (vital_execStreamTileDone ht)
    case streamClose => exact .of_vital (vital_execStreamClose ht)
    case matrixGenDone => exact .of_vital (vital_execMatrixGenDone ht)
    case ccfg => exact .of_vital (vital_execCcfg ht)
    case ccfgApply => exact .of_vital (vital_execCcfgApply ht)
    case calloc => exact .of_vital (vital_execCalloc ht)
    case callocResume => exact .of_vital (vital_execCallocResume ht)
    case cins => exact .of_vital (vital_execCins ht)
    case crecv => exact .of_vital (vital_execCrecv ht)
    case combineFrontierSubst => exact .of_vital (vital_execCombineFrontierSubst ht)
    case combineTimeout => exact .of_vital (vital_execCombineTimeout ht)
    case combineRelease => exact .of_vital (vital_execCombineRelease ht)
    case combineMarkerRelease => exact .of_vital (vital_execCombineMarkerRelease ht)
    case vopen => exact .of_vital (vital_execVopen ht)
    case vqry => exact .of_vital (vital_execVqry ht)
    case vfree => exact .of_vital (vital_execVfree ht)
    case vclose => exact .of_vital (vital_execVclose ht)
    case streamParseStart => exact .of_vital (vital_execStreamParseStart ht)
    case pictureDelivery => exact .of_vital (vital_execPictureDelivery ht)
    case syntaxStreamEnd => exact .of_vital (vital_execSyntaxStreamEnd ht)
    case snapshotRequest => exact .of_vital (vital_execSnapshotRequest ht)
    case snapshotMarked => exact .of_vital (vital_execSnapshotMarked ht)
    case snapshotCut => exact .of_vital (vital_execSnapshotCut ht)
    case snapshotPageCopied => exact .of_vital (vital_execSnapshotPageCopied ht)
    case ingressTranslate => exact .of_vital (vital_execIngressTranslate ht)
    case rangeTableFetch => exact .of_vital (vital_execRangeTableFetch ht)
    case pageWalkRead => exact .of_vital (vital_execPageWalkRead ht)
    case atsCompletion => exact .of_vital (vital_execAtsCompletion ht)
    case atsInvalidateRequest => exact .of_vital (vital_execAtsInvalidateRequest ht)
    case hostRangeTruncate => exact .of_vital (vital_execHostRangeTruncate ht)
    case invalidateCompletion => exact .of_vital (vital_execInvalidateCompletion ht)
    case migrationRewalk => exact .of_vital (vital_execMigrationRewalk ht)
    case migratingDelivery => exact steady_execMigratingDelivery ht
    case responseDelivery => exact .of_vital (vital_execResponseDelivery ht)
    case tcCommit => exact .of_vital (vital_execTcCommit ht)
    case endToEndTimeout => exact .of_vital (vital_execEndToEndTimeout ht)
    case markOnlyPacket => exact .of_vital (vital_execMarkOnlyPacket ht)
    case tokenAdmission => exact .of_vital (vital_execTokenAdmission ht)
    case backqMove => exact .of_vital (vital_execBackqMove ht)
    case slotAged => exact .of_vital (vital_execSlotAged ht)
    case cntEmission => exact .of_vital (vital_execCntEmission ht)
    case repeatEmission => exact .of_vital (vital_execRepeatEmission ht)
    case agenEmission => exact .of_vital (vital_execAgenEmission ht)
    case resizeEffect => exact .of_vital (vital_execResizeEffect ht)
    case rowResult => exact .of_vital (vital_execRowResult ht)
    case mscaResult => exact .of_vital (vital_execMscaResult ht)
    case mldbLoadDone => exact .of_vital (vital_execMldbLoadDone ht)
    case mblkSetValid => exact .of_vital (vital_execMblkSetValid ht)
    case slewCycle => exact .of_vital (vital_execSlewCycle ht)
    case slewTick => exact .of_vital (vital_execSlewTick ht)
    case slewIdleExpiry => exact .of_vital (vital_execSlewIdleExpiry ht)
    case trackerBatch => exact .of_vital (vital_execTrackerBatch ht)
    case waitfRegister => exact .of_vital (vital_execWaitfRegister ht)
    case frontierRelease => exact .of_vital (vital_execFrontierRelease ht)
    case frontQuery => exact .of_vital (vital_execFrontQuery ht)
    case taskCreate => exact .of_vital (vital_execTaskCreate ht)
    case joinApply => exact .of_vital (vital_execJoinApply ht)
    case waitReevaluate => exact .of_vital (vital_execWaitReevaluate ht)
    case taskSelect => exact .of_vital (vital_execTaskSelect ht)
    case priorityAging => exact .of_vital (vital_execPriorityAging ht)
    case blockLoad => exact .of_vital (vital_execBlockLoad ht)
    case activation => exact .of_vital (vital_execActivation ht)
    case enterDraining => exact .of_vital (vital_execEnterDraining ht)
    case retire => exact .of_vital (vital_execRetire ht)
    case drainLimitExpiry => exact .of_vital (vital_execDrainLimitExpiry ht)
    case watchedStore => exact .of_vital (vital_execWatchedStore ht)
    case freezeRequest => exact .of_vital (vital_execFreezeRequest ht)
    case scanOut => exact .of_vital (vital_execScanOut ht)
    case faultRecordEntry => exact .of_vital (vital_execFaultRecordEntry ht)
    case faultDelivery => exact steady_execFaultDelivery ht
    case claimEscalation => exact .of_vital (vital_execClaimEscalation ht)
    case disposition => exact .of_vital (vital_execDisposition ht)
    case hostResumeWrite => exact .of_vital (vital_execHostResumeWrite ht)
    case watchWindowWrite => exact .of_vital (vital_execWatchWindowWrite ht)
    case mailboxPoll => exact steady_execMailboxPoll ht
    case mailboxStart => exact steady_execMailboxStart ht
    case skeinFileLoad => exact .of_vital (vital_execSkeinFileLoad ht)
    case tokstatClear => exact .of_vital (vital_execTokstatClear ht)
    case dspstClear => exact .of_vital (vital_execDspstClear ht)
    case resstClear => exact .of_vital (vital_execResstClear ht)
    case failtReset => exact .of_vital (vital_execFailtReset ht)
    case errcntClear => exact .of_vital (vital_execErrcntClear ht)
    case perfselWrite => exact .of_vital (vital_execPerfselWrite ht)
    case bccapWrite => exact steady_execBccapWrite ht
    case slewTableWrite => exact .of_vital (vital_execSlewTableWrite ht)
    case throtWrite => exact steady_execThrotWrite ht
    case qmaskSet => exact steady_execQmaskSet ht
    case registerWrite => exact steady_execRegisterWrite ht
    case overcurrentAlert => exact steady_execOvercurrentAlert ht
    case flitReplay => exact .of_vital (vital_execFlitReplay ht)
    case laneRetrain => exact .of_vital (vital_execLaneRetrain ht)
    case linkTraining => exact .of_vital (vital_execLinkTraining ht)
    case cxlLinkFailure => exact .of_vital (vital_execCxlLinkFailure ht)
    case firmwareVerify => exact steady_execFirmwareVerify ht
    case attestationRequest => exact steady_execAttestationRequest ht
    case mzeroDone => exact .of_vital (vital_execMzeroDone ht)
    case pageInvalidation => exact .of_vital (vital_execPageInvalidation ht)
    case idleSelfTest => exact steady_execIdleSelfTest ht
    case homeAccess | ownerUpdate | detCommit | dmxTake | dmxClaim | bar2Access | reset => cases hi
    all_goals exact absurd rfl hf
end Sys2Proof.Proofs.InvariantKept
end

section
/-! PROOFS. What the homes and the owners write in device memory, and how much. -/

namespace Sys2Proof.Proofs.InvariantKept

open Sys2Proof Sys2Proof.Machine Sys2Proof.Safety Sys2Proof.Laws Sys2Proof.Proofs.Vital Sys2Proof.Proofs.Words

/-! ### Lengths of what is written -/

theorem length_fitBytes (n : Nat) (bs : List Byte) : (fitBytes n bs).length = n := by
  induction n generalizing bs with
  | zero => rfl
  | succ n ih => cases bs <;> exact congrArg (· + 1) (ih _)

theorem length_sliceBytes (bs : List Byte) (o n : Nat) : (sliceBytes bs o n).length = n := length_fitBytes ..

theorem length_readBytes (m : Memory) (a n : Nat) : (readBytes m a n).length = n := by
  induction n generalizing a with
  | zero => rfl
  | succ n ih => exact congrArg (· + 1) (ih _)

theorem length_maskBytes (ks : List Bool) (vs os : List Byte) : (maskBytes ks vs os).length = vs.length := by
  induction vs generalizing ks os with
  | nil => cases ks <;> rfl
  | cons v vs ih =>
    cases os with
    | nil => cases ks <;> rfl
    | cons o os => cases ks <;> exact congrArg (· + 1) (ih _ _)

theorem length_packLanes (w : Nat) (l : List Nat) : (packLanes w l).length = l.length * w := by
  induction l with
  | nil => exact (Nat.zero_mul w).symm
  | cons x l ih => rw [packLanes, List.flatMap_cons, List.length_append, length_leBytes, ← packLanes, ih, List.length_cons,
      Nat.succ_mul, Nat.add_comm]

theorem length_updBytes_le (e : Elem) (k : Nat) (old val : List Byte) : (updBytes e k old val).length ≤ old.length := by
  rw [updBytes, length_packLanes, List.length_map, upto, List.length_range]
  exact Nat.div_mul_le_self _ _

theorem length_updSome_le (e : Elem) (k : Nat) (old val : List Byte) : (updSome e k old val).length ≤ old.length :=
  (List.length_take_le' ..).trans (length_updBytes_le ..)

theorem length_faultBytes (f : FRec) : f.bytes.length = 128 := by
  unfold FRec.bytes
  simp only [zeros, upto, List.length_append, List.length_flatMap, List.length_replicate, List.length_range, length_leBytes,
    List.map_const', List.sum_replicate, smul_eq_mul]

/-! ### Device memory -/

/-- From `s` to `t` nothing that the invariant reads changes but that bytes are written in device memory from `a` on, for which `p`
holds; or nothing of it changes at all. -/
def Wrote (a : Nat) (p : List Byte → Prop) (s t : State) : Prop :=
  vital t = vital s ∨ ∃ bs, p bs ∧ vital t = vital { s with mem := writeBytes s.mem a bs }

section Wrote

variable {a n : Nat} {p : List Byte → Prop} {s s' t t' : State}

theorem vital_withMem (h : vital s' = vital s) (m : Memory) : vital { s' with mem := m } = vital { s with mem := m } := by
  simp only [vital, Prod.mk.injEq] at h ⊢
  exact ⟨⟨trivial, h.1.2⟩, h.2⟩

theorem mem_of_vital (h : vital t = vital s) : t.mem = s.mem := congrArg (fun v => v.1.1) h

theorem Wrote.of_vital (h : vital t = vital s) : Wrote a p s t := .inl h

theorem Wrote.vital (h : Wrote a p s t) (ht : Vital.vital t' = Vital.vital t) : Wrote a p s t' := by
  rcases h with h | ⟨bs, hbs, h⟩
  · exact .inl (ht.trans h)
  · exact .inr ⟨bs, hbs, ht.trans h⟩

theorem Wrote.after (hs : Vital.vital s' = Vital.vital s) (h : Wrote a p s' t) : Wrote a p s t := by
  rcases h with h | ⟨bs, hbs, h⟩
  · exact .inl (h.trans hs)
  · exact .inr ⟨bs, hbs, h.trans (mem_of_vital hs ▸ vital_withMem hs _)⟩

theorem Wrote.imp {q : List Byte → Prop} (hpq : ∀ bs, p bs → q bs) (h : Wrote a p s t) : Wrote a q s t := by
  rcases h with h | ⟨bs, hbs, h⟩
  · exact .inl h
  · exact .inr ⟨bs, hpq bs hbs, h⟩

theorem Wrote.inv (h : Wrote a p s t) (hs : Inv s) : Inv t := by
  rcases h with h | ⟨bs, -, h⟩
  · exact inv_of_vital h hs
  · exact inv_of_vital h (inv_withMem hs (wf_writeBytes bs hs.mem a))

theorem Wrote.outside (h : Wrote a (fun bs => bs.length ≤ n) s t) (hwf : s.mem.wf = true) {b : Nat} (hb : b < a ∨ a + n ≤ b) :
    readByte t.mem b = readByte s.mem b := by
  rcases h with h | ⟨bs, hbs, h⟩
  · rw [mem_of_vital h]
  · rw [mem_of_vital h]
    exact readByte_writeBytes_outside b bs _ _ hwf (by omega)

theorem Wrote.mem_eq (h : Wrote a p s t) (hp : ∀ bs, ¬ p bs) : t.mem = s.mem := by
  rcases h with h | ⟨bs, hbs, -⟩
  · exact mem_of_vital h
  · exact absurd hbs (hp bs)

end Wrote

/-- What an element's write changes: bytes of a virtual element, from byte `o` of it. -/
theorem wrote_eltWrite (s : State) (q : Req) (e : Elt) (o : Nat) (bs : List Byte) :
    Wrote (e.pa + o) (fun w => e.space = .virt ∧ w.length ≤ bs.length) s (eltWrite s q e o bs) := by
  unfold eltWrite
  dsimp only
  split
  · rename_i hspace
    refine .inr ⟨_, ⟨hspace, (length_maskBytes ..).le⟩, vital_dropResv ..⟩
  · split
    · exact .of_vital (vital_putMasked ..)
    · exact .of_vital rfl
  · exact .of_vital (vital_modAt ..)

theorem wrote_eltWrite_word {q : Req} {e : Elt} {o n : Nat} {bs : List Byte} (hbs : bs.length ≤ n) (s : State) :
    Wrote (e.pa + o) (fun w => e.space = .virt ∧ w.length ≤ n) s (eltWrite s q e o bs) :=
  (wrote_eltWrite s q e o bs).imp fun _ hw => ⟨hw.1, hw.2.trans hbs⟩

/-- A store's word, at its home. -/
theorem wrote_store {req i w : Nat} {q : Req} {e : Elt} {d : List Byte} {s : State} :
    Wrote (e.pa + e.wordOff w) (fun bs => e.space = .virt ∧ bs.length ≤ e.wordLen w) s
      (serveWord req q e w (burstDone req i (notifyWatch e w ((eltWrite s q e (e.wordOff w)
        (sliceBytes d (e.wordOff w) (e.wordLen w))).setReq req (q.setElt i (e.didWord w)))))).act := by
  refine (wrote_eltWrite_word (q := q) (length_sliceBytes d (e.wordOff w) (e.wordLen w)).le s).vital ?_
  simp only [vital_act, vital_serveWord, vital_burstDone, vital_notifyWatch, vital_setReq]

/-- HOME_ACCESS writes nothing but a store's bytes of the word that it performs. -/
theorem wrote_execHomeAccess {req n : Nat} {bad : Bool} {q : Req} {e : Elt} {s t : State} (hq : get? req s.reqs = some q)
    (he : q.elts[n / 4]? = some e) (ht : execHomeAccess req n bad s = .next t) :
    Wrote (e.pa + e.wordOff (n % 4)) (fun bs => (e.space = .virt ∧ bs.length ≤ e.wordLen (n % 4)) ∧ q.op ≠ .load) s t := by
  simp only [execHomeAccess, hq, he] at ht
  split at ht
  · cases ht
    exact .of_vital rfl
  · split at ht
    case h_4 hop =>
      split at ht
      · cases ht
        exact .of_vital rfl
      · split at ht
        · cases ht
          exact .of_vital rfl
        · cases ht
          exact wrote_store.imp fun _ hbs => ⟨hbs, by rw [hop]; exact ROp.noConfusion⟩
    all_goals
      refine .of_vital ?_
      repeat' split at ht
      all_goals grind only [vital_act, vital_serveWord, vital_holdElt, vital_ueAt, vital_setReq, vital_modMt, vital_observe]

/-! ### Updates at their owner (R360 to R371) -/

theorem length_scrRead (r : Res) (s : State) (a n : Nat) : (scrRead r s a n).length = n := by
  induction n generalizing a with
  | zero => rfl
  | succ n ih => exact congrArg (· + 1) (ih _)

theorem length_eltRead_le (s : State) (q : Req) (e : Elt) (o n : Nat) : (eltRead s q e o n).length ≤ n := by
  unfold eltRead
  split
  · exact (length_readBytes ..).le
  · split
    · exact (length_scrRead ..).le
    · exact Nat.zero_le n
  · exact (length_readBytes ..).le

/-- Whether an update writes no more than the bytes of its word: an AMO or a scatter, or an exchange within one word. -/
def InWord (q : Req) (e : Elt) (w : Nat) : Prop :=
  (∃ k, q.op = .amo k) ∨ (∃ k, q.op = .scat k) ∨ ((∃ k, q.op = .amor k) ∧ e.n ≤ e.wordLen w)

/-- What an update of word `w` of an element writes. -/
def WroteWord (q : Req) (e : Elt) (w : Nat) : State → State → Prop :=
  Wrote (e.pa + e.wordOff w) fun bs => e.space = .virt ∧ (InWord q e w → bs.length ≤ e.wordLen w)

/-- A step that writes `bs` at the word, beside things that the invariant does not read. -/
theorem wroteWord_of_eltWrite {q : Req} {e : Elt} {w : Nat} {s s' t : State} (bs : List Byte) (hs : vital s' = vital s)
    (ht : vital t = vital (eltWrite s' q e (e.wordOff w) bs)) (hbs : InWord q e w → bs.length ≤ e.wordLen w) : WroteWord q e w s t :=
  (((wrote_eltWrite s' q e _ bs).after hs).vital ht).imp fun _ h => ⟨h.1, fun hw => h.2.trans (hbs hw)⟩

section Apply

variable {id i w : Nat} {q : Req} {e : Elt} {s t : State}

theorem wroteWord_applyWord (hq : get? id s.reqs = some q) (he : q.elts[i]? = some e) (ht : applyWord s id i w = .ok t) :
    WroteWord q e w s t := by
  have hold := length_eltRead_le s q e (e.wordOff w) (e.wordLen w)
  cases hr : get? q.h s.res with
  | none =>
    simp only [applyWord, hq, he, hr] at ht
    cases ht
  | some r =>
    simp only [applyWord, hq, he, hr] at ht
    generalize eltRead s q e (e.wordOff w) (e.wordLen w) = old at ht hold
    split at ht
    case h_1 k hop =>
      cases ht
      refine wroteWord_of_eltWrite (updSome q.type k old (e.data.drop (e.wordOff w))) rfl ?_ fun _ => (length_updSome_le ..).trans hold
      simp only [vital_wakeRange, vital_notifyWatch, vital_setReq]
    case h_2 k hop =>
      cases ht
      refine wroteWord_of_eltWrite (updBytes q.type k old e.data) rfl ?_ fun _ => (length_updBytes_le ..).trans hold
      simp only [vital_wakeRange, vital_setReq]
    case h_3 k hop =>
      cases ht
      split
      · refine .of_vital ?_
        simp only [vital_wakeRange, vital_notifyWatch, vital_setReq]
      · refine wroteWord_of_eltWrite (leBytes e.n (amorNew q.type k (leNat old) (leNat e.data) (leNat q.cmp))) rfl ?_ fun hw => ?_
        · simp only [vital_wakeRange, vital_notifyWatch, vital_setReq]
        · rw [length_leBytes]
          simpa [InWord, hop] using hw
    case h_4 reset hop =>
      cases ht
      refine wroteWord_of_eltWrite (leBytes 8 (if reset = true then 0 else arrExpect (leNat old) (leNat e.data))) rfl ?_ fun hw => ?_
      · simp only [vital_wakeRange, vital_setReq]
      · simp [InWord, hop] at hw
    case h_5 hop =>
      have hw : ¬ InWord q e w := by simp [InWord, hop]
      repeat' split at ht
      all_goals cases ht
      generalize e.aux.getD 0 0 + 8 * binCount (leNat old) = slot
      refine wroteWord_of_eltWrite (s' := scrPut r (takeBank r slot s) slot e.data) (leBytes 4 (leNat old + 1)) ?_ ?_
        fun h => absurd h hw
      · exact (vital_scrPut ..).trans (vital_takeBank ..)
      · simp only [vital_wakeRange, vital_setReq]
    case h_6 hop =>
      have hw : ¬ InWord q e w := by simp [InWord, hop]
      have hbanks (l : List Nat) : vital (l.foldl (fun s a => takeBank r a s) s) = vital s := vital_foldl (fun _ _ => vital_takeBank ..) _ _
      repeat' split at ht
      all_goals cases ht
      · refine wroteWord_of_eltWrite (updSome q.type 0 old (e.data.drop (e.wordOff w))) rfl ?_ fun h => absurd h hw
        simp only [vital_notifyWatch, vital_setReq]
      · exact .of_vital rfl
      · generalize dedup ((upto (binCount (leNat old))).map fun i => (e.aux.getD 0 0 + 8 * i) / 64 * 64) = banks
        exact wroteWord_of_eltWrite (leBytes 4 (leNat old + 2 ^ 31)) (hbanks banks) (vital_setReq ..) fun h => absurd h hw
      · exact wroteWord_of_eltWrite (zeros 4) rfl (vital_setReq ..) fun h => absurd h hw
    case h_7 => cases ht

theorem vital_takeSeq {home n : Nat} (ht : takeSeq s id i q e home = some (n, t)) : vital t = vital s := by
  grind only [takeSeq, Option.map_eq_some_iff, vital_setReq, vital_useSeq]

/-- The request that a sequence number was drawn for has it in its element, and is otherwise as it was. -/
theorem wroteWord_takeSeq {home n : Nat} {u : State} (hq : get? id s.reqs = some q) (he : q.elts[i]? = some e)
    (hseq : takeSeq s id i q e home = some (n, t)) (ht : applyWord t id i w = .ok u) : WroteWord q e w s u := by
  have ht0 := vital_takeSeq hseq
  cases huseq : e.useq with
  | some m =>
    simp only [takeSeq, huseq, Option.some.injEq, Prod.mk.injEq] at hseq
    obtain ⟨-, rfl⟩ := hseq
    exact wroteWord_applyWord hq he ht
  | none =>
    simp only [takeSeq, huseq, Option.map_eq_some_iff, Prod.mk.injEq] at hseq
    obtain ⟨m, -, -, rfl⟩ := hseq
    have hi : i < q.elts.length := (List.getElem?_eq_some_iff.1 he).1
    exact (wroteWord_applyWord (q := q.setElt i { e with useq := some m }) (e := { e with useq := some m }) (get?_put_same ..)
      (List.getElem?_set_self hi) ht).after ht0

theorem wroteWord_execOwnerUpdate {n : Nat} {bad : Bool} (hq : get? id s.reqs = some q) (he : q.elts[n / 4]? = some e)
    (ht : execOwnerUpdate id n bad s = .next t) : WroteWord q e (n % 4) s t := by
  simp only [execOwnerUpdate, hq, he] at ht
  split at ht
  · exact .of_vital (by grind only)
  · split at ht
    · exact .of_vital (by grind only)
    · split at ht
      · exact .of_vital (by grind only)
      · split at ht
        · refine .of_vital ?_
          grind only [vital_act, vital_useOwner, vital_serveWord, vital_holdElt, vital_ueAt]
        · split at ht
          · refine .of_vital ?_
            grind only [vital_act, vital_setReq]
          · split at ht
            · rename_i win seq s1 hwin hseq
              have h1 := vital_takeSeq hseq
              split at ht
              · exact .of_vital (by grind only)
              · split at ht
                · refine .of_vital ?_
                  grind only [vital_act, vital_useOwner, vital_serveWord, vital_setReq]
                · split at ht
                  · exact .of_vital (by grind only)
                  · split at ht
                    · refine .of_vital ?_
                      grind only [vital_useOwner, vital_serveWord, vital_noteApplied, vital_acceptDet]
                    · split at ht
                      · rename_i s2 happ
                        cases ht
                        refine Wrote.vital (wroteWord_takeSeq hq he hseq happ) ?_
                        simp only [vital_act, vital_useOwner, vital_serveWord, vital_noteApplied]
                      · exact .of_vital (by grind only)
                      · refine .of_vital ?_
                        grind only [vital_act, vital_useOwner, vital_serveWord, vital_holdElt]
            · exact .of_vital (by grind only)

end Apply

end Sys2Proof.Proofs.InvariantKept
end

section
/-! PROOFS. The other rows that write device memory: deterministic commitment, the cores, the host's window, reset. -/

namespace Sys2Proof.Proofs.InvariantKept

open Sys2Proof Sys2Proof.Machine Sys2Proof.Safety Sys2Proof.Laws Sys2Proof.Proofs.Vital Sys2Proof.Proofs.Words

/-! ### Deterministic commitment (R371) -/

theorem inv_applyWord {id i w : Nat} {s t : State} (hs : Inv s) (ht : applyWord s id i w = .ok t) : Inv t := by
  cases hq : get? id s.reqs with
  | none =>
    simp only [applyWord, hq] at ht
    cases ht
  | some q =>
    cases he : q.elts[i]? with
    | none =>
      simp only [applyWord, hq, he] at ht
      cases ht
    | some e => exact (wroteWord_applyWord hq he ht).inv hs

theorem inv_applyDet {s : State} (hs : Inv s) (home : Nat) (c : CEnt) (bad : Option Nat) : Inv (applyDet home c bad s) := by
  simp only [applyDet]
  split
  · exact hs
  · split
    · exact hs
    · split
      · refine inv_of_vital ?_ hs
        grind only [vital_holdElt, vital_dropDet, vital_ueAt]
      · split
        · exact inv_of_vital (vital_dropDet ..) (inv_applyWord hs ‹_›)
        · exact hs
        · refine inv_of_vital ?_ hs
          grind only [vital_holdElt, vital_dropDet]

theorem inv_atBanks {r : Res} {unit : UnitId} {ranges : List (Nat × Nat)} {s : State} {go : State → State} (hs : Inv s)
    (hgo : ∀ s : State, Inv s → Inv (go s)) : Inv (atBanks r unit ranges s go) := by
  unfold atBanks
  split
  · exact hgo _ (inv_of_vital (vital_unitTake ..) hs)
  · exact inv_of_vital (vital_unitWait ..) hs

theorem inv_execDetCommit {home res : Nat} {s t : State} (hs : Inv s) (ht : execDetCommit home res s = .next t) : Inv t := by
  have hgo (c : CEnt) (s : State) (hs : Inv s) : Inv (useOwner home (applyDet home c s.focus.bad s)).act :=
    inv_of_vital ((vital_act _).trans (vital_useOwner ..)) (inv_applyDet hs home c s.focus.bad)
  unfold execDetCommit at ht
  extract_lets cs runs at ht
  split at ht
  · cases ht
    exact hs
  · split at ht
    · split at ht
      · rw [← Host.Outcome.next.inj ht]
        dsimp only
        split
        · exact inv_atBanks hs (hgo _)
        · exact hgo _ s hs
      · cases ht
        exact hs
    · cases ht
      exact hs

/-! ### What a core writes (R417, R419) -/

/-- One byte that a core writes: in its local SRAM, in control space, or in device memory. -/
def putCore (c a : Nat) (b : Byte) (s : State) : State :=
  if a < 0x80000 then s.modCore c fun x => { x with sram := writeByte x.sram a b }
  else if pkind s a = .control then controlStore a b s else { s with mem := writeByte s.mem a b }

theorem coreWrite_cons (c a : Nat) (b : Byte) (bs : List Byte) (s : State) :
    coreWrite c a (b :: bs) s = coreWrite c (a + 1) bs (putCore c a b s) := rfl

theorem inv_putCore {s : State} (hs : Inv s) (c a : Nat) (b : Byte) : Inv (putCore c a b s) := by
  unfold putCore
  split
  · exact inv_modCore hs fun hx => ⟨hx.1, wf_writeByte hx.2 a b⟩
  · split
    · exact (steady_controlStore a b s).2 hs
    · exact inv_withMem hs (wf_writeByte hs.mem a b)

theorem mem_putCore (c a : Nat) (b : Byte) (s : State) : (putCore c a b s).mem = s.mem ∨ (putCore c a b s).mem = writeByte s.mem a b := by
  unfold putCore
  split
  · exact .inl rfl
  · split
    · exact .inl (steady_controlStore a b s).1
    · exact .inr rfl

theorem inv_coreWrite {s : State} (hs : Inv s) (c a : Nat) (bs : List Byte) : Inv (coreWrite c a bs s) := by
  induction bs generalizing a s with
  | nil => exact hs
  | cons b bs ih => exact ih (inv_putCore hs c a b) (a + 1)

/-- A core's write leaves the bytes of device memory outside of it. -/
theorem readByte_coreWrite {s : State} (hwf : s.mem.wf = true) {c a d : Nat} {bs : List Byte} (hd : d < a ∨ a + bs.length ≤ d) :
    readByte (coreWrite c a bs s).mem d = readByte s.mem d := by
  induction bs generalizing a s with
  | nil => rfl
  | cons b bs ih =>
    rw [List.length_cons] at hd
    rw [coreWrite_cons]
    rcases mem_putCore c a b s with hm | hm
    · rw [ih (hm ▸ hwf) (by omega), hm]
    · rw [ih (hm ▸ wf_writeByte hwf a b) (by omega), hm, readByte_writeByte_ne a b d (by omega) hwf]

/-- A step in which a core writes `n` bytes from `a` on, beside what leaves device memory. -/
def CoreWrote (a n : Nat) (s t : State) : Prop :=
  ∃ c bs s', bs.length = n ∧ vital s' = vital s ∧ Steady (coreWrite c a bs s') t

section CoreWrote

variable {a n : Nat} {s t : State}

theorem CoreWrote.inv (h : CoreWrote a n s t) (hs : Inv s) : Inv t := by
  obtain ⟨c, bs, s', -, hs', ht⟩ := h
  exact ht.2 (inv_coreWrite (inv_of_vital hs' hs) c a bs)

theorem CoreWrote.outside (h : CoreWrote a n s t) (hwf : s.mem.wf = true) {b : Nat} (hb : b < a ∨ a + n ≤ b) :
    readByte t.mem b = readByte s.mem b := by
  obtain ⟨c, bs, s', hbs, hs', ht⟩ := h
  have hmem := mem_of_vital hs'
  rw [ht.1, readByte_coreWrite (hmem ▸ hwf) (hbs ▸ hb), hmem]

end CoreWrote

section Dmx

variable {rd rs1 rs2 : BitVec 5} {s t : State}

/-- dmx.take takes no token, or writes the block of the token that it takes at rs2 (R424). -/
theorem coreWrote_execDmxTake (ht : execDmxTake rd rs1 rs2 s = .next t) : Steady s t ∨
    ∃ k, ((s.core s.focus.core).takeq.take 64).find? (fun k => bit (((s.core s.focus.core).reg rs1.toNat).toNat % 2 ^ 16) k.cls) = some k ∧
      CoreWrote ((s.core s.focus.core).reg rs2.toNat).toNat k.bytes.length s t := by
  simp only [execDmxTake, dmx] at ht
  split at ht
  · exact .inl (steady_next ht ((steady_illegal ..).vital (vital_act _)))
  · split at ht
    · split at ht
      · exact .inl (steady_next ht (.of_vital (vital_retireDmx ..)))
      · exact .inl (steady_next ht (.refl s))
    · rename_i k hk
      split at ht
      · exact .inl (steady_gapStop ht)
      · refine .inr ⟨k, hk, _, k.bytes, _, rfl, ?_, steady_next ht ((steady_advanceRing k _).vital (vital_retireDmx ..))⟩
        exact vital_modCore s _ (fun _ => rfl) fun _ => rfl

/-- dmx.claim claims nothing, or writes the fault's 128 bytes at rs2 (R395). -/
theorem coreWrote_execDmxClaim (ht : execDmxClaim rd rs1 rs2 s = .next t) :
    Steady s t ∨ CoreWrote ((s.core s.focus.core).reg rs2.toNat).toNat 128 s t := by
  simp only [execDmxClaim, dmx] at ht
  split at ht
  · exact .inl (steady_next ht ((steady_illegal ..).vital (vital_act _)))
  · split at ht
    · exact .inl (steady_next ht (.of_vital (vital_retireDmx ..)))
    · rename_i o ho
      split at ht
      · exact .inl (steady_next ht (.of_vital (vital_retireDmx ..)))
      · split at ht
        · exact .inl (steady_next ht (.of_vital (vital_retireDmx ..)))
        · split at ht
          · exact .inl (steady_gapStop ht)
          · refine .inr ⟨s.focus.core, o.fr.bytes, s, length_faultBytes o.fr, rfl,
            steady_next ht (.of_vital ((vital_retireDmx ..).trans ?_))⟩
            exact vital_ite (vital_modOpen ..) (vital_dropOpen ..)

theorem inv_execDmxTake (hs : Inv s) (ht : execDmxTake rd rs1 rs2 s = .next t) : Inv t := by
  obtain h | ⟨k, -, h⟩ := coreWrote_execDmxTake ht
  · exact h.2 hs
  · exact h.inv hs

theorem inv_execDmxClaim (hs : Inv s) (ht : execDmxClaim rd rs1 rs2 s = .next t) : Inv t := by
  obtain h | h := coreWrote_execDmxClaim ht
  · exact h.2 hs
  · exact h.inv hs

end Dmx

/-! ### The host's window (R393) -/

theorem inv_execBar2Access {offset size : Nat} {data : Option (List (BitVec 8))} {s t : State} (hs : Inv s)
    (ht : execBar2Access offset size data s = .next t) : Inv t := by
  have hreply (ok : Bool) (bs : List Byte) {s : State} (hs : Inv s) :
      Inv (s.modHost fun h => { h with resp := h.resp ++ [⟨ok, bs⟩] }).act :=
    inv_of_vital ((vital_act _).trans (vital_modHost s fun _ => rfl)) hs
  simp only [execBar2Access] at ht
  split at ht
  · cases ht
    exact hs
  · split at ht
    · cases ht
      exact hreply false [] hs
    · split at ht
      · cases ht
        exact hreply true _ hs
      · rename_i bs
        cases ht
        exact hreply true [] (inv_of_vital (vital_dropResv ..) (inv_withMem hs (wf_writeBytes (bs.take size) hs.mem _)))

/-! ### Reset (R432) -/

/-- A sum of distinct powers of two, each below `2 ^ n`. -/
theorem sum_two_pow_lt (p : Nat → Bool) (n : Nat) : ((upto n).filter p).foldl (fun m i => m + 2 ^ i) 0 < 2 ^ n := by
  induction n with
  | zero => exact Nat.one_pos
  | succ n ih =>
    rw [upto] at ih
    rw [upto, List.range_succ, List.filter_append, List.foldl_append, Nat.pow_succ]
    cases hp : p n
    · simp only [List.filter_cons, hp, Bool.false_eq_true, if_false, List.filter_nil, List.foldl_nil]
      omega
    · simp only [List.filter_cons, hp, if_true, List.filter_nil, List.foldl_cons, List.foldl_nil]
      omega

theorem dieOk_repairDie (d : Die) (r : Repair) : DieOk (repairDie d r) := by
  refine ⟨Nat.zero_le 7, ?_⟩
  simp only [repairDie]
  split <;> exact sum_two_pow_lt ..

theorem dieOk_default : DieOk {} := ⟨Nat.zero_le 7, Nat.two_pow_pos 120⟩

/-- What holds of the default and of every value of a map holds of what is read. -/
theorem getD_map_of_forall {α : Type} {P : α → Prop} {x : α} {f : Nat → α} (hx : P x) (hf : ∀ k, P (f k)) (k : Nat) (l : List Nat) :
    P (getD x k (l.map fun d => (d, f d))) := by
  induction l with
  | nil => exact hx
  | cons d l ih =>
    rw [List.map_cons, getD]
    split
    · exact hf d
    · exact ih

theorem inv_execReset {s t : State} (hs : Inv s) (ht : execReset s = .next t) : Inv t := by
  cases ht
  exact
    { mem := wf_filter _ hs.mem
      hostMem := hs.hostMem
      share := Nat.zero_le 74
      boot := Nat.zero_le 2
      die := fun d => getD_map_of_forall (P := DieOk) dieOk_default (fun _ => dieOk_repairDie ..) d _
      bccap := fun d => (by decide : 0x100 < 2 ^ 16)
      dspctl := (by decide : State.reset.dsp.ctl &&& 1 = State.reset.dsp.ctl)
      core := fun c => ⟨.inr (.inr rfl), rfl⟩ }

end Sys2Proof.Proofs.InvariantKept
end

section
/-! PROOFS. The base instructions of a core keep the invariant. -/

namespace Sys2Proof.Proofs.InvariantKept

open Sys2Proof Sys2Proof.Machine Sys2Proof.Safety Sys2Proof.Laws Sys2Proof.Proofs.Vital

/-! ### The base instructions of a core (R417) -/

/-- Of one core: privilege mode and SRAM. -/
def keptOf (x : Core) : Nat × Memory := (x.mode, x.sram)

section Registers

variable (x : Core) (n v : Nat)

@[simp] theorem kept_setReg (w : W64) : keptOf (x.setReg n w) = keptOf x := by
  unfold Core.setReg
  split <;> rfl

@[simp] theorem kept_setCsr : keptOf (x.setCsr n v) = keptOf x := rfl

@[simp] theorem kept_setFreg (w : W64) : keptOf (x.setFreg n w) = keptOf x := rfl

@[simp] theorem kept_accrue : keptOf (x.accrue n) = keptOf x := by
  unfold Core.accrue
  split <;> rfl

@[simp] theorem kept_writeStatus : keptOf (writeStatus x n v) = keptOf x := kept_setCsr ..

theorem kept_csrWrite (s : State) (c : Nat) : keptOf (csrWrite s c n v) = keptOf (s.core c) := by
  simp only [csrWrite]
  split
  case h_4 => exact kept_writeStatus ..
  case h_5 => exact kept_writeStatus ..
  case h_18 => split <;> rfl
  all_goals rfl

end Registers

/-- A core that a float instruction leaves has the mode and the SRAM that it had. -/
def KeptAfter (x : Core) (o : Option Core) : Prop := ∀ y, o = some y → keptOf y = keptOf x

section Floats

variable {x : Core}

theorem keptAfter_none : KeptAfter x none := fun _ h => by cases h

theorem keptAfter_some {y : Core} (hy : keptOf y = keptOf x) : KeptAfter x (some y) := fun _ h => Option.some.inj h ▸ hy

theorem keptAfter_map {o : Option Nat} {f : Nat → Core} (hf : ∀ m, keptOf (f m) = keptOf x) : KeptAfter x (o.map f) := fun _ h => by
  obtain ⟨m, -, rfl⟩ := Option.map_eq_some_iff.1 h
  exact hf m

theorem keptAfter_ite {p : Prop} [Decidable p] {o o' : Option Core} (ho : KeptAfter x o) (ho' : KeptAfter x o') :
    KeptAfter x (if p then o else o') := by
  split
  · exact ho
  · exact ho'

theorem kept_floatResult (rd : Nat) (w : W64) (fl : Nat) : keptOf ((x.setFreg rd w).accrue fl) = keptOf x :=
  (kept_accrue ..).trans (kept_setFreg ..)

theorem kept_intResult (rd : Nat) (w : W64) (fl : Nat) : keptOf ((x.setReg rd w).accrue fl) = keptOf x :=
  (kept_accrue ..).trans (kept_setReg ..)

theorem keptAfter_ffused (op : Nat) (dbl : Bool) (rd rs1 rs2 rs3 rm : Nat) : KeptAfter x (x.ffused op dbl rd rs1 rs2 rs3 rm) :=
  keptAfter_map fun _ => kept_floatResult ..

theorem keptAfter_farith (f5 : Nat) (dbl : Bool) (rd rs1 rs2 rm : Nat) : KeptAfter x (x.farith f5 dbl rd rs1 rs2 rm) := by
  unfold Core.farith
  dsimp only
  split
  case h_1 => exact keptAfter_map fun _ => kept_floatResult ..
  case h_2 => exact keptAfter_map fun _ => kept_floatResult ..
  case h_3 => exact keptAfter_map fun _ => kept_floatResult ..
  case h_4 => exact keptAfter_map fun _ => kept_floatResult ..
  case h_5 => exact keptAfter_ite keptAfter_none (keptAfter_map fun _ => kept_floatResult ..)
  case h_6 => exact keptAfter_ite keptAfter_none (keptAfter_some (kept_floatResult ..))
  case h_7 => exact keptAfter_ite keptAfter_none (keptAfter_some (kept_floatResult ..))
  case h_8 => exact keptAfter_ite keptAfter_none (keptAfter_map fun _ => kept_floatResult ..)
  case h_9 => exact keptAfter_ite keptAfter_none (keptAfter_some (kept_intResult ..))
  case h_10 => exact keptAfter_ite keptAfter_none (keptAfter_map fun _ => kept_intResult ..)
  case h_11 => exact keptAfter_ite keptAfter_none (keptAfter_map fun _ => kept_floatResult ..)
  case h_12 =>
    refine keptAfter_ite keptAfter_none (keptAfter_ite ?_ (keptAfter_ite ?_ keptAfter_none))
    · exact keptAfter_some (kept_setReg ..)
    · exact keptAfter_some (kept_intResult ..)
  case h_13 => exact keptAfter_ite keptAfter_none (keptAfter_some (kept_setFreg ..))
  case h_14 => exact keptAfter_none

end Floats

theorem coreOk_of_kept {x y : Core} (h : keptOf y = keptOf x) (hx : CoreOk x) : CoreOk y := by
  simp only [keptOf, Prod.mk.injEq] at h
  exact ⟨h.1 ▸ hx.1, h.2 ▸ hx.2⟩

/-- Where an instruction of a core goes on, the invariant holds. -/
def InvAfter (r : RvRes) : Prop := ∀ t next, r = .ok (t, next) → Inv t

section Base

variable {s : State}

theorem invAfter_illegal : InvAfter (rvIllegal s) := fun _ _ h => by cases h

theorem invAfter_ok (hs : Inv s) (next : Option W64) : InvAfter (.ok (s, next)) := fun _ _ h => by
  cases h
  exact hs

/-- What comes after a check of the addresses. -/
theorem invAfter_bind {α : Type} {o : Except Stop α} {f : α → RvRes} (hf : ∀ x, InvAfter (f x)) : InvAfter (o >>= f) := by
  cases o with
  | error e => exact fun _ _ h => by cases h
  | ok x => exact hf x

theorem invAfter_ite {p : Prop} [Decidable p] {r r' : RvRes} (hr : InvAfter r) (hr' : InvAfter r') :
    InvAfter (if p then r else r') := by
  split
  · exact hr
  · exact hr'

/-- A core written that keeps its mode and its SRAM. -/
theorem inv_modCore_kept (hs : Inv s) {c : Nat} {f : Core → Core} (hf : keptOf (f (s.core c)) = keptOf (s.core c)) :
    Inv (s.modCore c f) :=
  inv_modCore hs (coreOk_of_kept hf)

theorem invAfter_onCore (hs : Inv s) {c : Nat} {f : Core → Core} (hf : keptOf (f (s.core c)) = keptOf (s.core c)) :
    InvAfter (onCore c f s) :=
  invAfter_ok (inv_modCore_kept hs hf) none

theorem inv_storePas (hs : Inv s) (c : Nat) (as : List Nat) (bs : List Byte) : Inv (storePas c as bs s) := by
  have hfold (l : List (Nat × Byte)) (s : State) (hs : Inv s) : Inv (l.foldl (fun s x => coreWrite c x.1 [x.2] s) s) := by
    induction l generalizing s with
    | nil => exact hs
    | cons x l ih => exact ih _ (inv_coreWrite hs c x.1 [x.2])
  exact hfold _ _ (inv_of_vital (vital_breakResv ..) hs)

theorem invAfter_rvLoad (hs : Inv s) (c f3 rd : Nat) (va : W64) : InvAfter (rvLoad c f3 rd va s) :=
  invAfter_bind fun _ => invAfter_onCore hs (kept_setReg ..)

theorem invAfter_rvStore (hs : Inv s) (c n : Nat) (va v : W64) : InvAfter (rvStore c n va v s) :=
  invAfter_bind fun _ => invAfter_ok (inv_storePas hs ..) none

theorem invAfter_rvAmo (hs : Inv s) (c f5 : Nat) (dbl : Bool) (rd : Nat) (va v : W64) : InvAfter (rvAmo c f5 dbl rd va v s) := by
  unfold rvAmo
  dsimp only
  refine invAfter_ite (invAfter_bind fun _ => ?_) ?_
  all_goals
    refine invAfter_bind fun as => ?_
    refine invAfter_ite (invAfter_onCore hs (kept_setReg ..)) (invAfter_ite (invAfter_ite ?_ ?_) ?_)
    · exact invAfter_onCore (inv_storePas hs ..) (kept_setReg ..)
    · exact invAfter_onCore hs (kept_setReg ..)
    · exact invAfter_onCore (inv_storePas hs ..) (kept_setReg ..)

theorem invAfter_rvCsr (hs : Inv s) (c f3 rd rs1 n : Nat) : InvAfter (rvCsr c f3 rd rs1 n s) := by
  have hdraw : Inv s.draw.2 := inv_of_vital (vital_draw s) hs
  have hcore : s.draw.2.core c = s.core c := rfl
  unfold rvCsr
  split
  rename_i k s1 heq
  have hs1 : Inv s1 ∧ s1.core c = s.core c := by
    split at heq <;> cases heq
    · exact ⟨hdraw, rfl⟩
    · exact ⟨hs, rfl⟩
  split
  · exact invAfter_illegal
  · refine invAfter_ite invAfter_illegal (invAfter_ok (inv_modCore_kept hs1.1 ((kept_setReg ..).trans ?_)) none)
    split
    · exact kept_csrWrite ..
    · rfl

theorem invAfter_returnTrap (hs : Inv s) (c : Nat) (machine : Bool) (next : Option W64) :
    InvAfter (.ok (s.modCore c fun _ => { (s.core c).returnTrap machine with resv := none }, next)) :=
  invAfter_ok (inv_modCore hs fun hx => coreOk_returnTrap hx machine) next

theorem invAfter_execRv (hs : Inv s) (i : Rv) (c len : Nat) : InvAfter (execRv i c len s) := by
  have hrd (rd : Nat) (w : W64) (next : Option W64) : InvAfter (.ok (s.modCore c fun x => x.setReg rd w, next)) :=
    invAfter_ok (inv_modCore_kept hs (kept_setReg ..)) next
  have hrounded (off : Prop) [Decidable off] (o : Option Core) : KeptAfter (s.core c) o →
      InvAfter (if off then rvIllegal s else match o with | none => rvIllegal s | some y => onCore c (fun _ => y) s) := fun ho => by
    refine invAfter_ite invAfter_illegal ?_
    cases o with
    | none => exact invAfter_illegal
    | some y => exact invAfter_onCore hs (ho y rfl)
  cases i with
  | lui => exact invAfter_onCore hs (kept_setReg ..)
  | auipc => exact invAfter_onCore hs (kept_setReg ..)
  | jal | jalr => exact invAfter_ok (inv_modCore_kept hs (kept_setReg ..)) _
  | branch => exact invAfter_ok hs _
  | load => exact invAfter_rvLoad hs c _ _ _
  | store => exact invAfter_rvStore hs c _ _ _
  | alu | mul => exact invAfter_onCore hs (kept_setReg ..)
  | amo => exact invAfter_rvAmo hs c _ _ _ _ _
  | fence => exact invAfter_ok hs none
  | csr => exact invAfter_rvCsr hs c _ _ _ _
  | ecall | ebreak => exact fun _ _ h => by cases h
  | mret => exact invAfter_ite invAfter_illegal (invAfter_returnTrap hs c true _)
  | sret => exact invAfter_ite invAfter_illegal (invAfter_returnTrap hs c false _)
  | wfi | sfence => exact invAfter_ite invAfter_illegal (invAfter_ok hs none)
  | fload => exact invAfter_ite invAfter_illegal (invAfter_bind fun _ => invAfter_onCore hs (kept_setFreg ..))
  | fstore => exact invAfter_ite invAfter_illegal (invAfter_rvStore hs c _ _ _)
  | fused => exact hrounded _ _ (keptAfter_ffused _ _ _ _ _ _ _)
  | farith => exact hrounded _ _ (keptAfter_farith _ _ _ _ _ _)

theorem inv_runBase {c : Nat} {bs : List Byte} {t : State} (hs : Inv s) (ht : runBase c bs s = .next t) : Inv t := by
  unfold runBase at ht
  split at ht
  · cases ht
    exact inv_of_vital (vital_act _) ((steady_illegal s c).2 hs)
  · rename_i i hi
    split at ht
    · rename_i s' next hrv
      cases ht
      exact inv_of_vital ((vital_act _).trans (vital_retireRv ..)) (invAfter_execRv hs i c bs.length s' next hrv)
    · cases ht
      exact inv_of_vital (vital_act _) ((steady_illegal s c).2 hs)
    · rw [← Host.Outcome.next.inj ht]
      refine inv_of_vital (vital_act _) ((steady_takeTrap _ c _ _).2 (inv_of_vital ?_ hs))
      exact vital_ite (vital_noteUe ..) rfl

end Base

end Sys2Proof.Proofs.InvariantKept
end

section
/-! PROOFS. Every row of the table and every step keeps the invariant. -/

namespace Sys2Proof.Proofs.InvariantKept

open Sys2Proof Sys2Proof.Machine Sys2Proof.Safety Sys2Proof.Laws Sys2Proof.Proofs.Vital

/-! ### Every row of the table, and every step -/

section Step

variable {s t : State}

theorem inv_execHomeAccess {req n : Nat} {bad : Bool} (hs : Inv s) (ht : execHomeAccess req n bad s = .next t) : Inv t := by
  cases hq : get? req s.reqs with
  | none =>
    simp only [execHomeAccess, hq] at ht
    exact (steady_next ht (.refl s)).2 hs
  | some q =>
    cases he : q.elts[n / 4]? with
    | none =>
      simp only [execHomeAccess, hq, he] at ht
      exact (steady_next ht (.refl s)).2 hs
    | some e => exact (wrote_execHomeAccess hq he ht).inv hs

theorem inv_execOwnerUpdate {req n : Nat} {bad : Bool} (hs : Inv s) (ht : execOwnerUpdate req n bad s = .next t) : Inv t := by
  cases hq : get? req s.reqs with
  | none =>
    simp only [execOwnerUpdate, hq] at ht
    exact (steady_next ht (.refl s)).2 hs
  | some q =>
    cases he : q.elts[n / 4]? with
    | none =>
      simp only [execOwnerUpdate, hq, he] at ht
      exact (steady_next ht (.refl s)).2 hs
    | some e => exact (wroteWord_execOwnerUpdate hq he ht).inv hs

theorem inv_of_exec {i : Instr} (hs : Inv s) (ht : exec i s = .next t) : Inv t := by
  cases hi : writesMemory i with
  | false => exact (steady_of_exec hi ht).2 hs
  | true =>
    cases i
    case homeAccess => exact inv_execHomeAccess hs ht
    case ownerUpdate => exact inv_execOwnerUpdate hs ht
    case detCommit => exact inv_execDetCommit hs ht
    case dmxTake => exact inv_execDmxTake hs ht
    case dmxClaim => exact inv_execDmxClaim hs ht
    case bar2Access => exact inv_execBar2Access hs ht
    case reset => exact inv_execReset hs ht
    all_goals cases hi

theorem inv_firePipe {k : Nat} {p : Pipe} (hs : Inv s) (ht : firePipe k p s = .next t) : Inv t := by
  have hcount : Inv (countRefused ((pipeCands s k p).map fun c s => readyAt s k c) s) := inv_of_vital (vital_countRefused ..) hs
  simp only [firePipe] at ht
  split at ht
  · cases ht
    exact inv_of_vital (vital_modAt ..) hcount
  · refine inv_of_exec (inv_of_vital ?_ hcount) ht
    rfl

theorem inv_runCore {c : Nat} (hs : Inv s) (ht : runCore c s = .next t) : Inv t := by
  simp only [runCore] at ht
  split at ht
  · exact (steady_next ht (.refl s)).2 hs
  · split at ht
    · exact (steady_next ht ((steady_modCore fun hx => coreOk_takeIrq hx ..).vital (vital_act _))).2 hs
    · split at ht
      · cases ht
      · exact (steady_next ht ((steady_takeTrap s c _ _).vital (vital_act _))).2 hs
      · split at ht
        · exact (steady_next ht ((steady_badSram ..).vital (vital_act _))).2 hs
        · split at ht
          · split at ht
            · exact (steady_next ht ((steady_badSram ..).vital (vital_act _))).2 hs
            · refine inv_of_exec (inv_of_vital ?_ hs) ht
              rfl
          · exact (steady_next ht ((steady_illegal s c).vital (vital_act _))).2 hs
          · exact inv_runBase hs ht

/-- The state in which an entry of the agenda runs. -/
def turn (a : Act) (rest : List Act) (s : State) : State :=
  { s with agenda := rest, acted := false, focus := { s.focus with bad := a.bad } }

/-- What an entry of the agenda runs. -/
def runEntry (a : Act) (s : State) : Result :=
  match a with
  | .fire k p | .badFire k p _ => firePipe k p s
  | .core c | .badCore c _ => runCore c s
  | .event i | .badEvent i _ => if isEvent i then exec i (noteRefused i s) else .next s
  | .lostAnswer req elem => .next (loseAnswer req elem s)
  | .corrected d => .next (noteCe d s)

theorem step_nil (h : s.agenda = []) : step s = .next (nextCycle s) := by
  rw [step, h]

theorem step_cons {a : Act} {rest : List Act} (h : s.agenda = a :: rest) : step s = runEntry a (turn a rest s) := by
  rw [step, h]
  cases a <;> rfl

theorem inv_runEntry {a : Act} (hs : Inv s) (ht : runEntry a s = .next t) : Inv t := by
  have hevent {i : Instr} (ht : (if isEvent i then exec i (noteRefused i s) else .next s) = .next t) : Inv t := by
    split at ht
    · exact inv_of_exec (inv_of_vital (vital_noteRefused i s) hs) ht
    · exact (steady_next ht (.refl s)).2 hs
  cases a with
  | fire | badFire => exact inv_firePipe hs ht
  | core | badCore => exact inv_runCore hs ht
  | event | badEvent => exact hevent ht
  | lostAnswer => exact (steady_next ht (.of_vital (vital_loseAnswer ..))).2 hs
  | corrected => exact (steady_next ht (.of_vital (vital_noteCe ..))).2 hs

theorem inv_step (hs : Inv s) (ht : step s = .next t) : Inv t := by
  cases ha : s.agenda with
  | nil =>
    rw [step_nil ha] at ht
    exact (steady_next ht (.of_vital (vital_nextCycle s))).2 hs
  | cons a rest =>
    rw [step_cons ha] at ht
    have hturn : vital (turn a rest s) = vital s := rfl
    exact inv_runEntry (inv_of_vital hturn hs) ht

end Step

/-- Settles O50: what the invariant reads is kept by every row of the table but those that write device memory or a board's register,
and by these too, each by its own rule. -/
theorem invariantKept : Obligations.InvariantKept := fun _ _ hs ht => inv_step hs ht

end Sys2Proof.Proofs.InvariantKept
end

section
/-! PROOFS. What changes device memory, and which bytes of it. -/

namespace Sys2Proof.Proofs.InvariantKept

open Sys2Proof Sys2Proof.Machine Sys2Proof.Safety Sys2Proof.Laws Sys2Proof.Proofs.Vital

/-! ### What changes device memory -/

/-- Settles O52: each row that writes device memory writes at the address and of the length that its own rule says, the others none. -/
theorem memoryFrame : Obligations.MemoryFrame := by
  intro s t
  refine ⟨fun i hi ht => (steady_of_exec hi ht).1, fun req n bad q e hq he hwf ht => ?_, fun req n bad q e hq he hwf ht => ?_,
    fun rd rs1 rs2 hwf => ⟨fun ht => ?_, fun ht a ha => ?_⟩⟩
  · have hw := wrote_execHomeAccess hq he ht
    refine ⟨fun hnot => hw.mem_eq fun bs hbs => ?_, fun a ha => (hw.imp fun bs hbs => hbs.1.2).outside hwf ha⟩
    exact hnot.elim (· hbs.1.1) hbs.2
  · have hw := wroteWord_execOwnerUpdate hq he ht
    refine ⟨fun hnot => hw.mem_eq fun bs hbs => hnot hbs.1, fun hword a ha => ?_⟩
    exact (hw.imp fun bs hbs => hbs.2 hword).outside hwf ha
  · obtain h | ⟨k, hk, h⟩ := coreWrote_execDmxTake ht
    · split
      · exact h.1
      · exact fun a _ => by rw [h.1]
    · rw [hk]
      exact fun a ha => h.outside hwf ha
  · obtain h | h := coreWrote_execDmxClaim ht
    · rw [h.1]
    · exact h.outside hwf ha

end Sys2Proof.Proofs.InvariantKept
end

section
/-! PROOFS. Updates, fences, scoreboards and address walks (R141, R143, R151, R154, R161 to R163, R365, R368, R369). -/

namespace Sys2Proof.Proofs.UpdatesFencesAndWalks

open Sys2Proof Sys2Proof.Machine Sys2Proof.Safety Sys2Proof.Laws Sys2Proof.Proofs.MemoryRequestsIssue

variable {i : Instr} {h : Hd} {x : MemX} {s : State} {c : Ctx} {q : Req}

/-! ### Updates (R365, R368, R369) -/

/-- AMOR's element: virtual, or of the scratchpad in the upper modes. -/
def amorElt (h : Hd) (x : MemX) (c : Ctx) : Elt :=
  let sp : Space := if 8 ≤ h.md.toNat then .scr else .virt
  { space := sp, addr := effAddr sp (natAt c.l.data 0 8) x.off.toNat, n := h.sh.width, data := fitBytes h.sh.width c.rt.data }

theorem amorElt_scratchpad (hs : (amorElt h x c).space = .scr) : 8 ≤ h.md.toNat := by
  by_contra hm
  simp only [amorElt, if_neg hm] at hs
  cases hs

/-- AMOR's request stands with P's element beside it. -/
theorem completes_amor (hf : Fires (.amor h x) s c) (hr : respCount s c.key < 32) (hm : 8 ≤ h.md.toNat → meshFree s c.key = true)
    (hq : get? s.nextId (issued (requestOf (.amor h x) h c (.amor (h.md.toNat % 4)) 8 [amorElt h x c]) s).reqs = some q) :
    Completes (.amor h x) s c (c.toks.map (·.1)) [] (stays c)
      ((issued (requestOf (.amor h x) h c (.amor (h.md.toNat % 4)) 8 [amorElt h x c]) s).setReq s.nextId
        { q with cmp := fitBytes h.sh.width c.p.data }) := by
  have hreq := request_fired (i := .amor h x) (h := h) (op := .amor (h.md.toNat % 4)) (size := 8) (elts := [amorElt h x c]) (s := s)
    fun ⟨e, he, hs⟩ => hm (amorElt_scratchpad (List.mem_singleton.1 he ▸ hs))
  refine completes_fireStream hf (rfl : _ = execAmor h x s) ?_
  simp only [respFree_of_lt hr, Bool.not_true, Bool.false_eq_true, if_false]
  simp only [amorElt] at hreq hq
  simp only [ge_iff_le, hreq, hq]
  rfl

/-- WAITA's arrival word. -/
def waitaElt (x : MemX) (c : Ctx) : Elt := { space := .scr, addr := natAt c.l.data 0 4 + x.off.toNat, n := 8 }

/-- WAITA issues its request unless its word passes its check and finds no place among the waiters of its owner (R161). -/
theorem issues_waita (hf : Fires (.waita h x) s c)
    (hroom : checkElt s c.r (.waita (h.md == 1)) 8 (waitaElt x c) ≠ none ∨ waitersAt s (c.r.scrHome (waitaElt x c).addr).1 < 64) :
    Issues (.waita h x) s c (requestOf (.waita h x) h c (.waita (h.md == 1)) 8 [waitaElt x c]) := fun hm => by
  refine completes_fire hf (rfl : _ = execWaita h x s) ((if_neg ?_).trans (request_fired hm))
  simp only [Bool.and_eq_true, Option.isNone_iff_eq_none, decide_eq_true_eq, not_and, Nat.not_le]
  exact fun hnone => hroom.resolve_left (absurd hnone)

theorem issues_bin (hf : Fires (.bin h x) s c) (hb : (binSet s c.r x.off.toNat h.sh.width).bad = none) :
    let b := binSet s c.r x.off.toNat h.sh.width
    Issues (.bin h x) s c (requestOf (.bin h x) h c .bin 8
      ((upto (min (c.l.data.length / 4) (c.rt.data.length / h.sh.width))).filterMap fun i =>
        let ix := natAt c.l.data (4 * i) 4
        let n := ix / 2 ^ b.bsh
        if ix = 0xFFFFFFFF then none
        else some { lane := i, space := .scr, addr := b.coff + 4 * n, n := 4,
                    data := leBytes 4 ix ++ fitBytes 4 (sliceBytes c.rt.data (h.sh.width * i) h.sh.width),
                    aux := [b.qoff + 8 * b.qcap * n, b.qcap, n, b.nbin] })) := fun hm => by
  refine completes_fireStream hf (rfl : _ = execBin h x s) ?_
  simp only [hb]
  exact request_fired hm

theorem issues_binf (hf : Fires (.binf h x) s c) (hb : (binSet s c.r x.off.toNat h.sh.width).bad = none) :
    let b := binSet s c.r x.off.toNat h.sh.width
    Issues (.binf h x) s c (requestOf (.binf h x) h c .binf 8
      [{ space := .scr, addr := b.coff + 4 * natAt c.l.data 0 4, n := 4,
         aux := [b.qoff + 8 * b.qcap * natAt c.l.data 0 4, b.qcap, natAt c.l.data 0 4, b.tbase] }]) := fun hm => by
  refine completes_fireStream hf (rfl : _ = execBinf h x s) ?_
  simp only [hb]
  exact request_fired hm

/-! ### Fences and scoreboards (R141, R162, R163) -/

/-- A fence takes its place whatever the tile's outgoing queue holds: it has no elements. -/
theorem fence_fired {classes : List Nat} {tl : Bool}
    (hq : get? s.nextId (issued (requestOf i h c (.fence classes tl c.l.kind) c.l.data.length []) s).reqs = some q) :
    c.fence i h classes tl s = .fired (c.toks.map (·.1)) [] (stays c)
      ((issued (requestOf i h c (.fence classes tl c.l.kind) c.l.data.length []) s).setReq s.nextId
        { q with type := c.l.type, cmp := c.l.data }) := by
  unfold Ctx.fence
  rw [request_fired fun ⟨_, he, _⟩ => absurd he List.not_mem_nil]
  simp only [hq]

/-- XFENCE's class as the meaning reads it, a number, and as the word has it, three bits (R163). -/
theorem xfence_classes (cla : BitVec 3) : (if cla.toNat = 2 || cla.toNat = 7 then [cla.toNat] else []) =
    if cla = 2 ∨ cla = 7 then [cla.toNat] else [] := by
  have hcla : ((decide (cla.toNat = 2) || decide (cla.toNat = 7)) = true) ↔ cla = 2 ∨ cla = 7 := by
    simp only [Bool.or_eq_true, decide_eq_true_eq, ← BitVec.toNat_inj]
    rfl
  simp only [hcla]

/-- A fence that is not dead sends its L token on as it came. -/
theorem outs_fence {classes : List Nat} {tl : Bool} {kind : Kind} (hop : q.op = .fence classes tl kind) (hd : q.dead = false) :
    q.outs = [⟨q.t0, kind, q.type, q.time, q.cmp⟩, ⟨q.t1, kind, q.type, q.time, q.cmp⟩] := by
  simp only [Req.outs, hd, hop, Bool.false_eq_true, if_false]

/-- Only an element that is not yet performed, of an earlier request, is outstanding. -/
theorem outstanding_false {k req : Nat} {classes : List Nat} {tl : Bool}
    (hp : ∀ e ∈ s.reqs, e.1 < req → ∀ z ∈ e.2.elts, z.performed = true) : outstanding s k req classes tl = false := by
  simp only [outstanding, List.any_eq_false]
  intro e he hout
  simp only [Bool.and_eq_true, decide_eq_true_eq, List.any_eq_true] at hout
  obtain ⟨⟨⟨hlt, -⟩, -⟩, z, hz, hnot, -⟩ := hout
  rw [hp e he hlt z hz] at hnot
  cases hnot

theorem fenceWaits_false {req : Nat} (hp : ∀ e ∈ s.reqs, e.1 < req → ∀ z ∈ e.2.elts, z.performed = true) :
    fenceWaits s req q = false := by
  unfold fenceWaits
  split
  · exact outstanding_false hp
  · rfl

theorem sends_sbw {y : EngX} (hf : Fires (.sbw h y) s c) (hz : ∀ k < 8, bit y.dsc.toNat k = true → getD 0 k c.a.sb = 0) :
    Sends (.sbw h y) s c (both h c.l.to) := by
  refine completes_fire hf (rfl : _ = execSbw h y s) (if_neg ?_)
  simp only [List.any_eq_true, Bool.and_eq_true, bne_iff_ne, not_exists, not_and, not_not]
  exact fun k hk => hz k (List.mem_range.1 hk)

/-! ### Address walks (R143, R151, R154) -/

/-- The words of AGEN's descriptor, as many as its first one says. -/
def walkWords (x : MemX) (c : Ctx) (s : State) : List W64 :=
  let m := c.descRead x.off.toNat s
  readWords m x.off.toNat (agenLen (agenWord ((readWords m x.off.toNat 1).getD 0 0)))

/-- The walk of a good descriptor, at its first point. -/
def walkStart (x : MemX) (c : Ctx) (ws : List W64) : Agen :=
  let a := agenWord (ws.getD 0 0)
  { slot := c.slot, time := c.time, base := natAt c.l.data 0 8, off := x.off.toNat, words := ws,
    idx := if a.mode = 0 then List.replicate a.ndim 0 else [], seq := c.a.seqOf .mem }

theorem completes_agen {g : Nat} (hf : Fires (.agen h x) s c)
    (hg : (upto 2).find? (fun i => (get? i c.a.agens).isNone) = some g) (hb : agenBad x.off.toNat (walkWords x c s) = none)
    (hp : pipeTurn s c.key = true) :
    Completes (.agen h x) s c [.l] [] (stays c) ((clearSubst c s).modAt c.key fun t =>
      { t.usePort s.cycle 2 256 with agens := put g (walkStart x c (walkWords x c s)) t.agens }) := by
  refine completes_fire hf (rfl : _ = execAgen h x s) ?_
  simp only [walkWords] at hb
  simp only [hg, hp, hb, Bool.not_true, Bool.false_eq_true, if_false, badWord_none _ hf.1.2]
  rfl

/-- Settles O16: AMOR's and a fence's request is amended once issued, and a fence waits for what is not performed alone. -/
theorem updatesFencesAndWalks : Obligations.UpdatesFencesAndWalks := by
  refine ⟨fun s c h x => ⟨fun q => completes_amor, issues_waita, issues_bin, issues_binf⟩,
    fun s c h x y => ⟨fun q hf hq => ?fence, fun q hf hq => ?xfence,
      fun q k classes tl kind hop _ hd => ⟨outs_fence hop hd, fun req => fenceWaits_false⟩, sends_sbw⟩,
    fun s c h x g hf hg hb hp => completes_agen hf hg hb hp⟩
  case fence => exact completes_fireStream hf (rfl : _ = execFence h x s) (fence_fired hq)
  case xfence =>
    refine completes_fireStream hf (rfl : _ = execXfence h x s) ?_
    simp only [xfence_classes]
    exact fence_fired hq

end Sys2Proof.Proofs.UpdatesFencesAndWalks
end

section
/-! PROOFS. The instructions that send an active message (R114 to R118, R139, R140, R297, R298, R311, R316 to R319, R322, R406). -/

namespace Sys2Proof.Proofs.MessagesGoOut

open Sys2Proof Sys2Proof.Machine Sys2Proof.Safety Sys2Proof.Laws

variable {i : Instr} {h : Hd} {x : EngX} {s : State} {c : Ctx}

/-- The state once a descriptor has been read through the read port of A (R143). -/
def descTaken (c : Ctx) (s : State) : State := (clearSubst c s).modAt c.key fun a => a.usePort s.cycle 2 256

theorem outgoing_descTaken (k : Nat) : outgoing (descTaken c s) k = outgoing s k := by
  unfold descTaken clearSubst
  split <;> rfl

theorem nextId_descTaken : (descTaken c s).nextId = s.nextId := by
  unfold descTaken clearSubst
  split <;> rfl

/-- A message is its fields, of the next number, on its way. -/
theorem posts_of_post {d : Ctx → Dest} {f : Ctx → Msg → Msg} (ho : outgoing s c.key < 4)
    (hx : exec i s = fire i (fun c s => c.post i h (d c) (f c) s) s) (hf : Fires i s c) :
    Posts i s c (d c) (f c (c.msg i h s.nextId)) :=
  completes_fire hf hx (post_fired ho)

/-- At the tile's turn at the port, with no bad word, the message is the descriptor's. -/
theorem postDesc_fired {d : Memory → Dest} (ho : outgoing s c.key < 4) (hb : s.focus.bad = none) (hp : pipeTurn s c.key = true) :
    c.postDesc i h x d (engFields x) s = .fired (c.toks.map (·.1)) [] (stays c)
      (posted c (d (c.descRead (8 * x.dsc.toNat) s))
        (loadDesc i (c.descRead (8 * x.dsc.toNat) s) (engFields x (c.msg i h s.nextId))) (descTaken c s)) := by
  have hfree : ¬(decide (outgoing s c.key ≥ 4) || !pipeTurn s c.key) = true := by
    simp only [hp, Bool.not_true, Bool.or_false, decide_eq_true_eq]
    omega
  unfold Ctx.postDesc
  rw [if_neg hfree, badWord_none _ hb]
  dsimp only
  rw [← nextId_descTaken (c := c) (s := s)]
  exact post_fired ((outgoing_descTaken c.key).trans_lt ho)

/-- An instruction that reads a descriptor sends its message. -/
theorem posts_of_postDesc {d : Ctx → Memory → Dest} (ho : outgoing s c.key < 4)
    (hx : exec i s = fire i (fun c s => c.postDesc i h x (d c) (engFields x) s) s) (hf : Fires i s c) (hp : pipeTurn s c.key = true) :
    Completes i s c (c.toks.map (·.1)) [] (stays c) (posted c (d c (c.descRead (8 * x.dsc.toNat) s))
      (loadDesc i (c.descRead (8 * x.dsc.toNat) s) (engFields x (c.msg i h s.nextId))) (descTaken c s)) :=
  completes_fire hf hx (postDesc_fired ho hf.1.2 hp)

/-- CMBR sends its markers as it sends its credit (R322). -/
theorem posts_cmbr (ho : outgoing s c.key < 4) (hf : Matches (.cmbr h x) s c) :
    Posts (.cmbr h x) s c (.combine (engineOf c x)) { c.msg (.cmbr h x) h s.nextId with amop := 0x13, snum := c.l.rank } :=
  completes_fireOwn hf (rfl : _ = execCmbr h x s) (post_fired ho)

/-- What a tile asks its engine to generate: the word, the payload and the tile (R311). -/
def genFields (i : Instr) (c : Ctx) (m : Msg) : Msg :=
  { m with amop := 6, body := [(encodeWord i).getD 0, BitVec.ofNat 64 (natAt c.l.data 0 8), BitVec.ofNat 64 (keyT c.key), 0] }

/-- A generation is asked for while none of the tile is under way (R311). -/
theorem posts_of_sendGen (ho : outgoing s c.key < 4) (hg : generating s c.key = false) (hx : exec i s = sendGen i h s)
    (hf : Fires i s c) : Posts i s c (.engine (c.key / 4 * 4 + 3)) (genFields i c (c.msg i h s.nextId)) := by
  refine completes_fire hf (hx.trans rfl) ?_
  simp only [hg, Bool.false_eq_true, if_false]
  exact post_fired ho

/-- Settles O17: each instruction is its message, behind the port of A where it reads a descriptor. -/
theorem messagesGoOut : Obligations.MessagesGoOut := by
  intro s c h x y mt v msg m reads ho
  refine ⟨?copies, ?cpyf, ?cpyc, ?snap, ?cmbc, ?cmba, ?cmbi, posts_cmbr ho, ?syno, ?synq, fun hg => ?gen⟩
  case copies =>
    have toEngine {i : Instr} (hx : exec i s = fire i (fun c s =>
        c.postDesc i h x (fun _ => .engine (engineOf c x)) (engFields x) s) s) : reads i (.engine mt) :=
      posts_of_postDesc (d := fun c _ => .engine (engineOf c x)) ho hx
    simp only [List.forall_mem_cons]
    exact ⟨toEngine rfl, toEngine rfl, toEngine rfl, List.forall_mem_nil _⟩
  case cpyf =>
    exact posts_of_post (d := fun c => .engine (engineOf c x)) (f := fun c m =>
      { m with amop := 3, snum := natAt c.l.data 0 8 % 16, count := bits (natAt c.l.data 0 8) 16 16 }) ho rfl
  case cpyc =>
    exact posts_of_post (d := fun c => .engine (engineOf c x)) (f := fun c m =>
      { m with amop := 4, snum := natAt c.l.data 0 8 % 16 }) ho rfl
  case snap => exact posts_of_postDesc (x := x) (d := fun _ _ => .snapshot) ho rfl
  case cmbc => exact posts_of_postDesc (x := x) (d := fun c _ => .combine (engineOf c x)) ho rfl
  case cmba =>
    exact posts_of_post (d := fun c => .combine (engineOf c x)) (f := fun _ m =>
      { m with amop := 0x11, count := h.md.toNat, snum := h.sh.code.toNat }) ho rfl
  case cmbi =>
    exact posts_of_post (d := fun c => .combine (engineOf c x)) (f := fun c m =>
      { m with amop := 0x12, count := h.md.toNat, rpay := c.rt.data }) ho rfl
  case syno =>
    exact posts_of_postDesc (x := x) (d := fun c m => .syn (synKey c.h (bits (firstWord m (8 * x.dsc.toNat)) 59 5))) ho rfl
  case synq =>
    exact posts_of_post (d := fun c => .syn (synKey c.h (bits (natAt c.l.data 0 8) 32 5))) (f := fun c m =>
      { m with amop := 0x21 + h.md.toNat, snum := natAt c.l.data 0 8 % 2 ^ 32, count := bits (natAt c.l.data 0 8) 48 16 }) ho rfl
  case gen =>
    simp only [List.forall_mem_cons]
    exact ⟨posts_of_sendGen ho hg rfl, posts_of_sendGen ho hg rfl, List.forall_mem_nil _⟩

end Sys2Proof.Proofs.MessagesGoOut
end

section
/-! PROOFS. What a copy engine does with the messages of its inbox (R115, R116, R120, R123, R128, R132, R311): one lemma for each way in
which the head can be taken, and one for what each kind of message starts. -/

namespace Sys2Proof.Proofs.EngineMessages

open Sys2Proof Sys2Proof.Machine Sys2Proof.Safety Sys2Proof.Laws

/-! ### Taking the head of the inbox (R116, R128) -/

/-- The head of the inbox is taken out. -/
def popped (k : Nat) (rest : List Msg) (s : State) : State := s.modMt k fun t => { t with inbox := rest }

section Head

variable {k w i h : Nat} {ops : List Nat} {bad : Res → Msg → Option Nat} {start : Res → Nat → Nat → Msg → State → Option State}
  {s s' : State} {r : Res} {m : Msg} {rest : List Msg}

theorem startMsg_copy (hm : m.amop ≠ 2) (hfree : freeCtx (s.mt k).cctx = some i) : startMsg r k m start s = start r k i m s := by
  simp only [startMsg, if_neg hm, hfree]

theorem startMsg_stream (hm : m.amop = 2) (hnew : findStrm s k (copyDesc m.body).snum = none) (hfree : freeCtx (s.mt k).sctx = some i) :
    startMsg r k m start s = start r k i m s := by
  simp only [startMsg, if_pos hm, hnew, Option.isSome_none, Bool.false_eq_true, if_false, hfree]

theorem cctx_popped : ((popped k rest s).mt k).cctx = (s.mt k).cctx := by
  rw [popped, mt_modMt_same]

theorem sctx_popped : ((popped k rest s).mt k).sctx = (s.mt k).sctx := by
  rw [popped, mt_modMt_same]

variable (hrun : mtRunning s k = some (h, r)) (hin : (s.mt k).inbox = m :: rest) (hop : m.amop ∈ ops) (hskip : m.skip = false)

include hrun hin hop hskip

/-- A message that fails its check is held. -/
theorem takeHead_holds (hbad : bad r m = some w) : takeHead k ops bad start s = .next (holdMsg r k m w (popped k rest s)).act := by
  simp only [takeHead, hrun, hin, List.contains_iff_mem.2 hop, hskip, hbad, Bool.not_true, Bool.false_eq_true, if_false]
  rfl

/-- A sound copy starts in a free context where none is set aside. -/
theorem takeHead_starts_copy (hbad : bad r m = none) (hm : m.amop ≠ 2) (haside : (s.mt k).asideC = [])
    (hfree : freeCtx (s.mt k).cctx = some i) (hstart : start r k i m (popped k rest s) = some s') :
    takeHead k ops bad start s = .next s' := by
  have hmsg : startMsg r k m start (popped k rest s) = some s' := (startMsg_copy hm ((congrArg freeCtx cctx_popped).trans hfree)).trans hstart
  simp only [popped] at hmsg
  simp only [takeHead, hrun, hin, List.contains_iff_mem.2 hop, hskip, hbad, hm, haside, ctxFree, hfree, hmsg, List.isEmpty_nil,
    Option.isSome_some, Bool.and_self, Bool.not_true, Bool.false_eq_true, if_false, if_true]

/-- A sound stream, with a number that no open stream has, likewise. -/
theorem takeHead_starts_stream (hbad : bad r m = none) (hm : m.amop = 2) (haside : (s.mt k).asideS = [])
    (hnew : findStrm s k (copyDesc m.body).snum = none) (hfree : freeCtx (s.mt k).sctx = some i)
    (hstart : start r k i m (popped k rest s) = some s') : takeHead k ops bad start s = .next s' := by
  have hnew' : findStrm (popped k rest s) k (copyDesc m.body).snum = none := by
    rw [findStrm, sctx_popped]
    exact hnew
  have hmsg : startMsg r k m start (popped k rest s) = some s' := (startMsg_stream hm hnew' ((congrArg freeCtx sctx_popped).trans hfree)).trans hstart
  simp only [popped] at hmsg
  rw [hm] at hop
  simp only [takeHead, hrun, hin, List.contains_iff_mem.2 hop, hskip, hbad, hm, haside, ctxFree, hnew, hfree, hmsg, List.isEmpty_nil,
    Option.isSome_some, Option.isNone_none, Bool.and_self, Bool.not_true, Bool.false_eq_true, if_false, if_true]

/-- A sound copy that finds no context free is set aside, behind fewer than 16. -/
theorem takeHead_sets_aside (hbad : bad r m = none) (hm : m.amop ≠ 2) (hfree : freeCtx (s.mt k).cctx = none)
    (hroom : (s.mt k).asideC.length < 16) :
    takeHead k ops bad start s = .next ((popped k rest s).modMt k fun t => { t with asideC := t.asideC ++ [m] }).act := by
  simp only [takeHead, hrun, hin, List.contains_iff_mem.2 hop, hskip, hbad, hm, ctxFree, hfree, hroom, Option.isSome_none, Bool.and_false,
    Bool.not_true, Bool.false_eq_true, if_false, if_true]
  rfl

end Head

/-! ### What a message starts (R123, R125, R132, R311) -/

section Starts

variable {k i : Nat} {r : Res} {m : Msg} {s s1 : State} {ps : List Post}

/-- The changes of count with which a message goes from L to the engine. -/
def toEngine (r : Res) (k : Nat) (m : Msg) : List Post := ownPost m (-1) ++ enginePost r (copyLoc r k) m 1

/-- A copy under way: its reads, its writes, its context. -/
def copying (r : Res) (k i : Nat) (m : Msg) (rs ws : List Elt) (ps : List Post) (s : State) : State :=
  let a := s.newReq (engineReq m k i false 0 0 .load (copyDesc m.body).size rs)
  let b := a.2.newReq (engineReq m k i false 0 1 .store (copyDesc m.body).size ws)
  ((b.2.putCopy k i { msg := m, sbt := sbTile r k m, rd := some a.1, wr := some b.1 }).post k (toEngine r k m ++ ps)).act

variable (hskip : m.skip = false)

include hskip

/-- A message that no SKIP passed owes no subtraction of its own (R129). -/
theorem skipSub_none {strm : Bool} : skipSub r k i strm m s = s := by
  simp only [skipSub, hskip, Bool.false_and, Bool.false_eq_true, if_false]

theorem startCopy_copy (hm : m.amop = 1) (hfull : sbFull (sbTile r k m) m.sb s = false)
    (hreply : reply m [pulseOut m.time m.t0] (sbAdd (sbTile r k m) m.sb true s) = some (s1, ps)) :
    let d := copyDesc m.body
    startCopy r k i m s = some (copying r k i m (d.reads (d.srcSpace r) (indices (d.dims.map (·.ext))))
      (d.writes (d.dstSpace r) (d.dims.map (·.ext)) [] []) ps s1) := by
  simp only [startCopy, hfull, hreply, hm, hskip, skipSub_none hskip]
  rfl

theorem startCopy_fill (hm : m.amop = 5) (hfull : sbFull (sbTile r k m) m.sb s = false)
    (hreply : reply m [pulseOut m.time m.t0] (sbAdd (sbTile r k m) m.sb true s) = some (s1, ps)) :
    let d := copyDesc m.body
    startCopy r k i m s = some (copying r k i m [] (d.writes (d.dstSpace r) (d.dims.map (·.ext)) [] d.pattern) ps s1) := by
  simp only [startCopy, hfull, hreply, hm, hskip, skipSub_none hskip]
  rfl

theorem startStream_opens : startStream r k i m s =
    some (startTiles r k i (ringSlots m) { msg := m, credits := ringSlots m } (s.post k (toEngine r k m))).act := by
  simp only [startStream, skipSub_none hskip]
  rfl

end Starts

/-- COPY's check, once the message is known to be no refused SEND. -/
theorem copyBad_of_copy {r : Res} {k : Nat} {m : Msg} (hm : m.amop = 1) :
    (if m.amop = 0 then some 0 else descBad r k m 0) = descBad r k m 0 :=
  if_neg (by rw [hm]; decide)

/-- Settles O30: what the head of the inbox starts, or how it is held or set aside. -/
theorem engineMessages : Obligations.EngineMessages := by
  refine ⟨fun s mt h r m rest i s1 ps hrun hskip =>
      ⟨fun hin haside hfree => ⟨fun hfull hreply => ⟨fun hm hbad => ?copy, fun hm hbad => ?fill⟩, fun hm hbad => ?mgen⟩,
        fun hin haside hm hbad hnew hfree => ?sopen, fun strm hin hstart => ?aside⟩,
    fun s mt h r m rest hrun hskip hin =>
      ⟨fun hm => ?send, fun w hm hbad => ?badCopy, fun w hm hbad => ?badFill, fun w hm hbad => ?badStream, fun w hm hbad => ?badGen,
        fun hfree hroom => ⟨fun hm hbad => ?asideCopy, fun hm hbad => ?asideFill, fun hm hbad => ?asideGen⟩⟩⟩
  case copy =>
    exact takeHead_starts_copy hrun hin (by simp [hm]) hskip ((copyBad_of_copy hm).trans hbad) (by simp [hm]) haside hfree
      (startCopy_copy hskip hm hfull hreply)
  case fill =>
    exact takeHead_starts_copy hrun hin (by simp [hm]) hskip hbad (by simp [hm]) haside hfree (startCopy_fill hskip hm hfull hreply)
  case mgen => exact takeHead_starts_copy hrun hin (by simp [hm]) hskip hbad (by simp [hm]) haside hfree rfl
  case sopen =>
    exact takeHead_starts_stream hrun hin (by simp [hm]) hskip hbad hm haside hnew hfree (startStream_opens hskip)
  case aside =>
    show execSetAsideStart mt strm s = _
    simp only [execSetAsideStart, hrun, hin, hstart]
  case send => exact takeHead_holds hrun hin (by simp [hm]) hskip (if_pos hm)
  case badCopy => exact takeHead_holds hrun hin (by simp [hm]) hskip ((copyBad_of_copy hm).trans hbad)
  case badFill => exact takeHead_holds hrun hin (by simp [hm]) hskip hbad
  case badStream => exact takeHead_holds hrun hin (by simp [hm]) hskip hbad
  case badGen => exact takeHead_holds hrun hin (by simp [hm]) hskip hbad
  case asideCopy =>
    exact takeHead_sets_aside hrun hin (by simp [hm]) hskip ((copyBad_of_copy hm).trans hbad) (by simp [hm]) hfree hroom
  case asideFill => exact takeHead_sets_aside hrun hin (by simp [hm]) hskip hbad (by simp [hm]) hfree hroom
  case asideGen => exact takeHead_sets_aside hrun hin (by simp [hm]) hskip hbad (by simp [hm]) hfree hroom

end Sys2Proof.Proofs.EngineMessages
end

section
/-! PROOFS. How copies, matrix generations and streams end, and an owner's arrival subtraction (R125, R126, R133, R134, R146, R311): one
lemma for each way in which a step can go. -/

namespace Sys2Proof.Proofs.EngineCompletions

open Sys2Proof Sys2Proof.Machine

variable {s s' : State} {mt : TileId} {ctx h work : Nat} {r : Res} {ps : List Post}

/-! ### Copies (R125) -/

section Copies

variable {c : Copy}

/-- Whether a copy still writes its flag, as its completion asks it (R127, R129). -/
def flagDue (r : Res) (c : Copy) : Bool :=
  !c.failed && c.msg.flg && !c.flagged && !(c.msg.skip && flagBad r (copyDesc c.msg.body).w4)

/-- Whether a copy that did not fail still writes its flag. -/
def asksFlag (r : Res) (c : Copy) : Bool := c.msg.flg && !c.flagged && !(c.msg.skip && flagBad r (copyDesc c.msg.body).w4)

theorem flagDue_eq : flagDue r c = (!c.failed && asksFlag r c) := by
  simp only [flagDue, asksFlag, Bool.and_assoc]

theorem flagDue_true (hf : c.failed = false) (hn : asksFlag r c = true) : flagDue r c = true := by
  rw [flagDue_eq, hf, hn, Bool.not_false, Bool.and_self]

theorem flagDue_false (hn : c.failed = true ∨ asksFlag r c = false) : flagDue r c = false := by
  rw [flagDue_eq]
  rcases hn with hf | hn
  · rw [hf, Bool.not_true, Bool.false_and]
  · rw [hn, Bool.and_false]

/-- A copy is done with its bytes: its requests and subtractions are answered. -/
def copyDone (s : State) (k ctx : Nat) (c : Copy) : Bool :=
  reqDone s c.rd && reqDone s c.wr && reqDone s c.fl && subsDone s k ctx false 0

variable (hrun : mtRunning s mt.key = some (h, r)) (hctx : get? ctx (s.mt mt.key).cctx = some c)

include hrun hctx

theorem matrixGenDone_answers (hgen : c.mgen = true) (hwr : reqDone s c.wr = true)
    (hend : endCopy r mt.key ctx c (if c.failed then [markerOut 5 c.msg.time c.msg.t0, markerOut 5 c.msg.time c.msg.t1] else genOuts c.msg) s
      = some s') : exec (.matrixGenDone mt ctx) s = .next s' := by
  show execMatrixGenDone mt ctx s = _
  simp only [execMatrixGenDone, hrun, hctx, hgen, hwr, hend, Bool.not_true, Bool.or_self, Bool.false_eq_true, if_false]

variable (hgen : c.mgen = false) (hdone : copyDone s mt.key ctx c = true)

include hgen hdone

theorem copyCompletion_flags (hflag : flagDue r c = true) :
    let a := s.newReq (engineReq c.msg mt.key ctx false 0 2 .store 8 [flagElt c.msg])
    exec (.copyCompletion mt ctx) s = .next (a.2.putCopy mt.key ctx { c with fl := some a.1, flagged := true }).act := by
  simp only [copyDone] at hdone
  simp only [flagDue] at hflag
  show execCopyCompletion mt ctx s = _
  simp only [execCopyCompletion, hrun, hctx, hgen, hdone, hflag, Bool.not_true, Bool.or_self, Bool.false_eq_true, if_false, if_true]

variable (hflag : flagDue r c = false)

include hflag

theorem copyCompletion_counts (hdec : c.dec = false) :
    exec (.copyCompletion mt ctx) s = .next (sbAdd c.sbt c.msg.sb false (s.putCopy mt.key ctx { c with dec := true })).act := by
  simp only [copyDone] at hdone
  simp only [flagDue] at hflag
  show execCopyCompletion mt ctx s = _
  simp only [execCopyCompletion, hrun, hctx, hgen, hdone, hflag, hdec, Bool.not_true, Bool.not_false, Bool.or_self, Bool.false_eq_true,
    if_false, if_true]

theorem copyCompletion_ends (hdec : c.dec = true)
    (hend : endCopy r mt.key ctx c [if c.failed then markerOut 5 c.msg.time c.msg.t1 else pulseOut c.msg.time c.msg.t1] s = some s') :
    exec (.copyCompletion mt ctx) s = .next s' := by
  simp only [copyDone] at hdone
  simp only [flagDue] at hflag
  show execCopyCompletion mt ctx s = _
  simp only [execCopyCompletion, hrun, hctx, hgen, hdone, hflag, hdec, hend, Bool.not_true, Bool.or_self, Bool.false_eq_true, if_false]

end Copies

/-! ### Arrival subtractions (R126, R146) -/

section Subtractions

variable {b : ArrSub} (hb : get? work s.subs = some b) (hr : get? b.h s.res = some r)

include hb hr

theorem arrivalSubtraction_applies (hturn : unitTurn s r (.sub work) [(b.off, 8)] = true) :
    let t := unitTake r (.sub work) [(b.off, 8)] s
    let s1 : State := { t with subs := del work t.subs }
    exec (.arrivalSubtraction work) s =
      .next (wake b.h b.off (scrPut r s1 b.off (leBytes 8 (arrSub (leNat (scrRead r s1 b.off 8)) b.n)))).act := by
  show execArrivalSubtraction work s = _
  simp only [execArrivalSubtraction, hb, hr, atBanks, hturn, if_true]
  rfl

theorem arrivalSubtraction_waits (hturn : unitTurn s r (.sub work) [(b.off, 8)] = false) :
    exec (.arrivalSubtraction work) s = .next (unitWait r (.sub work) [(b.off, 8)] s) := by
  show execArrivalSubtraction work s = _
  simp only [execArrivalSubtraction, hb, hr, atBanks, hturn, Bool.false_eq_true, if_false]

end Subtractions

/-! ### Credits and closes (R134, R140) -/

section Messages

variable {c : Strm} {m : Msg} {rest before after : List Msg}

/-- What is first answered is what first can be. -/
theorem firstSome_append {α β : Type} {f : α → Option β} {l l' : List α} {a : α} {b : β} (hl : ∀ x ∈ l, f x = none) (ha : f a = some b) :
    firstSome f (l ++ a :: l') = some b := by
  induction l with
  | nil => simp only [List.nil_append, firstSome, ha]
  | cons x l ih =>
    simp only [List.cons_append, firstSome, hl x List.mem_cons_self]
    exact ih fun y hy => hl y (List.mem_cons_of_mem x hy)

/-- Of the closes that waited, the first that its target takes is answered. -/
theorem answerClosed_first {k : Nat} (hclosed : (s.mt k).closed = before ++ m :: after)
    (hbefore : ∀ x ∈ before, answer k x [pulseOut x.time x.t0] s = none) (hans : answer k m [pulseOut m.time m.t0] s = some s') :
    answerClosed k s = some (s'.modMt k fun t => { t with closed := removeFirst (fun x => x == m) t.closed }) := by
  unfold answerClosed
  rw [hclosed]
  refine firstSome_append (fun x hx => ?_) ?_
  · rw [hbefore x hx, Option.map_none]
  · rw [hans, Option.map_some]

variable (hrun : mtRunning s mt.key = some (h, r))

include hrun

/-- Credits up to S return, and tiles start on them. -/
theorem sfree_returns (hin : (s.mt mt.key).inbox = m :: rest) (hm : m.amop = 3) (hs : findStrm s mt.key m.snum = some (ctx, c))
    (hsum : c.credits + m.count ≤ ringSlots c.msg)
    (hans : answer mt.key m [pulseOut m.time m.t0] (startTiles r mt.key ctx (c.credits + m.count)
      { c with credits := c.credits + m.count } (s.modMt mt.key fun t => { t with inbox := rest })) = some s') :
    exec (.sfree mt) s = .next s'.act := by
  show execSfree mt s = _
  simp only [execSfree, hrun, hin, hm, hs, gt_iff_lt, Nat.not_lt.2 hsum, if_false, hans, ne_eq, not_true_eq_false]

theorem sclose_answers (hans : answerClosed mt.key s = some s') : exec (.sclose mt) s = .next s'.act := by
  show execSclose mt s = _
  simp only [execSclose, hrun, hans]

/-- A close of an open stream waits at it, and no further tile starts. -/
theorem sclose_closes (hans : answerClosed mt.key s = none) (hin : (s.mt mt.key).inbox = m :: rest) (hm : m.amop = 4)
    (hs : findStrm s mt.key m.snum = some (ctx, c)) :
    exec (.sclose mt) s = .next ((s.modMt mt.key fun t => { t with inbox := rest }).putStrm mt.key ctx
      { c with closing := true, closers := c.closers ++ [m] }).act := by
  show execSclose mt s = _
  simp only [execSclose, hrun, hans, hin, hm, hs, ne_eq, not_true_eq_false, if_false]

end Messages

/-! ### Tiles and the end of a stream (R133, R134) -/

section Streams

variable {c : Strm} {a b : Nat} {t : Time} (hrun : mtRunning s mt.key = some (h, r)) (hctx : get? ctx (s.mt mt.key).sctx = some c)
  (hheld : c.held = false) (hfailed : c.failed = false)

include hrun hctx hheld hfailed

section Tiles

variable (htile : c.tiles.find? (fun e => e.1 == c.sent) = some (c.sent, a, b)) (ha : reqDone s (some a) = true)
  (hb : reqDone s (some b) = true) (hsubs : subsDone s mt.key ctx true c.sent = true)

include htile ha hb hsubs

theorem streamTileDone_reports (htime : tileTime s r c.msg c.sent = some t)
    (hsend : engineSend r mt.key c.msg [dataOut .n64 t (leBytes 8 (c.sent + c.sent % ringSlots c.msg * 2 ^ 32)) c.msg.t0]
      ((dropReq (some b) (dropReq (some a) s)).putStrm mt.key ctx
        { c with sent := c.sent + 1, tiles := c.tiles.filter fun e => e.1 != c.sent }) = some (s', ps)) :
    exec (.streamTileDone mt ctx) s = .next (s'.post mt.key ps).act := by
  simp only [hheld, hfailed] at hsend
  show execStreamTileDone mt ctx s = _
  simp only [execStreamTileDone, hrun, hctx, htile, hheld, hfailed, ha, hb, hsubs, htime, hsend, Bool.and_self, Bool.not_true, Bool.or_self,
    Bool.false_eq_true, if_false]

/-- A tile whose time overflows holds its stream. -/
theorem streamTileDone_holds (htime : tileTime s r c.msg c.sent = none) :
    exec (.streamTileDone mt ctx) s =
      .next ((s.putStrm mt.key ctx { c with held := true }).raise (strmRec s r mt.key ctx c.msg c.sent)).act := by
  show execStreamTileDone mt ctx s = _
  simp only [execStreamTileDone, hrun, hctx, htile, hheld, hfailed, ha, hb, hsubs, htime, Bool.and_self, Bool.not_true, Bool.or_self,
    Bool.false_eq_true, if_false]

end Tiles

theorem streamClose_ends (hnone : c.tiles = []) (hlast : c.closing = true ∨ streamTiles c.msg ≤ c.next)
    (hsubs : strmSubsDone s mt.key ctx = true) (htime : tileTime s r c.msg c.sent = some t)
    (hsend : engineSend r mt.key c.msg [markerOut 1 t c.msg.t0, pulseOut c.msg.time c.msg.t1]
      (s.modMt mt.key fun t => { t with sctx := del ctx t.sctx, closed := t.closed ++ c.closers }) = some (s', ps)) :
    exec (.streamClose mt ctx) s =
      .next (coreDone c.msg c.failed (s'.post mt.key (enginePost r (copyLoc r mt.key) c.msg (-1) ++ ps))).act := by
  have hend : (c.closing || decide (c.next ≥ streamTiles c.msg)) = true := by
    simpa only [Bool.or_eq_true, decide_eq_true_eq] using hlast
  show execStreamClose mt ctx s = _
  simp only [execStreamClose, hrun, hctx, hheld, hfailed, hnone, hend, hsubs, htime, hsend, List.isEmpty_nil, List.all_nil, List.foldl_nil,
    Option.map_some, Bool.and_self, Bool.or_true, Bool.not_true, Bool.or_self, Bool.false_eq_true, if_false]

end Streams

/-- Settles O31: each completion, subtraction, credit and close is one of the lemmas above. -/
theorem engineCompletions : Obligations.EngineCompletions := by
  refine ⟨fun s mt ctx h work r c s' => ⟨fun hrun hctx => ⟨fun hgen hrd hwr hfl hsubs => ?copy, matrixGenDone_answers hrun hctx⟩,
      fun b r hb hr => ⟨arrivalSubtraction_applies hb hr, arrivalSubtraction_waits hb hr⟩⟩,
    fun s mt ctx h r c m rest s' ps hrun => ⟨sfree_returns hrun,
      fun m before after hclosed hbefore hans => sclose_answers hrun (answerClosed_first hclosed hbefore hans), sclose_closes hrun,
      fun hctx hheld hfailed => ⟨fun a b htile ha hb hsubs => ⟨fun t => streamTileDone_reports hrun hctx hheld hfailed htile ha hb hsubs,
        streamTileDone_holds hrun hctx hheld hfailed htile ha hb hsubs⟩, fun t => streamClose_ends hrun hctx hheld hfailed⟩⟩⟩
  case copy =>
    have hdone : copyDone s mt.key ctx c = true := by simp only [copyDone, hrd, hwr, hfl, hsubs, Bool.and_self]
    exact ⟨fun hf hn => copyCompletion_flags hrun hctx hgen hdone (flagDue_true hf hn),
      fun hn => copyCompletion_counts hrun hctx hgen hdone (flagDue_false hn),
      fun hn => copyCompletion_ends hrun hctx hgen hdone (flagDue_false hn)⟩

end Sys2Proof.Proofs.EngineCompletions
end

section
/-! PROOFS. Register writes, links and self-test (R135, R179, R270, R386, R411, R412, R416, R429, R433, R435, R437, R438,
R441). -/

namespace Sys2Proof.Proofs.RegistersLinksAndSelfTest

open Sys2Proof Sys2Proof.Machine

variable {s : State} {tile : TileId} {die h k link quad : Nat} {v : W64} {peer : List (Nat × Nat)}

/-! ### Writes to a tile, a die or a residency -/

theorem onTile_of {f : AT → AT} (ht : atId tile = true) : onTile tile f s = .next (s.modAt tile.key f).act := if_pos ht

theorem onDie_of {f : Die → Die} (hd : die < 4) : onDie die f s = .next (s.modDie die f).act := if_pos hd

theorem onRes_of {f : Res → Res} {r : Res} (hr : get? h s.res = some r) :
    onRes h f s = .next ({ s with res := put h (f r) s.res } : State).act := by
  simp only [onRes, hr]

theorem atId_of (hd : tile.die < 4) (hx : tile.x < 12) (hy : tile.y < 10) (ht : tile.t < 3) : atId tile = true := by
  simp only [atId, hd, hx, hy, ht, decide_true, Bool.and_self]

theorem perfselWrite_counter (ht : atId tile = true) (hk : k < 4) :
    exec (.perfselWrite tile k v) s = .next (s.modAt tile.key fun a => setPerfsel a k v).act :=
  (if_pos hk).trans (onTile_of ht)

theorem registerWrite_asidRoot (hh : h < 4096) :
    exec (.registerWrite (.asidRoot h) v) s = .next ({ s with roots := put h v.toNat s.roots } : State).act := by
  show execRegisterWrite (.asidRoot h) v s = _
  simp only [execRegisterWrite, hh, decide_true, if_true]

theorem qmaskSet_word {word : Nat} (hd : die < 4) (hw : word < 2) :
    exec (.qmaskSet die word v) s = .next (s.modDie die (setQmask word v)).act :=
  (if_pos hw).trans (onDie_of hd)

theorem slewTableWrite_word {crn : Nat} (hd : die < 4) (hl : 0x40 ≤ crn) (hu : crn ≤ 0x44) :
    exec (.slewTableWrite die crn v) s = .next (s.modDie die fun d => setSlewWord d crn v).act :=
  (if_pos ⟨hl, hu⟩).trans (onDie_of hd)

/-! ### Links (R429, R433, R438) -/

theorem flitReplay_corrected (chan : Nat) (ht : atId tile = true) :
    exec (.flitReplay (.token tile chan) false) s = .next (s.modDie tile.die fun d => { d with mpar := count16 d.mpar }).act :=
  if_pos ht

/-- A kept error also spoils a token. -/
theorem flitReplay_kept (chan : Nat) (ht : atId tile = true) :
    exec (.flitReplay (.token tile chan) true) s = .next ((s.modAt tile.key fun a => spoilLast a chan).modDie tile.die fun d =>
      { d with mpar := count16 d.mpar, ue := count16 d.ue }).act :=
  if_pos ht

section Training

variable (hl : 4 ≤ link) (hu : link < 40)

include hl hu

theorem linkTraining_up (hp : peer.any (fun v => v.1 == 1) = true) :
    exec (.linkTraining link peer) s =
      .next ({ s with links := upd {} link (fun l => { l with up := true, version := some (1, 0) }) s.links } : State).act :=
  (if_neg (by omega)).trans (if_pos hp)

theorem linkTraining_down (hp : peer.any (fun v => v.1 == 1) = false) :
    exec (.linkTraining link peer) s =
      .next (({ s with links := upd {} link (fun l => { l with up := false, version := none }) s.links } : State).modDie ((link - 4) / 9)
        fun d => { d with ue := count16 d.ue }).act :=
  (if_neg (by omega)).trans (if_neg (by rw [hp]; exact Bool.false_ne_true))

end Training

/-! ### Self-test (R437) -/

section SelfTest

variable (hd : die < 4) (hq : quad < 120)

include hd hq

theorem selfTest_claims (hbar : quadBarred s 8192 die (quad % 12) (quad / 12) = false)
    (huse : quadUsers s die (quad % 12) (quad / 12) = []) :
    exec (.idleSelfTest die quad .claim) s = .next ({ s with testing := s.testing ++ [die * 120 + quad] } : State).act := by
  refine (if_neg (by omega)).trans (if_neg ?_)
  simp only [hbar, huse, List.isEmpty_nil, Bool.not_true, Bool.or_self, Bool.false_eq_true, not_false_eq_true]

variable (hin : s.testing.contains (die * 120 + quad) = true)

include hin

theorem selfTest_gives_back : exec (.idleSelfTest die quad .giveBack) s =
    .next (quadFreed { s with testing := s.testing.filter fun n => n != die * 120 + quad }).act :=
  (if_neg (by omega)).trans (if_pos hin)

theorem selfTest_quarantines : exec (.idleSelfTest die quad .quarantine) s =
    .next (({ s with testing := s.testing.filter fun n => n != die * 120 + quad } : State).modDie die fun d =>
      { d with qmask := d.qmask ||| 2 ^ quad }).act :=
  (if_neg (by omega)).trans (if_pos hin)

end SelfTest

/-- Settles O44: each write is that of its register's words where the tile, die or residency exists. -/
theorem registersLinksAndSelfTest : Obligations.RegistersLinksAndSelfTest := by
  refine ⟨fun s tile die h k crn v r => ⟨fun hd hx hy ht => ?tile, ⟨rfl, rfl, rfl, registerWrite_asidRoot⟩,
      fun hr => ⟨onRes_of hr, onRes_of hr⟩, fun hd => ⟨onDie_of hd, if_pos hd, onDie_of hd, onDie_of hd, qmaskSet_word hd (by decide),
        qmaskSet_word hd (by decide), slewTableWrite_word hd⟩⟩,
    fun s tile chan die link port quad again peer => ⟨fun hd hx hy ht => ?replay, fun hl => if_pos hl,
      fun hl hu => ⟨linkTraining_up hl hu, linkTraining_down hl hu⟩, rfl,
      fun hd hq => ⟨selfTest_claims hd hq, fun hin => ⟨selfTest_gives_back hd hq hin, selfTest_quarantines hd hq hin⟩⟩⟩⟩
  case tile =>
    have hid := atId_of hd hx hy ht
    exact ⟨onTile_of hid, onTile_of hid, perfselWrite_counter hid⟩
  case replay =>
    have hid := atId_of hd hx hy ht
    exact ⟨flitReplay_corrected chan hid, flitReplay_kept chan hid⟩

end Sys2Proof.Proofs.RegistersLinksAndSelfTest
end

section
/-! PROOFS. What reset leaves (R135, R270, R306, R412, R437, R441; log 3, 4, 5). -/

namespace Sys2Proof.Proofs.ResetValues

open Sys2Proof Sys2Proof.Machine Sys2Proof.Safety Sys2Proof.Proofs.InvariantKept

/-- Every die, core and capacity is at its default, which is within bounds. -/
theorem inv_reset : Inv State.reset where
  mem := rfl
  hostMem := rfl
  share := Nat.zero_le 74
  boot := Nat.zero_le 2
  die := fun _ => dieOk_default
  bccap := fun _ => (by decide : 0x100 < 2 ^ 16)
  dspctl := (by decide : State.reset.dsp.ctl &&& 1 = State.reset.dsp.ctl)
  core := fun _ => ⟨.inr (.inr rfl), rfl⟩

/-- Settles O49: no map of the state after reset has an entry, so each read gives the default. -/
theorem resetValues : Obligations.ResetValues :=
  ⟨inv_reset, fun _ => rfl, rfl, rfl, rfl, fun _ => rfl, fun _ => ⟨rfl, rfl, rfl, rfl, rfl, rfl, rfl⟩,
    fun _ => ⟨rfl, rfl, rfl, rfl, rfl, rfl, rfl, rfl⟩, rfl, rfl, rfl, rfl, fun _ => ⟨rfl, rfl, rfl⟩⟩

end Sys2Proof.Proofs.ResetValues
end

section
/-! PROOFS. What a combine unit does with its messages and its slots (R146, R317 to R319, R321 to R323): a step that uses the scratchpad is
one at the turn of its words, and each other step is one lemma. -/

namespace Sys2Proof.Proofs.CombineUnits

open Sys2Proof Sys2Proof.Machine Sys2Proof.Safety
open Sys2Proof.Proofs.EngineCompletions (firstSome_append)

variable {s s1 s' : State} {mt : TileId} {x : CU} {m : Msg} {i ch w : Nat}

/-- A step at the turn of its words in the banks is the one that `AtTurn` speaks of, whatever message it takes. -/
theorem atTurn_of_cmbStep {instr : Instr} {op : Nat} {areas : List (Nat × Nat)} {go : State → Option State}
    {taken : Option (Msg × State)} (hx : exec instr s = cmbStep x op areas s go taken) : AtTurn instr x op areas s go := by
  intro hbad hgo
  obtain ⟨t, ht⟩ := Option.isSome_iff_exists.1 hgo
  simp only [cmbStep, ht] at hx
  refine ⟨fun hturn s' hs' => ?_, fun hturn => ?_⟩
  · rw [hx, hturn, hbad, hs']
    rfl
  · rw [hx, hturn]
    rfl

theorem unitAt_of_unitOf {k : Nat} (hx : unitOf s k = some x) : unitAt s k = some x := by
  unfold unitOf at hx
  split at hx
  · exact hx
  · cases hx

/-! ### Configurations and allocations (R317, R318) -/

section Queue

variable (hx : unitOf s mt.key = some x)

include hx

section Arrival

variable (htake : takeCin s mt.key [0x10, 0x11] = some (m, s1)) (hidle : x.u.waiting = none)

include htake hidle

theorem ccfg_holds (hop : m.amop = 0x10) (hbad : ccfgBad x m = some w) :
    exec (.ccfg mt) s = .next (holdMsg x.r x.mt m w s1).act := by
  show execCcfg mt s = _
  simp only [execCcfg, hx, htake, hop, hidle, hbad, ne_eq, not_true_eq_false, decide_false, Option.isSome_none, Bool.or_self,
    Bool.false_eq_true, if_false]

theorem ccfg_waits (hop : m.amop = 0x10) (hbad : ccfgBad x m = none) :
    exec (.ccfg mt) s = .next (modCmb x.mt (fun u => { u with waiting := some m }) s1).act := by
  show execCcfg mt s = _
  simp only [execCcfg, hx, htake, hop, hidle, hbad, ne_eq, not_true_eq_false, decide_false, Option.isSome_none, Bool.or_self,
    Bool.false_eq_true, if_false]

variable (hop : m.amop = 0x11) (hsound : (!m.skip && expertsBad x (expertList s x m)) = false)

include hop hsound

theorem calloc_allocates (hq : x.u.allocq = []) (hslot : slotFor s x = some i) :
    AtTurn (.calloc mt) x 1 [headArea, slotArea x i] s fun t =>
      (takeCin t x.mt [0x10, 0x11]).bind fun e => allocate x m i e.2 := by
  refine atTurn_of_cmbStep (taken := some (m, s1)) ?_
  show execCalloc mt s = _
  simp only [execCalloc, hx, htake, hop, hidle, hsound, hq, hslot, ne_eq, not_true_eq_false, decide_false, Option.isSome_none, Bool.or_self,
    Bool.false_eq_true, if_false, List.isEmpty_nil, if_true]
  refine congrArg (fun go => cmbStep x 1 _ s go _) (funext fun t => ?_)
  cases takeCin t x.mt [0x10, 0x11] <;> rfl

theorem calloc_queues (hroom : x.u.allocq.length < 16) (hnone : x.u.allocq ≠ [] ∨ slotFor s x = none) :
    exec (.calloc mt) s = .next (modCmb x.mt (fun u => { u with allocq := u.allocq ++ [m] }) s1).act := by
  have hslot : (if x.u.allocq.isEmpty then slotFor s x else none) = none := by
    rcases hnone with hq | hslot
    · exact if_neg (by rwa [List.isEmpty_iff])
    · rw [hslot, ite_self]
  show execCalloc mt s = _
  simp only [execCalloc, hx, htake, hop, hidle, hsound, hslot, hroom, ne_eq, not_true_eq_false, decide_false, Option.isSome_none,
    Bool.or_self, Bool.false_eq_true, if_false, if_true]

end Arrival

/-- The state with the waiting configuration in the head and every slot of it free (R317). -/
def configured (x : CU) (m : Msg) (t : State) : State :=
  let word (i : Nat) : Nat := (m.body.getD i 0).toNat
  let c := cmbCfg (word 0) (word 1)
  modCmb x.mt (fun u => { u with waiting := none, order := [], ready := [], live := [], got := [] })
    (freeHeads { x with c := c } c.n (wrn x 0x1C 4 0 (wrn x 0x28 8 (word 1) (wrn x 0x20 8 (word 0) t))))

theorem ccfgApply_configures (hw : x.u.waiting = some m) (hfree : allFree s x = true) (hq : x.u.allocq = []) :
    AtTurn (.ccfgApply mt) x 0 [headArea] s fun t =>
      (answer x.mt m [pulseOut m.time m.t0, pulseOut m.time m.t1] (configured x m t)).map State.act := by
  refine atTurn_of_cmbStep (taken := none) ?_
  show execCcfgApply mt s = _
  simp only [execCcfgApply, hx, hw, hfree, hq, List.isEmpty_nil, Bool.not_true, Bool.or_self, Bool.false_eq_true, if_false]
  rfl

theorem callocResume_allocates {rest : List Msg} (hq : x.u.allocq = m :: rest) (hslot : slotFor s x = some i) :
    AtTurn (.callocResume mt) x 1 [headArea, slotArea x i] s fun t =>
      allocate x m i (modCmb x.mt (fun u => { u with allocq := rest }) t) := by
  refine atTurn_of_cmbStep (taken := none) ?_
  show execCallocResume mt s = _
  simp only [execCallocResume, hx, hq, hslot]

end Queue

/-! ### Deliveries (R319) -/

section Delivery

/-- A delivery of this status changes the scratchpad by `f` and is answered. -/
def delivered (x : CU) (m : Msg) (st : Nat) (f : State → State) (t : State) : Option State :=
  (takeCin t x.mt [0x12]).bind fun e =>
    (answer x.mt m [pulseOut m.time m.t0, dataOut .n8 m.time (leBytes 8 st) m.t1] (f e.2)).map State.act

variable (hx : unitOf s mt.key = some x) (htake : takeCin s mt.key [0x12] = some (m, s1))

include hx htake

theorem cins_holds (hj : judge s x m = .bad) : exec (.cins mt) s = .next (holdMsg x.r x.mt m 0 s1).act := by
  show execCins mt s = _
  simp only [execCins, hx, htake, hj]

theorem cins_late (hj : judge s x m = .late) :
    AtTurn (.cins mt) x 2 [headArea] s (delivered x m 1 (headAdd x 0x10 1)) := by
  refine atTurn_of_cmbStep (taken := some (m, s1)) ?_
  show execCins mt s = _
  simp only [execCins, hx, htake, hj]
  rfl

theorem cins_double (hj : judge s x m = .dup) :
    AtTurn (.cins mt) x 2 [headArea] s (delivered x m 2 (headAdd x 0x14 1)) := by
  refine atTurn_of_cmbStep (taken := some (m, s1)) ?_
  show execCins mt s = _
  simp only [execCins, hx, htake, hj]
  rfl

theorem cins_writes {j : Nat} (hj : judge s x m = .write j) :
    AtTurn (.cins mt) x 2 (chunkAreas s x m j) s (delivered x m 0 (writeChunk x m j)) := by
  refine atTurn_of_cmbStep (taken := some (m, s1)) ?_
  show execCins mt s = _
  simp only [execCins, hx, htake, hj]
  rfl

end Delivery

/-! ### Substitution (R321) -/

section Substitution

variable (hx : unitOf s mt.key = some x) (hi : i < x.c.n) (hopen : slotState s x i = 1) (hfirst : deliveryFirst s x i = false)

include hx hi hopen hfirst

theorem frontierSubst_substitutes (hpassed : frontierPassed s x i = true) :
    AtTurn (.combineFrontierSubst mt i) x 3 [headArea, slotArea x i, accArea x i] s fun t => some (substitute x i 0 0x08 t).act := by
  refine atTurn_of_cmbStep (taken := none) ?_
  show execCombineFrontierSubst mt i s = _
  simp only [execCombineFrontierSubst, hx, hi, hopen, hfirst, hpassed, decide_true, Bool.not_false, Bool.and_self, if_true]

theorem timeout_substitutes (hpassed : frontierPassed s x i = false) (htmo : x.c.tmo ≠ 0) (hlive : get? i x.u.live = some 0) :
    AtTurn (.combineTimeout mt i) x 3 [headArea, slotArea x i, accArea x i] s fun t => some (substitute x i 1 0x0C t).act := by
  refine atTurn_of_cmbStep (taken := none) ?_
  show execCombineTimeout mt i s = _
  simp only [execCombineTimeout, hx, hi, hopen, hfirst, hpassed, htmo, hlive, ne_eq, not_false_eq_true, decide_true, Bool.not_false,
    Bool.and_self, if_true]

end Substitution

/-! ### Credit and release (R322, R323) -/

section Receive

variable (hx : unitOf s mt.key = some x) (htake : takeCin s mt.key [0x13] = some (m, s1))

include hx htake

theorem crecv_credits (hm : m.snum = 0) :
    AtTurn (.crecv mt) x 4 [headArea] s fun t => (takeCin t x.mt [0x13]).map fun e =>
      ((coreDone m false (headAdd x 0x18 (natAt m.lpay 0 4) (register x m e.2))).post x.mt (ownPost m (-1))).act := by
  refine atTurn_of_cmbStep (taken := none) ?_
  show execCrecv mt s = _
  simp only [execCrecv, hx, htake, hm, ne_eq, not_true_eq_false, if_false]

theorem crecv_queues_marker (hm : m.snum ≠ 0) :
    exec (.crecv mt) s = .next (modCmb x.mt (fun u => { u with markers := u.markers ++ [m] }) (register x m s1)).act := by
  show execCrecv mt s = _
  simp only [execCrecv, hx, htake, hm, ne_eq, not_false_eq_true, if_true]

end Receive

/-- A release under way goes on, whether or not the residency runs (R323). -/
theorem release_goes_on (hx : unitAt s mt.key = some x) (hrel : x.u.rel = some (i, ch)) :
    AtTurn (.combineRelease mt) x 5
      (if ch < x.c.chunks then [(accOff x i + 256 * ch * 4 / x.c.es, 1024 / x.c.es)] else [headArea, slotArea x i]) s
      (releaseStep x i ch) := by
  refine atTurn_of_cmbStep (taken := none) ?_
  show execCombineRelease mt s = _
  simp only [execCombineRelease, hx, hrel]

theorem release_begins (hx : unitOf s mt.key = some x) (hnone : x.u.rel = none) (hi : releasable s x = some i)
    (hrecv : x.u.recv ≠ none) :
    AtTurn (.combineRelease mt) x 5 [slotArea x i] s fun t =>
      some (modCmb x.mt (fun u => { u with rel := some (i, 0) }) (wrHead x i 8 1 4 t)).act := by
  obtain ⟨receiver, hreceiver⟩ := Option.ne_none_iff_exists'.1 hrecv
  refine atTurn_of_cmbStep (taken := none) ?_
  show execCombineRelease mt s = _
  simp only [execCombineRelease, unitAt_of_unitOf hx, hx, hnone, hi, hreceiver, Option.isNone_some, Bool.or_self, Bool.false_eq_true, if_false]

theorem releaseMarker_of_released (hpast : ∀ i < x.c.n, slotState s x i = 0 ∨ m.time.toNat < slotTime s x i) :
    releaseMarker x s m = answer x.mt m [markerOut m.snum m.time m.t0, markerOut m.snum m.time m.t1]
      (modCmb x.mt (fun u => { u with markers := removeFirst (fun y => y == m) u.markers }) s) := by
  refine if_neg ?_
  simp only [List.any_eq_true, Bool.and_eq_true, bne_iff_ne, decide_eq_true_eq, not_exists, not_and, Nat.not_le]
  exact fun i hi hstate => (hpast i (List.mem_range.1 hi)).resolve_left hstate

/-- Of the markers that wait, the first that can go out does. -/
theorem markerRelease_first {before rest : List Msg} (hx : unitOf s mt.key = some x) (hq : x.u.markers = before ++ m :: rest)
    (hbefore : ∀ y ∈ before, releaseMarker x s y = none) (hm : releaseMarker x s m = some s') :
    exec (.combineMarkerRelease mt) s = .next s'.act := by
  show execCombineMarkerRelease mt s = _
  simp only [execCombineMarkerRelease, hx, hq, firstSome_append hbefore hm]

/-- Settles O32: each step of the unit is one of the lemmas above. -/
theorem combineUnits : Obligations.CombineUnits := by
  refine ⟨fun s mt x m s1 i hx => ⟨fun htake hidle => ⟨fun hop => ?ccfg, fun hop hsound => ?calloc⟩, ccfgApply_configures hx,
      fun rest => callocResume_allocates hx, fun htake => ⟨cins_holds hx htake, cins_late hx htake, cins_double hx htake,
        fun j => cins_writes hx htake⟩⟩,
    fun s mt x m s1 s' i ch => ⟨release_goes_on, fun hx => ⟨fun hi hopen hfirst => ⟨frontierSubst_substitutes hx hi hopen hfirst,
        timeout_substitutes hx hi hopen hfirst⟩, fun htake => ⟨crecv_credits hx htake, crecv_queues_marker hx htake⟩, release_begins hx,
        fun before rest hq hbefore hpast hans =>
          markerRelease_first hx hq hbefore ((releaseMarker_of_released hpast).trans hans)⟩⟩⟩
  case ccfg =>
    cases hbad : ccfgBad x m with
    | none => exact ccfg_waits hx htake hidle hop hbad
    | some w => exact ccfg_holds hx htake hidle hop hbad
  case calloc =>
    have hok : (!m.skip && expertsBad x (expertList s x m)) = false := by
      rcases hsound with hskip | hlist
      · rw [hskip, Bool.not_true, Bool.false_and]
      · rw [hlist, Bool.and_false]
    exact ⟨calloc_allocates hx htake hidle hop hok, calloc_queues hx htake hidle hop hok⟩

end Sys2Proof.Proofs.CombineUnits
end

section
/-! PROOFS. How the results of a matrix node come: operations, loads of B and what the node owes (R143, R255, R260 to R262, R264 to
R266). -/

namespace Sys2Proof.Proofs.NodeResults

open Sys2Proof Sys2Proof.Machine

variable {s s' : State} {tile : TileId} {index k : Nat}

/-! ### Operations (R260, R264 to R266) -/

section Operations

variable {f : InFlight} (hf : (s.at tile.key).node.flight[index]? = some f)
  (hfree : opBlocked (s.at tile.key).node.flight index f = false)

include hf hfree

/-- A row or its marker, but for one that forms a partial set: `hop` rules out the one branch that leaves the state. -/
theorem rowResult_applies (hrow : f.row = true) (hop : ∀ i p, f.op ≠ .blk i p) :
    exec (.rowResult tile index) s = .next (opResult tile.key index f s) := by
  show execRowResult tile index s = _
  simp only [execRowResult, hf, hfree, hrow, Bool.not_false, Bool.and_self, if_true]

theorem mscaResult_applies {r : Option Nat} {sc : List (Nat × Nat)} {p : List (Option Nat)} (hop : f.op = .sca r sc p) :
    exec (.mscaResult tile index) s = .next (opResult tile.key index f s) := by
  show execMscaResult tile index s = _
  simp only [execMscaResult, hf, hfree, hop, Bool.false_eq_true, if_false]

/-- A marker of MSCA or MZERO. -/
theorem mscaResult_passes (hrow : f.row = false) (hop : f.op = .pass) :
    exec (.mscaResult tile index) s = .next (opResult tile.key index f s) := by
  show execMscaResult tile index s = _
  simp only [execMscaResult, hf, hfree, hrow, hop, Bool.or_self, Bool.false_eq_true, if_false]

theorem mzeroDone_applies {r c : Nat} (hop : f.op = .zero r c) :
    exec (.mzeroDone tile index) s = .next (opResult tile.key index f s) := by
  show execMzeroDone tile index s = _
  simp only [execMzeroDone, hf, hfree, hop, Bool.false_eq_true, if_false]

theorem mblkSetValid_fills {i : Nat} {p : List (Option Nat)} (hop : f.op = .blk i p)
    (hfills : (s.at tile.key).node.flight.findIdx? (fillsSet i) = some index) :
    exec (.mblkSetValid tile i) s = .next (opResult tile.key index f (s.modNode tile.key fun n =>
      { n with sets := put i { valid := true, filling := false, time := f.time, p := p } n.sets })) := by
  show execMblkSetValid tile i s = _
  simp only [execMblkSetValid, hfills, hf, hfree, hop, Bool.false_eq_true, if_false]

end Operations

/-! ### Loads of B (R143, R255) -/

section Loads

variable {l : MLoad} (hl : (s.at tile.key).node.loads[index]? = some l)

include hl

theorem mldbLoadDone_reads (hleft : 0 < l.left) (hturn : loadTurn s tile.key index l = true) :
    exec (.mldbLoadDone tile index) s = .next (readLoad tile.key index l s).act := by
  show execMldbLoadDone tile index s = _
  simp only [execMldbLoadDone, hl, gt_iff_lt, hleft, hturn, if_true]

theorem mldbLoadDone_ends (hleft : l.left = 0)
    (hfirst : ((s.at tile.key).node.loads.take index).any (fun g => g.slot == l.slot) = false) :
    exec (.mldbLoadDone tile index) s =
      .next (finishOp tile.key { slot := l.slot, time := l.time, pipe := .oth, seq := l.seq, outs := l.outs }
        ((l.dest.foldl (fun (s : State) d => s.modNode d fun n => n.takeLoad l) s).modNode tile.key fun n =>
          { n with loads := n.loads.eraseIdx index })).act := by
  show execMldbLoadDone tile index s = _
  simp only [execMldbLoadDone, hl, hleft, hfirst, gt_iff_lt, Nat.lt_irrefl, Bool.false_eq_true, if_false]

end Loads

/-- A load reaches a special store in its own order, and a bank in the bank's. -/
theorem takeLoad_eq (n : Node) (l : MLoad) : n.takeLoad l =
    if l.sp then n.setSp (l.bank == 1) (writeBytes (n.sp (l.bank == 1)) 0 (zeroWord l.sword l.bytes))
    else n.setBank (l.bank == 1) (writeBytes (n.bank (l.bank == 1)) 0 (loadB l.sh l.trn (zeroWord l.sword l.bytes))) := by
  unfold Node.takeLoad MLoad.image
  cases l.sp <;> rfl

/-! ### What the node owes (R261, R262) -/

/-- With no operation at the index, what is owed goes out where some of it can. -/
theorem rowResult_sends (hnone : (s.at tile.key).node.flight[index]? = none)
    (hsent : ((sendAllOwed tile.key s).at tile.key).node.outq.length ≠ (s.at tile.key).node.outq.length) :
    exec (.rowResult tile index) s = .next (sendAllOwed tile.key s).act := by
  show execRowResult tile index s = _
  simp only [execRowResult, hnone]
  exact if_neg hsent

theorem sendOwed_sends {o : NodeOut} (ho : (s.at k).node.outq[index]? = some o)
    (hfirst : outBlocked (s.at k).node.outq index o = false)
    (hsend : deliver (s.modNode k fun n => n.sent index o) k o.slot o.time o.pipe o.seq o.outs = some s') : sendOwed k index s = s' := by
  simp only [sendOwed, ho, hfirst, hsend, Bool.false_eq_true, if_false, Option.getD_some]

/-- Settles O27: each result, load and answer is one of the lemmas above. -/
theorem nodeResults : Obligations.NodeResults := by
  intro s tile index f k nd answered
  refine ⟨fun hf hfree => ⟨rowResult_applies hf hfree, fun r sc p => mscaResult_applies hf hfree, mscaResult_passes hf hfree,
      fun r c => mzeroDone_applies hf hfree, fun i p => mblkSetValid_fills hf hfree⟩, fun l => mldbLoadDone_reads,
    fun l hl hleft hfirst => ?ends, rowResult_sends, fun o s' => sendOwed_sends⟩
  case ends =>
    simp only [← takeLoad_eq]
    exact mldbLoadDone_ends hl hleft hfirst

end Sys2Proof.Proofs.NodeResults
end

section
/-! PROOFS. Syntax bindings: how a stream is opened, asked for, credited and closed, and how it parses, delivers and ends (R143, R146, R278,
R280, R281, R296 to R298). -/

namespace Sys2Proof.Proofs.SyntaxUnits

open Sys2Proof Sys2Proof.Machine

variable {s s1 s' : State} {res bind : Nat} {r : Res} {m : Msg} {v : VStream} {ps : List Post}

/-! ### Messages (R296 to R298) -/

section Messages

section Open

variable (hhead : synHead s res bind 0x20 = some (r, m, s1))

include hhead

theorem vopen_opens (hbad : vopenBad r m = none) :
    exec (.vopen res bind) s = .next ((s1.setSyn (synKey res bind) { s1.syn (synKey res bind) with
      next := (s1.syn (synKey res bind)).next + 1
      streams := put (s1.syn (synKey res bind)).next { msg := m, credits := (vdesc m).slots } (s1.syn (synKey res bind)).streams }).post
        (synMt r bind) (ownPost m (-1) ++ synPost r bind m 1)).act := by
  show execVopen res bind s = _
  simp only [execVopen, hhead, hbad]

theorem vopen_holds {w : Nat} (hbad : vopenBad r m = some w) :
    exec (.vopen res bind) s = .next (holdMsg r (synMt r bind) m w s1).act := by
  show execVopen res bind s = _
  simp only [execVopen, hhead, hbad]

end Open

section Query

/-- The stream's state, status, pictures sent and credits, and the bytes that it has read (R298). -/
def streamBytes (v : VStream) : List Byte :=
  leBytes 8 (v.state + (if v.state = 2 then v.status.getD 0 else 0) * 2 ^ 8 + v.sent % 2 ^ 32 * 2 ^ 16 + v.credits % 2 ^ 16 * 2 ^ 48)
    ++ leBytes 8 v.consumed

/-- A state sent to both targets. -/
def stateOuts (m : Msg) (bs : List Byte) : List Out := [m.t0, m.t1].map (dataOut .n64 m.time bs)

variable (hhead : synHead s res bind 0x21 = some (r, m, s1))

include hhead

theorem vqry_answers_unknown (hnone : get? m.snum (s.syn (synKey res bind)).streams = none)
    (hans : synAnswer r bind m (stateOuts m (leBytes 8 3 ++ zeros 8)) s1 = some s') : exec (.vqry res bind) s = .next s'.act := by
  simp only [stateOuts, List.map_cons, List.map_nil] at hans
  show execVqry res bind s = _
  simp only [execVqry, hhead, hnone, hans]

theorem vqry_answers (hv : get? m.snum (s.syn (synKey res bind)).streams = some v)
    (hans : synAnswer r bind m (stateOuts m (streamBytes v)) s1 = some s') : exec (.vqry res bind) s = .next s'.act := by
  simp only [stateOuts, streamBytes, List.map_cons, List.map_nil] at hans
  show execVqry res bind s = _
  simp only [execVqry, hhead, hv, hans]

end Query

section Credit

variable (hhead : synHead s res bind 0x22 = some (r, m, s1))

include hhead

theorem vfree_returns (hv : get? m.snum (s.syn (synKey res bind)).streams = some v) (hgoes : v.state ≠ 2)
    (hsum : v.credits + m.count ≤ (vdesc v.msg).slots)
    (hans : synAnswer r bind m (synqOuts m) (s1.setStream (synKey res bind) m.snum { v with credits := v.credits + m.count }) = some s') :
    exec (.vfree res bind) s = .next s'.act := by
  show execVfree res bind s = _
  simp only [execVfree, hhead, hv, hgoes, gt_iff_lt, Nat.not_lt.2 hsum, if_false, Nat.min_eq_left hsum, hans]

theorem vfree_counts_unknown (hnone : get? m.snum (s.syn (synKey res bind)).streams = none)
    (hans : synAnswer r bind m (synqOuts m) (addXsc res 1 s1) = some s') : exec (.vfree res bind) s = .next s'.act := by
  show execVfree res bind s = _
  simp only [execVfree, hhead, hnone, hans]

end Credit

section Close

variable (hhead : synHead s res bind 0x23 = some (r, m, s1))

include hhead

theorem vclose_waits (hv : get? m.snum (s.syn (synKey res bind)).streams = some v) (hgoes : v.state ≠ 2) :
    exec (.vclose res bind) s =
      .next (s1.setStream (synKey res bind) m.snum { v with closing := true, closers := v.closers ++ [m] }).act := by
  show execVclose res bind s = _
  simp only [execVclose, hhead, hv, hgoes, if_false]

theorem vclose_answers (hended : ∀ v, get? m.snum (s.syn (synKey res bind)).streams = some v → v.state = 2)
    (hans : synAnswer r bind m (synqOuts m) s1 = some s') : exec (.vclose res bind) s = .next s'.act := by
  show execVclose res bind s = _
  cases hv : get? m.snum (s.syn (synKey res bind)).streams with
  | none => simp only [execVclose, hhead, hv, hans]
  | some v => simp only [execVclose, hhead, hv, hended v hv, hans, if_true]

end Close

end Messages

/-! ### Streams (R278, R280, R281) -/

section Streams

variable {sigma : Nat} (hrun : runRes s res = some r)

include hrun

theorem streamParseStart_takes_lane {lane : Nat} {rest : List Nat} (hv : get? sigma (s.syn (synKey res bind)).streams = some v)
    (hwaits : v.state = 0) (hopen : v.closing = false) (hlane : freeLanes (s.syn (synKey res bind)) = lane :: rest)
    (hfirst : (s.syn (synKey res bind)).streams.any (fun e => e.1 < sigma && e.2.state == 0 && !e.2.closing) = false) :
    exec (.streamParseStart res bind sigma) s =
      .next (readMore res bind sigma { v with state := 1, lanes := [lane], engine := lane / 16 } s).act := by
  show execStreamParseStart res bind sigma s = _
  simp only [execStreamParseStart, hrun, hv, hwaits, hopen, hlane, hfirst, ne_eq, not_true_eq_false, decide_false, Bool.or_self,
    Bool.false_eq_true, if_false]

section Delivery

/-- Whether a stream cannot deliver its next picture: it does not parse, is held or over, or lacks a credit or a picture that has its place in
the output store (R280). -/
def cannotDeliver (v : VStream) : Bool :=
  v.state ≠ 1 || v.held || v.failed || v.closing || v.status.isSome || v.credits = 0 || atLimit v || decide (v.sent ≥ v.kept)

omit hrun in
theorem cannotDeliver_false (hstate : v.state = 1) (hheld : v.held = false) (hfailed : v.failed = false) (hopen : v.closing = false)
    (hstatus : v.status = none) (hcredit : v.credits ≠ 0) (hlimit : atLimit v = false) (hkept : v.sent < v.kept) :
    cannotDeliver v = false := by
  simp only [cannotDeliver, hstate, hheld, hfailed, hopen, hstatus, hcredit, hlimit, ge_iff_le, Nat.not_le.2 hkept, ne_eq,
    not_true_eq_false, decide_false, Option.isSome_none, Bool.or_self]

/-- Where the next picture's ring slot stands in its allocation. -/
def ringPlace (v : VStream) : Nat := (vdesc v.msg).ring + v.sent % (vdesc v.msg).slots * (vdesc v.msg).slotsz

/-- What of the picture is written next. -/
def nextPart (a : Alloc) (v : VStream) (bs : List Byte) : List Byte := imagePart (a.off + ringPlace v) v.put bs

variable {a : Alloc} (hcurrent : current (s.syn (synKey res bind)) = some (sigma, v))
  (halloc : ringAlloc ((get? res s.res).getD default) bind = some a) (hgoes : cannotDeliver v = false)

include hcurrent halloc hgoes

theorem pictureDelivery_unparsed (hnone : pictureBytes sigma v (parsed v).1 v.sent = none) :
    exec (.pictureDelivery res bind) s = .next s := by
  simp only [cannotDeliver] at hgoes
  show execPictureDelivery res bind s = _
  simp only [execPictureDelivery, hrun, hcurrent, halloc, hgoes, hnone, Bool.false_eq_true, if_false]

variable {bs : List Byte} (hbytes : pictureBytes sigma v (parsed v).1 v.sent = some bs)

include hbytes

theorem pictureDelivery_refuses (hlarge : (vdesc v.msg).slotsz < bs.length) :
    exec (.pictureDelivery res bind) s =
      .next (s.setStream (synKey res bind) sigma { v with status := some 5, lanes := [] }).act := by
  simp only [cannotDeliver] at hgoes
  show execPictureDelivery res bind s = _
  simp only [execPictureDelivery, hrun, hcurrent, halloc, hgoes, hbytes, gt_iff_lt, hlarge, Bool.false_eq_true, if_false, if_true]

variable {t : Time} (hfits : ¬(vdesc v.msg).slotsz < bs.length) (htime : tileTime s r v.msg v.sent = some t)

include hfits htime

theorem pictureDelivery_waits
    (hturn : allocTurn r (synKey res bind) a (ringPlace v + v.put) (nextPart a v bs).length s = false) :
    exec (.pictureDelivery res bind) s =
      .next (allocWait r (synKey res bind) a (ringPlace v + v.put) (nextPart a v bs).length s) := by
  simp only [cannotDeliver] at hgoes
  simp only [ringPlace, nextPart] at hturn
  show execPictureDelivery res bind s = _
  simp only [execPictureDelivery, hrun, hcurrent, halloc, hgoes, hbytes, gt_iff_lt, hfits, htime, hturn, Bool.not_false, Bool.false_eq_true,
    if_false, if_true]
  rfl

variable (hturn : allocTurn r (synKey res bind) a (ringPlace v + v.put) (nextPart a v bs).length s = true)

include hturn

theorem pictureDelivery_writes (hmore : v.put + (nextPart a v bs).length < bs.length) :
    exec (.pictureDelivery res bind) s = .next ((writeAlloc r (synKey res bind) a (ringPlace v + v.put) (nextPart a v bs) s).setStream
      (synKey res bind) sigma { v with put := v.put + (nextPart a v bs).length }).act := by
  simp only [cannotDeliver] at hgoes
  simp only [ringPlace, nextPart] at hturn hmore
  show execPictureDelivery res bind s = _
  simp only [execPictureDelivery, hrun, hcurrent, halloc, hgoes, hbytes, gt_iff_lt, hfits, htime, hturn, hmore, Bool.not_true,
    Bool.false_eq_true, if_false, if_true]
  rfl

/-- The token of a picture that stands in its slot: its number and the slot (R280). -/
def pictureOut (v : VStream) (t : Time) : Out :=
  dataOut .n64 t (leBytes 8 (v.sent % 2 ^ 32 + v.sent % (vdesc v.msg).slots * 2 ^ 32)) v.msg.t0

theorem pictureDelivery_ends (hlast : bs.length ≤ v.put + (nextPart a v bs).length)
    (hsend : synSend r v.msg [pictureOut v t]
      ((writeAlloc r (synKey res bind) a (ringPlace v + v.put) (nextPart a v bs) s).setStream (synKey res bind) sigma
        { v with credits := v.credits - 1, sent := v.sent + 1, put := 0 }) = some (s', ps)) :
    exec (.pictureDelivery res bind) s = .next (s'.post (synMt r bind) ps).act := by
  simp only [cannotDeliver] at hgoes
  simp only [ringPlace, nextPart, pictureOut] at hturn hlast hsend
  show execPictureDelivery res bind s = _
  simp only [execPictureDelivery, hrun, hcurrent, halloc, hgoes, hbytes, gt_iff_lt, hfits, htime, hturn, Nat.not_lt.2 hlast, hsend,
    Bool.not_true, Bool.false_eq_true, if_false]

end Delivery

theorem syntaxStreamEnd_ends {st : Nat} {t : Time} (hcurrent : current (s.syn (synKey res bind)) = some (sigma, v))
    (hheld : v.held = false) (hfailed : v.failed = false) (hst : endStatus v = some st) (htime : tileTime s r v.msg v.sent = some t)
    (hsend : synSend r v.msg [markerOut 1 t v.msg.t0,
      dataOut .n64 v.msg.time (leBytes 8 (st + v.sent % 2 ^ 32 * 2 ^ 32)) v.msg.t1] (endStream (synKey res bind) sigma st v s)
        = some (s', ps)) :
    exec (.syntaxStreamEnd res bind sigma) s =
      .next (coreDone v.msg v.failed (s'.post (synMt r bind) (synPost r bind v.msg (-1) ++ ps))).act := by
  show execSyntaxStreamEnd res bind sigma s = _
  simp only [execSyntaxStreamEnd, hrun, hcurrent, hheld, hfailed, hst, htime, hsend, ne_eq, not_true_eq_false, decide_false, Bool.or_self,
    Bool.false_eq_true, if_false]

end Streams

/-- Settles O33: each message and each step of a stream is one of the lemmas above. -/
theorem syntaxUnits : Obligations.SyntaxUnits := by
  refine ⟨fun s res bind r m s1 s' => ⟨vopen_opens, fun w hhead => vopen_holds hhead, vqry_answers_unknown, fun v => vqry_answers,
      fun v => vfree_returns, vfree_counts_unknown, fun v => vclose_waits, vclose_answers⟩,
    fun s res bind sigma lane rest r v s' ps hrun => ⟨streamParseStart_takes_lane hrun, fun a hcurrent halloc hstate hheld hfailed
      hopen hstatus hcredit hlimit hkept => ?delivery, fun st t => syntaxStreamEnd_ends hrun⟩⟩
  have hgoes := cannotDeliver_false hstate hheld hfailed hopen hstatus hcredit hlimit hkept
  cases hbytes : pictureBytes sigma v (parsed v).1 v.sent with
  | none => exact pictureDelivery_unparsed hrun hcurrent halloc hgoes hbytes
  | some bs =>
    by_cases hlarge : (vdesc v.msg).slotsz < bs.length
    · simp only [hlarge, if_true]
      exact pictureDelivery_refuses hrun hcurrent halloc hgoes hbytes hlarge
    · simp only [hlarge, if_false]
      exact fun t htime => ⟨pictureDelivery_waits hrun hcurrent halloc hgoes hbytes hlarge htime,
        pictureDelivery_writes hrun hcurrent halloc hgoes hbytes hlarge htime,
        pictureDelivery_ends hrun hcurrent halloc hgoes hbytes hlarge htime⟩

end Sys2Proof.Proofs.SyntaxUnits
end

section
/-! PROOFS. How tokens move on: admission, backing queues, aging and address walks (R150 to R152, R166, R172, R174, R177, R191). -/

namespace Sys2Proof.Proofs.TokensMoveOn

open Sys2Proof Sys2Proof.Machine Sys2Proof.Laws
open Sys2Proof.Proofs.Vital (foldl_keeps)

variable {s : State} {tile : TileId} {chan h : Nat} {r : Res} {w : ChanWord} {tok : Token}

/-! ### Admission (R166, R172, R174) -/

section Admission

variable {rest : List Token} {d p : Nat} {q : Pos}

/-- A channel of a tile leads to its place of the region (R172). -/
theorem chanDest_of_channel (hdest : chanDest s r w = some (d, p, q)) (hcls : w.cls ≠ 2) :
    (d, p, q) = (resTile r w.dqx w.dqy w.dt, w.dslot, posOf w.dpos) := by
  unfold chanDest at hdest
  rw [if_pos hcls] at hdest
  exact (Option.some.inj hdest).symm

/-- Only a binding's token changes on its way (R166). -/
theorem ingressToken_eq (s : State) (r : Res) (w : ChanWord) (d : Nat) (tok : Token) :
    (if w.cls = 2 then ingressToken s r w d tok else tok) = ingressToken s r w d tok := by
  split
  · rfl
  · rename_i hcls
    exact (if_pos hcls).symm

variable (hchan : chanOf s tile.key chan = some (r, w)) (hnow : (s.at tile.key).chanNow chan = tok :: rest)
  (hdest : chanDest s r w = some (d, p, q))

include hchan hnow hdest

theorem tokenAdmission_admits (htake : (s.at d).canTake p q tok.time = true) :
    let s1 := (s.modAt tile.key fun a => a.popChan chan ((a.chanToks chan).drop 1) tok.time).modAt d fun b =>
      b.takeToken p q (ingressToken s r w d tok)
    exec (.tokenAdmission tile chan) s =
      .next ((if w.cls = 2 then s1.modMt (d / 4 * 4 + 3) MT.nextSeq else s1).post d
        (postAt (s.at tile.key) (chanEdge chan) tok.time (-1)
          ++ if (s.at d).exited then [] else postAt (s.at d) (posEdge p q) tok.time 1)).act := by
  show execTokenAdmission tile chan s = _
  simp only [execTokenAdmission, hchan, hnow, hdest, htake, if_true]

/-- A token refused where its position has room is refused by the last-entry rule, and is counted (R174). -/
theorem tokenAdmission_refuses (htake : (s.at d).canTake p q tok.time = false) :
    exec (.tokenAdmission tile chan) s = .next (if (s.at d).room p q then s.modAt d fun a => a.perf 7 1 else s) := by
  show execTokenAdmission tile chan s = _
  simp only [execTokenAdmission, hchan, hnow, hdest, htake, Bool.false_eq_true, if_false]
  split <;> rfl

end Admission

/-! ### Backing queues (R150, R191) -/

section Queues

variable {d : BackqDecl} (hchan : chanOf s tile.key chan = some (r, w)) (hres : (s.at tile.key).res = some h) (hbq : w.bq ≠ 63)
  (hd : r.desc.backqs[w.bq]? = some d) (hroom : ((s.at tile.key).exited || (s.at tile.key).chanRoom w) = true)

/-- A token of a backing queue, which then stands as `b`, enters the buffer of its channel; a finished tile discards it (R191). -/
def intoBuffer (a : AT) (k chan h : Nat) (w : ChanWord) (tok : Token) (b : BackQ) (s : State) : State :=
  let s := s.modRes h fun x => { x with backq := put w.bq b x.backq }
  (if a.exited then (s.setAt k (a.addExd 1)).post k (postAt a (chanEdge chan) tok.time (-1)) else s.setAt k (a.pushChan chan tok)).act

include hchan hres hbq hd hroom

theorem backqMove_at_banks {rest : List Token} (htoks : (getD {} w.bq r.backq).toks = tok :: rest)
    (hstored : 0 < (getD {} w.bq r.backq).stored) :
    let b := getD {} w.bq r.backq
    exec (.backqMove tile chan) s = .next (atBanks r (.backq h w.bq true) (entryAreas d b.head tok.data.length) s
      (intoBuffer (s.at tile.key) tile.key chan h w (entryToken s r d b.head tok)
        { b with head := (b.head + 1) % d.tokens, toks := rest, stored := b.stored - 1 })) := by
  show execBackqMove tile chan s = _
  simp only [execBackqMove, hchan, hres, hbq, hd, hroom, htoks, hstored, ne_eq, not_false_eq_true, decide_true, Bool.and_self, if_true]
  rfl

/-- After the last entry a token that waited at the source moves, without a turn. -/
theorem backqMove_from_source (htoks : (getD {} w.bq r.backq).toks = []) (hsrc : (getD {} w.bq r.backq).src = some tok) :
    exec (.backqMove tile chan) s =
      .next (intoBuffer (s.at tile.key) tile.key chan h w tok { getD {} w.bq r.backq with src := none } s) := by
  show execBackqMove tile chan s = _
  simp only [execBackqMove, hchan, hres, hbq, hd, hroom, htoks, hsrc, ne_eq, not_false_eq_true, decide_true, Bool.and_self, if_true]
  rfl

end Queues

/-- A slot whose count has reached 64 is aged (R177). -/
theorem slotAged_ages {slot : Nat} (hcount : 64 ≤ ((s.at tile.key).slot slot).aging) (hyoung : ((s.at tile.key).slot slot).aged = false) :
    exec (.slotAged tile slot) s = .next (s.modAt tile.key fun a => a.modSlot slot fun x => { x with aged := true }).act := by
  show execSlotAged tile slot s = _
  simp only [execSlotAged, ge_iff_le, hcount, hyoung, decide_true, Bool.not_false, Bool.and_self, if_true]

/-! ### Address walks (R151, R152) -/

section Walks

variable {k ctx : Nat} {g g' : Agen}

/-- The clock and the tiles. -/
def clockTiles (s : State) := (s.cycle, s.ats)

/-- A turn in the banks writes neither. -/
theorem clockTiles_unitTake (r : Res) (unit : UnitId) (ranges : List (Nat × Nat)) (s : State) :
    clockTiles (unitTake r unit ranges s) = clockTiles s := by
  have hturns (bs : List Nat) := foldl_keeps clockTiles
    (f := fun s b => s.modMt (b / 16) fun m => { m with bankAt := put (b % 16) (s.cycle + 1) m.bankAt }) (fun _ _ => rfl) bs s
  show clockTiles (ite _ _ _) = _
  split <;> exact hturns _

/-- The state in which an address generator walks on: at its turn it takes its pointer word (R151). -/
def walking (s : State) (r : Res) (k ctx : Nat) (g : Agen) : State := if g.needs then ptrTake r k ctx g s else s

theorem walking_cases (s : State) (r : Res) (k ctx : Nat) (g : Agen) :
    clockTiles (walking s r k ctx g) = clockTiles s ∨ walking s r k ctx g = s.modAt k fun a => a.usePort s.cycle 2 8 := by
  unfold walking ptrTake
  split
  · split
    · exact .inr rfl
    · split
      · exact .inl rfl
      · exact .inl (clockTiles_unitTake ..)
  · exact .inl rfl

theorem cycle_walking : (walking s r k ctx g).cycle = s.cycle := by
  rcases walking_cases s r k ctx g with hkept | hport
  · exact (Prod.mk.inj hkept).1
  · rw [hport]
    rfl

theorem postAt_walking (edge : Nat) (t : Time) (n : Int) : postAt ((walking s r k ctx g).at k) edge t n = postAt (s.at k) edge t n := by
  rcases walking_cases s r k ctx g with hkept | hport
  · rw [State.at, (Prod.mk.inj hkept).2]
    rfl
  · rw [hport, at_modAt_same]
    rfl

/-- The state once the generator has walked on, as `g'`. -/
def walked (s : State) (r : Res) (k ctx : Nat) (g g' : Agen) : State :=
  (walking s r k ctx g).modAt k fun a => { a with agens := put ctx g' a.agens }

theorem cycle_walked : (walked s r k ctx g g').cycle = s.cycle := cycle_walking

theorem postAt_walked (edge : Nat) (t : Time) (n : Int) : postAt ((walked s r k ctx g g').at k) edge t n = postAt (s.at k) edge t n := by
  rw [walked, at_modAt_same]
  exact postAt_walking ..

variable {o : Out × List (List Nat)} {os : List (Out × List (List Nat))} {s' : State} {ps : List Post}

/-- The tile once a generator has sent its first token: with the last one the walk ends, and no other goes in the cycle (R152). -/
def sentFirst (cycle ctx : Nat) (g : Agen) (os : List (Out × List (List Nat))) : AT → AT := fun a =>
  { a with
    agens := if os.isEmpty && g.walked then del ctx a.agens else put ctx { g with outq := os } a.agens
    agenAt := cycle + 1
    agenLast := ctx }

/-- The end of a walk's count at L. -/
def walkEnd (a : AT) (g : Agen) (os : List (Out × List (List Nat))) : List Post :=
  if os.isEmpty && g.walked then postAt a (posEdge g.slot .l) g.time (-1) else []

theorem agenSend_sends (hq : g.outq = o :: os)
    (hsend : sendAll (s.modAt k (sentFirst s.cycle ctx g os)) k (sportOf r k 1) g.seq [o.1] o.2 = some (s', ps)) :
    agenSend s r k ctx g = some (s'.post k (ps ++ walkEnd (s.at k) g os)) := by
  simp only [agenSend, hq]
  exact congrArg (Option.map fun x : State × List Post => x.1.post k (x.2 ++ walkEnd (s.at k) g os)) hsend

theorem agenSend_walked (hq : g'.outq = o :: os)
    (hsend : sendAll ((walked s r k ctx g g').modAt k (sentFirst s.cycle ctx g' os)) k (sportOf r k 1) g'.seq [o.1] o.2 = some (s', ps)) :
    agenSend (walked s r k ctx g g') r k ctx g' = some (s'.post k (ps ++ walkEnd (s.at k) g' os)) := by
  rw [← cycle_walked (s := s) (r := r) (k := k) (ctx := ctx) (g := g) (g' := g')] at hsend
  have hend : walkEnd ((walked s r k ctx g g').at k) g' os = walkEnd (s.at k) g' os := congrArg (ite _ · []) (postAt_walked ..)
  rw [agenSend_sends hq hsend, hend]

section Emission

variable {hd : Nat} {h : Hd} (hg : get? ctx (s.at tile.key).agens = some g) (hres : (s.at tile.key).res = some hd)
  (hr : get? hd s.res = some r) (hinstr : ((s.at tile.key).active.instr g.slot).bind instrHd = some h) (hrun : r.running = true)
  (hheld : g.held = false)

include hg hres hr hinstr hrun hheld

/-- A generator with its turn walks on and sends its first token. -/
theorem agenEmission_sends (hptr : (g.needs && !ptrTurn s r tile.key ctx g) = false)
    (hwalk : agenWalk (walking s r tile.key ctx g) r tile.key h 80 g = .ok g') (hq : g'.outq = o :: os)
    (hturn : agenTurn s r tile.key ctx = true)
    (hsend : sendAll ((walked s r tile.key ctx g g').modAt tile.key (sentFirst s.cycle ctx g' os)) tile.key (sportOf r tile.key 1) g'.seq
      [o.1] o.2 = some (s', ps)) :
    exec (.agenEmission tile ctx) s = .next (s'.post tile.key (ps ++ walkEnd (s.at tile.key) g' os)).act := by
  have hsent := agenSend_walked hq hsend
  simp only [walked, walking] at hwalk hsent
  show execAgenEmission tile ctx s = _
  simp only [execAgenEmission, hg, hres, hr, hinstr, hrun, hheld, hptr, agenStep, hwalk, hq, hturn, hsent, List.isEmpty_cons, Bool.not_true,
    Bool.or_self, Bool.false_eq_true, if_false]

end Emission

end Walks

/-- Settles O26: each move is one of the lemmas above, a backing queue's in the two ways in which its banks' turn can fall. -/
theorem tokensMoveOn : Obligations.TokensMoveOn := by
  intro s tile chan slot ctx k a
  refine ⟨fun r w tok rest d p q hchan hnow hdest => ⟨chanDest_of_channel hdest, fun htake => ?admits,
      tokenAdmission_refuses hchan hnow hdest⟩, fun h r w d hchan hres hbq hd hroom => ?backq, slotAged_ages,
    fun g g' hd r h o os s' ps hg hres hr hinstr hrun hheld hptr => ?walk⟩
  case admits =>
    simp only [ingressToken_eq]
    exact tokenAdmission_admits hchan hnow hdest htake
  case backq =>
    rw [← Bool.or_eq_true] at hroom
    refine ⟨fun tok rest htoks hstored => ?_, fun tok => backqMove_from_source hchan hres hbq hd hroom⟩
    have hmove := backqMove_at_banks hchan hres hbq hd hroom htoks hstored
    exact ⟨fun hturn => hmove.trans (congrArg _ (if_pos hturn)), fun hturn => hmove.trans (congrArg _ (if_neg (ne_true_of_eq_false hturn)))⟩
  case walk =>
    have hready : (g.needs && !ptrTurn s r tile.key ctx g) = false := by
      cases hneeds : g.needs with
      | false => rfl
      | true =>
        rw [hptr hneeds]
        rfl
    exact agenEmission_sends hg hres hr hinstr hrun hheld hready

end Sys2Proof.Proofs.TokensMoveOn
end

section
/-! PROOFS. What a matrix node takes into its pipeline: rows, rows of an A buffer, block products, their markers, and the scaling of a set
(R143, R144, R251, R256, R258 to R265). -/

namespace Sys2Proof.Proofs.MatrixRowsAndSets

open Sys2Proof Sys2Proof.Machine Sys2Proof.Safety Sys2Proof.Laws

variable {i : Instr} {h : Hd} {x : MatX} {s t : State} {c : Ctx} {row : List Byte}

/-! ### Firing a row instruction (R256, R259, R261) -/

section Firing

variable {r : FireRes} (hgo : rowsStopped s c.key = false)

include hgo

/-- With a grant, and no load that stops the rows, data goes to the instruction's own meaning. -/
theorem fires_data (hf : Fires i s c) (hgrant : c.a.node.grant = true) :
    (if !rowReady c s then .idle else if c.l.isMarker then rowMarker i c s else r) = r := by
  have hready : rowReady c s = true := by simp only [rowReady, hgrant, hgo, Bool.true_or, Bool.not_false, Bool.and_self]
  have hdata : c.l.isMarker = false := tok_unmarked hf.2 .l
  simp only [hready, hdata, Bool.not_true, Bool.false_eq_true, if_false]

/-- A marker on its way behind the rows. -/
def markerEnters (i : Instr) (c : Ctx) (s : State) : State :=
  s.modNode c.key fun n => n.push
    { slot := c.slot, time := c.time, pipe := .row, seq := c.a.seqOf .row, op := .pass, row := true, mark := true
      outs := (targetsOf i).map (markerOut c.l.rank c.time) }

/-- A marker needs no grant. -/
theorem fires_marker (hmark : c.l.isMarker = true) (hroom : c.rowRoom ((targetsOf i).map (markerOut c.l.rank c.time)) s = true) :
    (if !rowReady c s then .idle else if c.l.isMarker then rowMarker i c s else r) = .fired [.l] [] (stays c) (markerEnters i c s) := by
  have hready : rowReady c s = true := by simp only [rowReady, hmark, hgo, Bool.or_true, Bool.not_false, Bool.and_self]
  simp only [hready, hmark, rowMarker, hroom, Bool.not_true, Bool.false_eq_true, if_false, if_true]
  rfl

end Firing

/-! ### A row's products (R258 to R260, R262) -/

section Products

/-- The row as an operation of the node, under the configuration that governs it (R262). -/
def rowEnters (h : Hd) (c : Ctx) (op : NodeOp) (outs : List Out) (s : State) : State :=
  s.modNode c.key fun nd => nd.push
    { slot := c.slot, time := c.time, pipe := .row, seq := c.a.seqOf .row, op := op, outs := outs, cfg := (rowCounts c.a.node h.sh).2.2.2
      row := true }

/-- The Q row that a row is added to. -/
def qRow (h : Hd) (x : MatX) (c : Ctx) : Nat := (x.qrow.toNat + (rowCounts c.a.node h.sh).2.2.1) % 256

/-- The 64 lanes of a row's product, those from N on absent. -/
def rowLanes {α : Type} (h : Hd) (c : Ctx) (lane : Memory → Nat → Nat → Option α) : List (Option α) :=
  (upto 64).map fun j => if j < (rowCounts c.a.node h.sh).2.1
    then lane (c.a.node.bank c.a.node.cur) (rowCounts c.a.node h.sh).1 j else none

/-- What a row sends that is not added to Q: its lanes, a sum of 16-bit products clamped (R214). -/
def rowOuts (h : Hd) (c : Ctx) (row : List Byte) : List Out :=
  both h (if h.sh = .s16 then dataOut .s32 c.time (lanePayload ((rowLanes h c (rowInt row)).map fun o => o.map clampS32))
    else dataOut .f32 c.time (lanePayload (rowLanes h c (rowLane h row))))

variable (hsub : c.substs = false)

include hsub

theorem clearSubst_none : clearSubst c s = s := by
  simp only [clearSubst, hsub, Bool.false_eq_true, if_false]

theorem fireRow_adds (hacc : x.acc = true) (hsh : h.sh ≠ .s16) (hroom : c.rowRoom (both h (pulseOut c.time)) s = true) :
    fireRow h x c row s =
      .fired [.l] [] (stays c) (rowEnters h c (.acc (qRow h x c) (rowLanes h c (rowLane h row))) (both h (pulseOut c.time)) s) := by
  simp only [fireRow, hacc, hsh, hroom, clearSubst_none hsub, Bool.not_true, Bool.false_eq_true, if_false, if_true]
  rfl

theorem fireRow_adds_integers (hacc : x.acc = true) (hsh : h.sh = .s16) (hroom : c.rowRoom (both h (pulseOut c.time)) s = true) :
    fireRow h x c row s =
      .fired [.l] [] (stays c) (rowEnters h c (.iacc (qRow h x c) (rowLanes h c (rowInt row))) (both h (pulseOut c.time)) s) := by
  simp only [fireRow, hacc, if_pos hsh, hroom, clearSubst_none hsub, Bool.not_true, Bool.false_eq_true, if_false, if_true]
  rfl

theorem fireRow_sends (hacc : x.acc = false) (hroom : c.rowRoom (rowOuts h c row) s = true) :
    fireRow h x c row s = .fired [.l] [] (stays c)
      (rowEnters h c .pass (if (rowCounts c.a.node h.sh).2.1 = 0 then [] else rowOuts h c row) s) := by
  by_cases hsh : h.sh = .s16
  · simp only [rowOuts, rowLanes, if_pos hsh] at hroom ⊢
    simp only [fireRow, hacc, if_pos hsh, hroom, clearSubst_none hsub, Bool.not_true, Bool.false_eq_true, if_false]
    rfl
  · simp only [rowOuts, rowLanes, if_neg hsh] at hroom ⊢
    simp only [fireRow, hacc, if_neg hsh, hroom, clearSubst_none hsub, Bool.not_true, Bool.false_eq_true, if_false]
    rfl

end Products

/-! ### The instructions -/

section Instructions

theorem completes_marker (hgo : rowsStopped s c.key = false) (hm : Matches i s c) (hmark : c.l.isMarker = true)
    (hroom : c.rowRoom ((targetsOf i).map (markerOut c.l.rank c.time)) s = true) (hi : i ∈ [.mrow h x, .mrowa h x, .mblk h x]) :
    Completes i s c [.l] [] (stays c) (markerEnters i c s) := by
  simp only [List.mem_cons, List.not_mem_nil, or_false] at hi
  rcases hi with rfl | rfl | rfl
  · exact completes_fireOwn hm (rfl : _ = execMrow h x s) (fires_marker hgo hmark hroom)
  · exact completes_fireOwn hm (rfl : _ = mrowaWith rowTurn h x s) (fires_marker hgo hmark hroom)
  · exact completes_fireOwn hm (rfl : _ = execMblk h x s) (fires_marker hgo hmark hroom)

variable (hgrant : c.a.node.grant = true) (hgo : rowsStopped s c.key = false)

include hgrant hgo

theorem mrow_completes (hf : Fires (.mrow h x) s c)
    (hrow : fireRow h x c (fitBytes 128 c.l.data) s = .fired [.l] [] (stays c) t) : Completes (.mrow h x) s c [.l] [] (stays c) t :=
  completes_fireOwn (Matches_of_Fires hf) (rfl : _ = execMrow h x s) ((fires_data hgo hf hgrant).trans hrow)

/-- MROWA fires the row that it reads at its node's turn at the buffer's read port (R143). -/
theorem mrowa_completes {off src : Nat} (hoff : off = natAt c.l.data 0 4 + 16 * x.woff.toNat) (hsrc : src = sibling c.key x.src.toNat)
    (hf : Fires (.mrowa h x) s c) (hsub : c.substs = false) (hrange : off + 128 ≤ 0x18000) (halign : off % 16 = 0)
    (hturn : rowTurn s c.key src = true)
    (hrow : fireRow h x c (readBytes ((s.at src).seen s.cycle 1 3) off 128) s = .fired [.l] [] (stays c) t) :
    Completes (.mrowa h x) s c [.l] [] (stays c)
      (t.modAt src fun a => { a.usePort s.cycle 2 256 with aLast := c.key % 4 }) := by
  subst hoff hsrc
  have hword : c.skipWord = none := if_neg (ne_true_of_eq_false hsub)
  refine completes_fireOwn (Matches_of_Fires hf) (rfl : _ = mrowaWith rowTurn h x s) ((fires_data hgo hf hgrant).trans ?_)
  simp only [hsub, gt_iff_lt, Nat.not_lt.2 hrange, halign, hturn, badWord_none _ hf.1.2, hword, zeroWord, hrow, ne_eq, not_true_eq_false,
    Bool.false_and, Bool.not_true, Bool.false_eq_true, if_false]

/-- The node with the products of MBLK on their way into a free set (R264). -/
def setFills (h : Hd) (c : Ctx) (set : Nat) (s : State) : State :=
  let sp := c.a.node.sp c.a.node.cur
  let p := (upto (blocksOfSh h.sh)).flatMap fun b => rowLanes h c fun bank k j => blkSum h (fitBytes 256 c.l.data) bank sp k b j
  s.modNode c.key fun nd =>
    { nd.push { slot := c.slot, time := c.time, pipe := .row, seq := c.a.seqOf .row, op := .blk set p, outs := []
                cfg := (rowCounts c.a.node h.sh).2.2.2, row := true } with
      sets := put set { valid := false, filling := true, time := c.time, p := [] } nd.sets }

theorem mblk_completes {set : Nat} (hf : Fires (.mblk h x) s c)
    (hset : (upto 4).find? (fun i => !(getD {} i c.a.node.sets).valid && !(getD {} i c.a.node.sets).filling) = some set) :
    Completes (.mblk h x) s c [.l]
      (both h (dataOut .e8m0 c.time (blkScales h.sh (fitBytes 256 c.l.data) ++ leBytes 8 set))) (stays c) (setFills h c set s) := by
  refine completes_fireOwn (Matches_of_Fires hf) (rfl : _ = execMblk h x s) ((fires_data hgo hf hgrant).trans ?_)
  simp only [hset]
  rfl

end Instructions

/-- The scales of a set's blocks: L's byte with R's, or with 1 where R is shorter (R265). -/
def setScales (h : Hd) (c : Ctx) : List (Nat × Nat) :=
  (upto (blocksOfSh h.sh)).map fun b => (natAt c.l.data b 1, if b < c.rt.data.length then natAt c.rt.data b 1 else 0x7F)

/-- The node with the scaling of a set on its way, and the set free again. -/
def setScaled (h : Hd) (x : MatX) (c : Ctx) (set : Nat) (s : State) : State :=
  let ps := getD {} set c.a.node.sets
  s.modNode c.key fun nd =>
    { nd.push { slot := c.slot, time := c.time, pipe := .oth, seq := c.a.seqOf .oth
                outs := if x.acc then both h (pulseOut c.time)
                  else both h (dataOut .f32 c.time (lanePayload ((upto 64).map fun n => scaLane none (scaTerms (setScales h c) ps.p n))))
                op := .sca (if x.acc then some x.qrow.toNat else none) (setScales h c) ps.p } with
      sets := put set { ps with valid := false } nd.sets }

theorem msca_completes {set : Nat} (heq : set = natAt c.l.data 8 8) (hf : Fires (.msca h x) s c) (hset : set ≤ 3)
    (hfilled : (getD {} set c.a.node.sets).filling = false) (hvalid : (getD {} set c.a.node.sets).valid = true) :
    Completes (.msca h x) s c [.l, .r] [] (stays c) (setScaled h x c set s) := by
  subst heq
  have hinvalid : ¬(!(getD {} (natAt c.l.data 8 8) c.a.node.sets).valid) = true := by rw [hvalid]; exact Bool.false_ne_true
  exact completes_fireNode hf (rfl : _ = execMsca h x s)
    ((if_neg (Nat.not_lt.2 hset)).trans ((if_neg (ne_true_of_eq_false hfilled)).trans (if_neg hinvalid)))

/-- Settles O14: a row is what `fireRow` makes of its bytes, MROWA's those that it reads; a marker and a set each have their lemma. -/
theorem matrixRowsAndSets : Obligations.MatrixRowsAndSets := by
  refine ⟨fun s c h x => ⟨fun hf hgrant hgo hsub => ?mrow, fun hf hgrant hgo hsub hrange halign hturn => ?mrowa,
    fun set hf hgrant hgo => mblk_completes hgrant hgo hf, fun i hi hm hmark hgo hroom => completes_marker hgo hm hmark hroom hi⟩,
    fun s c h x => msca_completes rfl⟩
  case mrow =>
    exact ⟨fun hacc hsh hroom => mrow_completes hgrant hgo hf (fireRow_adds hsub hacc hsh hroom),
      fun hacc hsh hroom => mrow_completes hgrant hgo hf (fireRow_adds_integers hsub hacc hsh hroom),
      fun hacc hroom => mrow_completes hgrant hgo hf (fireRow_sends hsub hacc hroom)⟩
  case mrowa =>
    have reads {t : State} := mrowa_completes (t := t) hgrant hgo rfl rfl hf hsub hrange halign hturn
    exact ⟨fun hacc hsh hroom => reads (fireRow_adds hsub hacc hsh hroom),
      fun hacc hsh hroom => reads (fireRow_adds_integers hsub hacc hsh hroom),
      fun hacc hroom => reads (fireRow_sends hsub hacc hroom)⟩

end Sys2Proof.Proofs.MatrixRowsAndSets
end

section
/-! PROOFS. What an instruction does with a marker among its tokens: the rule of R178, the order of a slot's answers (R148), and the
instructions with a behaviour of their own (R184, R185, R189, R245). -/

namespace Sys2Proof.Proofs.MarkerRules

open Sys2Proof Sys2Proof.Machine Sys2Proof.Safety Sys2Proof.Laws

variable {i : Instr} {h : Hd} {s : State} {c : Ctx}

/-! ### Which way an instruction takes a marker -/

/-- How an instruction that keeps no order of answers and has no marker behaviour of its own comes to the rule of R178: CNT looks at its L
token alone, and a conversion without `.st` adds nothing. -/
inductive RuleForm (i : Instr) (s : State) : Prop
  | rule (hx : Fires.ByRule i s)
  | count (h : Hd) (hi : i = .cnt h)
  | conv (h : Hd) (hmd : decide (8 ≤ h.md.toNat) = false) (f : Ctx → List Out × List StEvent) (hx : exec i s = fireConv i h f s)

/-- The meanings of the first group are one `fire` as they stand; of the next, Laws/Fires.lean says it. -/
theorem ruleForm_of (hown : ownMarkers i = false) (hstream : streamed i = false) (hnode : behindNode i = false) (huses : uses i ≠ []) :
    RuleForm i s := by
  cases i
  case nop | mov | const | consth | fan | sink | route | select | gate | timeof | sub | mul | mulh | mad | div | rem | neg | abs | min |
      max | adds | subs | and | or | xor | andn | shl | shr | rotl | clz | popc | bfx | bfi | cmp | hash | fadd | fsub | fmul | ffma |
      fmin | fmax | fcmp | fabs | fneg | frcp | frsq | fsqrt | fexp2 | flog2 | fsin | fcos | ftanh | ferf | fscale | frnd | fclass |
      rmax | rmin | scan | perm | bcast | slice | cat | split | compr | expd | argmax | topk | maxrs | send | cpy | cpys | cpyf | cpyc |
      snap | cmbc | cmba | cmbi | syno | synq | cgex | cflp | ctrn | blkw | drift | trap =>
    exact .rule ⟨_, rfl⟩
  case exit h x => exact .rule (Fires.exit h x s)
  case hold h x => exact .rule (Fires.hold h x s)
  case release h x => exact .rule (Fires.release h x s)
  case resize h imm => exact .rule (Fires.resize h imm s)
  case add h imm => exact .rule (Fires.add h imm s)
  case rsum h imm => exact .rule (Fires.rsum h imm s)
  case mswp h x => exact .rule (Fires.mswp h x s)
  case agen h x => exact .rule (Fires.agen h x s)
  case waita h x => exact .rule (Fires.waita h x s)
  case sbw h x => exact .rule (Fires.sbw h x s)
  case bmod h x => exact .rule (Fires.bmod h x s)
  case cdmc h x => exact .rule (Fires.cdmc h x s)
  case cdip h x => exact .rule (Fires.cdip h x s)
  case front h x => exact .rule (Fires.front h x s)
  case launch h imm => exact .rule (Fires.launch h imm s)
  case join h imm => exact .rule (Fires.join h imm s)
  case brk h x => exact .rule (Fires.brk h x s)
  case rdcr h x => exact .rule (Fires.rdcr h x s)
  case wrcr h x => exact .rule (Fires.wrcr h x s)
  case perf h x => exact .rule (Fires.perf h x s)
  case svc h x => exact .rule (Fires.svc h x s)
  case cnt h => exact .count h rfl
  case cvt h imm => exact .conv h hown _ (rfl : execCvt h imm s = _)
  case cvts h imm => exact .conv h hown _ (rfl : execCvts h imm s = _)
  case qnt h imm => exact .conv h hown _ (rfl : execQnt h imm s = _)
  case dqnt h imm => exact .conv h hown _ (rfl : execDqnt h imm s = _)
  case pack h imm => exact .conv h hown _ (rfl : execPack h imm s = _)
  case unpk h imm => exact .conv h hown _ (rfl : execUnpk h imm s = _)
  case merge | enter | step | leave | epoch | eos | iseos | mcfg | mrow | mrowa | mblk | mdrn | cmbr | waitf | isect | union | part =>
    cases hown
  case mldb | msca | mzero => cases hnode
  case ldt | stt | lds | sts | gath | scat | arrv | fence | xfence | ldv | stv | ldvs | stvs | pfv | amo | amor | red | bin | binf =>
    cases hstream
  -- REPEAT, whose constructor's name is a keyword, is the first case left; the rows behind it use no operands.
  next => cases hown
  all_goals exact absurd rfl huses

/-- A memory instruction keeps its markers in the order of its slot's answers (R148). -/
theorem byStream_of (hs : streamed i = true) : ∃ h, instrHd i = some h ∧ Fires.ByStream i h s := by
  cases i
  case ldt h x => exact ⟨h, rfl, Fires.ldt h x s⟩
  case stt h x => exact ⟨h, rfl, Fires.stt h x s⟩
  case lds h x => exact ⟨h, rfl, Fires.lds h x s⟩
  case sts h x => exact ⟨h, rfl, Fires.sts h x s⟩
  case gath h x => exact ⟨h, rfl, Fires.gath h x s⟩
  case scat h x => exact ⟨h, rfl, Fires.scat h x s⟩
  case arrv h x => exact ⟨h, rfl, Fires.arrv h x s⟩
  case fence h x => exact ⟨h, rfl, Fires.fence h x s⟩
  case xfence h x => exact ⟨h, rfl, Fires.xfence h x s⟩
  case ldv h x => exact ⟨h, rfl, Fires.ldv h x s⟩
  case stv h x => exact ⟨h, rfl, Fires.stv h x s⟩
  case ldvs h x => exact ⟨h, rfl, Fires.ldvs h x s⟩
  case stvs h x => exact ⟨h, rfl, Fires.stvs h x s⟩
  case pfv h x => exact ⟨h, rfl, Fires.pfv h x s⟩
  case amo h x => exact ⟨h, rfl, Fires.amo h x s⟩
  case amor h x => exact ⟨h, rfl, Fires.amor h x s⟩
  case red h x => exact ⟨h, rfl, Fires.red h x s⟩
  case bin h x => exact ⟨h, rfl, Fires.bin h x s⟩
  case binf h x => exact ⟨h, rfl, Fires.binf h x s⟩
  all_goals cases hs

/-- MLDB, MSCA and MZERO keep theirs behind what their slot has under way at the node. -/
theorem byNode_of (hn : behindNode i = true) : Fires.ByNode i s := by
  cases i
  case mldb h x => exact Fires.mldb h x s
  case msca h x => exact Fires.msca h x s
  case mzero h x => exact Fires.mzero h x s
  all_goals cases hn

/-! ### The operands of a firing -/

theorem matched_pos {a : AT} {slot : Nat} {t : Time} {ps : List Pos} {either : Bool} {toks : List (Pos × Token)}
    (h : a.matched slot t ps either = some toks) : ∀ e ∈ toks, e.1 ∈ ps := by
  unfold AT.matched at h
  dsimp only at h
  split at h
  · cases h
    intro e he
    obtain ⟨q, hq, heq⟩ := List.mem_filterMap.1 he
    obtain ⟨k, -, rfl⟩ := Option.map_eq_some_iff.1 heq
    exact hq
  · cases h

theorem matched_one {a : AT} {slot : Nat} {t : Time} {q : Pos} {toks : List (Pos × Token)}
    (h : a.matched slot t [q] false = some toks) : ∃ k, toks = [(q, k)] := by
  cases hk : a.head slot q t with
  | none => simp [AT.matched, hk] at h
  | some k => exact ⟨k, by simpa [AT.matched, hk] using h.symm⟩

theorem matches_operands (hm : Matches i s c) : c.a.matched c.slot c.time (uses i) (eitherFires i) = some c.toks := by
  obtain ⟨-, -, -, -, -, -, -, -, -, -, -, hmatched⟩ := ctxOf_some hm.1.1
  exact hmatched

section Marked

variable (hm : Matches i s c) (hmark : ∃ e ∈ c.toks, e.2.isMarker = true)

include hmark

theorem any_marker : c.toks.any (fun e => e.2.isMarker) = true := List.any_eq_true.2 hmark

include hm

/-- Only an instruction with operands matches a marker. -/
theorem uses_ne_nil : uses i ≠ [] := by
  obtain ⟨e, he, -⟩ := hmark
  exact List.ne_nil_of_mem (matched_pos (matches_operands hm) e he)

/-- Where L is the only operand, it is the marker. -/
theorem l_isMarker (huses : uses i = [.l]) (heither : eitherFires i = false) : c.l.isMarker = true := by
  have hmatched := matches_operands hm
  rw [huses, heither] at hmatched
  obtain ⟨k, hk⟩ := matched_one hmatched
  obtain ⟨e, he, hmarked⟩ := hmark
  rw [hk, List.mem_singleton] at he
  subst he
  have hl : c.l = k := by
    rw [Ctx.l, Ctx.tok, hk]
    rfl
  rw [hl]
  exact hmarked

/-- A marker among the tokens has what is told of markers carried out. -/
theorem completes_mark {mark body : Ctx → State → FireRes} {eat : List Pos} {outs : List Out} {posts : List Post} {t : State}
    (hx : exec i s = fireWith i mark body s) (hb : mark c s = .fired eat outs posts t) : Completes i s c eat outs posts t :=
  completes_fireOwn hm hx ((if_pos (any_marker hmark)).trans hb)

/-- The rule of R178. -/
theorem writes_rule (hform : RuleForm i s) : Writes i s c ((targetsOf i).map (markerOut (topRank c) c.time)) (c.countLost s) := by
  cases hform with
  | rule hx =>
    obtain ⟨body, hx⟩ := hx
    exact completes_mark hm hmark hx rfl
  | count h hi =>
    subst hi
    exact completes_fireOwn hm (rfl : _ = execCnt h s) (if_pos (l_isMarker hm hmark rfl rfl))
  | conv h hmd f hx =>
    exact completes_fireOwn hm hx ((if_pos (any_marker hmark)).trans (if_neg (ne_true_of_eq_false hmd)))

/-- With no results of its slot due, an instruction's marker goes out at once. -/
theorem writes_marker (hown : ownMarkers i = false) (hwaits : markerWaits i s c = false) :
    Writes i s c ((targetsOf i).map (markerOut (topRank c) c.time)) (c.countLost s) := by
  simp only [markerWaits, Bool.or_eq_false_iff, Bool.and_eq_false_imp] at hwaits
  obtain ⟨hstream, hnode⟩ := hwaits
  cases hs : streamed i with
  | true =>
    obtain ⟨h, -, body, hx⟩ := byStream_of (s := s) hs
    exact completes_mark hm hmark hx (if_neg (ne_true_of_eq_false (hstream hs)))
  | false =>
    cases hn : behindNode i with
    | true =>
      obtain ⟨mark, body, hx⟩ := byNode_of (s := s) hn
      exact completes_mark hm hmark hx (if_neg (ne_true_of_eq_false (hnode hn)))
    | false => exact writes_rule hm hmark (ruleForm_of hown hs hn (uses_ne_nil hm hmark))

/-- With results due, a memory instruction's marker takes its place in the stream (R148). -/
theorem completes_mark_in_stream (hh : instrHd i = some h) (hs : streamed i = true) (hbusy : streamBusy s c.key c.slot = true) :
    Completes i s c (c.toks.map (·.1)) [] (stays c) (issued (requestOf i h c (.mark (topRank c)) 8 []) (c.countLost s)) := by
  obtain ⟨h', hh', body, hx⟩ := byStream_of (s := s) hs
  obtain rfl : h' = h := Option.some.inj (hh'.symm.trans hh)
  exact completes_mark hm hmark hx ((if_pos hbusy).trans (request_fired fun ⟨_, he, _⟩ => absurd he List.not_mem_nil))

end Marked

/-! ### The node's markers (R178, log 16) -/

section Node

variable {x : MatX} (hmark : ∃ e ∈ c.toks, e.2.isMarker = true) (hbusy : nodeBusy c.a c.slot = true)

include hmark hbusy

/-- A marker of MLDB on its way behind the loads of its slot. -/
def markerLoads (i : Instr) (c : Ctx) (s : State) : State :=
  s.modNode c.key fun n => { n with loads := n.loads ++
    [{ slot := c.slot, time := c.time, seq := c.a.seqOf .oth, dest := [], bank := 0, sp := false, bytes := []
       outs := (targetsOf i).map (markerOut (topRank c) c.time) }] }

/-- A marker of MSCA or MZERO on its way behind the operations of its slot. -/
def markerPasses (i : Instr) (c : Ctx) (s : State) : State :=
  s.modNode c.key fun n => n.push
    { slot := c.slot, time := c.time, pipe := .oth, seq := c.a.seqOf .oth, op := .pass, mark := true
      outs := (targetsOf i).map (markerOut (topRank c) c.time) }

theorem completes_mark_at_node {mark body : Ctx → State → FireRes} {t : State} (hm : Matches i s c) (hx : exec i s = fireNode i mark body s)
    (hb : mark c s = .fired (c.toks.map (·.1)) [] (stays c) t) : Completes i s c (c.toks.map (·.1)) [] (stays c) t :=
  completes_mark hm hmark hx ((if_pos hbusy).trans hb)

theorem completes_mark_mldb (hm : Matches (.mldb h x) s c) :
    Completes (.mldb h x) s c (c.toks.map (·.1)) [] (stays c) (markerLoads (.mldb h x) c (c.countLost s)) :=
  completes_mark_at_node hmark hbusy hm (rfl : _ = execMldb h x s) rfl

theorem completes_mark_msca (hm : Matches (.msca h x) s c) :
    Completes (.msca h x) s c (c.toks.map (·.1)) [] (stays c) (markerPasses (.msca h x) c (c.countLost s)) :=
  completes_mark_at_node hmark hbusy hm (rfl : _ = execMsca h x s) rfl

theorem completes_mark_mzero (hm : Matches (.mzero h x) s c) :
    Completes (.mzero h x) s c (c.toks.map (·.1)) [] (stays c) (markerPasses (.mzero h x) c (c.countLost s)) :=
  completes_mark_at_node hmark hbusy hm (rfl : _ = execMzero h x s) rfl

end Node

/-! ### Markers at loops and conversions (R185, R189, R245) -/

section Loops

variable {imm : BitVec 30} (hl : c.l.isMarker = true)

include hl

theorem sends_enter (hm : Matches (.enter h) s c) : Sends (.enter h) s c (both h (markerOut c.l.rank c.time)) :=
  completes_fireOwn hm (rfl : _ = execEnter h s) (if_pos hl)

theorem sends_step (hm : Matches (.step h imm) s c) (hfits : ctr c.shape c.time c.depth + imm.toNat < 2 ^ levelWidth c.shape c.depth) :
    Sends (.step h imm) s c
      (both h (markerOut c.l.rank (setCtr c.shape c.time c.depth (ctr c.shape c.time c.depth + imm.toNat)))) :=
  completes_fireOwn hm (rfl : _ = execStep h imm s) ((if_neg (Nat.not_le.2 hfits)).trans (if_pos hl))

theorem sends_leave (hm : Matches (.leave h) s c) : Sends (.leave h) s c (both h (markerOut c.l.rank (setCtr c.shape c.time c.depth 0))) :=
  completes_fireOwn hm (rfl : _ = execLeave h s) (if_pos hl)

theorem sends_epoch (hm : Matches (.epoch h imm) s c) (hfits : epochOf c.time + imm.toNat < 2 ^ 20) :
    Sends (.epoch h imm) s c (both h (markerOut c.l.rank (BitVec.ofNat 64 ((epochOf c.time + imm.toNat) * 2 ^ 44)))) :=
  completes_fireOwn hm (rfl : _ = execEpoch h imm s) ((if_neg (Nat.not_le.2 hfits)).trans (if_pos hl))

end Loops

/-- Under `.st` a conversion's counters go with the marker, and start again (R245). -/
theorem writes_conv {f : Ctx → List Out × List StEvent} (hx : exec i s = fireConv i h f s) (hst : 8 ≤ h.md.toNat) (hm : Matches i s c)
    (hmark : ∃ e ∈ c.toks, e.2.isMarker = true) :
    Writes i s c ((targetsOf i).map (markerOut (topRank c) c.time) ++
        [⟨.chan (BitVec.ofNat 6 c.a.active.stc), .count, .n32, c.time, packLanes 4 (c.a.slot c.slot).st⟩])
      ((c.countLost s).modAt c.key fun a => a.modSlot c.slot fun x => { x with st := [0, 0, 0, 0] }) :=
  completes_fireOwn hm hx ((if_pos (any_marker hmark)).trans (if_pos (decide_eq_true hst)))

/-! ### MERGE outside deterministic mode (R184) -/

section Merge

variable {l r : Token} (hm : Matches (.merge h) s c)

include hm

theorem merge_takes_l (hdet : c.a.active.det = false) (hl : c.a.head c.slot .l c.time = some l) (hdata : l.isMarker = false) :
    Completes (.merge h) s c [.l] (both h l.to) [] s := by
  refine completes_fireOwn hm (rfl : _ = execMerge h s) ?_
  cases hr : c.a.head c.slot .r c.time with
  | none => simp only [hl, hdata, hdet, Bool.false_and, Bool.false_eq_true, if_false]
  | some r => simp only [hl, hdata, hdet, Bool.not_false, Bool.false_and, Bool.false_eq_true, if_false, if_true]

theorem merge_takes_r (hdet : c.a.active.det = false) (hr : c.a.head c.slot .r c.time = some r) (hdata : r.isMarker = false)
    (hl : ∀ l, c.a.head c.slot .l c.time = some l → l.isMarker = true) : Completes (.merge h) s c [.r] (both h r.to) [] s := by
  refine completes_fireOwn hm (rfl : _ = execMerge h s) ?_
  cases hhead : c.a.head c.slot .l c.time with
  | none => simp only [hr, hdata, hdet, Bool.false_and, Bool.false_eq_true, if_false]
  | some l => simp only [hr, hdata, hdet, hl l hhead, Bool.not_true, Bool.not_false, Bool.false_and, Bool.false_eq_true, if_false, if_true]

theorem merge_takes_markers (hl : c.a.head c.slot .l c.time = some l) (hr : c.a.head c.slot .r c.time = some r)
    (hlmark : l.isMarker = true) (hrmark : r.isMarker = true) :
    Completes (.merge h) s c [.l, .r] (both h (markerOut (max l.rank r.rank) c.time)) [] s := by
  refine completes_fireOwn hm (rfl : _ = execMerge h s) ?_
  simp only [hl, hr, hlmark, hrmark, Bool.not_true, Bool.false_eq_true, if_false]

end Merge

/-- Settles O7: each clause is one of the lemmas above. -/
theorem markerRules : Obligations.MarkerRules := by
  refine ⟨fun i s c hown hm hmark => ⟨writes_marker hm hmark hown, fun h => completes_mark_in_stream hm hmark, ?mldb, ?passes⟩,
    fun s c h => ⟨fun hm hl => sends_enter hl hm, fun imm hm hl => sends_step hl hm, fun hm hl => sends_leave hl hm,
      fun imm hm hl => sends_epoch hl hm, fun hm => completes_fireOwn hm (rfl : _ = execEos h s) rfl,
      fun hm => completes_fireOwn hm (rfl : _ = execIseos h s) rfl, fun imm hst => ?conv⟩,
    fun s c h hm hdet => ⟨fun k => merge_takes_l hm hdet, fun k => merge_takes_r hm hdet, fun l r => merge_takes_markers hm⟩⟩
  case mldb =>
    rintro h x rfl hbusy
    exact completes_mark_mldb hmark hbusy hm
  case passes =>
    rintro h x (rfl | rfl) hbusy
    · exact completes_mark_msca hmark hbusy hm
    · exact completes_mark_mzero hmark hbusy hm
  case conv =>
    simp only [List.forall_mem_cons]
    exact ⟨writes_conv (rfl : execCvt h imm s = _) hst, writes_conv (rfl : execCvts h imm s = _) hst,
      writes_conv (rfl : execQnt h imm s = _) hst, writes_conv (rfl : execDqnt h imm s = _) hst,
      writes_conv (rfl : execPack h imm s = _) hst, writes_conv (rfl : execUnpk h imm s = _) hst, List.forall_mem_nil _⟩

end Sys2Proof.Proofs.MarkerRules
end

section
/-! PROOFS. The moves and the choices by a predicate (R181, R183), and what ENTER, STEP, LEAVE and EPOCH make of a time or hold (R185,
R186). -/

namespace Sys2Proof.Proofs.MovesAndLoopTimes

open Sys2Proof Sys2Proof.Machine Sys2Proof.Safety Sys2Proof.Laws

variable {i : Instr} {h : Hd} {imm : BitVec 30} {s : State} {c : Ctx}

/-! ### Firings that hold (R186, R391) -/

/-- A slot whose instruction answers a hold is held, and its record goes to the fault controller. -/
theorem holds_fireOwn {body : Ctx → State → FireRes} {hd : SlotHold} {f : FRec} {t : State} (hm : Matches i s c)
    (hx : exec i s = fireOwn i body s) (hb : body c s = .hold hd f t) : exec i s = .next (holdSlot c.key c.slot hd f t).act := by
  rw [hx, fireOwn_of hm, hb]
  rfl

/-- The same under the end-marker rule. -/
theorem holds_fire {body : Ctx → State → FireRes} {hd : SlotHold} {f : FRec} {t : State} (hf : Fires i s c)
    (hx : exec i s = fire i body s) (hb : body c s = .hold hd f t) : exec i s = .next (holdSlot c.key c.slot hd f t).act := by
  rw [hx, fire_of hf, hb]
  rfl

/-- An instruction whose gate is closed leaves the state as it is (R175). -/
theorem idles_fire {body : Ctx → State → FireRes} (hf : Fires i s c) (hx : exec i s = fire i body s) (hb : body c s = .idle) :
    exec i s = .next s := by
  rw [hx, fire_of hf, hb]
  rfl

/-! ### Moves (R181, R183) -/

/-- A predicate is its first byte, nonzero. -/
theorem ite_isTrue {α : Type} (k : Token) (a b : α) : (if Machine.isTrue k then a else b) = if natAt k.data 0 1 = 0 then b else a := by
  by_cases hk : natAt k.data 0 1 = 0 <;> simp [Machine.isTrue, hk]

theorem sends_route (hf : Fires (.route h) s c) :
    Sends (.route h) s c [if natAt c.p.data 0 1 = 0 then c.l.to h.t1 else c.l.to h.t0] :=
  completes_fire hf (rfl : _ = execRoute h s) (by rw [apply_ite c.l.to, ite_isTrue]; rfl)

theorem sends_select (hf : Fires (.select h) s c) :
    Sends (.select h) s c (both h (if natAt c.p.data 0 1 = 0 then c.rt else c.l).to) :=
  completes_fire hf (rfl : _ = execSelect h s) (by rw [ite_isTrue]; rfl)

/-! ### Loop times (R185, R186) -/

/-- A token that is no marker goes on at the new time. -/
theorem sendAtTime_data (hl : c.l.isMarker = false) (t' : Time) :
    sendAtTime h c t' s = c.send (both h fun t => { c.l.to t with time := t' }) s := if_neg (ne_true_of_eq_false hl)

theorem l_isData (hf : Fires i s c) : c.l.isMarker = false := tok_unmarked hf.2 .l

theorem sends_enter (hf : Fires (.enter h) s c) : Sends (.enter h) s c (both h c.l.to) := by
  have htime : c.l.time = c.time := tok_time hf.1.1 .l
  refine completes_fireOwn (Matches_of_Fires hf) (rfl : _ = execEnter h s) ((sendAtTime_data (l_isData hf) _).trans ?_)
  rw [← htime]
  rfl

theorem sends_step (hf : Fires (.step h imm) s c) (hfits : ctr c.shape c.time c.depth + imm.toNat < 2 ^ levelWidth c.shape c.depth) :
    Sends (.step h imm) s c (both h fun t =>
      { c.l.to t with time := setCtr c.shape c.time c.depth (ctr c.shape c.time c.depth + imm.toNat) }) :=
  completes_fireOwn (Matches_of_Fires hf) (rfl : _ = execStep h imm s)
    ((if_neg (Nat.not_le.2 hfits)).trans (sendAtTime_data (l_isData hf) _))

theorem sends_leave (hf : Fires (.leave h) s c) :
    Sends (.leave h) s c (both h fun t => { c.l.to t with time := setCtr c.shape c.time c.depth 0 }) :=
  completes_fireOwn (Matches_of_Fires hf) (rfl : _ = execLeave h s) (sendAtTime_data (l_isData hf) _)

theorem sends_epoch (hf : Fires (.epoch h imm) s c) (hfits : epochOf c.time + imm.toNat < 2 ^ 20) :
    Sends (.epoch h imm) s c (both h fun t =>
      { c.l.to t with time := BitVec.ofNat 64 ((epochOf c.time + imm.toNat) * 2 ^ 44) }) :=
  completes_fireOwn (Matches_of_Fires hf) (rfl : _ = execEpoch h imm s)
    ((if_neg (Nat.not_le.2 hfits)).trans (sendAtTime_data (l_isData hf) _))

/-- Settles O1: each instruction is its firing; STEP and EPOCH hold where the new count does not fit. -/
theorem movesAndLoopTimes : Obligations.MovesAndLoopTimes := by
  refine ⟨fun s c h => ⟨fun x hf => ?nop, fun hf => ?sink, fun hf => ?mov, fun x hf => ?fan, sends_route, sends_select,
      fun hf => ?gate⟩,
    fun s c h => ⟨fun hf => ?timeof, sends_enter, fun imm hfits hf => sends_step hf hfits, sends_leave,
      fun imm hfits hf => sends_epoch hf hfits⟩,
    fun s c h imm => ⟨fun hm hwraps => ?step, fun hm hwraps => ?epoch⟩⟩
  case nop => exact completes_fire hf (rfl : _ = execNop h x s) rfl
  case sink => exact completes_fire hf (rfl : _ = execSink h s) rfl
  case mov => exact completes_fire hf (rfl : _ = execMov h s) rfl
  case fan => exact completes_fire hf (rfl : _ = execFan h x s) rfl
  case gate => exact completes_fire hf (rfl : _ = execGate h s) rfl
  case timeof => exact completes_fire hf (rfl : _ = execTimeof h s) rfl
  case step => exact holds_fireOwn hm (rfl : _ = execStep h imm s) (if_pos hwraps)
  case epoch => exact holds_fireOwn hm (rfl : _ = execEpoch h imm s) (if_pos hwraps)

end Sys2Proof.Proofs.MovesAndLoopTimes
end

section
/-! PROOFS. The constants (R182). -/

namespace Sys2Proof.Proofs.ConstantsAreBuilt

open Sys2Proof Sys2Proof.Machine Sys2Proof.Safety Sys2Proof.Laws Sys2Proof.Proofs.Words

theorem fitBytes_length : ∀ bs : List Byte, fitBytes bs.length bs = bs
  | [] => rfl
  | b :: bs => congrArg (b :: ·) (fitBytes_length bs)

/-- The number in the first bytes of a payload is the one that was put there. -/
theorem natAt_leBytes (n v : Nat) : natAt (leBytes n v) 0 n = v % 256 ^ n := by
  have hfit : fitBytes n (leBytes n v) = leBytes n v := by
    have := fitBytes_length (leBytes n v)
    rwa [length_leBytes] at this
  rw [natAt, sliceBytes, List.drop_zero, hfit, leNat_leBytes]

/-- CONST.n64 leaves the low 30 bits of a constant in its first element. -/
theorem natAt_const_n64 (imm : BitVec 30) : natAt (packLanes 8 [immElem .n64 imm]) 0 8 = imm.toNat := by
  have hlanes : packLanes 8 [immElem .n64 imm] = leBytes 8 (imm.toNat % 2 ^ 64) := List.append_nil _
  rw [hlanes, natAt_leBytes]
  have := imm.isLt
  omega

/-- Settles O2: both are their firings; a constant's bits [29:0], [59:30] and [63:60] make it up. -/
theorem constantsAreBuilt : Obligations.ConstantsAreBuilt := by
  refine fun s c h imm => ⟨fun hf => ?const, fun hf => ?consth, fun v hv => ?builds⟩
  case const => exact completes_fire hf (rfl : _ = execConst h imm s) rfl
  case consth => exact completes_fire hf (rfl : _ = execConsth h imm s) rfl
  case builds =>
    dsimp only
    rw [natAt_const_n64, BitVec.toNat_ofNat, BitVec.toNat_ofNat, BitVec.toNat_ofNat]
    omega

end Sys2Proof.Proofs.ConstantsAreBuilt
end

section
/-! PROOFS. CNT and REPEAT and the emissions of their generators (R187, R188). -/

namespace Sys2Proof.Proofs.GeneratorsEmit

open Sys2Proof Sys2Proof.Machine Sys2Proof.Safety Sys2Proof.Laws

variable {h : Hd} {s : State} {c : Ctx}

/-- A step that carries a firing out answers its next state. -/
theorem answers_of_finish {i j : Instr} {eat : List Pos} {outs : List Out} {posts : List Post} {s0 : State} {r : FireRes}
    (hx : exec j s = .next (finish i c r s)) (hr : r = .fired eat outs posts s0) : Answers j i s c eat outs posts s0 := by
  intro s1 ps hsend
  rw [hx, hr, finish_fired hsend]

/-! ### CNT (R187) -/

section Cnt

variable (hf : Fires (.cnt h) s c)

include hf

theorem cnt_isData : ¬c.l.isMarker = true := ne_true_of_eq_false (tok_unmarked hf.2 .l)

theorem cnt_ends (hn : natAt c.l.data 0 4 = 0) : Sends (.cnt h) s c [pulseOut c.time h.t1] :=
  completes_fireOwn (Matches_of_Fires hf) (rfl : _ = execCnt h s) ((if_neg (cnt_isData hf)).trans (if_pos hn))

theorem cnt_starts (hn : natAt c.l.data 0 4 ≠ 0) : Completes (.cnt h) s c [] [cntOut h c 0] []
    (s.modAt c.key fun a => a.modSlot c.slot fun x => { x with gen := some c.time, index := 1 }) :=
  completes_fireOwn (Matches_of_Fires hf) (rfl : _ = execCnt h s) ((if_neg (cnt_isData hf)).trans (if_neg hn))

end Cnt

/-! ### Emissions (R187, R188) -/

theorem genCtx_slot {k slot : Nat} {i : Instr} (hg : genCtx s k slot = some (i, c)) : c.slot = slot := by
  simp only [genCtx] at hg
  split at hg
  · split at hg
    · cases hg
    · split at hg
      · obtain ⟨toks, -, heq⟩ := Option.map_eq_some_iff.1 hg
        cases heq
        rfl
      · cases hg
  · cases hg

section CntEmission

variable {tile : TileId} {slot : Nat} (hg : genCtx s tile.key slot = some (.cnt h, c))

include hg

theorem exec_cntEmission : exec (.cntEmission tile slot) s = .next (finish (.cnt h) c
    (if natAt c.l.data 0 4 ≤ (c.a.slot slot).index then .fired [.l] [pulseOut c.time h.t1] [] (setGen c none s)
     else if fits c (c.a.slot slot).index then
      .fired [] [cntOut h c (c.a.slot slot).index] [] (setGen c (some ((c.a.slot slot).index + 1, 0)) s)
     else genWrap (.cnt h) h c (c.a.slot slot).index s) s) := by
  change execCntEmission tile slot s = _
  rw [execCntEmission, hg]

/-- Past the count the generator ends and its L token is consumed. -/
theorem cntEmission_ends (hlast : natAt c.l.data 0 4 ≤ (c.a.slot slot).index) :
    Answers (.cntEmission tile slot) (.cnt h) s c [.l] [pulseOut c.time h.t1] [] (setGen c none s) :=
  answers_of_finish (exec_cntEmission hg) (if_pos hlast)

theorem cntEmission_sends (hmore : (c.a.slot slot).index < natAt c.l.data 0 4)
    (hfits : (c.a.slot slot).index < 2 ^ levelWidth c.shape (c.depth + 1)) :
    Answers (.cntEmission tile slot) (.cnt h) s c [] [cntOut h c (c.a.slot slot).index] []
      (setGen c (some ((c.a.slot slot).index + 1, 0)) s) :=
  answers_of_finish (exec_cntEmission hg) ((if_neg (Nat.not_le.2 hmore)).trans (if_pos (decide_eq_true hfits)))

end CntEmission

/-! ### REPEAT (R188) -/

section Repeat

variable {ks : List Token} (hm : Matches (.repeat h) s c) (hks : c.a.stream c.slot c.time = some ks) (hr : c.rt.isMarker = false)

include hm hks hr

theorem repeat_ends (hn : natAt c.rt.data 0 4 = 0) :
    Completes (.repeat h) s c (List.replicate ks.length .l ++ [.r]) [pulseOut c.time h.t1] [] s := by
  refine completes_fireOwn hm (rfl : _ = execRepeat h s) ?_
  simp only [hks, hr, Bool.false_eq_true, if_false, if_pos hn]

theorem repeat_starts {k : Token} {rest : List Token} (hcons : ks = k :: rest) (hn : natAt c.rt.data 0 4 ≠ 0) :
    Completes (.repeat h) s c [] [{ k.to h.t0 with time := pushed c 0 }] []
      (s.modAt c.key fun a => a.modSlot c.slot fun x =>
        { x with gen := some c.time, index := if rest = [] then 1 else 0, tokIdx := if rest = [] then 0 else 1 }) := by
  refine completes_fireOwn hm (rfl : _ = execRepeat h s) ?_
  subst hcons
  simp only [hks, hr, Bool.false_eq_true, if_false, if_neg hn, List.isEmpty_iff]

end Repeat

section RepeatEmission

variable {tile : TileId} {slot : Nat} {ks : List Token} (hg : genCtx s tile.key slot = some (.repeat h, c))
  (hks : c.a.stream slot c.time = some ks)

include hg hks

/-- An emission of REPEAT is what it makes of the stream, the pass and the token in it. -/
theorem repeatEmission_answers {eat : List Pos} {outs : List Out} {s0 : State}
    (hr : (if natAt c.rt.data 0 4 ≤ (c.a.slot slot).index then
        .fired (List.replicate ks.length .l ++ [.r]) [pulseOut c.time h.t1] [] (setGen c none s)
      else if fits c (c.a.slot slot).index then
        (ks[(c.a.slot slot).tokIdx]?).elim .idle fun k =>
          .fired [] [{ k.to h.t0 with time := pushed c (c.a.slot slot).index }] []
            (setGen c (some (if ks.length ≤ (c.a.slot slot).tokIdx + 1 then ((c.a.slot slot).index + 1, 0)
              else ((c.a.slot slot).index, (c.a.slot slot).tokIdx + 1))) s)
      else genWrap (.repeat h) h c (c.a.slot slot).index s) = .fired eat outs [] s0) :
    Answers (.repeatEmission tile slot) (.repeat h) s c eat outs [] s0 := by
  refine answers_of_finish ?_ hr
  change execRepeatEmission tile slot s = _
  obtain rfl := genCtx_slot hg
  simp only [execRepeatEmission, hg, hks]
  cases ks[(c.a.slot c.slot).tokIdx]? <;> rfl

/-- Past the count the generator ends; its stream and R are consumed. -/
theorem repeatEmission_ends (hlast : natAt c.rt.data 0 4 ≤ (c.a.slot slot).index) :
    Answers (.repeatEmission tile slot) (.repeat h) s c (List.replicate ks.length .l ++ [.r]) [pulseOut c.time h.t1] []
      (setGen c none s) :=
  repeatEmission_answers hg hks (if_pos hlast)

theorem repeatEmission_sends {k : Token} (hmore : (c.a.slot slot).index < natAt c.rt.data 0 4)
    (hfits : (c.a.slot slot).index < 2 ^ levelWidth c.shape (c.depth + 1)) (hk : ks[(c.a.slot slot).tokIdx]? = some k) :
    Answers (.repeatEmission tile slot) (.repeat h) s c [] [{ k.to h.t0 with time := pushed c (c.a.slot slot).index }] []
      (setGen c (some (if ks.length ≤ (c.a.slot slot).tokIdx + 1 then ((c.a.slot slot).index + 1, 0)
        else ((c.a.slot slot).index, (c.a.slot slot).tokIdx + 1))) s) := by
  refine repeatEmission_answers hg hks ((if_neg (Nat.not_le.2 hmore)).trans ((if_pos (decide_eq_true hfits)).trans ?_))
  rw [hk]
  rfl

end RepeatEmission

/-- Settles O8: a count of 0, the start of each generator, and each of its emissions have their lemma. -/
theorem generatorsEmit : Obligations.GeneratorsEmit := by
  refine fun s c h => ⟨cnt_ends, cnt_starts, fun ks hm hks hr hn => repeat_ends hm hks hr hn,
    fun k ks hm hks hr hn => repeat_starts hm hks hr rfl hn, fun tile slot hg => ⟨cntEmission_sends hg, cntEmission_ends hg⟩,
    fun tile slot ks hg hks => ⟨fun k => repeatEmission_sends hg hks, repeatEmission_ends hg hks⟩⟩

end Sys2Proof.Proofs.GeneratorsEmit
end

section
/-! PROOFS. HOLD, RELEASE and the table of capabilities (R190). -/

namespace Sys2Proof.Proofs.Capabilities

open Sys2Proof Sys2Proof.Machine Sys2Proof.Safety Sys2Proof.Laws Sys2Proof.Proofs.MovesAndLoopTimes

/-! ### The table -/

/-- An entry of (LOC, t). -/
def entryOf (loc : Nat) (t : Time) (x : Cap) : Bool := x.loc == loc && x.time == t

section Table

variable (cs : List Cap) (loc : Nat) (t : Time) (n : Nat)

theorem entryOf_iff {x : Cap} : entryOf loc t x = true ↔ x.loc = loc ∧ x.time = t := by simp [entryOf]

theorem capCount_eq : capCount cs loc t = ((cs.find? (entryOf loc t)).map Cap.count).getD 0 := by
  change (match cs.find? (entryOf loc t) with | some c => c.count | none => 0) = _
  cases cs.find? (entryOf loc t) <;> rfl

/-- The other entries stand before the one that is set, which takes no place at 0. -/
theorem capSet_eq : capSet cs loc t n = cs.filter (fun x => !entryOf loc t x) ++ if n = 0 then [] else [⟨loc, t, n⟩] := by
  change (if n = 0 then cs.filter (fun x => !entryOf loc t x) else cs.filter (fun x => !entryOf loc t x) ++ [⟨loc, t, n⟩]) = _
  split
  · rw [List.append_nil]
  · rfl

theorem capSet_zero : ∀ x ∈ capSet cs loc t 0, ¬(x.loc = loc ∧ x.time = t) := by
  intro x hx
  rw [capSet_eq, if_pos rfl, List.append_nil, List.mem_filter] at hx
  rw [← entryOf_iff]
  simpa using hx.2

theorem capCount_capSet_same : capCount (capSet cs loc t n) loc t = n := by
  have hrest : (cs.filter fun x => !entryOf loc t x).find? (entryOf loc t) = none := by
    rw [List.find?_eq_none]
    intro x hx
    simpa using (List.mem_filter.1 hx).2
  rw [capCount_eq, capSet_eq, List.find?_append, hrest]
  by_cases hn : n = 0 <;> simp [hn, entryOf]

theorem capCount_capSet_ne {loc' : Nat} {t' : Time} (hne : ¬(loc' = loc ∧ t' = t)) :
    capCount (capSet cs loc t n) loc' t' = capCount cs loc' t' := by
  have hother {x : Cap} (hx : entryOf loc' t' x = true) : entryOf loc t x = false := by
    obtain ⟨rfl, rfl⟩ := (entryOf_iff ..).1 hx
    exact Bool.eq_false_iff.2 fun h => hne ((entryOf_iff ..).1 h)
  have hrest : (cs.filter fun x => !entryOf loc t x).find? (entryOf loc' t') = cs.find? (entryOf loc' t') := by
    rw [List.find?_filter]
    congr 1
    funext x
    cases hx : entryOf loc' t' x
    · simp
    · simp [hother hx]
  have hnew : (if n = 0 then [] else [(⟨loc, t, n⟩ : Cap)]).find? (entryOf loc' t') = none := by
    split
    · rfl
    · exact List.find?_cons_of_neg fun h => hne ⟨((entryOf_iff ..).1 h).1.symm, ((entryOf_iff ..).1 h).2.symm⟩
  rw [capCount_eq, capCount_eq, capSet_eq, List.find?_append, hrest, hnew, Option.or_none]

end Table

/-! ### HOLD and RELEASE -/

/-- HOLD waits while the table is full or the count stands at its most. -/
theorem full_iff {n len : Nat} : (decide (n = 65535) || decide (len ≥ 32)) = true ↔ 32 ≤ len ∨ n = 65535 := by simp [or_comm]

variable {h : Hd} {x : PrbX} {s : State} {c : Ctx}

theorem hold_adds (hf : Fires (.hold h x) s c) (hroom : c.a.caps.length < 32) (hn : capCount c.a.caps x.loc.toNat c.time < 65535) :
    Completes (.hold h x) s c [.l] (both h c.l.to) [⟨c.h, x.loc.toNat, c.time, 1⟩]
      (s.modAt c.key fun a => { a with caps := capSet a.caps x.loc.toNat c.time (capCount c.a.caps x.loc.toNat c.time + 1) }) :=
  completes_fire hf (rfl : _ = execHold h x s) (if_neg (full_iff.not.2 (by omega)))

theorem hold_waits (hf : Fires (.hold h x) s c) (hfull : 32 ≤ c.a.caps.length ∨ capCount c.a.caps x.loc.toNat c.time = 65535) :
    exec (.hold h x) s = .next s :=
  idles_fire hf (rfl : _ = execHold h x s) (if_pos (full_iff.2 hfull))

theorem release_subtracts (hf : Fires (.release h x) s c) (hn : 0 < capCount c.a.caps x.loc.toNat c.time) :
    Completes (.release h x) s c [.l] (both h c.l.to) [⟨c.h, x.loc.toNat, c.time, -1⟩]
      (s.modAt c.key fun a => { a with caps := capSet a.caps x.loc.toNat c.time (capCount c.a.caps x.loc.toNat c.time - 1) }) :=
  completes_fire hf (rfl : _ = execRelease h x s) (if_neg hn.ne')

theorem release_counts (hf : Fires (.release h x) s c) (hn : capCount c.a.caps x.loc.toNat c.time = 0) :
    Writes (.release h x) s c (both h c.l.to) (s.modAt c.key fun a => a.addRlx 1) :=
  completes_fire hf (rfl : _ = execRelease h x s) (if_pos hn)

/-- Settles O9: the four outcomes of HOLD and RELEASE, and the laws of the table. -/
theorem capabilities : Obligations.Capabilities :=
  ⟨fun _ s1 _ _ _ ps => ⟨fun hf hroom hn hsend => hold_adds hf hroom hn s1 ps hsend, hold_waits,
      fun hf hn hsend => release_subtracts hf hn s1 ps hsend, fun hf hn hsend => release_counts hf hn s1 ps hsend⟩,
    fun cs loc t n => ⟨capCount_capSet_same cs loc t n, fun _ _ => capCount_capSet_ne cs loc t n, capSet_zero cs loc t⟩⟩

end Sys2Proof.Proofs.Capabilities
end

section
/-! PROOFS. EXIT and RESIZE (R191, R192). -/

namespace Sys2Proof.Proofs.ExitAndResize

open Sys2Proof Sys2Proof.Machine Sys2Proof.Safety Sys2Proof.Laws

variable {h : Hd} {s : State} {c : Ctx}

/-! ### EXIT (R191) -/

/-- Nothing of a finished tile fires. -/
theorem ctxOf_exited (i : Instr) (hexited : (s.at s.focus.tile).exited = true) : ctxOf i s = none := by
  rw [Option.eq_none_iff_forall_ne_some]
  intro c hc
  obtain ⟨-, -, -, ha, -, -, -, hrunning, -⟩ := ctxOf_some hc
  rw [ha, hexited] at hrunning
  cases hrunning

/-- Two tiles agree in what EXIT empties and counts in. -/
structure SameStore (a b : AT) : Prop where
  exited : b.exited = a.exited
  pos : b.pos = a.pos
  chan : b.chan = a.chan
  caps : b.caps = a.caps
  exd : b.exd = a.exd

theorem markFired_tile (a : AT) (p : Pipe) (n : Nat) : SameStore a (a.markFired p n) := by
  cases p <;> exact ⟨rfl, rfl, rfl, rfl, rfl⟩

theorem endCfg_exd (a : AT) : a.endCfg.1.exd = a.exd := by
  unfold AT.endCfg
  split
  · split <;> rfl
  · rfl

/-- The finished tile: `a` once its L token is consumed and the rest discarded. -/
def finishedTile (a : AT) : AT :=
  { a.endCfg.1.addExd a.tokensHeld with
    pos := [], chan := [], newIn := [], caps := [], exited := true, slots := a.endCfg.1.slots.map fun e => (e.1, e.2.finished) }

theorem finishedTile_exd (a : AT) : (finishedTile a).exd = satAdd (2 ^ 16 - 1) a.exd a.tokensHeld :=
  congrArg (satAdd (2 ^ 16 - 1) · a.tokensHeld) (endCfg_exd a)

theorem exit_fires {x : SysX} (hf : Fires (.exit h x) s c) : ∃ posts, Completes (.exit h x) s c [] [] posts
    ((dropTileWaiters c.key s).setAt c.key (finishedTile (consume (s.at c.key) c.slot c.time [.l]).1)) :=
  ⟨_, completes_fire hf (rfl : _ = execExit h x s) rfl⟩

/-- A firing that consumes nothing leaves its tile as it was but for its pipe. -/
theorem at_left (i : Instr) (c : Ctx) (posts : List Post) (cycle : Nat) (s : State) (ps : List Post) :
    (left i c [] posts cycle s ps).at c.key = (s.at c.key).markFired (pipeOf i) cycle := by
  rw [left, at_act, at_post, at_setAt_same]
  rfl

/-- EXIT leaves the finished tile. -/
theorem exit_finishes {x : SysX} (hf : Fires (.exit h x) s c) : ∃ t, exec (.exit h x) s = .next t ∧
    SameStore (finishedTile (consume c.a c.slot c.time [.l]).1) (t.at c.key) := by
  obtain ⟨hkey, -, -, ha, -⟩ := ctxOf_some hf.1.1
  obtain ⟨posts, hexec⟩ := exit_fires hf
  refine ⟨_, hexec _ [] rfl, ?_⟩
  rw [at_left, at_setAt_same, ha, hkey]
  exact markFired_tile ..

/-! ### RESIZE (R192) -/

theorem resize_starts {imm : BitVec 30} (hf : Fires (.resize h imm) s c) (hopen : c.a.closed (resizeEdge imm) = false) :
    Completes (.resize h imm) s c [.l] [] (stays c) (s.modAt c.key fun a => { a with resizing := a.resizing ++
      [⟨resizeEdge imm, immBits imm 0 8, c.slot, c.time, c.a.seqOf .vec, false⟩] }) :=
  completes_fire hf (rfl : _ = execResize h imm s) (if_neg (ne_true_of_eq_false hopen))

section Effect

variable {tile : TileId} {index hd : Nat} {x : Resizing} {r : Res} {i : Instr}

variable (hx : (s.at tile.key).resizing[index]? = some x) (hres : (s.at tile.key).res = some hd) (hr : get? hd s.res = some r)
  (hi : (s.at tile.key).active.instr x.slot = some i) (hrun : r.running = true)
  (hempty : x.done = true ∨ edgeEmpty r (s.at tile.key) x.edge = true)

include hx hres hr hi hrun hempty

/-- Where the edge was empty, what the effect does turns on whether the targets take its pulses. -/
theorem exec_resizeEffect {pulses : Option (State × List Post)}
    (hpulses : sendAll (s.setAt tile.key (((s.at tile.key).resized index x).dropResize index)) tile.key (sportOf r tile.key 0) x.seq
      ((targetsOf i).map (pulseOut x.time)) = pulses) :
    exec (.resizeEffect tile index) s = .next (pulses.elim
      (if x.done then s else (s.setAt tile.key ((s.at tile.key).resized index x)).act)
      fun sent => (sent.1.post tile.key (postAt (s.at tile.key) (posEdge x.slot .l) x.time (-1) ++ sent.2)).act) := by
  have hdue : (r.running && (x.done || edgeEmpty r (s.at tile.key) x.edge)) = true := by
    rwa [hrun, Bool.true_and, Bool.or_eq_true]
  change execResizeEffect tile index s = _
  simp only [execResizeEffect, hx, hres, hr, hi, hdue, if_true, hpulses]
  cases pulses <;> rfl

end Effect

/-- Settles O10: a finished tile is emptied and fires nothing; RESIZE's start, and its effect with and without its pulses. -/
theorem exitAndResize : Obligations.ExitAndResize := by
  refine ⟨fun s c h x hf => ?exit, fun s h imm => ⟨fun c hf hopen => resize_starts hf hopen,
    fun tile index hd x r i hx hres hr hi hrun hempty => ?effect⟩⟩
  case exit =>
    obtain ⟨t, hexec, hexited, hpos, hchan, hcaps, hexd⟩ := exit_finishes hf
    exact ⟨t, hexec, hexited, hpos, hchan, hcaps, hexd.trans (finishedTile_exd _), fun i f => ctxOf_exited i hexited⟩
  case effect =>
    refine ⟨fun s2 ps => exec_resizeEffect hx hres hr hi hrun hempty, fun hpulses hdone => ?_⟩
    refine (exec_resizeEffect hx hres hr hi hrun hempty hpulses).trans (congrArg Host.Outcome.next ?_)
    exact if_neg (ne_true_of_eq_false hdone)

end Sys2Proof.Proofs.ExitAndResize
end

section
/-! PROOFS. PART: its buffer, its firing, and the ranges that it owes (R166, R219, R249). -/

namespace Sys2Proof.Proofs.PartSendsRanges

open Sys2Proof Sys2Proof.Machine Sys2Proof.Safety Sys2Proof.Laws

variable {h : Hd} {imm : BitVec 30} {s : State} {c : Ctx}

/-- A slot's buffer is empty again. -/
def cleared (c : Ctx) (s : State) : State :=
  s.modAt c.key fun a => a.modSlot c.slot fun x => { x with part := [], pskip := [], pbad := false }

/-- The rows of part j. -/
def rangeOut (h : Hd) (t : Time) (np : Nat) (wt : List Nat) (j : Nat) : List Out :=
  [dataOut .n64 t (leBytes 4 (partRange wt np j).1 ++ leBytes 4 (partRange wt np j).2) h.t0]

/-- The marker and the total of the weights, which go out last. -/
def totalOut (h : Hd) (t : Time) (mark : Token) (wt : List Nat) : List Out :=
  [markerOut mark.rank t h.t0, dataOut .n64 t (leBytes 8 wt.sum) h.t1]

/-! ### The results of a firing, in the order in which they go out -/

section Results

variable (h : Hd) (np : Nat) (wt : List Nat) (mark : Token) (t : Time)

theorem partOuts_eq : partOuts h np wt mark t = (upto np).map (rangeOut h t np wt) ++ [totalOut h t mark wt] := rfl

theorem partOuts_last : (partOuts h np wt mark t).getLastD [] = totalOut h t mark wt := by
  rw [partOuts_eq, List.getLastD_concat]

theorem partOuts_first (hnp : np ≠ 0) : (partOuts h np wt mark t).headD [] = rangeOut h t np wt 0 := by
  obtain ⟨n, rfl⟩ := Nat.exists_eq_succ_of_ne_zero hnp
  rw [partOuts_eq, upto, List.range_succ_eq_map]
  rfl

end Results

/-! ### Firings -/

theorem not_eos_of_eof {k : Token} (heof : k.kind = .eof) : ¬(k.kind == .eos) = true := by
  rw [heof]
  exact Bool.false_ne_true

theorem isMarker_of_eof {k : Token} (heof : k.kind = .eof) : k.isMarker = true := by
  rw [Token.isMarker, heof]
  rfl

theorem not_eos_of_data {k : Token} (hdata : k.isMarker = false) : ¬(k.kind == .eos) = true := by
  rw [beq_iff_eq]
  intro heos
  rw [Token.isMarker, heos] at hdata
  cases hdata

section Firing

variable (hm : Matches (.part h imm) s c)

include hm

theorem part_discards (heos : c.l.kind = .eos) : Completes (.part h imm) s c [.l] (both h (markerOut 5 c.time)) [] (cleared c s) :=
  completes_fireOwn hm (rfl : _ = execPart h imm s) (if_pos (beq_iff_eq.2 heos))

theorem part_buffers (hdata : c.l.isMarker = false) (hgood : (c.a.slot c.slot).pbad = false)
    (hroom : ((c.a.slot c.slot).part ++ lanes 4 c.l.data).length ≤ 4097) :
    Completes (.part h imm) s c [.l] [] [] (s.modAt c.key fun a => a.modSlot c.slot fun y =>
      { y with part := (c.a.slot c.slot).part ++ lanes 4 c.l.data }) :=
  completes_fireOwn hm (rfl : _ = execPart h imm s) ((if_neg (not_eos_of_data hdata)).trans
    ((if_pos (by rw [hdata]; rfl)).trans
      ((if_neg (ne_true_of_eq_false hgood)).trans (if_neg (Nat.not_lt.2 hroom)))))

theorem part_fires (heof : c.l.kind = .eof) (hgood : (c.a.slot c.slot).pbad = false)
    (hrows : raggedRow (c.a.slot c.slot).part (c.a.slot c.slot).pskip = none) (hparts : imm.toNat % 256 ≠ 0)
    {wt : List Nat} (hwt : wt = weights (c.a.slot c.slot).part (c.a.slot c.slot).pskip)
    (hsend : (sendAll s c.key (sportOf c.r c.key 0) (c.a.seqOf .vec) (totalOut h c.time c.l wt)).isSome = true) :
    Completes (.part h imm) s c [.l] (rangeOut h c.time (imm.toNat % 256) wt 0) (stays c)
      ((cleared c s).modAt c.key fun a => a.modSlot c.slot fun x => { x with
        owed := (partOuts h (imm.toNat % 256) wt c.l c.time).drop 1
        owedSeq := c.a.seqOf .vec }) := by
  have hmarker := isMarker_of_eof heof
  have hsent : ¬(sendAll s c.key (sportOf c.r c.key 0) (c.a.seqOf .vec) (totalOut h c.time c.l wt)).isNone = true := by
    intro hnone
    rw [Option.isNone_iff_eq_none.1 hnone] at hsend
    cases hsend
  refine completes_fireOwn hm (rfl : _ = execPart h imm s) ((if_neg (not_eos_of_eof heof)).trans
    ((if_neg ?marker).trans ((if_neg (ne_true_of_eq_false hgood)).trans ?_)))
  case marker => rw [hmarker]; exact Bool.false_ne_true
  subst hwt
  rw [← partOuts_first h _ _ c.l c.time hparts]
  rw [← partOuts_last h (imm.toNat % 256)] at hsent
  simp only [hrows]
  exact if_neg hsent

end Firing

/-! ### What is owed -/

/-- The next results that a slot owes go out with the firing's sequence number; with the last its time ends. -/
theorem owedSend_sends {k slot hd : Nat} {o : Out} {os : List Out} {rest : List (List Out)} {r : Res} {s1 : State} {ps : List Post}
    (howed : ((s.at k).slot slot).owed = (o :: os) :: rest) (hres : (s.at k).res = some hd) (hr : get? hd s.res = some r)
    (hsend : sendAll (s.modAt k fun a => a.modSlot slot fun x => { x with owed := rest }) k (sportOf r k 0)
      ((s.at k).slot slot).owedSeq (o :: os) = some (s1, ps)) :
    owedSend k slot s =
      some (s1.post k (ps ++ if rest = [] then postAt (s.at k) (posEdge slot .l) o.time (-1) else [])) := by
  have hport : Pipe.vec.port = 0 := rfl
  simp only [owedSend, howed, hres, hr, hport, hsend, Option.map_some, List.isEmpty_iff, List.headD_cons]

/-- Settles O12: what PART does with each kind of token, and each sending of what it owes. -/
theorem partSendsRanges : Obligations.PartSendsRanges :=
  fun _ _ _ _ => ⟨fun hm => ⟨part_discards hm, part_buffers hm,
      fun heof hgood hrows hparts hsend => part_fires hm heof hgood hrows hparts rfl hsend⟩,
    fun _ _ _ _ _ _ _ _ _ howed hres hr hsend => owedSend_sends howed hres hr hsend⟩

end Sys2Proof.Proofs.PartSendsRanges
end

section
/-! PROOFS. WAITF and FRONT (R341, R342). -/

namespace Sys2Proof.Proofs.ProgressInstructions

open Sys2Proof Sys2Proof.Machine Sys2Proof.Safety Sys2Proof.Laws

variable {h : Hd} {x : PrbX} {s : State} {c : Ctx}

/-- The registration of a WAITF at its slot. -/
def setWait (c : Ctx) (w : Option WaitF) (s : State) : State :=
  s.modAt c.key fun a => a.modSlot c.slot fun y => { y with wait := w }

/-- A registration on its way to a tracker. -/
def registered (trk : Nat) (w : Waiter) (s : State) : State :=
  let t : Tracker := getD {} trk s.trackers
  { s with trackers := put trk { t with regq := t.regq ++ [w] } s.trackers }

section Waitf

variable (hm : Matches (.waitf h x) s c)

include hm

/-- The least time that stood at the slot when the cycle began registers. -/
theorem waitf_registers (hnone : (c.a.slot c.slot).wait = none) (hleast : leastTime (c.a.posNow c.slot .l) = some c.time.toNat) :
    exec (.waitf h x) s = .next (registered (trackerOf c.key x) ⟨c.h, c.key, c.slot, c.time, x.prb.toNat⟩
      (setWait c (some { time := c.time, prb := x.prb.toNat, scp := x.scp.toNat }) s)).act := by
  obtain ⟨⟨hctx, -⟩, -⟩ := hm
  change execWaitf h x s = _
  simp only [execWaitf, hctx, hnone, hleast, ne_eq, not_true_eq_false, if_false]
  rfl

/-- Once released, a token that the frontier has passed goes out; with the last the registration ends. -/
theorem waitf_releases {w : WaitF} {f : Option Time} {k : Token} {ks : List Token} (hwait : (c.a.slot c.slot).wait = some w)
    (hfreed : w.freed = some f)
    (hready : (c.a.posNow c.slot .l).filter (fun k => passes (f.map BitVec.toNat) k.time.toNat) = k :: ks) (htime : k.time = c.time) :
    Writes (.waitf h x) s c (both h c.l.to) (if ks = [] then setWait c none s else s) := by
  have hctx := hm.1.1
  have hexec : exec (.waitf h x) s = fireOwn (.waitf h x) (fun c s => c.send (both h c.l.to) (if ks.isEmpty
      then setWait c none s else s)) s := by
    change execWaitf h x s = _
    simp only [execWaitf, hctx, hwait, hfreed, hready, ne_eq, htime, not_true_eq_false, if_false]
    rfl
  refine completes_fireOwn hm hexec ?_
  simp only [List.isEmpty_iff]
  rfl

end Waitf

/-- Settles O19: WAITF's registration and its release, and FRONT's query. -/
theorem progressInstructions : Obligations.ProgressInstructions :=
  fun _ _ h x => ⟨waitf_registers, fun _ _ _ _ hm hwait hfreed hready htime => waitf_releases hm hwait hfreed hready htime,
    fun hf => completes_fire hf (rfl : _ = execFront h x _) rfl⟩

end Sys2Proof.Proofs.ProgressInstructions
end

section
/-! PROOFS. The system instructions (R411 to R416). -/

namespace Sys2Proof.Proofs.SystemInstructions

open Sys2Proof Sys2Proof.Machine Sys2Proof.Safety Sys2Proof.Laws Sys2Proof.Proofs.MovesAndLoopTimes

/-- Settles O21: each instruction is its firing, TRAP's and an enabled BRK's a hold. -/
theorem systemInstructions : Obligations.SystemInstructions := by
  refine fun s c h x => ⟨fun hf => ?rdcr, fun hf => ?wrcr, fun hf => ?perf, fun hf => ?trap, fun hf hoff => ?brk,
    fun hf hon => ?brkHold⟩
  case rdcr => exact completes_fire hf (rfl : _ = execRdcr h x s) rfl
  case wrcr => exact completes_fire hf (rfl : _ = execWrcr h x s) rfl
  case perf => exact completes_fire hf (rfl : _ = execPerf h x s) rfl
  case trap => exact holds_fire hf (rfl : _ = execTrap h x s) rfl
  case brk => exact completes_fire hf (rfl : _ = execBrk h x s) (if_neg (ne_true_of_eq_false hoff))
  case brkHold => exact holds_fire hf (rfl : _ = execBrk h x s) (if_pos hon)

end Sys2Proof.Proofs.SystemInstructions
end

section
/-! PROOFS. Which ready pair a pipe fires, and the aging of its slots (R177). -/

namespace Sys2Proof.Proofs.PipesChoose

open Sys2Proof Sys2Proof.Machine Sys2Proof.Laws

/-! ### The head of a sorted list -/

section Sorting

variable {α : Type} {lt : α → α → Bool} {x y : α} {l : List α}

theorem insertBy_perm (lt : α → α → Bool) (x : α) (l : List α) : (insertBy lt x l).Perm (x :: l) := by
  induction l with
  | nil => exact .refl _
  | cons y l ih =>
    rw [insertBy]
    split
    · exact .refl _
    · exact (ih.cons y).trans (.swap x y l)

theorem sortBy_perm (lt : α → α → Bool) (l : List α) : (sortBy lt l).Perm l := by
  have hfold (acc : List α) : (l.foldl (fun acc x => insertBy lt x acc) acc).Perm (l ++ acc) := by
    induction l generalizing acc with
    | nil => exact .refl _
    | cons x l ih => exact (ih _).trans (((insertBy_perm lt x acc).append_left l).trans List.perm_middle)
  exact (hfold []).trans (by rw [List.append_nil])

/-- The head of a list is the least of it. -/
def LeastFirst (lt : α → α → Bool) (l : List α) : Prop := ∀ c ∈ l.head?, ∀ d ∈ l, lt d c = false

/-- An order whose "not after" is transitive, as that of a key is. -/
structure WeakOrder (lt : α → α → Bool) : Prop where
  asymm : ∀ {x y}, lt x y = true → lt y x = false
  trans : ∀ {x y z}, lt y x = false → lt z y = false → lt z x = false

theorem leastFirst_insertBy (h : WeakOrder lt) (hl : LeastFirst lt l) : LeastFirst lt (insertBy lt x l) := by
  have hxx : lt x x = false := by
    by_contra hx
    rw [h.asymm (Bool.eq_true_of_not_eq_false hx)] at hx
    exact hx rfl
  cases l with
  | nil => simpa [LeastFirst, insertBy] using hxx
  | cons y l =>
    have hleast := hl y rfl
    rw [insertBy]
    split
    next hxy =>
      rintro c ⟨⟩ d hd
      rcases List.mem_cons.1 hd with rfl | hd
      · exact hxx
      · exact h.trans (h.asymm hxy) (hleast d hd)
    next hxy =>
      rintro c ⟨⟩ d hd
      rw [List.mem_cons, (insertBy_perm lt x l).mem_iff, List.mem_cons] at hd
      rcases hd with rfl | rfl | hd
      · exact hleast d List.mem_cons_self
      · exact Bool.eq_false_iff.2 hxy
      · exact hleast d (List.mem_cons_of_mem _ hd)

theorem leastFirst_sortBy (h : WeakOrder lt) (l : List α) : LeastFirst lt (sortBy lt l) := by
  have hfold (acc : List α) (hacc : LeastFirst lt acc) : LeastFirst lt (l.foldl (fun acc x => insertBy lt x acc) acc) := by
    induction l generalizing acc with
    | nil => exact hacc
    | cons x l ih => exact ih _ (leastFirst_insertBy h hacc)
  exact hfold [] (by rintro c ⟨⟩)

/-- The first of a list sorted by a key is one of the least. -/
theorem head_sortBy (h : WeakOrder lt) {c : α} (hc : (sortBy lt l).head? = some c) : c ∈ l ∧ ∀ d ∈ l, lt d c = false := by
  refine ⟨(sortBy_perm lt l).mem_iff.1 (List.mem_of_head? hc), fun d hd => ?_⟩
  exact leastFirst_sortBy h l c hc d ((sortBy_perm lt l).mem_iff.2 hd)

theorem head_sortBy_ne_none (hl : l ≠ []) : (sortBy lt l).head? ≠ none := by
  rw [Ne, List.head?_eq_none_iff]
  intro hnil
  have := sortBy_perm lt l
  rw [hnil] at this
  exact hl this.nil_eq.symm

end Sorting

/-! ### The two orders of R177 -/

theorem before_eq_false {x y : Cand} : y.before x = false ↔
    x.time.toNat < y.time.toNat ∨ x.time.toNat = y.time.toNat ∧ x.slot ≤ y.slot := by
  have htime : y.time = x.time ↔ y.time.toNat = x.time.toNat := BitVec.toNat_inj.symm
  simp only [Cand.before, Bool.or_eq_false_iff, Bool.and_eq_false_iff, decide_eq_false_iff_not, beq_eq_false_iff_ne, ne_eq, htime]
  omega

theorem before_order : WeakOrder Cand.before where
  asymm {x y} hxy := by
    rw [← Bool.not_eq_false, before_eq_false] at hxy
    rw [before_eq_false]
    omega
  trans hyx hzy := by
    rw [before_eq_false] at *
    omega

/-- The order among aged slots. -/
def lowerSlot (x y : Cand) : Bool := decide (x.slot < y.slot) || (x.slot == y.slot && x.before y)

theorem lowerSlot_eq_false {x y : Cand} : lowerSlot y x = false ↔
    x.slot < y.slot ∨ x.slot = y.slot ∧ x.time.toNat ≤ y.time.toNat := by
  simp only [lowerSlot, Bool.or_eq_false_iff, Bool.and_eq_false_iff, decide_eq_false_iff_not, beq_eq_false_iff_ne, ne_eq,
    before_eq_false]
  omega

theorem lowerSlot_order : WeakOrder lowerSlot where
  asymm {x y} hxy := by
    rw [← Bool.not_eq_false, lowerSlot_eq_false] at hxy
    rw [lowerSlot_eq_false]
    omega
  trans hyx hzy := by
    rw [lowerSlot_eq_false] at *
    omega

/-! ### The choice -/

section Choice

variable {s : State} {k : Nat} {rs : List Cand} {c : Cand}

/-- The candidates of aged slots. -/
def agedOf (s : State) (k : Nat) (rs : List Cand) : List Cand := rs.filter fun c => ((s.at k).slot c.slot).isAged

theorem choose_eq : choose s k rs =
    if agedOf s k rs = [] then (sortBy Cand.before rs).head? else (sortBy lowerSlot (agedOf s k rs)).head? := by
  simp only [← List.isEmpty_iff]
  rfl

theorem choose_ne_none (hrs : rs ≠ []) : choose s k rs ≠ none := by
  rw [choose_eq]
  split
  · exact head_sortBy_ne_none hrs
  next haged => exact head_sortBy_ne_none haged

theorem mem_agedOf : c ∈ agedOf s k rs ↔ c ∈ rs ∧ ((s.at k).slot c.slot).isAged = true := List.mem_filter

theorem agedOf_eq_nil : agedOf s k rs = [] ↔ ∀ d ∈ rs, ((s.at k).slot d.slot).isAged = false := by
  simp [agedOf, List.filter_eq_nil_iff]

/-- With no slot aged, the smallest time and then the lowest slot. -/
theorem choose_first (hnone : ∀ d ∈ rs, ((s.at k).slot d.slot).isAged = false) (hc : choose s k rs = some c) :
    c ∈ rs ∧ ∀ d ∈ rs, c.time.toNat ≤ d.time.toNat ∧ (d.time = c.time → c.slot ≤ d.slot) := by
  rw [choose_eq, if_pos (agedOf_eq_nil.2 hnone)] at hc
  obtain ⟨hmem, hleast⟩ := head_sortBy before_order hc
  refine ⟨hmem, fun d hd => ?_⟩
  have := before_eq_false.1 (hleast d hd)
  exact ⟨by omega, fun heq => by rw [heq] at this; omega⟩

/-- An aged slot goes first, the lowest of them. -/
theorem choose_aged (hsome : ∃ d ∈ rs, ((s.at k).slot d.slot).isAged = true) (hc : choose s k rs = some c) :
    c ∈ rs ∧ ((s.at k).slot c.slot).isAged = true ∧ ∀ d ∈ rs, ((s.at k).slot d.slot).isAged = true → c.slot ≤ d.slot := by
  obtain ⟨e, he, haged⟩ := hsome
  rw [choose_eq, if_neg (List.ne_nil_of_mem (mem_agedOf.2 ⟨he, haged⟩))] at hc
  obtain ⟨hmem, hleast⟩ := head_sortBy lowerSlot_order hc
  obtain ⟨hrs, hcaged⟩ := mem_agedOf.1 hmem
  refine ⟨hrs, hcaged, fun d hd hdaged => ?_⟩
  have := lowerSlot_eq_false.1 (hleast d (mem_agedOf.2 ⟨hd, hdaged⟩))
  omega

theorem choose_mem (hc : choose s k rs = some c) : c ∈ rs := by
  by_cases hsome : ∃ d ∈ rs, ((s.at k).slot d.slot).isAged = true
  · exact (choose_aged hsome hc).1
  · exact (choose_first (fun d hd => Bool.eq_false_iff.2 fun haged => hsome ⟨d, hd, haged⟩) hc).1

end Choice

/-! ### Aging -/

section Aging

variable {a : AT} {p : Pipe} {rs : List Cand} {f : Option Nat} {j k : Nat} {i : Instr}

/-- What aging does to one slot of the tile. -/
def ageStep (p : Pipe) (rs : List Cand) (f : Option Nat) (a : AT) (k : Nat) : AT :=
  match a.active.instr k with
  | none => a
  | some i =>
    if pipeOf i ≠ p then a
    else if f = some k || !(rs.any (fun c => c.slot == k)) then
      if (a.slot k).aging = 0 && !(a.slot k).aged then a else a.modSlot k (fun x => { x with aging := 0, aged := false })
    else if f.isNone then a
    else a.modSlot k (fun x => { x with aging := x.aging + 1 })

theorem ageSlots_eq (a : AT) (p : Pipe) (rs : List Cand) (f : Option Nat) :
    ageSlots a p rs f = (upto a.active.icnt).foldl (ageStep p rs f) a := rfl

/-- The count that R177 gives a slot. -/
def nextAge (rs : List Cand) (f : Option Nat) (k n : Nat) : Nat :=
  if f = some k ∨ (∀ c ∈ rs, c.slot ≠ k) then 0 else if f = none then n else n + 1

theorem slot_modSlot_same (a : AT) (k : Nat) (g : Slot → Slot) : (a.modSlot k g).slot k = g (a.slot k) := getD_upd_same ..

theorem slot_modSlot_ne (h : j ≠ k) (a : AT) (g : Slot → Slot) : (a.modSlot k g).slot j = a.slot j := getD_upd_ne _ h ..

/-- Aging leaves a slot as it is or changes that slot alone. -/
theorem ageStep_cases (p : Pipe) (rs : List Cand) (f : Option Nat) (a : AT) (k : Nat) :
    ageStep p rs f a k = a ∨ ∃ g, ageStep p rs f a k = a.modSlot k g := by
  unfold ageStep
  split
  · exact .inl rfl
  · split
    · exact .inl rfl
    · split
      · split
        · exact .inl rfl
        · exact .inr ⟨_, rfl⟩
      · split
        · exact .inl rfl
        · exact .inr ⟨_, rfl⟩

theorem ageStep_active : (ageStep p rs f a k).active = a.active := by
  rcases ageStep_cases p rs f a k with h | ⟨g, h⟩
  · rw [h]
  · rw [h]
    rfl

theorem ageStep_slot_ne (hjk : j ≠ k) : (ageStep p rs f a k).slot j = a.slot j := by
  rcases ageStep_cases p rs f a k with h | ⟨g, h⟩
  · rw [h]
  · rw [h, slot_modSlot_ne hjk]

theorem ageStep_aging (hi : a.active.instr k = some i) (hp : pipeOf i = p) :
    ((ageStep p rs f a k).slot k).aging = nextAge rs f k (a.slot k).aging := by
  have hreset : (f = some k || !(rs.any fun c => c.slot == k)) = true ↔ f = some k ∨ ∀ c ∈ rs, c.slot ≠ k := by
    simp
  simp only [ageStep, hi, ne_eq, hp, not_true_eq_false, if_false, nextAge, ← hreset]
  split
  next =>
    split
    next hzero => simpa using (Bool.and_eq_true_iff.1 hzero).1
    next => rw [slot_modSlot_same]
  next =>
    cases f with
    | none => rfl
    | some _ => exact congrArg Slot.aging (slot_modSlot_same ..)

/-- Each slot is aged once. -/
theorem foldl_ageStep (n : Nat) : ((upto n).foldl (ageStep p rs f) a).active = a.active ∧
    ∀ j i, a.active.instr j = some i → pipeOf i = p → (((upto n).foldl (ageStep p rs f) a).slot j).aging =
      if j < n then nextAge rs f j (a.slot j).aging else (a.slot j).aging := by
  induction n with
  | zero => exact ⟨rfl, fun j i _ _ => rfl⟩
  | succ n ih =>
    obtain ⟨hactive, haging⟩ := ih
    rw [upto] at hactive haging ⊢
    rw [List.range_succ, List.foldl_append, List.foldl_cons, List.foldl_nil]
    refine ⟨ageStep_active.trans hactive, fun j i hi hp => ?_⟩
    rcases eq_or_ne j n with rfl | hjn
    · rw [ageStep_aging (hactive ▸ hi) hp, haging j i hi hp, if_neg (Nat.lt_irrefl j), if_pos (Nat.lt_succ_self j)]
    · rw [ageStep_slot_ne hjn, haging j i hi hp]
      exact if_congr (by omega) rfl rfl

theorem ageSlots_aging (hj : j < a.active.icnt) (hi : a.active.instr j = some i) (hp : pipeOf i = p) :
    ((ageSlots a p rs f).slot j).aging = nextAge rs f j (a.slot j).aging := by
  rw [ageSlots_eq, (foldl_ageStep _).2 j i hi hp, if_pos hj]

end Aging

/-- Settles O54: the head of each sorted list is least in its order, and every slot is aged once. -/
theorem pipesChoose : Obligations.PipesChoose :=
  fun _ _ _ => ⟨choose_ne_none, fun _ hc => ⟨choose_mem hc, fun hnone => (choose_first hnone hc).2,
      fun hsome => (choose_aged hsome hc).2⟩,
    fun _ _ _ _ _ hj hi hp => ageSlots_aging hj hi hp⟩

end Sys2Proof.Proofs.PipesChoose
end

section
/-! PROOFS. Times as epoch and loop counters (R168, R169). -/

namespace Sys2Proof.Proofs.TimesOrderByCounters

open Sys2Proof Sys2Proof.Machine

/-! ### Fields of a number -/

section Fields

variable {a b lo len lo' : Nat}

/-- What lies above all that two numbers differ in. -/
theorem div_congr_above (hab : a / 2 ^ lo = b / 2 ^ lo) (hlo : lo ≤ lo') : a / 2 ^ lo' = b / 2 ^ lo' := by
  have hsplit (x : Nat) : x / 2 ^ lo' = x / 2 ^ lo / 2 ^ (lo' - lo) := by
    rw [Nat.div_div_eq_div_mul, ← Nat.pow_add, Nat.add_sub_cancel' hlo]
  rw [hsplit a, hsplit b, hab]

theorem bits_congr_above (hab : a / 2 ^ lo = b / 2 ^ lo) (hlo : lo ≤ lo') : bits a lo' len = bits b lo' len := by
  rw [bits, bits, div_congr_above hab hlo]

/-- A field that lies below what two numbers differ in. -/
theorem bits_congr_below (hab : a % 2 ^ lo = b % 2 ^ lo) (hlo : lo' + len ≤ lo) : bits a lo' len = bits b lo' len := by
  have hsplit (x : Nat) : x / 2 ^ lo' % 2 ^ len = x % 2 ^ lo % 2 ^ (lo' + len) / 2 ^ lo' := by
    rw [Nat.mod_mod_of_dvd x (Nat.pow_dvd_pow 2 hlo), Nat.pow_add, Nat.mod_mul_right_div_self]
  rw [bits, bits, hsplit a, hsplit b, hab]

/-- A number with one of its fields replaced. -/
theorem replace_field (x A B c : Nat) : x - x / A % B * A + c * A = A * (B * (x / (A * B)) + c) + x % A := by
  have hx := Nat.div_add_mod x A
  have hq := congrArg (A * ·) (Nat.div_add_mod (x / A) B)
  rw [Nat.div_div_eq_div_mul] at hq
  simp only [Nat.mul_add] at hq ⊢
  rw [Nat.mul_comm (x / A % B) A, Nat.mul_comm c A]
  omega

end Fields

/-! ### The counters of a time shape -/

variable {shape : List Nat}

theorem shapeSum_le (hsum : shape.sum ≤ 44) (k : Nat) : shapeSum shape k ≤ 44 := by
  have := List.sum_take_add_sum_drop shape k
  rw [shapeSum]
  omega

theorem shapeSum_mono {j k : Nat} (hjk : j ≤ k) : shapeSum shape j ≤ shapeSum shape k := by
  have := List.sum_take_add_sum_drop (shape.take k) j
  rw [List.take_take, Nat.min_eq_left hjk] at this
  rw [shapeSum, shapeSum]
  omega

theorem shapeSum_succ {k : Nat} (hk : k < shape.length) : shapeSum shape (k + 1) = shapeSum shape k + levelWidth shape (k + 1) := by
  rw [shapeSum, shapeSum, List.sum_take_succ shape k hk, levelWidth, Nat.add_sub_cancel, List.getD_eq_getElem _ _ hk]

/-- The lowest bit of the counter of level k. -/
def ctrLow (shape : List Nat) (k : Nat) : Nat := 44 - shapeSum shape k

/-- The counter of a level ends where that of the level outside it begins. -/
theorem ctrLow_add_width {k : Nat} (hsum : shape.sum ≤ 44) (hk : k < shape.length) :
    ctrLow shape (k + 1) + levelWidth shape (k + 1) = ctrLow shape k := by
  have := shapeSum_le hsum (k + 1)
  have := shapeSum_succ hk
  rw [ctrLow, ctrLow]
  omega

theorem ctrLow_anti {j k : Nat} (hjk : j ≤ k) : ctrLow shape k ≤ ctrLow shape j := Nat.sub_le_sub_left (shapeSum_mono hjk) 44

theorem ctrLow_le (k : Nat) : ctrLow shape k ≤ 44 := Nat.sub_le ..

/-! ### Setting a counter -/

section Set

variable {t : Time} {k c : Nat} (hsum : shape.sum ≤ 44) (hk : k < shape.length) (hc : c < 2 ^ levelWidth shape (k + 1))

include hsum hk hc

/-- A time with a counter set: what stood above the counter, the counter, what stood below it. -/
theorem toNat_setCtr : (setCtr shape t (k + 1) c).toNat =
    2 ^ ctrLow shape (k + 1) * (2 ^ levelWidth shape (k + 1) * (t.toNat / 2 ^ ctrLow shape k) + c) +
      t.toNat % 2 ^ ctrLow shape (k + 1) := by
  have hlow := ctrLow_add_width hsum hk
  have hle := ctrLow_le (shape := shape) k
  have hvalue : t.toNat - ctr shape t (k + 1) * 2 ^ ctrLow shape (k + 1) + c * 2 ^ ctrLow shape (k + 1) =
      2 ^ ctrLow shape (k + 1) * (2 ^ levelWidth shape (k + 1) * (t.toNat / 2 ^ ctrLow shape k) + c) +
        t.toNat % 2 ^ ctrLow shape (k + 1) := by
    rw [← hlow, Nat.pow_add]
    exact replace_field ..
  change (BitVec.ofNat 64 (t.toNat - ctr shape t (k + 1) * 2 ^ ctrLow shape (k + 1) + c * 2 ^ ctrLow shape (k + 1))).toNat = _
  rw [hvalue, BitVec.toNat_ofNat]
  refine Nat.mod_eq_of_lt ?_
  have htop : t.toNat / 2 ^ ctrLow shape k < 2 ^ (64 - ctrLow shape k) := by
    rw [Nat.div_lt_iff_lt_mul (Nat.two_pow_pos _), ← Nat.pow_add, Nat.sub_add_cancel (by omega)]
    exact t.isLt
  have hpow : 2 ^ 64 = 2 ^ (64 - ctrLow shape k) * 2 ^ levelWidth shape (k + 1) * 2 ^ ctrLow shape (k + 1) := by
    rw [← Nat.pow_add, ← Nat.pow_add]
    congr 1
    omega
  rw [hpow]
  exact Nat.mul_add_lt_mul_of_lt_of_lt (Nat.mul_add_lt_mul_of_lt_of_lt htop hc) (Nat.mod_lt _ (Nat.two_pow_pos _))

theorem setCtr_below : (setCtr shape t (k + 1) c).toNat % 2 ^ ctrLow shape (k + 1) = t.toNat % 2 ^ ctrLow shape (k + 1) := by
  rw [toNat_setCtr hsum hk hc, Nat.mul_add_mod, Nat.mod_mod]

theorem setCtr_from : (setCtr shape t (k + 1) c).toNat / 2 ^ ctrLow shape (k + 1) =
    2 ^ levelWidth shape (k + 1) * (t.toNat / 2 ^ ctrLow shape k) + c := by
  rw [toNat_setCtr hsum hk hc, Nat.mul_add_div (Nat.two_pow_pos _), Nat.div_eq_of_lt (Nat.mod_lt _ (Nat.two_pow_pos _)), Nat.add_zero]

theorem setCtr_above : (setCtr shape t (k + 1) c).toNat / 2 ^ ctrLow shape k = t.toNat / 2 ^ ctrLow shape k := by
  conv_lhs => rw [← ctrLow_add_width hsum hk, Nat.pow_add, ← Nat.div_div_eq_div_mul, setCtr_from hsum hk hc]
  rw [Nat.mul_add_div (Nat.two_pow_pos _), Nat.div_eq_of_lt hc, Nat.add_zero]

theorem ctr_setCtr_same : ctr shape (setCtr shape t (k + 1) c) (k + 1) = c := by
  change (setCtr shape t (k + 1) c).toNat / 2 ^ ctrLow shape (k + 1) % _ = c
  rw [setCtr_from hsum hk hc, Nat.mul_add_mod, Nat.mod_eq_of_lt hc]

theorem epochOf_setCtr : epochOf (setCtr shape t (k + 1) c) = epochOf t :=
  div_congr_above (setCtr_above hsum hk hc) (ctrLow_le k)

/-- A counter of another level, outside it or inside it. -/
theorem ctr_setCtr_ne {j : Nat} (hj : j < shape.length) (hne : j ≠ k) :
    ctr shape (setCtr shape t (k + 1) c) (j + 1) = ctr shape t (j + 1) := by
  rcases Nat.lt_or_gt_of_ne hne with hjk | hkj
  · exact bits_congr_above (setCtr_above hsum hk hc) (ctrLow_anti hjk)
  · exact bits_congr_below (setCtr_below hsum hk hc) ((ctrLow_add_width hsum hj).le.trans (ctrLow_anti hkj))

end Set

/-! ### The order of times -/

/-- Numbers compare by their upper part and then by the lower. -/
theorem mul_add_lt_iff {m q q' r r' : Nat} (hr : r < m) (hr' : r' < m) : m * q + r < m * q' + r' ↔ q < q' ∨ q = q' ∧ r < r' := by
  rcases Nat.lt_trichotomy q q' with h | rfl | h
  · have := Nat.mul_add_lt_mul_of_lt_of_lt h hr
    rw [Nat.mul_comm q' m] at this
    omega
  · omega
  · have := Nat.mul_add_lt_mul_of_lt_of_lt h hr'
    rw [Nat.mul_comm q m] at this
    omega

/-- The fields of these widths below bit n of a number, from the highest. -/
def fields (n x : Nat) : List Nat → List Nat
  | [] => []
  | w :: ws => bits x (n - w) w :: fields (n - w) x ws

theorem fields_eq (n x : Nat) (ws : List Nat) :
    (upto ws.length).map (fun k => bits x (n - shapeSum ws (k + 1)) (levelWidth ws (k + 1))) = fields n x ws := by
  induction ws generalizing n with
  | nil => rfl
  | cons w ws ih =>
    rw [fields, ← ih (n - w), List.length_cons, upto, List.range_succ_eq_map, List.map_cons, List.map_map]
    refine congrArg₂ List.cons (by simp [shapeSum, levelWidth]) (List.map_congr_left fun k _ => ?_)
    simp [shapeSum, levelWidth, Nat.sub_sub]

/-- The counters of a time, from the outermost inward. -/
theorem counters_eq (shape : List Nat) (t : Time) :
    (upto shape.length).map (fun k => ctr shape t (k + 1)) = fields 44 t.toNat shape := fields_eq 44 t.toNat shape

/-- Below bit n, numbers that are 0 below their fields compare by the fields. -/
theorem mod_lt_iff_fields {n x y : Nat} {ws : List Nat} (hsum : ws.sum ≤ n) (hx : x % 2 ^ (n - ws.sum) = 0)
    (hy : y % 2 ^ (n - ws.sum) = 0) : x % 2 ^ n < y % 2 ^ n ↔ fields n x ws < fields n y ws := by
  induction ws generalizing n with
  | nil =>
    rw [List.sum_nil, Nat.sub_zero] at hx hy
    simp [fields, hx, hy]
  | cons w ws ih =>
    rw [List.sum_cons] at hsum hx hy
    have hsplit (z : Nat) : z % 2 ^ n = 2 ^ (n - w) * bits z (n - w) w + z % 2 ^ (n - w) := by
      rw [bits, ← Nat.sub_add_cancel (show w ≤ n by omega), Nat.pow_add, Nat.mod_mul, Nat.add_sub_cancel, Nat.add_comm]
    rw [← Nat.sub_sub] at hx hy
    rw [hsplit x, hsplit y, mul_add_lt_iff (Nat.mod_lt _ (Nat.two_pow_pos _)) (Nat.mod_lt _ (Nat.two_pow_pos _)),
      ih (by omega) hx hy, fields, fields, List.cons_lt_cons_iff]

theorem time_lt_iff {shape : List Nat} {t u : Time} (hsum : shape.sum ≤ 44) (ht : bits t.toNat 0 (44 - shape.sum) = 0)
    (hu : bits u.toNat 0 (44 - shape.sum) = 0) :
    t.toNat < u.toNat ↔ epochOf t < epochOf u ∨ epochOf t = epochOf u ∧ fields 44 t.toNat shape < fields 44 u.toNat shape := by
  rw [bits, Nat.pow_zero, Nat.div_one] at ht hu
  rw [← mod_lt_iff_fields hsum ht hu, epochOf, epochOf,
    ← mul_add_lt_iff (Nat.mod_lt _ (Nat.two_pow_pos _)) (Nat.mod_lt _ (Nat.two_pow_pos _)), Nat.div_add_mod, Nat.div_add_mod]

/-- Settles O57: the order by the split at bit 44 and then field by field; a set counter leaves what stands above and below it. -/
theorem timesOrderByCounters : Obligations.TimesOrderByCounters := by
  intro shape t u cs _ hsum
  refine ⟨fun ht hu => ?order, fun k c hpos hk hc => ?set⟩
  case order =>
    rw [show cs t = _ from counters_eq shape t, show cs u = _ from counters_eq shape u]
    exact time_lt_iff hsum ht hu
  case set =>
    obtain ⟨k, rfl⟩ := Nat.exists_eq_add_of_le' hpos
    refine ⟨ctr_setCtr_same hsum hk hc, epochOf_setCtr hsum hk hc, fun j hpos hj hne => ?_⟩
    obtain ⟨j, rfl⟩ := Nat.exists_eq_add_of_le' hpos
    exact ctr_setCtr_ne hsum hk hc hj fun heq => hne (congrArg (· + 1) heq)

end Sys2Proof.Proofs.TimesOrderByCounters
end

section
/-! PROOFS. One step of the machine: a core's word, a pipe's firing, a row of the step table, a cycle (R175, R193, R416). -/

namespace Sys2Proof.Proofs.StepRunsTheDecodedInstruction

open Sys2Proof Sys2Proof.Machine Sys2Proof.Laws

/-! ### What a step begins -/

section Entry

variable {s : State} {rest : List Act} {a : Act}

/-- The state in which the step of an entry of the agenda runs. -/
def entered (s : State) (rest : List Act) (a : Act) : State :=
  { s with agenda := rest, acted := false, focus := { s.focus with bad := a.bad } }

theorem step_nil (hnil : s.agenda = []) : step s = .next (nextCycle s) := by rw [step, hnil]

theorem step_core {c : Nat} (ha : a = .core c ∨ ∃ n, a = .badCore c n) (hcons : s.agenda = a :: rest) :
    step s = runCore c (entered s rest a) := by
  obtain rfl | ⟨n, rfl⟩ := ha
  all_goals
    rw [step, hcons]
    rfl

theorem step_fire {k : Nat} {p : Pipe} (ha : a = .fire k p ∨ ∃ n, a = .badFire k p n) (hcons : s.agenda = a :: rest) :
    step s = firePipe k p (entered s rest a) := by
  obtain rfl | ⟨n, rfl⟩ := ha
  all_goals
    rw [step, hcons]
    rfl

theorem step_event {i : Instr} (ha : a = .event i ∨ ∃ n, a = .badEvent i n) (hi : isEvent i = true) (hcons : s.agenda = a :: rest) :
    step s = exec i (noteRefused i (entered s rest a)) := by
  obtain rfl | ⟨n, rfl⟩ := ha
  all_goals
    rw [step, hcons]
    exact if_pos hi

end Entry

/-! ### Pipes (R175 to R177, R416) -/

section Pipes

variable {s : State} {k : Nat} {p : Pipe}

/-- Counting refused sends leaves what the step has in focus. -/
theorem countRefused_focus (tries : List (State → Bool)) (s : State) : (countRefused tries s).focus = s.focus := by
  unfold countRefused
  split
  · rfl
  · refine Vital.foldl_keeps State.focus (fun _ _ => ?_) _ s
    exact modAt_focus ..

/-- With nothing ready the pipe's aging counts return to 0. -/
theorem firePipe_idle (hnone : readyCands s k p = []) : firePipe k p s =
    .next ((countRefused ((pipeCands s k p).map fun c s => readyAt s k c) s).modAt k fun t => ageSlots t p [] none) := by
  have hchoose (t : State) : choose t k [] = none := rfl
  simp only [firePipe, hnone, hchoose]

/-- A candidate is a decoded slot of its pipe or that slot's generator. -/
theorem mem_slotCands {slot : Nat} {c : Cand} (hc : c ∈ slotCands s k p slot) : c.slot = slot ∧
    ∃ i, (s.at k).active.instr slot = some i ∧ pipeOf i = p ∧
      (c.ins = i ∨ c.ins = .cntEmission (tileOf k) slot ∨ c.ins = .repeatEmission (tileOf k) slot) := by
  simp only [slotCands] at hc
  split at hc
  · cases hc
  next i hi =>
    split at hc
    · cases hc
    next hp =>
      have hpipe : pipeOf i = p := of_not_not hp
      split at hc
      · split at hc
        · obtain rfl := List.mem_singleton.1 hc
          exact ⟨rfl, _, hi, hpipe, .inr (.inr rfl)⟩
        · obtain rfl := List.mem_singleton.1 hc
          exact ⟨rfl, _, hi, hpipe, .inr (.inl rfl)⟩
      · obtain ⟨t, -, rfl⟩ := List.mem_map.1 hc
        exact ⟨rfl, i, hi, hpipe, .inl rfl⟩

theorem instr_eq_some {b : Bank} {slot : Nat} {i : Instr} (hi : b.instr slot = some i) :
    slot < b.icnt ∧ decodeWord (b.word slot) = .ok i := by
  unfold Bank.instr at hi
  split at hi
  next hslot =>
    split at hi
    next hdecode =>
      cases hi
      exact ⟨hslot, hdecode⟩
    next => cases hi
  next => cases hi

theorem mem_readyCands {c : Cand} (hc : c ∈ readyCands s k p) : ∃ i, c.slot < (s.at k).active.icnt ∧
    decodeWord ((s.at k).active.word c.slot) = .ok i ∧ pipeOf i = p ∧
    (c.ins = i ∨ c.ins = .cntEmission (tileOf k) c.slot ∨ c.ins = .repeatEmission (tileOf k) c.slot) := by
  obtain ⟨slot, -, hslot⟩ := List.mem_flatMap.1 (List.mem_filter.1 hc).1
  obtain ⟨rfl, i, hi, hp, hins⟩ := mem_slotCands hslot
  obtain ⟨hlt, hdecode⟩ := instr_eq_some hi
  exact ⟨i, hlt, hdecode, hp, hins⟩

end Pipes

/-! ### Cores (R417, R418) -/

/-- A fetch that faults traps (log 5). -/
theorem runCore_fetchFault {c a cause : Nat} {s : State} (hs : (s.core c).started = true) (hi : pendingIrq (s.core c) = none)
    (hf : fetchCore s c = .error (a, cause)) (hcause : cause ≠ 0) :
    runCore c s = .next (s.modCore c fun x => x.takeTrap cause (BitVec.ofNat 64 a)).act := by
  obtain ⟨n, rfl⟩ := Nat.exists_eq_succ_of_ne_zero hcause
  simp only [runCore, hs, hi, hf, Bool.not_true, Bool.false_eq_true, if_false]

/-- Settles O45: the entry of the agenda gives the unit; a core and a pipe do what the lemmas of Laws/Step.lean and those above say. -/
theorem stepRunsTheDecodedInstruction : Obligations.StepRunsTheDecodedInstruction := by
  intro s rest a s0 hcons
  refine ⟨fun c n ha hn hs hi bs hf => ?badCore, fun c ha hs => ?core, fun k p ha => ⟨fun c hc => ?chosen, fun hnone => ?idle⟩,
    fun k p c => mem_readyCands, fun i ha hi => step_event ha hi hcons, fun t => step_nil⟩
  case badCore =>
    have hbad : s0.focus.bad = some n := congrArg Act.bad ha
    exact (step_core (.inr ⟨n, ha⟩) hcons).trans (runCore_bad hs hi hf hbad hn)
  case core =>
    have hbad : s0.focus.bad = none := congrArg Act.bad ha
    have hstep : step s = runCore c s0 := step_core (.inl ha) hcons
    exact ⟨fun i m hi => hstep.trans (runCore_irq hs hi),
      fun a cause hi hf hcause => hstep.trans (runCore_fetchFault hs hi hf hcause),
      fun bs hi hf => ⟨fun i hd => hstep.trans (runCore_xdmx hs hi hf hbad hd), fun hd => hstep.trans (runCore_illegal hs hi hf hbad hd),
        fun hd => hstep.trans (runCore_base hs hi hf hbad hd)⟩⟩
  case chosen =>
    have hfire := (step_fire ha hcons).trans (firePipe_chosen hc)
    rw [countRefused_focus] at hfire
    exact hfire
  case idle => exact (step_fire ha hcons).trans (firePipe_idle hnone)

end Sys2Proof.Proofs.StepRunsTheDecodedInstruction
end

section
/-! PROOFS. Conversions (R240 to R245). -/

namespace Sys2Proof.Proofs.Conversions

open Sys2Proof Sys2Proof.Machine Sys2Proof.Safety Sys2Proof.Laws

/-- Settles O6: each is a conversion's firing, DQNT's elements those that the group has where it has them. -/
theorem conversions : Obligations.Conversions := by
  intro s c h imm
  refine ⟨fun hf => ?cvt, fun hf => ?cvts, fun hf => ?qnt, fun hf => ?dqnt, fun hf => ?pack, fun hf => ?unpk⟩
  case cvt => exact (conv_completes hf (rfl : execCvt h imm s = _) :)
  case cvts => exact (conv_completes hf (rfl : execCvts h imm s = _) :)
  case qnt => exact (conv_completes hf (rfl : execQnt h imm s = _) :)
  case dqnt =>
    refine ⟨_, ?length, fun k hk hin => ?element, (conv_completes hf (rfl : execDqnt h imm s = _) :)⟩
    case length => exact (List.length_map _).trans List.length_range
    case element => rw [List.getElem?_map, upto, partSize, List.getElem?_range hk, Option.map_some, if_pos hin]
  case pack => exact (conv_completes hf (rfl : execPack h imm s = _) :)
  case unpk => exact (conv_completes hf (rfl : execUnpk h imm s = _) :)

end Sys2Proof.Proofs.Conversions
end

section
/-! PROOFS. Integer division and remainder (R196). -/

namespace Sys2Proof.Proofs.DivisionFollowsR196

open Sys2Proof Sys2Proof.Machine Sys2Proof.Proofs.IntegerResults

/-! ### Raw elements and their integers (R195) -/

theorem rawOf_congr {e : Elem} {u v : Int} (huv : u ≡ v [ZMOD 2 ^ e.nbits]) : rawOf e u = rawOf e v := congrArg Int.toNat huv

theorem rawOf_natCast {e : Elem} {r : Nat} (hr : r < 2 ^ e.nbits) : rawOf e r = r := by
  have hcast : (rawOf e r : Int) = r := by
    rw [rawOf_cast]
    exact Int.emod_eq_of_lt (by positivity) (by exact_mod_cast hr)
  exact_mod_cast hcast

/-- An element is given by its integer. -/
theorem rawOf_intOf {e : Elem} {r : Nat} (hr : r < 2 ^ e.nbits) : rawOf e (intOf e r) = r :=
  (rawOf_congr (intOf_modEq e r)).trans (rawOf_natCast hr)

theorem intOf_ne_zero {e : Elem} {r : Nat} (hr : r < 2 ^ e.nbits) (hne : r ≠ 0) : intOf e r ≠ 0 := by
  intro hzero
  have hraw := rawOf_intOf hr
  rw [hzero] at hraw
  exact hne (hraw.symm.trans (rawOf_natCast (r := 0) (Nat.two_pow_pos _)))

theorem intMin_of_unsigned {e : Elem} (hs : e.signed = false) : intMin e = 0 := by rw [intMin, hs, if_neg Bool.false_ne_true]

theorem intMax_of_signed {e : Elem} (hs : e.signed = true) : intMax e = -intMin e - 1 := by
  rw [intMax, intMin, if_pos hs, if_pos hs, neg_neg]

theorem zero_mem_range (e : Elem) : intMin e ≤ 0 ∧ 0 ≤ intMax e := by
  have hhalf : (0 : Int) < 2 ^ (e.nbits - 1) := by positivity
  have hmax := intMax_eq e
  have htwo := two_pow_nbits e
  cases hs : e.signed
  case false =>
    rw [intMin_of_unsigned hs] at hmax ⊢
    omega
  case true =>
    rw [intMin, if_pos hs] at hmax ⊢
    omega

/-- The pattern of -1 is all ones. -/
theorem rawOf_neg_one (e : Elem) : rawOf e (-1) = 2 ^ e.nbits - 1 := by
  have hpos := Nat.two_pow_pos e.nbits
  refine (rawOf_congr ?_).trans (rawOf_natCast (Nat.sub_one_lt hpos.ne'))
  exact Int.modEq_iff_dvd.2 (by rw [Nat.cast_sub hpos]; simp)

/-- The least integer of a signed type has the top bit alone, and so has the number one above its greatest. -/
theorem rawOf_neg_intMin {e : Elem} (hs : e.signed = true) : rawOf e (-intMin e) = 2 ^ (e.nbits - 1) := by
  have hlt : 2 ^ (e.nbits - 1) < 2 ^ e.nbits := Nat.pow_lt_pow_right (by decide) (Nat.sub_one_lt (nbits_pos e).ne')
  rw [intMin, if_pos hs, neg_neg]
  exact_mod_cast rawOf_natCast hlt

theorem rawOf_intMin {e : Elem} (hs : e.signed = true) : rawOf e (intMin e) = 2 ^ (e.nbits - 1) := by
  refine (rawOf_congr ?_).trans (rawOf_neg_intMin hs)
  rw [intMin, if_pos hs, neg_neg]
  exact Int.modEq_iff_dvd.2 (by rw [two_pow_nbits, sub_neg_eq_add, ← two_mul])

theorem intOf_top_bit {e : Elem} (hs : e.signed = true) : intOf e (2 ^ (e.nbits - 1)) = intMin e := by
  have hmax := intMax_eq e
  have hpos : (0 : Int) < 2 ^ e.nbits := by positivity
  rw [← rawOf_intMin hs]
  exact intOf_rawOf_of_range ⟨le_rfl, by omega⟩

theorem intOf_all_ones {e : Elem} (hs : e.signed = true) : intOf e (2 ^ e.nbits - 1) = -1 := by
  have hpos : (0 : Int) < 2 ^ (e.nbits - 1) := by positivity
  rw [← rawOf_neg_one e]
  refine intOf_rawOf_of_range ?_
  rw [intMax, intMin, if_pos hs, if_pos hs]
  omega

/-! ### Quotients and remainders of the type's integers -/

/-- A remainder lies between 0 and the dividend. -/
theorem tmod_between (x y : Int) : 0 ≤ x ∧ 0 ≤ x.tmod y ∧ x.tmod y ≤ x ∨ x ≤ 0 ∧ x ≤ x.tmod y ∧ x.tmod y ≤ 0 := by
  have habs : (x.tmod y).natAbs ≤ x.natAbs := by
    rw [Int.natAbs_tmod]
    exact Nat.mod_le ..
  rcases le_total 0 x with hx | hx
  · have := Int.tmod_nonneg y hx
    omega
  · have := Int.tmod_nonneg y (Int.neg_nonneg.2 hx)
    rw [Int.neg_tmod] at this
    omega

theorem tmod_neg_iff {x y : Int} (hne : x.tmod y ≠ 0) : x.tmod y < 0 ↔ x < 0 := by
  have := tmod_between x y
  omega

theorem natAbs_tmod_lt {x y : Int} (hy : y ≠ 0) : (x.tmod y).natAbs < y.natAbs := by
  rw [Int.natAbs_tmod]
  exact Nat.mod_lt _ (Int.natAbs_pos.2 hy)

/-- A quotient as large as its dividend, both not 0, is by 1 or by -1. -/
theorem natAbs_divisor_eq_one {x y : Int} (hx : x ≠ 0) (h : (x.tdiv y).natAbs = x.natAbs) : y = 1 ∨ y = -1 := by
  rw [Int.natAbs_tdiv] at h
  exact Int.natAbs_eq_natAbs_iff.1 ((Nat.div_eq_self.1 h).resolve_left (Int.natAbs_ne_zero.2 hx))

section Ranges

variable {e : Elem} {x y : Int} (hx : intMin e ≤ x ∧ x ≤ intMax e)

include hx

theorem tmod_mem_range (y : Int) : intMin e ≤ x.tmod y ∧ x.tmod y ≤ intMax e := by
  have hbetween := tmod_between x y
  have hzero := zero_mem_range e
  omega

/-- The quotient of two integers of a type is one of the type's but for MIN by -1. -/
theorem tdiv_mem_range (hy : intMin e ≤ y) (hover : ¬(e.signed = true ∧ x = intMin e ∧ y = -1)) :
    intMin e ≤ x.tdiv y ∧ x.tdiv y ≤ intMax e := by
  have habs := Int.natAbs_tdiv_le_natAbs x y
  cases hs : e.signed
  case false =>
    rw [intMin_of_unsigned hs] at hx hy ⊢
    have := Int.tdiv_nonneg hx.1 hy
    omega
  case true =>
    have hmax := intMax_of_signed hs
    have hzero := zero_mem_range e
    have hne : x.tdiv y ≠ -intMin e := by
      intro hq
      have hmin : x = intMin e := by omega
      obtain rfl | rfl := natAbs_divisor_eq_one (by omega) (by omega : (x.tdiv y).natAbs = x.natAbs)
      · rw [Int.tdiv_one] at hq
        omega
      · exact hover ⟨hs, hmin, rfl⟩
    omega

end Ranges

/-! ### DIV and REM -/

section Elements

variable {e : Elem} {a b : Nat} (ha : a < 2 ^ e.nbits) (hb : b < 2 ^ e.nbits) (hne : b ≠ 0)

include ha hb in
theorem intOf_overflow_iff : (e.signed = true ∧ intOf e a = intMin e ∧ intOf e b = -1) ↔
    (e.signed = true ∧ a = 2 ^ (e.nbits - 1) ∧ b = 2 ^ e.nbits - 1) := by
  refine and_congr_right fun hs => and_congr ⟨fun hmin => ?_, fun hmin => ?_⟩ ⟨fun hone => ?_, fun hone => ?_⟩
  · rw [← rawOf_intOf ha, hmin, rawOf_intMin hs]
  · rw [hmin, intOf_top_bit hs]
  · rw [← rawOf_intOf hb, hone, rawOf_neg_one]
  · rw [hone, intOf_all_ones hs]

include ha hne in
theorem intOf_irem : intOf e (irem e a b) = (intOf e a).tmod (intOf e b) := by
  rw [irem, if_neg hne]
  exact intOf_rawOf_of_range (tmod_mem_range (intOf_mem_range e ha) _)

include ha hb hne in
theorem intOf_idiv (hover : ¬(e.signed = true ∧ a = 2 ^ (e.nbits - 1) ∧ b = 2 ^ e.nbits - 1)) :
    intOf e (idiv e a b) = (intOf e a).tdiv (intOf e b) := by
  rw [← intOf_overflow_iff ha hb] at hover
  rw [idiv, if_neg hne]
  exact intOf_rawOf_of_range (tdiv_mem_range (intOf_mem_range e ha) (intOf_mem_range e hb).1 hover)

end Elements

/-- MIN by -1 (R196). -/
theorem div_overflow {e : Elem} (hs : e.signed = true) : idiv e (2 ^ (e.nbits - 1)) (2 ^ e.nbits - 1) = 2 ^ (e.nbits - 1) ∧
    irem e (2 ^ (e.nbits - 1)) (2 ^ e.nbits - 1) = 0 := by
  have hne : 2 ^ e.nbits - 1 ≠ 0 := Nat.sub_ne_zero_of_lt (Nat.one_lt_two_pow (nbits_pos e).ne')
  rw [idiv, irem, if_neg hne, if_neg hne, intOf_top_bit hs, intOf_all_ones hs, Int.tdiv_neg, Int.tdiv_one, Int.tmod_neg, Int.tmod_one]
  exact ⟨rawOf_neg_intMin hs, rawOf_natCast (r := 0) (Nat.two_pow_pos _)⟩

/-- Settles O55: but for a divisor of 0 and MIN by -1 the integers of the results are the truncated quotient and its remainder. -/
theorem divisionFollowsR196 : Obligations.DivisionFollowsR196 := by
  intro e a b _ ha hb
  refine ⟨fun hzero => ⟨if_pos hzero, if_pos hzero⟩, fun hs hmin hone => ?minByMinusOne, fun hne hover => ?quotient⟩
  case minByMinusOne =>
    subst hmin hone
    exact div_overflow hs
  case quotient =>
    rw [intOf_idiv ha hb hne hover, intOf_irem ha hne]
    exact ⟨Int.tdiv_mul_add_tmod .., natAbs_tmod_lt (intOf_ne_zero hb hne), tmod_neg_iff⟩

end Sys2Proof.Proofs.DivisionFollowsR196
end

section
/-! PROOFS. The values of e8m0 bytes (R200). -/

namespace Sys2Proof.Proofs.ScaleBytes

open Sys2Proof Sys2Proof.Machine

theorem decodeE8_power {v : Nat} (hv : v ≤ 0xFE) : decodeE8 v = .fin false 1 ((v : Int) - 127) := by
  have hmod : v % 256 = v := Nat.mod_eq_of_lt (by omega)
  rw [decodeE8, hmod, if_neg (by omega)]

/-- Settles O58: a byte is a power of two or, at 0xFF, NaN. -/
theorem scaleBytes : Obligations.ScaleBytes := by
  intro v hv
  refine ⟨decodeE8_power, decodeE8_power (by decide), rfl, ?_⟩
  obtain hle | rfl : v ≤ 0xFE ∨ v = 0xFF := by omega
  · rw [decodeE8_power hle]
    simp
  · simp [show decodeE8 0xFF = .nan from rfl]

end Sys2Proof.Proofs.ScaleBytes
end

section
/-! PROOFS. ISECT and UNION (R247, R248). -/

namespace Sys2Proof.Proofs.CoordinateStreams

open Sys2Proof Sys2Proof.Machine Sys2Proof.Safety Sys2Proof.Laws

/-- Where the walk over the lanes of two heads that are no markers ends, from the slot's cursors on. -/
def headWalk (union : Bool) (c : Ctx) : Walk :=
  let x := c.a.slot c.slot
  walk union (lanes 8 c.l.data) (lanes 8 c.rt.data) false false 65 ⟨x.curL, x.curR, x.lastL, x.lastR, [], [], none⟩

section Merge

variable {i : Instr} {s : State} {c : Ctx} {h : Hd} {union : Bool} (hx : exec i s = fireMerge i h union s)

include hx

theorem completes_two_markers (hm : Matches i s c) (hl : c.l.isMarker = true) (hr : c.rt.isMarker = true) :
    Completes i s c [.l, .r] (both h (markerOut (max c.l.rank c.rt.rank) c.time)) []
      (s.modAt c.key (fun a => a.modSlot c.slot (fun x => { x with curL := 0, curR := 0, lastL := none, lastR := none }))) :=
  completes_fireOwn hm hx (if_pos (Bool.and_eq_true_iff.2 ⟨hl, hr⟩))

/-- A walk in order that uses up a side fires, whether or not a cursor moved. -/
theorem completes_walk (hf : Fires i s c) (hbad : (headWalk union c).bad = none)
    (hused : (lanes 8 c.l.data).length ≤ (headWalk union c).cl ∨ (lanes 8 c.rt.data).length ≤ (headWalk union c).cr) :
    Completes i s c
      ((if (lanes 8 c.l.data).length ≤ (headWalk union c).cl then [.l] else []) ++
        (if (lanes 8 c.rt.data).length ≤ (headWalk union c).cr then [.r] else []))
      (if (headWalk union c).outL = [] then []
        else [coordOut h.sh c.time (headWalk union c).outL h.t0, coordOut h.sh c.time (headWalk union c).outR h.t1]) []
      (s.modAt c.key (fun a => a.modSlot c.slot (fun x => { x with
        curL := if (lanes 8 c.l.data).length ≤ (headWalk union c).cl then 0 else (headWalk union c).cl
        curR := if (lanes 8 c.rt.data).length ≤ (headWalk union c).cr then 0 else (headWalk union c).cr
        lastL := (headWalk union c).ll
        lastR := (headWalk union c).lr }))) := by
  have hl : c.l.isMarker = false := tok_unmarked hf.2 .l
  have hr : c.rt.isMarker = false := tok_unmarked hf.2 .r
  have hfires (moved : Bool) : (!decide ((lanes 8 c.l.data).length ≤ (headWalk union c).cl) &&
      !decide ((lanes 8 c.rt.data).length ≤ (headWalk union c).cr) && !moved) = false := by
    rcases hused with hside | hside <;> simp [hside]
  refine completes_fireOwn (Matches_of_Fires hf) hx ?_
  unfold headWalk at *
  simp only [hl, hr, hbad, hfires, ge_iff_le, Bool.and_false, Bool.not_false, Bool.true_and, Bool.false_eq_true, if_false,
    decide_eq_true_eq, List.isEmpty_iff, keepWalk]

end Merge

/-- Settles O11: both are the merge, with and without the lanes that one side alone holds. -/
theorem coordinateStreams : Obligations.CoordinateStreams := by
  intro s c h imm
  simp only [List.forall_mem_cons]
  exact ⟨⟨completes_two_markers (rfl : execIsect h imm s = _), completes_walk (rfl : execIsect h imm s = _)⟩,
    ⟨completes_two_markers (rfl : execUnion h imm s = _), completes_walk (rfl : execUnion h imm s = _)⟩, List.forall_mem_nil _⟩

end Sys2Proof.Proofs.CoordinateStreams
end

section
/-! PROOFS. The float instructions lane by lane (R229 to R232). -/

namespace Sys2Proof.Proofs.FloatLanes

open Sys2Proof Sys2Proof.Machine Sys2Proof.Safety Sys2Proof.Laws

variable {s : State} {c : Ctx} {h : Hd} {imm : BitVec 30}

/-- The float instructions of two operands that answer with SH, FSCALE apart, each with its function (R230). -/
def binaryOps (h : Hd) (imm : BitVec 30) : List (Instr × (Nat → Nat → Nat)) :=
  [(.fadd h imm, fadd h), (.fsub h imm, fsub h), (.fmul h imm, fmul h), (.fmin h imm, fmin h), (.fmax h imm, fmax h)]

theorem exec_binaryOps : ∀ p ∈ binaryOps h imm, exec p.1 s = lanes2 p.1 h imm h.sh p.2 s := by
  simp only [binaryOps, List.forall_mem_cons]
  exact ⟨rfl, rfl, rfl, rfl, rfl, List.forall_mem_nil _⟩

/-- The float instructions of one operand that answer with SH, each with its function (R230, R231). -/
def unaryOps (h : Hd) (imm : BitVec 30) : List (Instr × (Nat → Nat)) :=
  [(.fabs h imm, fabs h), (.fneg h imm, fneg h), (.frcp h imm, frcp h), (.frsq h imm, frsq h), (.fsqrt h imm, fsqrt h),
    (.fexp2 h imm, fexp2 h), (.flog2 h imm, flog2 h), (.fsin h imm, fsin h), (.fcos h imm, fcos h), (.ftanh h imm, ftanh h),
    (.ferf h imm, ferf h), (.frnd h imm, frnd h)]

theorem exec_unaryOps : ∀ p ∈ unaryOps h imm, exec p.1 s = lanes1 p.1 h h.sh (fun _ => p.2) s := by
  simp only [unaryOps, List.forall_mem_cons]
  exact ⟨rfl, rfl, rfl, rfl, rfl, rfl, rfl, rfl, rfl, rfl, rfl, rfl, List.forall_mem_nil _⟩

/-- Settles O4: each instruction is its lanewise form, of one, two or three operands; FSCALE's reads its own immediate. -/
theorem floatLanes : Obligations.FloatLanes := by
  intro s c h imm
  refine ⟨fun p hp hf => ?binary, fun hf => ?fcmp, fun hf => ?fscale, fun p hp hf => ?unary, fun hf => ?fclass, fun hf => ?ffma⟩
  case binary => exact lanes2_completes hf (exec_binaryOps p hp)
  case fcmp => exact lanes2_completes (f := fcmp h) hf (rfl : execFcmp h imm s = _)
  case fscale => exact completes_fire hf (rfl : execFscale h imm s = _) rfl
  case unary => exact lanes1_completes (f := fun _ => p.2) hf (exec_unaryOps (imm := imm) p hp)
  case fclass => exact lanes1_completes (f := fun _ => fclass h) hf (rfl : execFclass h imm s = _)
  case ffma => exact lanes3_completes (f := ffma h) hf (rfl : execFfma h imm s = _)

end Sys2Proof.Proofs.FloatLanes
end

section
/-! PROOFS. The row instructions (R234 to R239). -/

namespace Sys2Proof.Proofs.RowInstructions

open Sys2Proof Sys2Proof.Machine Sys2Proof.Safety Sys2Proof.Laws

variable {i : Instr} {s : State} {c : Ctx} {h : Hd} {imm : BitVec 30}

/-- A value of 8 bytes fills 8 bytes once (R234). -/
theorem fillWith_eight (v : Nat) : fillWith 8 v 8 = leBytes 8 v := List.append_nil _

/-- A reduction sends 8 bytes of the repeated value (R234). -/
theorem reduced_fired {ty : Elem} (v : Nat) :
    reduced h ty v c s = .fired (c.toks.map (·.1)) (both h (dataOut ty c.time (fillWith ty.width v 8))) [] s := rfl

/-- RSUM answers f32 for floats, and the 64-bit type of SH's sign for integers (R234). -/
theorem sends_rsum (hf : Fires (.rsum h imm) s c) : Sends (.rsum h imm) s c (both h
    (if Elem.isFlt h.sh then dataOut .f32 c.time (fillWith 4 (sumFloat h.sh h.md.toNat (lanes h.sh.width c.l.data)) 8)
     else dataOut (if h.sh.signed then .s64 else .n64) c.time
       (leBytes 8 (sumInt h.sh h.md.toNat (lanes h.sh.width c.l.data))))) := by
  refine completes_fire hf (rfl : execRsum h imm s = _) ?_
  have hwidth : Elem.width (if h.sh.signed then .s64 else .n64) = 8 := by split <;> rfl
  cases Elem.isFlt h.sh
  case true => simp only [if_true, reduced_fired]; rfl
  case false => simp only [Bool.false_eq_true, if_false, reduced_fired, hwidth, fillWith_eight]

/-- SPLIT sends the halves of an L of 16 bytes or more (R236). -/
theorem sends_split_halves (hf : Fires (.split h imm) s c) (hlen : 16 ≤ c.l.data.length) : Sends (.split h imm) s c
    [dataOut h.sh c.time (c.l.data.take (c.l.data.length / 2)) h.t0,
     dataOut h.sh c.time (c.l.data.drop (c.l.data.length / 2)) h.t1] :=
  completes_fire hf (rfl : execSplit h imm s = _) (by simp only [ge_iff_le, hlen, if_true]; rfl)

/-- SPLIT sends an 8-byte L whole to T0, and zero bytes to T1 (R236). -/
theorem sends_split_whole (hf : Fires (.split h imm) s c) (hlen : c.l.data.length < 16) : Sends (.split h imm) s c
    [dataOut h.sh c.time c.l.data h.t0, dataOut h.sh c.time (zeros 8) h.t1] :=
  completes_fire hf (rfl : execSplit h imm s = _) (by simp only [ge_iff_le, Nat.not_le.2 hlen, if_false]; rfl)

/-- COMPR and EXPD send the row that `f` makes, and on T1 the count of the true mask bytes (R237). -/
theorem sends_maskOp {f : List Nat → List Bool → List Nat} (hf : Fires i s c) (hx : exec i s = maskOp i h f s) :
    let l := lanes h.sh.width c.l.data
    let m := maskOf c.p.data l.length
    Sends i s c [dataOut h.sh c.time (fitBytes c.l.data.length (packLanes h.sh.width (f l m))) h.t0,
      dataOut .n32 c.time (leBytes 8 (m.filter id).length) h.t1] :=
  completes_fire hf (hx.trans rfl) rfl

/-- Settles O5: each instruction is its firing; RSUM's answer depends on SH, SPLIT's on the size of L. -/
theorem rowInstructions : Obligations.RowInstructions := by
  refine ⟨fun s c h imm => ⟨sends_rsum, fun hf => ?rmax, fun hf => ?rmin, fun hf => ?scan, fun hf => ?argmax, fun hf => ?topk,
      fun hf => ?maxrs⟩,
    fun s c h imm => ⟨fun hf => ?perm, fun hf => ?bcast, fun hf => ?slice, fun hf => ?cat, sends_split_halves, sends_split_whole,
      fun hf => ?compr, fun hf => ?expd⟩⟩
  case rmax => exact completes_fire hf (rfl : execRmax h imm s = _) (reduced_fired _)
  case rmin => exact completes_fire hf (rfl : execRmin h imm s = _) (reduced_fired _)
  case scan => exact completes_fire hf (rfl : execScan h imm s = _) rfl
  case argmax => exact completes_fire hf (rfl : execArgmax h imm s = _) rfl
  case topk => exact completes_fire hf (rfl : execTopk h imm s = _) rfl
  case maxrs => exact completes_fire hf (rfl : execMaxrs h imm s = _) rfl
  case perm => exact completes_fire hf (rfl : execPerm h imm s = _) rfl
  case bcast => exact completes_fire hf (rfl : execBcast h imm s = _) rfl
  case slice => exact completes_fire hf (rfl : execSlice h imm s = _) rfl
  case cat => exact completes_fire hf (rfl : execCat h imm s = _) rfl
  case compr => exact sends_maskOp hf (rfl : execCompr h imm s = _)
  case expd => exact sends_maskOp hf (rfl : execExpd h imm s = _)

end Sys2Proof.Proofs.RowInstructions
end

section
/-! PROOFS. The slew domains: grants and fillers of a cycle, ticks, and the expiry of the idle count (R269, R270, R441). -/

namespace Sys2Proof.Proofs.SlewSteps

open Sys2Proof Sys2Proof.Machine

variable {s : State} {die dom : Nat}

/-- A domain as it stands before a step of its own. -/
def domain (die dom : Nat) (s : State) : Slew := getD {} (slewKey die dom) s.slews

/-- The domain with its die's tables and level in force from this cycle on (R270, R441). -/
def loaded (die dom : Nat) (s : State) : Slew :=
  let d := getD {} die s.dies
  { domain die dom s with
    up0 := d.up0, up1 := d.up1, dn0 := d.dn0, dn1 := d.dn1, lim := d.lim, level := d.throt, tick := s.cycle + 1 }

/-- The state once the cycle's grants and fillers of a domain stand (R269). -/
def granting (die dom : Nat) (s : State) : State :=
  let ks := domainTiles die dom
  ks.foldl (fun s k => fillNode k s) (grantNodes (domain die dom s).allowance ks s (ks.filter (granted s)).length)

/-- The state once a tick has stopped SLEW_DN[j] of a domain's filling nodes (R269). -/
def stopping (die dom : Nat) (s : State) : State :=
  ((fillingNodes s (domainTiles die dom)).take ((loaded die dom s).dn (loaded die dom s).j)).foldl
    (fun s k => modNodeOf k (fun n => { n with grant := false, filling := none }) s) s

section Domain

variable (hdie : die < 4) (hdom : dom < 8)

include hdie hdom

/-- A domain steps once in a cycle, and at a tick's cycle after the tick. -/
theorem slewCycle_steps (hdone : (domain die dom s).done ≠ s.cycle + 1)
    (htick : s.cycle % 4 = 0 → (domain die dom s).tick = s.cycle + 1) :
    exec (.slewCycle die dom) s = .next ({ granting die dom s with
      slews := put (slewKey die dom)
        { domain die dom s with
          done := s.cycle + 1
          idle := if demand s (domainTiles die dom) = 0 then (domain die dom s).idle + 1 else 0 }
        (granting die dom s).slews }).act := by
  have hready : (decide (s.cycle % 4 = 0) && decide ((domain die dom s).tick ≠ s.cycle + 1)) = false :=
    Bool.and_eq_false_imp.2 fun hcycle => decide_eq_false (not_not.2 (htick (of_decide_eq_true hcycle)))
  unfold domain at hdone hready
  show execSlewCycle die dom s = _
  simp only [execSlewCycle, hdone, hready, ge_iff_le, Nat.not_le.2 hdie, Nat.not_le.2 hdom, decide_false, Bool.or_self,
    Bool.false_eq_true, if_false, decide_eq_true_eq, granting, domain]

/-- A tick comes in every fourth cycle, once and before the cycle's own step. -/
theorem slewTick_ticks (hcycle : s.cycle % 4 = 0) (htick : (domain die dom s).tick ≠ s.cycle + 1)
    (hdone : (domain die dom s).done ≠ s.cycle + 1) :
    let y := loaded die dom s
    exec (.slewTick die dom) s = .next ({ stopping die dom s with
      slews := put (slewKey die dom)
        { y with
          s := if y.allowance < demand s (domainTiles die dom) ∧ y.s < 8 ∧ y.up y.s < throttleCap y.level then y.s + 1 else y.s
          j := if fillingNodes s (domainTiles die dom) = [] then 0 else min (y.j + 1) 11 }
        (stopping die dom s).slews }).act := by
  unfold domain at htick hdone
  show execSlewTick die dom s = _
  simp only [execSlewTick, hcycle, htick, hdone, ge_iff_le, gt_iff_lt, Nat.not_le.2 hdie, Nat.not_le.2 hdom, ne_eq, not_true_eq_false,
    decide_false, Bool.or_self, Bool.false_eq_true, if_false, Bool.and_eq_true, decide_eq_true_eq, and_assoc, List.isEmpty_iff]
  rfl

end Domain

theorem slewIdleExpiry_resets (hidle : (domain die dom s).idleLimit ≤ (domain die dom s).idle) (hstep : 0 < (domain die dom s).s) :
    exec (.slewIdleExpiry die dom) s =
      .next ({ s with slews := put (slewKey die dom) { domain die dom s with s := 0 } s.slews }).act := by
  show execSlewIdleExpiry die dom s = _
  exact if_pos (Bool.and_eq_true_iff.2 ⟨decide_eq_true hidle, decide_eq_true hstep⟩)

/-- Settles O28: the step, the tick and the expiry each have their lemma. -/
theorem slewSteps : Obligations.SlewSteps :=
  fun _ _ _ hdie hdom => ⟨slewCycle_steps hdie hdom, slewTick_ticks hdie hdom, slewIdleExpiry_resets⟩

end Sys2Proof.Proofs.SlewSteps
end

section
/-! PROOFS. The node's control instructions and the loads that MLDB begins (R255 to R257, R262, R266, R267). -/

namespace Sys2Proof.Proofs.MatrixControlAndLoads

open Sys2Proof Sys2Proof.Machine Sys2Proof.Safety Sys2Proof.Laws

variable {h : Hd} {x : MatX} {s : State} {c : Ctx}

/-! ### Configurations (R262) -/

section Configuration

/-- The node with the configuration of L's payload open, none of its rows fired. -/
def configOpens (h : Hd) (c : Ctx) (s : State) : State :=
  let w := cfgWord (natAt c.l.data 0 8)
  s.modNode c.key fun n => { n with
    cfg := some ⟨c.slot, h.sh, c.time, c.a.seqOf .oth, cfgDone h c.time w.eofl, w.qinc, w.eofl, w.k, w.n, w.m, 0, 0⟩ }

variable (hf : Fires (.mcfg h x) s c) (hcfg : c.a.node.cfg = none) (hgood : (cfgWord (natAt c.l.data 0 8)).bad h.sh = false)

include hf hcfg hgood

/-- With no configuration open, a good payload's M says whether the instruction is done. -/
theorem mcfg_completes {eat : List Pos} {outs : List Out} {posts : List Post} {t : State}
    (hb : (if (cfgWord (natAt c.l.data 0 8)).m = 0 then c.send (cfgDone h c.time (cfgWord (natAt c.l.data 0 8)).eofl) s
      else .fired [.l] [] (stays c) (configOpens h c s)) = .fired eat outs posts t) :
    Completes (.mcfg h x) s c eat outs posts t := by
  have hclosed : ¬c.a.node.cfg.isSome = true := by rw [hcfg]; exact Bool.false_ne_true
  have hdata : ¬c.l.isMarker = true := ne_true_of_eq_false (tok_unmarked hf.2 .l)
  exact completes_fireOwn (Matches_of_Fires hf) (rfl : _ = execMcfg h x s)
    ((if_neg hclosed).trans ((if_neg hdata).trans ((if_neg (ne_true_of_eq_false hgood)).trans hb)))

theorem sends_mcfg_of_no_rows (hm : (cfgWord (natAt c.l.data 0 8)).m = 0) :
    Sends (.mcfg h x) s c (cfgDone h c.time (cfgWord (natAt c.l.data 0 8)).eofl) :=
  mcfg_completes hf hcfg hgood (if_pos hm)

theorem completes_mcfg_of_rows (hm : (cfgWord (natAt c.l.data 0 8)).m ≠ 0) :
    Completes (.mcfg h x) s c [.l] [] (stays c) (configOpens h c s) := mcfg_completes hf hcfg hgood (if_neg hm)

end Configuration

/-! ### Exchanging the banks (R257) -/

theorem writes_mswp (hf : Fires (.mswp h x) s c) (hidle : loadsAt s c.key = []) :
    Writes (.mswp h x) s c (both h (pulseOut c.time)) (s.modNode c.key fun n => { n with cur := !n.cur }) :=
  completes_fire hf (rfl : _ = execMswp h x s) (by rw [hidle]; rfl)

/-! ### Clearing and draining Q (R266, R267) -/

section Clear

variable (hf : Fires (.mzero h x) s c) (hrsv : bits (natAt c.l.data 0 8) 9 55 = 0)

include hf hrsv

theorem sends_mzero_of_no_rows (hcount : bits (natAt c.l.data 0 8) 0 9 = 0) : Sends (.mzero h x) s c (both h (pulseOut c.time)) :=
  completes_fireNode hf (rfl : _ = execMzero h x s) ((if_neg (not_not.2 hrsv)).trans (if_pos hcount))

theorem completes_mzero_of_rows (hcount : bits (natAt c.l.data 0 8) 0 9 ≠ 0) :
    Completes (.mzero h x) s c [.l] [] (stays c) (s.modNode c.key fun nd =>
      nd.push { slot := c.slot, time := c.time, pipe := .oth, seq := c.a.seqOf .oth
                op := .zero x.qrow.toNat (min (bits (natAt c.l.data 0 8) 0 9) (256 - x.qrow.toNat)), outs := both h (pulseOut c.time) }) :=
  completes_fireNode hf (rfl : _ = execMzero h x s) ((if_neg (not_not.2 hrsv)).trans (if_neg hcount))

end Clear

/-- A marker and the row of a partial set are no operation that MDRN waits for. -/
theorem not_awaited_of_mark_or_set {f : InFlight} (hfree : f.mark = true ∨ ∃ set p, f.op = .blk set p) :
    ¬(!f.mark && (match f.op with | .blk _ _ => false | _ => true)) = true := by
  rcases hfree with hmark | ⟨set, p, hop⟩
  · simp only [hmark, Bool.not_true, Bool.false_and, Bool.false_eq_true, not_false_eq_true]
  · simp only [hop, Bool.and_false, Bool.false_eq_true, not_false_eq_true]

theorem sends_mdrn (hf : Fires (.mdrn h x) s c) (hflight : ∀ f ∈ c.a.node.flight, f.mark = true ∨ ∃ set p, f.op = .blk set p)
    (howed : ∀ o ∈ c.a.node.outq, o.data = false) : Sends (.mdrn h x) s c (both h c.l.to) := by
  have hrows := List.any_eq_false.2 fun f hmem => not_awaited_of_mark_or_set (hflight f hmem)
  have hanswers := List.any_eq_false.2 fun o hmem => ne_true_of_eq_false (howed o hmem)
  have hdata : ¬c.l.isMarker = true := ne_true_of_eq_false (tok_unmarked hf.2 .l)
  have hdrained := ne_true_of_eq_false (Bool.or_eq_false_iff.2 ⟨hrows, hanswers⟩)
  exact completes_fireOwn (Matches_of_Fires hf) (rfl : _ = execMdrn h x s) ((if_neg hdrained).trans (if_neg hdata))

/-! ### Loads of B (R255, R256) -/

section Loads

variable {dest : List Nat}

theorem no_load_into_bank {bank : Bool} (hloads : ∀ d ∈ dest, ∀ l ∈ loadsAt s d, (l.bank == 1) ≠ bank) :
    dest.any (fun d => (loadsAt s d).any fun l => (l.bank == 1) == bank) = false :=
  List.any_eq_false.2 fun d hd => ne_true_of_eq_false (List.any_eq_false.2 fun l hl heq => hloads d hd l hl (beq_iff_eq.1 heq))

theorem no_row_of_bank {bank : Bool} (hrows : ∀ d ∈ dest, (s.at d).node.cur = bank → ∀ f ∈ (s.at d).node.flight, f.row = false) :
    dest.any (fun d => (s.at d).node.cur == bank && (s.at d).node.flight.any fun f => f.row) = false := by
  refine List.any_eq_false.2 fun d hd hbusy => ?_
  obtain ⟨hcur, hany⟩ := Bool.and_eq_true_iff.1 hbusy
  obtain ⟨f, hf, hrow⟩ := List.any_eq_true.1 hany
  exact ne_true_of_eq_false (hrows d hd (beq_iff_eq.1 hcur) f hf) hrow

/-- Nothing substituted, and no bad word met: the load begins. -/
theorem completes_mldb (hf : Fires (.mldb h x) s c)
    (hloads : ∀ d ∈ mldbDest c.key x.mcst, ∀ l ∈ loadsAt s d, (l.bank == 1) ≠ (x.bank == 1))
    (hrows : ∀ d ∈ mldbDest c.key x.mcst, (s.at d).node.cur = (x.bank == 1) → ∀ f ∈ (s.at d).node.flight, f.row = false)
    (hrange : 16 * x.woff.toNat + mldbLen h ≤ 0x18000) (hsub : c.substs = false) :
    Completes (.mldb h x) s c [.l] [] (stays c) (s.modNode c.key fun nd => { nd with
      loads := nd.loads ++ [{ mldbLoad h x c with sword := none }] }) := by
  have hword : c.skipWord = none := if_neg (ne_true_of_eq_false hsub)
  have hclear : clearSubst c s = s := if_neg (ne_true_of_eq_false hsub)
  have hload : mldbLoad h x c = { mldbLoad h x c with sword := none } := by rw [← hword]; rfl
  refine completes_fireNode hf (rfl : _ = execMldb h x s) ?_
  simp only [no_load_into_bank hloads, no_row_of_bank hrows, gt_iff_lt, Nat.not_lt.2 hrange, hsub, badWord_none _ hf.1.2, hclear,
    decide_false, Bool.false_and, Bool.false_eq_true, if_false]
  rw [← hload]
  rfl

end Loads

/-- Settles O13: each instruction is one of the lemmas above. -/
theorem matrixControlAndLoads : Obligations.MatrixControlAndLoads :=
  ⟨fun _ _ _ _ => ⟨sends_mcfg_of_no_rows, completes_mcfg_of_rows, writes_mswp, sends_mzero_of_no_rows, completes_mzero_of_rows, sends_mdrn⟩,
    fun _ _ _ _ => completes_mldb⟩

end Sys2Proof.Proofs.MatrixControlAndLoads
end

section
/-! PROOFS. The video instructions of the tile: the mode and coefficient instructions (R300 to R303), warping and drift (R307, R308). -/

namespace Sys2Proof.Proofs.VideoWalkers

open Sys2Proof Sys2Proof.Machine Sys2Proof.Safety Sys2Proof.Laws

/-- The check of BMOD passes on a record with block sizes 4 to 64 and no reserved KIND or PLANE (R292, R300). -/
theorem record_in_range {r : Record} (hlw : 2 ≤ r.lw) (hlwMax : r.lw ≤ 6) (hlh : 2 ≤ r.lh) (hlhMax : r.lh ≤ 6) (hkind : r.kind ≠ 3)
    (hplane : r.plane ≠ 3) :
    ¬(decide (r.lw < 2) || decide (r.lw > 6) || decide (r.lh < 2) || decide (r.lh > 6) || decide (r.kind = 3) ||
      decide (r.plane = 3)) = true := by
  simp only [Bool.or_eq_true, decide_eq_true_eq, not_or]
  exact ⟨⟨⟨⟨⟨by omega, by omega⟩, by omega⟩, by omega⟩, hkind⟩, hplane⟩

/-- BLKW's OUT flag stays 0 where every cell is the cell that it is clamped to (R307). -/
theorem no_cell_moved {f : Int × Int → Nat × Nat} {cells : List (Int × Int)}
    (hstay : ∀ p ∈ cells, p.1 = ((f p).1 : Int) ∧ p.2 = ((f p).2 : Int)) :
    (List.zipWith (fun p k => p.1 != (k.1 : Int) || p.2 != (k.2 : Int)) cells (cells.map f)).any id = false := by
  rw [List.zipWith_map_right, List.zipWith_self, List.any_map, List.any_eq_false]
  intro p hp
  obtain ⟨hx, hy⟩ := hstay p hp
  simp [← hx, ← hy]

/-- DRIFT's sum is defined where some weight is nonzero and the phase class is at most 15 (R308). -/
theorem drift_defined {vs : List Nat} {ph : Nat} (hvs : vs ≠ []) (hph : ph ≤ 15) : ¬(vs.isEmpty || decide (ph > 15)) = true := by
  simp only [Bool.or_eq_true, List.isEmpty_iff, decide_eq_true_eq, not_or]
  exact ⟨hvs, Nat.not_lt.2 hph⟩

/-- Settles O18: each instruction is its firing; BMOD's record passes its check, BLKW's block is inter and no cell of it is clamped,
and DRIFT's cell has neither flag and some weight. -/
theorem videoWalkers : Obligations.VideoWalkers := by
  refine ⟨fun s c h x => ⟨fun hf hlw hlwMax hlh hlhMax hkind hplane => ?bmod, fun hf => ?cgex, fun hf => ?cflp, fun hf => ?ctrn⟩,
    fun s c h x => ⟨fun hf hinter href hcells => ?blkw, fun hf hintra hnoref hvs hph => ?drift⟩⟩
  case bmod =>
    exact completes_fire hf (rfl : _ = execBmod h x s) ((if_neg (record_in_range hlw hlwMax hlh hlhMax hkind hplane)).trans rfl)
  case cgex => exact completes_fire hf (rfl : _ = execCgex h x s) rfl
  case cflp => exact completes_fire hf (rfl : _ = execCflp h x s) rfl
  case ctrn => exact completes_fire hf (rfl : _ = execCtrn h x s) rfl
  case blkw =>
    have hmoved := no_cell_moved (f := fun p => (clampCell p.1 _, clampCell p.2 _)) hcells
    have hkind := beq_eq_false_iff_ne.2 hinter
    have hself : ¬(recordOf c.l.data).ref.getD h.md.toNat 0 = 0xFE := by omega
    have hnoref : ((recordOf c.l.data).ref.getD h.md.toNat 0 == 0xFF) = false := beq_eq_false_iff_ne.2 (by omega)
    refine completes_fire hf (rfl : _ = execBlkw h x s) ?_
    simp only [hmoved, hkind, hnoref, hself, Bool.or_false, Bool.false_and, Bool.false_eq_true, if_false]
    rfl
  case drift =>
    refine completes_fire hf (rfl : _ = execDrift h x s) ?_
    simp only [hintra, hnoref, drift_defined hvs hph, Bool.false_eq_true, if_false]
    rfl

end Sys2Proof.Proofs.VideoWalkers
end

section
/-! PROOFS. Trackers: batches (R328), registrations and their release (R341), and queries (R342). -/

namespace Sys2Proof.Proofs.TrackerSteps

open Sys2Proof Sys2Proof.Machine Sys2Proof.Safety Sys2Proof.Laws
open Sys2Proof.Proofs.EngineCompletions (firstSome_append)

variable {s : State} {trk input : Nat}

/-- The state with one tracker changed. -/
def atTracker (trk : Nat) (f : Tracker → Tracker) (s : State) : State :=
  { s with trackers := put trk (f (getD {} trk s.trackers)) s.trackers }

section Batches

/-- A tracker whose input has lost its oldest batch. -/
def shortened (input : Nat) (rest : List (List Post)) (t : Tracker) : Tracker :=
  { t with inq := if rest = [] then del input t.inq else put input rest t.inq }

/-- A batch passed up: by a quad node to its die root, by a die root to the package root, which passes nothing on. -/
def passedUp (trk : Nat) (b : List Post) (s : State) : State :=
  if trk < 480 then s.enqueue (480 + trk / 120) (trk % 120) b else if trk < 484 then s.enqueue 484 (trk - 480) b else s

/-- R328: a batch that its tracker can apply is applied, and goes up whole. -/
theorem batch_applies {b : List Post} {rest : List (List Post)} {t' : Tracker}
    (hinq : getD [] input (getD {} trk s.trackers).inq = b :: rest)
    (happly : applyBatch s trk b (shortened input rest (getD {} trk s.trackers)) = some t') :
    exec (.trackerBatch trk input) s = .next (passedUp trk b (atTracker trk (fun _ => t') s)).act := by
  change execTrackerBatch trk input s = _
  simp only [shortened] at happly
  simp only [execTrackerBatch, hinq, List.isEmpty_iff, happly, parentOf, passedUp]
  by_cases hquad : trk < 480
  · simp only [if_pos hquad]
    rfl
  · by_cases hdie : trk < 484
    · simp only [if_neg hquad, if_pos hdie]
      rfl
    · simp only [if_neg hquad, if_neg hdie]
      rfl

end Batches

section Waiters

variable {w : Waiter}

/-- R341: the oldest registration takes a free waiter entry. -/
theorem registration_waits {rest : List Waiter} (hregq : (getD {} trk s.trackers).regq = w :: rest)
    (hfree : (getD {} trk s.trackers).waiters.length < waiterCap trk) :
    exec (.waitfRegister trk) s = .next (atTracker trk (fun t => { t with regq := rest, waiters := t.waiters ++ [w] }) s).act := by
  change execWaitfRegister trk s = _
  simp only [execWaitfRegister, hregq, ge_iff_le, Nat.not_le.2 hfree, if_false]
  rfl

/-- The slot of a waiter, its WAITF freed with a frontier. -/
def freeSlot (w : Waiter) (f : Option Nat) (s : State) : State :=
  s.modAt w.tile fun a => a.modSlot w.slot fun y => { y with
    wait := y.wait.map fun v => { v with freed := some (f.map (BitVec.ofNat 64)) } }

/-- R341: a waiter whose time the frontier has passed leaves the tracker, and its slot has the frontier. -/
theorem waiter_released (hw : (getD {} trk s.trackers).waiters[input]? = some w)
    (hpasses : passes (frontier s trk w.res w.prb) w.time.toNat = true) :
    exec (.frontierRelease trk input) s = .next (freeSlot w (frontier s trk w.res w.prb)
      (atTracker trk (fun t => { t with waiters := t.waiters.eraseIdx input }) s)).act := by
  change execFrontierRelease trk input s = _
  simp only [execFrontierRelease, hw, hpasses, if_true]
  rfl

end Waiters

section Queries

variable {m : Msg}

/-- The query's tracker without it. -/
def dropQuery (trk : Nat) (m : Msg) (s : State) : State :=
  atTracker trk (fun t => { t with queries := removeFirst (fun x => x == m) t.queries }) s

/-- R342: the answer to a slot's query of a running residency is the frontier, on both targets. -/
theorem answerQuery_of_running {k slot : Nat} (hsrc : m.src = .slot k slot) (hrun : (runRes s m.h).isSome = true) :
    answerQuery trk s m =
      answer k m ([m.t0, m.t1].map (dataOut .n64 m.time (frontBytes (frontier s trk m.h m.snum)))) (dropQuery trk m s) := by
  have hrunning : ¬(runRes s m.h).isNone = true := by rwa [Bool.not_eq_true, Option.isNone_eq_false_iff]
  simp only [answerQuery, if_neg hrunning, hsrc]
  rfl

/-- R342: the oldest query that can be answered is. -/
theorem oldest_query_answered {before rest : List Msg} {s' : State} (hqueries : (getD {} trk s.trackers).queries = before ++ m :: rest)
    (hbefore : ∀ x ∈ before, answerQuery trk s x = none) (hanswer : answerQuery trk s m = some s') :
    exec (.frontQuery trk) s = .next s'.act := by
  change execFrontQuery trk s = _
  simp only [execFrontQuery, hqueries, firstSome_append hbefore hanswer]

end Queries

/-- Settles O29: each of the four steps has its lemma; the query's answer is that of its residency's frontier. -/
theorem trackerSteps : Obligations.TrackerSteps :=
  fun _ _ _ => ⟨fun _ _ _ => batch_applies, fun _ _ => registration_waits, fun _ => waiter_released,
    fun _ _ _ _ _ _ hqueries hbefore hsrc hrun hanswer =>
      oldest_query_answered hqueries hbefore ((answerQuery_of_running hsrc hrun).trans hanswer)⟩

end Sys2Proof.Proofs.TrackerSteps
end

section
/-! PROOFS. LAUNCH, JOIN and SVC (R389, R390, R423). -/

namespace Sys2Proof.Proofs.RequestsToDispatcherAndCores

open Sys2Proof Sys2Proof.Machine Sys2Proof.Safety Sys2Proof.Laws

/-- Settles O20: with an outgoing buffer free the three instructions fire, each with its request written beside its tokens. -/
theorem requestsToDispatcherAndCores : Obligations.RequestsToDispatcherAndCores := by
  intro s c h imm x v d q j e k hfree
  have hroom : ¬ outgoing s c.key ≥ 4 := Nat.not_le.2 hfree
  refine ⟨fun hf => ?launch, fun hf => ?join, fun hf hvalid => ?svc⟩
  case launch => exact completes_fire hf (rfl : _ = execLaunch h imm s) (if_neg hroom)
  case join => exact completes_fire hf (rfl : _ = execJoin h imm s) (if_neg hroom)
  case svc =>
    refine completes_fire hf (rfl : _ = execSvc h x s) ((if_neg hroom).trans (if_neg ?_))
    rw [Bool.not_eq_true', Bool.not_eq_false]
    exact hvalid

end Sys2Proof.Proofs.RequestsToDispatcherAndCores
end

section
/-! PROOFS. The Xdmx instructions of a service core (R418 to R425): when one runs, and one lemma for each way in which one ends. -/

namespace Sys2Proof.Proofs.Xdmx

open Sys2Proof Sys2Proof.Machine

/-- A register of the core in focus. -/
def operand (s : State) (r : BitVec 5) : W64 := (s.core s.focus.core).reg r.toNat

section

variable {s s' : State} {rd rs1 rs2 : BitVec 5} {body : Nat → W64 → W64 → State → Result}

/-- A check that fails, and one that passes. -/
theorem ite_not_of_false {α : Type} {p : Bool} {x y : α} (hp : p = false) : (if !p then x else y) = x := if_pos (by rw [hp]; rfl)

theorem ite_not_of_true {α : Type} {p : Bool} {x y : α} (hp : p = true) : (if !p then x else y) = y :=
  if_neg (by rw [hp]; exact Bool.false_ne_true)

/-! ### The modes (R418) -/

theorem dmx_in_user (hm : (s.core s.focus.core).mode = 0) : dmx rs1 rs2 body s = .next (s.illegal s.focus.core).act := if_pos hm

theorem dmx_outside_user (hm : (s.core s.focus.core).mode ≠ 0) :
    dmx rs1 rs2 body s = body s.focus.core (operand s rs1) (operand s rs2) s := if_neg hm

variable (hm : (s.core s.focus.core).mode ≠ 0)

include hm

/-! ### dmx.cmd and dmx.fence (R420, R422) -/

/-- The command that a header and an operand give (R420). -/
def cmdOf (s : State) (hdr b : W64) : Cmd :=
  let nw := bits hdr.toNat 38 6
  { id := (s.core s.focus.core).nextCmd, op := bits hdr.toNat 56 8, asid := bits hdr.toNat 44 12, die := bits hdr.toNat 36 2
    x := bits hdr.toNat 28 4, y := bits hdr.toNat 24 4, arg := if nw = 0 then b else 0
    body := if nw > 24 then [] else (upto nw).map fun i =>
      BitVec.ofNat 64 (leNat (coreRead s s.focus.core (b.toNat + 8 * i) 8)) }

/-- With a free entry at the port a command whose words are there is issued; one whose words are not faults. -/
theorem dmxCmd_eq : exec (.dmxCmd rd rs1 rs2) s =
    if (s.core s.focus.core).pending.length ≥ 32 then .next s
    else if decide (bits (operand s rs1).toNat 38 6 ≤ 24)
        && !coreRange s (operand s rs2).toNat (8 * bits (operand s rs1).toNat 38 6)
      then gapStop s.focus.core 1 (operand s rs2).toNat (8 * bits (operand s rs1).toNat 38 6) s
    else .next (retireDmx s.focus.core rd (BitVec.ofNat 64 (s.core s.focus.core).nextCmd)
      (issueCmd s.focus.core (cmdOf s (operand s rs1) (operand s rs2)) (cmdBad (operand s rs1).toNat) s)) := by
  change execDmxCmd rd rs1 rs2 s = _
  exact dmx_outside_user hm

/-- Whether a fence of header `n` names a command: every one, or those up to it in issue order (R422). -/
def fenceNames (s : State) (n : W64) (k : Nat) : Bool := n == 0 || issuedBy (s.core s.focus.core).nextCmd n.toNat k

/-- A fence waits while a command that it names is pending, and returns the OR of their bits. -/
theorem dmxFence_eq : exec (.dmxFence rd rs1 rs2) s =
    if (s.core s.focus.core).pending.any (fun q => fenceNames s (operand s rs1) q.id) then .next s
    else .next (retireDmx s.focus.core rd (BitVec.ofNat 64
      ((((s.core s.focus.core).done.filter fun e => fenceNames s (operand s rs1) e.1).map fun e => e.2.1).foldl
        (fun v b => v ||| b) 0)) s) := by
  change execDmxFence rd rs1 rs2 s = _
  exact dmx_outside_user hm

/-! ### dmx.take (R424) -/

/-- The oldest of the 64 queued tokens whose class stands in the mask. -/
def taken (s : State) (mask : W64) : Option Take :=
  ((s.core s.focus.core).takeq.take 64).find? fun t => bit (mask.toNat % 2 ^ 16) t.cls

theorem dmxTake_none (ht : taken s (operand s rs1) = none) :
    exec (.dmxTake rd rs1 rs2) s =
      .next (if bit (operand s rs1).toNat 63 then retireDmx s.focus.core rd 0 s else s) := by
  change execDmxTake rd rs1 rs2 s = _
  unfold taken at ht
  simp only [execDmxTake, dmx_outside_user hm, ht]
  exact (apply_ite _ _ _ _).symm

theorem dmxTake_some {t : Take} (ht : taken s (operand s rs1) = some t) :
    exec (.dmxTake rd rs1 rs2) s =
      if !coreRoom s (operand s rs2).toNat t.bytes.length then gapStop s.focus.core 2 (operand s rs2).toNat t.bytes.length s
      else .next (retireDmx s.focus.core rd (BitVec.ofNat 64 (t.cls + 16)) (advanceRing t
        (coreWrite s.focus.core (operand s rs2).toNat t.bytes
          (s.modCore s.focus.core fun y => { y with takeq := removeFirst (fun z => z == t) y.takeq })))) := by
  change execDmxTake rd rs1 rs2 s = _
  unfold taken at ht
  simp only [execDmxTake, dmx_outside_user hm, ht]

/-! ### dmx.give (R425) -/

theorem dmxGive_gap (hgap : coreRange s (operand s rs2).toNat 16 = false) :
    exec (.dmxGive rd rs1 rs2) s = gapStop s.focus.core 1 (operand s rs2).toNat 16 s := by
  change execDmxGive rd rs1 rs2 s = _
  simp only [execDmxGive, dmx_outside_user hm, hgap, Bool.not_false, if_true]

section Image

variable (hrange : coreRange s (operand s rs2).toNat 16 = true)

include hrange

/-- The image at rs2. -/
def image (s : State) (b : W64) : List Byte := coreRead s s.focus.core b.toNat 16

theorem dmxGive_bad (hbad : replyBad (image s (operand s rs2)) = true) :
    exec (.dmxGive rd rs1 rs2) s = .next (retireDmx s.focus.core rd 3 s) := by
  change execDmxGive rd rs1 rs2 s = _
  unfold image at hbad
  simp only [execDmxGive, dmx_outside_user hm, hrange, hbad, Bool.not_true, Bool.false_eq_true, if_false, if_true]

variable (hreply : replyBad (image s (operand s rs2)) = false)

include hreply

theorem dmxGive_stale (hsvc : get? (operand s rs1).toNat s.svcs = none) :
    exec (.dmxGive rd rs1 rs2) s = .next (retireDmx s.focus.core rd 1 s) := by
  change execDmxGive rd rs1 rs2 s = _
  unfold image at hreply
  simp only [execDmxGive, dmx_outside_user hm, hrange, hreply, hsvc, Bool.not_true, Bool.false_eq_true, if_false]

/-- The first reply under a handle goes to its SVC's targets, while the residency runs there. -/
theorem dmxGive_delivers {v : Svc} (hsvc : get? (operand s rs1).toNat s.svcs = some v) (hkept : v.kept = none)
    (hruns : (runRes s v.msg.h).isSome = true)
    (hpay : natAt (image s (operand s rs2)) 0 1 = 0 →
      coreRange s ((operand s rs2).toNat + 16) (sizeBytes (natAt (image s (operand s rs2)) 1 1)) = true)
    (hgive : deliverReply (operand s rs1).toNat v (replyOuts (image s (operand s rs2)) (coreRead s s.focus.core
      ((operand s rs2).toNat + 16) (sizeBytes (natAt (image s (operand s rs2)) 1 1))) v.msg) s = some s') :
    exec (.dmxGive rd rs1 rs2) s = .next (retireDmx s.focus.core rd 0 s') := by
  have hthere : (decide (natAt (image s (operand s rs2)) 0 1 = 0)
      && !coreRange s ((operand s rs2).toNat + 16) (sizeBytes (natAt (image s (operand s rs2)) 1 1))) = false := by
    simpa only [Bool.and_eq_false_imp, decide_eq_true_eq, Bool.not_eq_false'] using hpay
  have hrunning : (runRes s v.msg.h).isNone = false := Option.isNone_eq_false_iff.2 hruns
  change execDmxGive rd rs1 rs2 s = _
  unfold image at hreply hgive hthere
  simp only [execDmxGive, dmx_outside_user hm, hrange, hreply, hsvc, hkept, hthere, hrunning, hgive, Option.isSome_none,
    Bool.not_true, Bool.false_eq_true, if_false]

end Image

/-! ### dmx.resume and dmx.frz (R396, R398) -/

theorem dmxResume_answered {code : Nat} (hr : (s.core s.focus.core).resume = some (some code)) :
    exec (.dmxResume rd rs1 rs2) s = .next (retireDmx s.focus.core rd (BitVec.ofNat 64 code)
      (s.modCore s.focus.core fun y => { y with resume := none })) := by
  change execDmxResume rd rs1 rs2 s = _
  simp only [execDmxResume, dmx_outside_user hm, hr]

section Send

variable (hr : (s.core s.focus.core).resume = none)

include hr

theorem dmxResume_undefined (hd : dispOf (operand s rs2).toNat = none) :
    exec (.dmxResume rd rs1 rs2) s = .next (retireDmx s.focus.core rd 3 s) := by
  change execDmxResume rd rs1 rs2 s = _
  simp only [execDmxResume, dmx_outside_user hm, hr, hd]

/-- A disposition goes to the fault controller under a new number, and the core waits for the answer to it. -/
theorem dmxResume_sends {d : Disp} (hd : dispOf (operand s rs2).toNat = some d) :
    exec (.dmxResume rd rs1 rs2) s = .next (({ s with nextId := s.nextId + 1 }.modFaults fun f =>
      { f with disps := f.disps ++ [(⟨(operand s rs1).toNat, d, some s.focus.core, false, s.nextId⟩ : DispReq)] }).modCore s.focus.core
        fun y => { y with resume := some none, resumed := s.nextId }).act := by
  change execDmxResume rd rs1 rs2 s = _
  simp only [execDmxResume, dmx_outside_user hm, hr, hd]
  rfl

end Send

/-- A freeze of cause 1 or 3 is queued for a record that its id still names and that takes it (R398). -/
theorem dmxFrz_eq : exec (.dmxFrz rd rs1 rs2) s =
    if operand s rs2 ≠ 1 && operand s rs2 ≠ 3 then .next (retireDmx s.focus.core rd 3 s)
    else if decide ((operand s rs1).toNat ≥ 2 ^ 32) || staleId s (operand s rs1).toNat then .next (retireDmx s.focus.core rd 2 s)
    else if !freezeAccepted (s.task (idIndex (operand s rs1).toNat)) (operand s rs2).toNat
        || s.dsp.frzq.any (fun q => q.1 == idIndex (operand s rs1).toNat) then .next (retireDmx s.focus.core rd 1 s)
    else .next (retireDmx s.focus.core rd 0 (s.modDsp fun d =>
      { d with frzq := d.frzq ++ [(idIndex (operand s rs1).toNat, (operand s rs2).toNat)] })) := by
  change execDmxFrz rd rs1 rs2 s = _
  exact dmx_outside_user hm

/-! ### dmx.claim and dmx.watch (R382, R395) -/

theorem dmxClaim_none (ho : openOf s (operand s rs1).toNat = none) :
    exec (.dmxClaim rd rs1 rs2) s = .next (retireDmx s.focus.core rd 1 s) := by
  change execDmxClaim rd rs1 rs2 s = _
  simp only [execDmxClaim, dmx_outside_user hm, ho]

/-- A record that has reached this core is claimed once, and copied out. -/
theorem dmxClaim_own {o : Open} (ho : openOf s (operand s rs1).toNat = some o) (hc : o.core = some s.focus.core) :
    exec (.dmxClaim rd rs1 rs2) s = if o.claimed then .next (retireDmx s.focus.core rd 2 s)
      else if !coreRoom s (operand s rs2).toNat 128 then gapStop s.focus.core 2 (operand s rs2).toNat 128 s
      else .next (retireDmx s.focus.core rd 0 (if o.fr.isHold
        then modOpen o.fr.fid (fun o => { o with claimed := true }) (coreWrite s.focus.core (operand s rs2).toNat o.fr.bytes s)
        else dropOpen o.fr.fid (coreWrite s.focus.core (operand s rs2).toNat o.fr.bytes s))) := by
  change execDmxClaim rd rs1 rs2 s = _
  simp only [execDmxClaim, dmx_outside_user hm, ho, hc, ne_eq, not_true_eq_false, if_false]

/-- The watch slot that two words give (R382). -/
def watchOf (s : State) (n wa wb : Nat) : Watch :=
  { va := bits wa 3 53 * 8, prio := bits wb 37 3, aff := bits wb 35 2, once := bit wb 34, en := bit wb 33,
    tmpl := bits wb 12 12, asid := bits wb 0 12, queue := (getD {} n s.watch).queue }

theorem dmxWatch_eq : exec (.dmxWatch rd rs1 rs2) s =
    if (operand s rs1).toNat ≥ 256 then .next (retireDmx s.focus.core rd 1 s)
    else if !coreRange s (operand s rs2).toNat 16 then gapStop s.focus.core 1 (operand s rs2).toNat 16 s
    else .next (retireDmx s.focus.core rd 0 { s with
      watch := put (operand s rs1).toNat (watchOf s (operand s rs1).toNat
        (leNat (coreRead s s.focus.core (operand s rs2).toNat 8))
        (leNat (coreRead s s.focus.core ((operand s rs2).toNat + 8) 8))) s.watch }) := by
  change execDmxWatch rd rs1 rs2 s = _
  exact dmx_outside_user hm

end

end Sys2Proof.Proofs.Xdmx
end

section
/-! PROOFS. The exceptions of the Xdmx instructions (R411, R417, R418). -/

namespace Sys2Proof.Proofs.CoreExceptions

open Sys2Proof Sys2Proof.Machine Sys2Proof.Laws Sys2Proof.Proofs.Xdmx

variable {s : State} {rd rs1 rs2 : BitVec 5}

/-- Each Xdmx instruction is illegal in user mode. -/
theorem dmx_illegal (hm : (s.core s.focus.core).mode = 0) :
    ∀ i ∈ [Instr.dmxCmd rd rs1 rs2, .dmxFence rd rs1 rs2, .dmxTake rd rs1 rs2, .dmxGive rd rs1 rs2, .dmxResume rd rs1 rs2,
      .dmxFrz rd rs1 rs2, .dmxClaim rd rs1 rs2, .dmxWatch rd rs1 rs2], exec i s = .next (s.illegal s.focus.core).act := by
  simp only [List.forall_mem_cons]
  have illegal {i : Instr} {body : Nat → W64 → W64 → State → Result} (hx : exec i s = dmx rs1 rs2 body s) :
      exec i s = .next (s.illegal s.focus.core).act := hx.trans (dmx_in_user hm)
  exact ⟨illegal (rfl : _ = execDmxCmd rd rs1 rs2 s), illegal (rfl : _ = execDmxFence rd rs1 rs2 s),
    illegal (rfl : _ = execDmxTake rd rs1 rs2 s), illegal (rfl : _ = execDmxGive rd rs1 rs2 s),
    illegal (rfl : _ = execDmxResume rd rs1 rs2 s), illegal (rfl : _ = execDmxFrz rd rs1 rs2 s),
    illegal (rfl : _ = execDmxClaim rd rs1 rs2 s), illegal (rfl : _ = execDmxWatch rd rs1 rs2 s), List.forall_mem_nil _⟩

/-- An exception that is not delegated is taken in machine mode, from user mode with MPP 0 (log 5). -/
theorem takeTrap_of_user {x : Core} {cause : Nat} {v : W64} (hm : x.mode = 0) (hd : bit (x.csr 0x302) cause = false) :
    x.takeTrap cause v = { x with
      mode := 3
      pc := BitVec.ofNat 64 (x.csr 0x305 / 4 * 4)
      csrs := put 0x343 (BitVec.ofNat 64 v.toNat) (put 0x342 (BitVec.ofNat 64 cause) (put 0x341 (BitVec.ofNat 64 x.pc.toNat)
        (put 0x300 (BitVec.ofNat 64 (setBits (setBits (setBits (x.csr 0x300) 11 2 0) 7 1 (bits (x.csr 0x300) 3 1)) 3 1 0)) x.csrs))) } := by
  simp only [Core.takeTrap, hd, hm, Bool.and_false, Bool.false_eq_true, if_false]
  rfl

/-- A core's control space is there for it, to read and to write. -/
theorem control_backed {g : Nat} (hg : pkind s g = .control) : coreRam s g = true := by
  rw [coreRam, hg]
  exact Bool.or_true _

/-- Settles O22: in user mode each instruction takes the exception; elsewhere a block with a gap at an end takes an access fault. -/
theorem coreExceptions : Obligations.CoreExceptions := by
  refine ⟨?user, ?gap⟩
  case user =>
    intro s rd rs1 rs2 c x st st' hm hd i hi
    rw [dmx_illegal hm i hi]
    exact congrArg (fun y => Host.Outcome.next (State.act { s with free := s.free + 1, cores := put c y s.cores }))
      (takeTrap_of_user hm hd)
  case gap =>
    intro s rd rs1 rs2 c x a b stops
    refine ⟨fun g hg => ⟨control_backed hg, control_backed hg⟩, fun hm => ⟨fun hroom hnw hgap => ?cmd, fun t ht hgap => ?take,
      dmxGive_gap hm, fun o ho hc hclaim hgap => ?claim, fun ha hgap => ?watch⟩⟩
    case cmd =>
      refine (dmxCmd_eq hm).trans ((if_neg (Nat.not_le.2 hroom)).trans (if_pos ?_))
      rw [Bool.and_eq_true, decide_eq_true_eq, Bool.not_eq_true']
      exact ⟨hnw, hgap⟩
    case take => exact (dmxTake_some hm ht).trans (ite_not_of_false hgap)
    case claim =>
      exact (dmxClaim_own hm ho hc).trans ((if_neg (ne_true_of_eq_false hclaim)).trans (ite_not_of_false hgap))
    case watch => exact (dmxWatch_eq hm).trans ((if_neg (Nat.not_le.2 ha)).trans (ite_not_of_false hgap))

end Sys2Proof.Proofs.CoreExceptions
end

section
/-! PROOFS. dmx.cmd and dmx.fence at the command port (R420, R422). -/

namespace Sys2Proof.Proofs.PortCommands

open Sys2Proof Sys2Proof.Machine Sys2Proof.Proofs.Xdmx

variable {c : Nat} {q : Cmd} {s : State}

/-- The port with a new command outstanding. -/
def ported (c : Nat) (q : Cmd) (s : State) : State :=
  s.modCore c fun y => { y with nextCmd := nextCmdId q.id, pending := y.pending ++ [q] }

theorem issueCmd_bad : issueCmd c q true s = finishCmd c q.id 2 0 (ported c q s) := rfl

theorem issueCmd_dispatcher (hlo : 0x40 ≤ q.op) (hhi : q.op ≤ 0x45) : issueCmd c q false s = ported c q s :=
  if_pos ⟨hlo, hhi⟩

section Message

variable (hop : q.op < 0x40 ∨ 0x45 < q.op)

include hop

theorem issueCmd_refused (hmsg : cmdMsg (ported c q s) c q = none) :
    issueCmd c q false s = finishCmd c q.id 2 0 (ported c q s) := by
  have hother : ¬(0x40 ≤ q.op ∧ q.op ≤ 0x45) := by omega
  unfold ported at hmsg ⊢
  simp only [issueCmd, Bool.false_eq_true, if_false, if_neg hother, hmsg]

/-- Any other command is a message of the next number to its unit. -/
theorem issueCmd_sends {d : Dest} {m : Msg} (hmsg : cmdMsg (ported c q s) c q = some (d, m)) :
    issueCmd c q false s = ({ ((sentOn c q.id 0 (ported c q s)).numbered m).2 with nextId := s.nextId + 1 } : State).deliver d
      ((sentOn c q.id 0 (ported c q s)).numbered m).1 := by
  have hother : ¬(0x40 ≤ q.op ∧ q.op ≤ 0x45) := by omega
  unfold ported at hmsg ⊢
  simp only [issueCmd, Bool.false_eq_true, if_false, if_neg hother, hmsg]
  rfl

end Message

/-- Settles O23: the port is full or takes the command, which is refused, waits for its step, or goes on its way; a fence waits or
returns. -/
theorem portCommands : Obligations.PortCommands := by
  intro s rd rs1 rs2 c x hdr a nw q bad taken named hm
  refine ⟨fun hfull => ?full, fun hroom hrange => ⟨?issue, fun hbad => ?bad, fun hgood => ?dispatcher,
    fun hgood hop => ⟨?refused, ?sends⟩⟩,
    fun hall => ?returns, fun hany => ?waits⟩
  case full => exact (dmxCmd_eq hm).trans (if_pos hfull)
  case issue =>
    refine (dmxCmd_eq hm).trans ((if_neg (Nat.not_le.2 hroom)).trans (if_neg ?_))
    rw [Bool.and_eq_true, decide_eq_true_eq, Bool.not_eq_true', not_and, Bool.not_eq_false]
    exact hrange
  case bad =>
    rw [hbad]
    rfl
  case dispatcher =>
    rw [hgood]
    exact issueCmd_dispatcher
  case refused =>
    rw [hgood]
    exact issueCmd_refused hop
  case sends =>
    rw [hgood]
    exact fun d m => issueCmd_sends hop
  case returns =>
    refine (dmxFence_eq hm).trans (if_neg ?_)
    rw [Bool.not_eq_true, ← Bool.not_eq_true', List.not_any_eq_all_not]
    exact hall
  case waits => exact (dmxFence_eq hm).trans (if_pos hany)

end Sys2Proof.Proofs.PortCommands
end

section
/-! PROOFS. dmx.take, dmx.give, dmx.resume, dmx.frz, dmx.claim and dmx.watch (R382, R395, R396, R398, R424, R425). -/

namespace Sys2Proof.Proofs.CoreServices

open Sys2Proof Sys2Proof.Machine Sys2Proof.Proofs.Xdmx

/-- What a reply sends, target by target: its payload, or an end of stream (R423). -/
theorem replyOuts_eq (img pay : List Byte) (m : Msg) : replyOuts img pay m = [m.t0, m.t1].map
    (if natAt img 0 1 = 0 then dataOut (Elem.ofCode (natAt img 2 1 % 16)) m.time pay else markerOut 5 m.time) := by
  unfold replyOuts
  split <;> rfl

/-- Causes 1 and 3 are those that a core may give (R398). -/
theorem not_badCause {b : W64} (hb : b = 1 ∨ b = 3) : ¬(b ≠ 1 && b ≠ 3) = true := by
  rw [Bool.and_eq_true, decide_eq_true_eq, decide_eq_true_eq]
  exact fun hne => hb.elim hne.1 hne.2

/-- Settles O24: each instruction ends as its operands and the tables say. -/
theorem coreServices : Obligations.CoreServices := by
  refine ⟨?tokens, ?records⟩
  case tokens =>
    intro s rd rs1 rs2 c x a b found img hm
    refine ⟨dmxTake_none hm, fun t ht hroom => (dmxTake_some hm ht).trans (ite_not_of_true hroom), dmxGive_bad hm, dmxGive_stale hm,
      fun v s' outs hrange hreply hsvc hkept hruns hpay houts hgive => ?give⟩
    case give =>
      subst houts
      exact dmxGive_delivers hm hrange hreply hsvc hkept hruns hpay ((replyOuts_eq ..).symm ▸ hgive)
  case records =>
    intro s rd rs1 rs2 c x a b done wa wb slot hm
    refine ⟨fun code => dmxResume_answered hm, dmxResume_undefined hm, fun d hr => dmxResume_sends hm hr, fun h1 h3 => ?badCause,
      fun hb hstale => ?staleId, fun hb hid hstale hacc hfrz => ?frz, dmxClaim_none hm, fun o ho hc hclaim => ?claimed,
      fun o ho hc hclaim hroom => ?claim, fun ha => ?noSlot, fun ha hrange => ?watch⟩
    case badCause =>
      refine (dmxFrz_eq hm).trans (if_pos ?_)
      rw [Bool.and_eq_true, decide_eq_true_eq, decide_eq_true_eq]
      exact ⟨h1, h3⟩
    case staleId =>
      refine (dmxFrz_eq hm).trans ((if_neg (not_badCause hb)).trans (if_pos ?_))
      rwa [Bool.or_eq_true, decide_eq_true_eq]
    case frz =>
      refine (dmxFrz_eq hm).trans ((if_neg (not_badCause hb)).trans ((if_neg ?_).trans (if_neg ?_)))
      · rw [Bool.or_eq_true, decide_eq_true_eq, not_or]
        exact ⟨Nat.not_le.2 hid, ne_true_of_eq_false hstale⟩
      · rw [Bool.or_eq_true, Bool.not_eq_true', not_or]
        exact ⟨ne_false_of_eq_true hacc, ne_true_of_eq_false hfrz⟩
    case claimed => exact (dmxClaim_own hm ho hc).trans (if_pos hclaim)
    case claim =>
      exact (dmxClaim_own hm ho hc).trans ((if_neg (ne_true_of_eq_false hclaim)).trans (ite_not_of_true hroom))
    case noSlot => exact (dmxWatch_eq hm).trans (if_pos ha)
    case watch => exact (dmxWatch_eq hm).trans ((if_neg (Nat.not_le.2 ha)).trans (ite_not_of_true hrange))

end Sys2Proof.Proofs.CoreServices
end

section
/-! PROOFS. The package snapshot's steps (R407): one lemma for each way in which a step can go. -/

namespace Sys2Proof.Proofs.SnapshotSteps

open Sys2Proof Sys2Proof.Machine

variable {s s' : State} {m : Msg} {rest : List Msg} {n : Snap} {ps : List Post} {page : Nat}

section Request

variable {r : Res} (hnone : s.snap = none) (hq : s.snapq = m :: rest) (hr : runRes s m.h = some r)

include hnone hq hr

theorem snapshotRequest_holds {w : Nat} (hbad : snapBad r m = some w) :
    exec .snapshotRequest s = .next (holdSnap r m w { s with snapq := rest }).act := by
  change execSnapshotRequest s = _
  simp only [execSnapshotRequest, hnone, hq, hr, hbad]

/-- A sound request begins: its pages are those of its ranges. -/
theorem snapshotRequest_begins (hgood : snapBad r m = none) : exec .snapshotRequest s = .next
    { s with
      acted := true
      snapq := rest
      snap := some
        { msg := m, cut := m.body.getD 2 0, prb := snapProbe m, scp := snapScope m, pages := snapPages m (snapRanges m) 0 0 } } := by
  change execSnapshotRequest s = _
  simp only [execSnapshotRequest, hnone, hq, hr, hgood]
  rfl

end Request

section Progress

variable (hn : s.snap = some n)

include hn

theorem snapshotMarked_pulses {k slot : Nat} (hm : n.marked = false) (hr : (runRes s n.msg.h).isSome = true)
    (hsrc : n.msg.src = .slot k slot)
    (hreply : reply n.msg [pulseOut n.msg.time n.msg.t0] { s with snap := some { n with marked := true } } = some (s', ps)) :
    exec .snapshotMarked s = .next (s'.post k ps).act := by
  have hrun : (runRes s n.msg.h).isNone = false := Option.isNone_eq_false_iff.2 hr
  change execSnapshotMarked s = _
  simp only [execSnapshotMarked, hn, hm, hrun, hreply, hsrc, Bool.or_self, Bool.false_eq_true, if_false]

section Cut

variable (hm : n.marked = true) (hp : n.passed = false)
  (hf : passes (frontier s (cutTracker s n) n.msg.h n.prb) n.cut.toNat = true)

include hm hp hf

/-- Once the frontier has passed the cut the copying begins. -/
theorem snapshotCut_copies {p : Nat} (hnext : nextPage s n.pages = some p) :
    exec .snapshotCut s = .next (startPage { n with passed := true } p s).act := by
  change execSnapshotCut s = _
  simp only [execSnapshotCut, hn, hm, hp, hf, hnext, Bool.not_true, Bool.or_self, Bool.false_eq_true, if_false]

theorem snapshotCut_no_page (hnext : nextPage s n.pages = none) :
    exec .snapshotCut s = .next { s with acted := true, snap := some { n with passed := true } } := by
  change execSnapshotCut s = _
  simp only [execSnapshotCut, hn, hm, hp, hf, hnext, Bool.not_true, Bool.or_self, Bool.false_eq_true, if_false]
  rfl

end Cut

section Copied

variable {g : SnapPage} {a : Nat} {w : Req} (hg : n.pages[page]? = some g) (hw : snapCopy s page 1 = some (a, w))
  (hcopying : g.copying = true) (hdone : w.elts.all (fun e => e.st == .done) = true)

/-- The pages of a snapshot once one is copied. -/
def copied (n : Snap) (page : Nat) (g : SnapPage) : Snap :=
  { n with pages := n.pages.set page { g with pending := false, copying := false } }

include hg hw hcopying hdone

theorem snapshotPageCopied_goes_on {p : Nat}
    (hnext : nextPage (releasePage g.src (dropSnapReqs s)) (copied n page g).pages = some p) :
    exec (.snapshotPageCopied page) s = .next (startPage (copied n page g) p (releasePage g.src (dropSnapReqs s))).act := by
  change execSnapshotPageCopied page s = _
  unfold copied at hnext ⊢
  simp only [execSnapshotPageCopied, hn, hg, hw, hcopying, hdone, hnext, Bool.not_true, Bool.or_self, Bool.false_eq_true, if_false]

/-- After the last page T1 has its pulse and the snapshot ends. -/
theorem snapshotPageCopied_ends
    (hnext : nextPage (releasePage g.src (dropSnapReqs s)) (copied n page g).pages = none) (hr : (runRes s n.msg.h).isSome = true)
    (hend : endSnap (copied n page g) [pulseOut n.msg.time n.msg.t1] false (releasePage g.src (dropSnapReqs s)) = some s') :
    exec (.snapshotPageCopied page) s = .next s'.act := by
  have hrun : (runRes s n.msg.h).isNone = false := Option.isNone_eq_false_iff.2 hr
  change execSnapshotPageCopied page s = _
  unfold copied at hnext hend
  simp only [execSnapshotPageCopied, hn, hg, hw, hcopying, hdone, hnext, hrun, hend, Bool.not_true, Bool.or_self, Bool.false_eq_true,
    if_false]

end Copied

end Progress

/-- Settles O34: a request is held or begins; its marks pulse T0; its cut starts the copying, and a copied page the next or the end. -/
theorem snapshotSteps : Obligations.SnapshotSteps := by
  intro s m rest n s' ps page
  exact ⟨fun r hnone hq hr => ⟨fun w => snapshotRequest_holds hnone hq hr, snapshotRequest_begins hnone hq hr⟩,
    fun k slot hn => snapshotMarked_pulses hn,
    fun hn hm hp hf => ⟨fun p => snapshotCut_copies hn hm hp hf, snapshotCut_no_page hn hm hp hf⟩,
    fun g a w hn hg hw hcopying hdone =>
      ⟨fun p => snapshotPageCopied_goes_on hn hg hw hcopying hdone, snapshotPageCopied_ends hn hg hw hcopying hdone⟩⟩

end Sys2Proof.Proofs.SnapshotSteps
end

section
/-! PROOFS. Fault records: entry, delivery, escalation and dispositions (R393 to R396, R426). -/

namespace Sys2Proof.Proofs.FaultRecords

open Sys2Proof Sys2Proof.Machine

variable {s s' : State} {fid : Nat} {o : Open}

/-! ### Entry (R393) -/

section Entry

variable {f : FRec} {rest : List FRec}

/-- The FID that the next record to enter takes. -/
def nextFree (s : State) : Nat := freeFid s.faults.table 1025 s.faults.nextFid

/-- The controller once the record `e` has entered its table. -/
def entered (e : FRec) (rest : List FRec) (s : State) : State := s.modFaults fun c => { c with
  incoming := rest
  table := c.table ++ [({ fr := e, since := s.cycle } : Open)]
  nextFid := (e.fid + 1) % 2 ^ 32
  migrating := if e.cls == .migrating then c.migrating + 1 else c.migrating }

variable (hin : s.faults.incoming = f :: rest) (hroom : s.faults.table.length < 1024)

include hin hroom

theorem faultRecordEntry_untiled (ht : recTile s { f with fid := nextFree s } = none) :
    exec .faultRecordEntry s = .next (entered { f with fid := nextFree s } rest s).act := by
  change execFaultRecordEntry s = _
  unfold nextFree at ht
  simp only [execFaultRecordEntry, hin, ge_iff_le, Nat.not_le.2 hroom, if_false, ht]
  rfl

/-- A record of a tile shows in its fault registers. -/
theorem faultRecordEntry_tiled {k : Nat} (ht : recTile s { f with fid := nextFree s } = some k) :
    exec .faultRecordEntry s = .next ((entered { f with fid := nextFree s } rest s).modAt k fun a => { a with
      faultst := BitVec.ofNat 64 (f.cls.code * 2 ^ 48 + f.slot * 2 ^ 40 + nextFree s), faultad := f.addr }).act := by
  change execFaultRecordEntry s = _
  unfold nextFree at ht
  simp only [execFaultRecordEntry, hin, ge_iff_le, Nat.not_le.2 hroom, if_false, ht]
  rfl

end Entry

/-! ### Delivery and escalation (R102, R395) -/

section Delivery

variable (ho : openOf s fid = some o)

include ho

/-- With no copy owed to the host's ring, a record that is not a migration's is delivered as soon as it is its receiver's first. -/
theorem faultDelivery_delivers (hcopies : s.faults.copies = []) (hcls : o.fr.cls ≠ .migrating) (hd : deliverOpen o s = some s') :
    exec (.faultDelivery fid) s = .next s'.act := by
  have hother : (o.fr.cls == .migrating) = false := beq_false_of_ne hcls
  change execFaultDelivery fid s = _
  simp only [execFaultDelivery, hcopies, execFaultDelivery.single, ho, hother, hd, Bool.false_and, Bool.false_eq_true, if_false]

/-- A migration's record is delivered once it has lasted longer than CLAIMTO. -/
theorem migratingDelivery_delivers (hcls : o.fr.cls = .migrating) (hcore : o.core = none) (hhost : o.host = false)
    (hripe : o.since + s.faults.claimto < s.cycle) (hd : deliverOpen o s = some s') :
    exec (.migratingDelivery fid) s = .next s'.act := by
  have hsame : (o.fr.cls != .migrating) = false := by rw [hcls]; rfl
  have hunripe : unripe s o = false := by
    rw [unripe, decide_eq_false (Nat.not_le.2 hripe), Bool.and_false]
  change execMigratingDelivery fid s = _
  simp only [execMigratingDelivery, ho, hsame, hcore, hhost, hunripe, hd, Option.isSome_none, Bool.or_self, Bool.false_eq_true, if_false]

theorem claimEscalation_escalates {c : Nat} (hcore : o.core = some c) (hesc : o.esc = false) (hhold : o.fr.isHold = true)
    (hlate : o.since + s.faults.claimto < s.cycle)
    (hnone : s.faults.disps.any (fun q => q.fid == fid && q.core == o.core) = false) :
    exec (.claimEscalation fid) s =
      .next (modOpen fid (fun o => { o with esc := true, fr := { o.fr with stat := o.fr.stat ||| 1 } }) s).act := by
  have hon : o.core.isNone = false := by rw [hcore]; rfl
  have htime : decide (s.cycle ≤ o.since + s.faults.claimto) = false := decide_eq_false (Nat.not_le.2 hlate)
  change execClaimEscalation fid s = _
  simp only [execClaimEscalation, ho, hon, hesc, hhold, htime, hnone, Bool.not_true, Bool.or_self, Bool.false_eq_true, if_false]

end Delivery

/-! ### Dispositions (R396, R426) -/

theorem disposition_settles (hs : firstSome (fun q => settle q s) (judgeable s.faults.disps) = some s') :
    exec .disposition s = .next s'.act := by
  change execDisposition s = _
  simp only [execDisposition, hs]

/-- What the host reads back of its RESUME, under a new number. -/
def shown (w : Nat) (s : State) : State :=
  { s with nextId := s.nextId + 1, host := { s.host with resumest := BitVec.ofNat 64 w, resumed := s.nextId } }

section Resume

variable {v : BitVec 64}

/-- Code 3 is refused at once. -/
theorem hostResumeWrite_undefined (hd : dispOf (bits v.toNat 32 2) = none) :
    exec (.hostResumeWrite v) s = .next (shown (bits v.toNat 0 32 + 3 * 2 ^ 32 + 2 ^ 63) s).act := by
  change execHostResumeWrite v s = _
  simp only [execHostResumeWrite, hd]
  rfl

theorem hostResumeWrite_joins {d : Disp} (hd : dispOf (bits v.toNat 32 2) = some d) :
    exec (.hostResumeWrite v) s = .next ((shown (bits v.toNat 0 32) s).modFaults fun c =>
      { c with disps := c.disps ++ [(⟨bits v.toNat 0 32, d, none, false, s.nextId⟩ : DispReq)] }).act := by
  change execHostResumeWrite v s = _
  simp only [execHostResumeWrite, hd]
  rfl

end Resume

/-- Settles O42: a record enters, is delivered or escalates; a disposition is settled; the host's joins them. -/
theorem faultRecords : Obligations.FaultRecords := by
  intro s f rest fid o v s' n e entered
  refine ⟨fun hin hroom => ⟨faultRecordEntry_untiled hin hroom, fun k => faultRecordEntry_tiled hin hroom⟩,
    fun hcopies ho => faultDelivery_delivers ho hcopies, migratingDelivery_delivers, fun c ho => claimEscalation_escalates ho,
    disposition_settles, ?resume⟩
  case resume =>
    intro fid shown
    cases hd : dispOf (bits v.toNat 32 2) with
    | none => exact hostResumeWrite_undefined hd
    | some d => exact hostResumeWrite_joins hd

end Sys2Proof.Proofs.FaultRecords
end

section
/-! PROOFS. The Dispatcher's requests: launches, JOINs, wait pairs and watched stores (R380 to R382, R390). -/

namespace Sys2Proof.Proofs.DispatcherRequests

open Sys2Proof Sys2Proof.Machine

variable {s s' : State} {h slot : Nat} {v : W64}

/-! ### Launches (R381) -/

section Launch

variable {q : LaunchReq} (hq : s.dsp.launchq.find? (fun q => awake s q.src) = some q)

/-- The Dispatcher without a launch request that it serves. -/
def unqueued (q : LaunchReq) (s : State) : State :=
  s.modDsp fun d => { d with launchq := removeFirst (fun x => x == q) d.launchq }

include hq

theorem taskCreate_refused {cls : FClass} {fflg : Nat} (hbad : launchBad (unqueued q s) q = some (cls, fflg)) :
    exec .taskCreate s = .next (holdReq (.launch q) q.src q.asid cls fflg (unqueued q s)).act := by
  change execTaskCreate s = _
  unfold unqueued at hbad ⊢
  simp only [execTaskCreate, hq, createFrom, hbad]

/-- A request that passes its checks has the lowest free record, and the record's id is its answer. -/
theorem taskCreate_creates {i : Nat} (hgood : launchBad (unqueued q s) q = none) (hfree : freeRecord (unqueued q s) = some i)
    (hanswer : answerSrc q.src (fun m => [m.t0, m.t1].map (dataOut .n64 m.time (leBytes 8 (i + (s.task i).gen * 2 ^ 13)))) false
      (noteMade q (i + (s.task i).gen * 2 ^ 13) (newRecord (unqueued q s) i (q.placed (unqueued q s)))) = some s') :
    exec .taskCreate s = .next s'.act := by
  have hcreate : createFrom q (unqueued q s) = some s' := by
    simp only [createFrom, hgood, hfree]
    exact hanswer
  change execTaskCreate s = _
  unfold unqueued at hcreate
  simp only [execTaskCreate, hq, hcreate]

end Launch

/-- Without a request the lowest watch slot with an entry is served (log 26). -/
theorem taskCreate_of_watch {x : Watch} (hq : s.dsp.launchq.find? (fun q => awake s q.src) = none) (hx : dueWatch s = some (slot, x))
    (hc : createWatch slot x s = some s') : exec .taskCreate s = .next s'.act := by
  change execTaskCreate s = _
  simp only [execTaskCreate, hq, hx, hc]

/-! ### JOIN (R390) -/

section Join

variable {j : JoinReq}

theorem joinApply_of_applyJoin (hj : s.dsp.joinq.find? (fun j => awake s j.src) = some j)
    (ha : applyJoin j (s.modDsp fun d => { d with joinq := removeFirst (fun x => x == j) d.joinq }) = some s') :
    exec .joinApply s = .next s'.act := by
  change execJoinApply s = _
  simp only [execJoinApply, hj, ha]

/-- A JOIN of an id whose record is gone or waits no longer is counted and answers 0xFFFFFFFF. -/
theorem applyJoin_stale (hs : staleId s j.id = true ∨ (s.task (idIndex j.id)).state ≠ .waiting) :
    applyJoin j s = answerSrc j.src (joinOuts 0xFFFFFFFF) false (s.modDsp Dsp.addStale) := by
  have hstale : (staleId s j.id || (s.task (idIndex j.id)).state != .waiting) = true := by
    rwa [Bool.or_eq_true, bne_iff_ne]
  simp only [applyJoin, hstale, Bool.true_or, if_true]

/-- A waiting record's counter is set, or lowered by no more than it holds. -/
theorem applyJoin_counts (hid : staleId s j.id = false) (hw : (s.task (idIndex j.id)).state = .waiting)
    (ha : (s.task (idIndex j.id)).asid = j.asid) (hn : j.set = true ∨ j.n ≤ (s.task (idIndex j.id)).join) :
    let n := if j.set then j.n else (s.task (idIndex j.id)).join - j.n
    applyJoin j s = answerSrc j.src (joinOuts n) false (s.modTask (idIndex j.id) fun t => { t with join := n }) := by
  have hfits : (!j.set && decide ((s.task (idIndex j.id)).join < j.n)) = false := by
    rw [Bool.and_eq_false_imp, Bool.not_eq_true']
    exact fun hset => decide_eq_false (Nat.not_lt.2 (hn.resolve_left (ne_true_of_eq_false hset)))
  have hlive : ((s.task (idIndex j.id)).state != .waiting) = false := by rw [hw]; rfl
  simp only [applyJoin, hid, hlive, ha, hfits, ne_eq, not_true_eq_false, decide_false, Bool.and_false, Bool.or_self, Bool.false_eq_true,
    if_false]

end Join

/-! ### Waits (R380) and watch slots (R382) -/

theorem waitReevaluate_ready (hw : (s.task h).state = .waiting) (hj : (s.task h).join = 0)
    (hp : (s.task h).waits.all (waitSat s) = true) :
    exec (.waitReevaluate h) s = .next (s.modTask h fun t => { t with state := .ready, ready := s.cycle }).act := by
  change execWaitReevaluate h s = _
  simp only [execWaitReevaluate, hw, hj, hp, beq_self_eq_true, Bool.and_self, if_true]

theorem watchWindowWrite_stores (hslot : slot < 256) : exec (.watchWindowWrite slot v) s = .next (watchStore slot v s).act :=
  if_pos hslot

theorem watchedStore_stores {rest : List (Nat × W64)} (hq : s.watchq = (slot, v) :: rest) :
    exec .watchedStore s = .next (watchStore slot v { s with watchq := rest }).act := by
  change execWatchedStore s = _
  simp only [execWatchedStore, hq]

/-- Settles O39: a launch is refused or makes its record, a JOIN is stale or counts, a record becomes ready, a store joins its queue. -/
theorem dispatcherRequests : Obligations.DispatcherRequests := by
  intro s h slot v s' t w idOut
  refine ⟨fun q hq => ⟨fun cls fflg => taskCreate_refused hq, fun i => taskCreate_creates hq⟩, fun x => taskCreate_of_watch,
    fun j hj => ?join, waitReevaluate_ready, watchWindowWrite_stores, fun rest => watchedStore_stores⟩
  case join =>
    intro s0 k n
    exact ⟨fun hs hanswer => joinApply_of_applyJoin hj ((applyJoin_stale hs).trans hanswer),
      fun hid hw ha hn hanswer => joinApply_of_applyJoin hj ((applyJoin_counts hid hw ha hn).trans hanswer)⟩

end Sys2Proof.Proofs.DispatcherRequests
end

section
/-! PROOFS. The Dispatcher's regions: selection, aging, loading, draining and retirement (R384, R385, R387, R388). -/

namespace Sys2Proof.Proofs.DispatcherRegions

open Sys2Proof Sys2Proof.Machine

variable {s : State} {h : Nat} {r : Res} {d : Desc}

/-! ### Selection (R384, R385) -/

section Select

variable {k : Nat} {x : Task} {dsp : Dsp} (hsel : selectRecord s = some (k, x, dsp)) (hd : taskDesc { s with dsp := dsp } k = some d)

include hsel hd

/-- The record that the credits select claims its region; bring-up is over (R93, R429). -/
theorem taskSelect_claims {die px py : Nat} (hp : place { s with dsp := dsp } k x d = some (die, px, py)) :
    exec .taskSelect s = .next (claim k die px py { s with dsp := dsp }).act := by
  change execTaskSelect s = _
  simp only [execTaskSelect, hsel, hd, hp]

/-- What a record is when no region has taken it once more; the sixteenth time it is pinned. -/
def waits (t : Task) : Task :=
  { t with skips := satAdd 255 t.skips 1, pinned := t.pinned || decide (satAdd 255 t.skips 1 ≥ 16), unplaced := true }

variable (hp : place { s with dsp := dsp } k x d = none)

include hp

theorem taskSelect_waits (hnone : bit dsp.ctl.toNat 0 = false ∨ victimFor { s with dsp := dsp } k x d = none) :
    exec .taskSelect s = .next (({ s with dsp := dsp } : State).modTask k waits).act := by
  change execTaskSelect s = _
  simp only [execTaskSelect, hsel, hd, hp]
  rcases hnone with hoff | hvictim
  · simp only [hoff, Bool.false_eq_true, if_false]
    rfl
  · simp only [hvictim, ite_self]
    rfl

/-- With pre-emption enabled the victim's freeze is asked for, and its region is kept for the record. -/
theorem taskSelect_preempts {v die px py : Nat} (hon : bit dsp.ctl.toNat 0 = true)
    (hv : victimFor { s with dsp := dsp } k x d = some (v, die, px, py)) :
    exec .taskSelect s = .next (({ s with dsp := { dsp with
      frzq := dsp.frzq ++ [(v, 1)]
      preempt := dsp.preempt ++ [(v, k, die, px, py)] } } : State).modTask k waits).act := by
  change execTaskSelect s = _
  simp only [execTaskSelect, hsel, hd, hp, hon, hv, if_true]
  rfl

end Select

theorem priorityAging_raises (hs : (s.task h).state = .ready ∨ (s.task h).state = .frozen) (hp : (s.task h).prio < 6)
    (ht : (s.task h).ready + 2 ^ 20 ≤ s.cycle) :
    exec (.priorityAging h) s = .next (s.modTask h fun t => { t with prio := t.prio + 1, ready := s.cycle }).act := by
  change execPriorityAging h s = _
  unfold execPriorityAging
  refine if_pos ?_
  simp only [Bool.and_eq_true, Bool.or_eq_true, beq_iff_eq, decide_eq_true_eq]
  exact ⟨⟨hs, hp⟩, ht⟩

/-! ### Loading (R387) -/

/-- A load can go on with block `b`. -/
structure LoadsNext (s : State) (h : Nat) (d : Desc) (b : Block) : Prop where
  desc : taskDesc s h = some d
  loading : (s.task h).state = .loading
  unfrozen : (s.task h).freezing = none
  room : loadRoom s h = true
  next : d.blocks[(s.task h).loaded]? = some b

section Load

variable {b : Block}

theorem LoadsNext.not_waiting (hl : LoadsNext s h d b) :
    ((s.task h).state != .loading || (s.task h).freezing.isSome || !loadRoom s h) = false := by
  rw [hl.loading, hl.unfrozen, hl.room]
  rfl

/-- A sound block enters the inactive bank of its tile, the last one where the whole residency is sound. -/
theorem blockLoad_loads (hl : LoadsNext s h d b) (hb : blockErr d (s.task h).loaded b = none)
    (hlast : (s.task h).loaded + 1 = d.blocks.length → residencyErr d = none) :
    exec (.blockLoad h) s = .next ((s.modAt (tileKey (s.task h).die ((s.task h).rx + b.qx) ((s.task h).ry + b.qy) b.t) fun a =>
      { a with inactive := b.bank, next := some h }).modTask h fun t => { t with loaded := t.loaded + 1 }).act := by
  have hsound : (if decide ((s.task h).loaded + 1 = d.blocks.length) then residencyErr d else none) = none := by
    simp only [decide_eq_true_eq]
    exact ite_eq_right_iff.2 hlast
  change execBlockLoad h s = _
  simp only [execBlockLoad, hl.desc, hl.not_waiting, hl.next, hb, hsound, Bool.false_eq_true, if_false]

theorem blockLoad_fails {err : LoadErr} (hl : LoadsNext s h d b) (hb : blockErr d (s.task h).loaded b = some err) :
    exec (.blockLoad h) s = .next (failLoad h d err s).act := by
  change execBlockLoad h s = _
  simp only [execBlockLoad, hl.desc, hl.not_waiting, hl.next, hb, Bool.false_eq_true, if_false]

end Load

/-! ### Draining and retirement (R388) -/

section Drain

variable (hr : get? h s.res = some r) (hf : (s.task h).freezing = none)

include hr hf

/-- A residency drains once its output probes are empty, or, without one, once its region is quiet. -/
theorem enterDraining_drains (hs : (s.task h).state = .active)
    (hdone : if r.desc.outputs = [] then regionQuiet s h r = true else ∀ p ∈ r.desc.outputs, frontier s 484 h p.num = none) :
    exec (.enterDraining h) s = .next ((s.modTask h fun t => { t with state := .draining }).modRes h fun r =>
      { r with since := s.cycle }).act := by
  have hover : (if r.desc.outputs.isEmpty then regionQuiet s h r
      else r.desc.outputs.all fun p => (frontier s 484 h p.num).isNone) = true := by
    simp only [List.isEmpty_iff]
    split_ifs at hdone ⊢ with hout
    · exact hdone
    · rw [List.all_eq_true]
      exact fun p hp => Option.isNone_iff_eq_none.2 (hdone p hp)
  change execEnterDraining h s = _
  simp only [execEnterDraining, hr, hs, hf, hover, beq_self_eq_true, Option.isNone_none, Bool.and_self, if_true]

theorem retire_retires (hs : (s.task h).state = .draining) (hquiet : regionQuiet s h r = true) :
    exec (.retire h) s = .next (retireRes h (vacate r s)).act := by
  change execRetire h s = _
  simp only [execRetire, hr, hs, hf, hquiet, beq_self_eq_true, Option.isNone_none, Bool.and_self, if_true]

/-- The drain limit is counted while draining, and from activation where there are no outputs. -/
theorem drainLimitExpiry_freezes
    (hs : (s.task h).state = .draining ∨ ((s.task h).state = .active ∧ r.desc.outputs = [])) (hquiet : regionQuiet s h r = false)
    (hlate : r.since + r.desc.drain ≤ s.cycle) (hfrz : s.dsp.frzq.contains (h, 2) = false) :
    exec (.drainLimitExpiry h) s = .next (s.modDsp fun d => { d with frzq := d.frzq ++ [(h, 2)] }).act := by
  have hcounts : ((s.task h).state == .draining || ((s.task h).state == .active && r.desc.outputs.isEmpty)) = true := by
    rwa [Bool.or_eq_true, Bool.and_eq_true, beq_iff_eq, beq_iff_eq, List.isEmpty_iff]
  change execDrainLimitExpiry h s = _
  simp only [execDrainLimitExpiry, hr, hcounts, hf, hfrz, hquiet, decide_eq_true hlate, Option.isNone_none, Bool.not_false, Bool.and_self,
    if_true]

end Drain

/-- Settles O40: a selected record is placed or waits; aging, loading, draining, retirement and the drain limit each have their lemma. -/
theorem dispatcherRegions : Obligations.DispatcherRegions := by
  intro s h r t
  refine ⟨fun k x dsp d die px py hsel hd => taskSelect_claims hsel hd, fun k x dsp d hsel hd hp => ?noRegion,
    priorityAging_raises, fun d b hd hs hf hroom hb => blockLoad_loads ⟨hd, hs, hf, hroom, hb⟩,
    fun d b err hd hs hf hroom hb => blockLoad_fails ⟨hd, hs, hf, hroom, hb⟩,
    fun hr hf => ⟨enterDraining_drains hr hf, retire_retires hr hf, drainLimitExpiry_freezes hr hf⟩⟩
  case noRegion => exact ⟨taskSelect_waits hsel hd hp, fun v die px py => taskSelect_preempts hsel hd hp⟩

end Sys2Proof.Proofs.DispatcherRegions
end

section
/-! PROOFS. Owner nodes: updates once, commitment in order, time-outs and marks (R346, R355, R360 to R366, R370, R371, R374). -/

namespace Sys2Proof.Proofs.OwnersApplyOnce

open Sys2Proof Sys2Proof.Machine

variable {s : State} {req i w home port res : Nat} {q : Req}

/-! ### OWNER_UPDATE (R360, R361, R366, R370) -/

section Update

variable {e : Elt}

/-- A word of an update stands at its owner, at its turn. -/
structure AtOwner (s : State) (req i w home : Nat) (q : Req) (e : Elt) : Prop where
  request : get? req s.reqs = some q
  element : q.elts[i]? = some e
  update : q.op.isUpdate = true
  word : w < 4
  turn : wordTurn s req q i e w = true
  owner : eltHome s q e = some home
  free : ownerTurn s q e home = true

/-- No snapshot keeps the word, its source has a window `win` at the owner, and it has the sequence number `seq` there, with which its
request `q1` stands in `s1` (R370). -/
structure Sequenced (s : State) (req i home : Nat) (q : Req) (e : Elt) (win : Window) (seq : Nat) (s1 : State) (q1 : Req) : Prop where
  unkept : e.space = .virt → snapHolds s q.h q.timed e.addr = false
  window : windowOf s home q.port = some win
  sequence : takeSeq s req i q e home = some (seq, s1)
  request : get? req s1.reqs = some q1

theorem Sequenced.not_paged {win : Window} {seq : Nat} {s1 : State} {q1 : Req} (hs : Sequenced s req i home q e win seq s1 q1) :
    (e.space == .virt && snapHolds s q.h q.timed e.addr) = false := by
  rw [Bool.and_eq_false_imp, beq_iff_eq]
  exact hs.unkept

/-- What an element of an update that was applied before answers: an AMOR the old value recorded then. -/
def recorded (q : Req) (old : List Byte) (x : Elt) : List Byte := match q.op with
  | .amor _ => old
  | _ => x.data

/-- The state once the owner has used its cycle and the word its place at the bank. -/
def served (req w home : Nat) (q : Req) (e : Elt) (s : State) : State := useOwner home (serveWord req q e w s)

variable (ha : AtOwner s req i w home q e)

include ha

theorem AtOwner.number : (4 * i + w) / 4 = i ∧ (4 * i + w) % 4 = w := by
  have hw := ha.word
  omega

theorem AtOwner.goes : (!q.op.isUpdate || !wordTurn s req q i e w) = false := by
  rw [ha.update, ha.turn]
  rfl

/-- An uncorrectable word holds the element (R366). -/
theorem ownerUpdate_bad : exec (.ownerUpdate req (4 * i + w) true) s =
    .next (served req w home q e (holdElt req i .uncorr 0 (homeHolder s q e) (some [e.wordOff w]) (ueAt q e true s))).act := by
  change execOwnerUpdate req (4 * i + w) true s = _
  simp only [execOwnerUpdate, ha.number, ha.request, ha.element, ha.goes, ha.owner, ha.free, Bool.not_true, Bool.false_eq_true, if_false,
    if_true]
  rfl

section Sequence

variable {win : Window} {seq : Nat} {s1 : State} {q1 : Req} (hs : Sequenced s req i home q e win seq s1 q1)

include hs

/-- A sequence that the window holds is answered with what was recorded, and not applied again. -/
theorem ownerUpdate_twice {old : List Byte} (ht : win.twice seq = some old) : exec (.ownerUpdate req (4 * i + w) false) s =
    .next (served req w home q e (s1.setReq req (q1.setElt i { q1.elts.getD i e with
      st := .done, data := recorded q old (q1.elts.getD i e) }))).act := by
  change execOwnerUpdate req (4 * i + w) false s = _
  simp only [execOwnerUpdate, ha.number, ha.request, ha.element, ha.goes, ha.owner, ha.free, hs.not_paged, hs.window, hs.sequence,
    hs.request, ht, Bool.not_true, Bool.false_eq_true, if_false]
  rfl

variable (ht : win.twice seq = none) (hfull : windowFull s q.port home win seq = false)

include ht hfull

/-- A deterministic update is accepted, to be applied in its order. -/
theorem ownerUpdate_accepts (hdet : detUpdate s q i = true) (hroom : detRoom s home q.h q.time = true) :
    exec (.ownerUpdate req (4 * i + w) false) s = .next (served req w home q e (noteApplied home q.port win seq req i
      (acceptDet s1 req i w home q1 (q1.elts.getD i e)))) := by
  change execOwnerUpdate req (4 * i + w) false s = _
  simp only [execOwnerUpdate, ha.number, ha.request, ha.element, ha.goes, ha.owner, ha.free, hs.not_paged, hs.window, hs.sequence,
    hs.request, ht, hfull, hdet, hroom, Bool.not_true, Bool.false_eq_true, if_false, if_true]
  rfl

theorem ownerUpdate_applies {s2 : State} (hdet : detUpdate s q i = false) (happly : applyWord s1 req i w = .ok s2) :
    exec (.ownerUpdate req (4 * i + w) false) s = .next (served req w home q e (noteApplied home q.port win seq req i s2)).act := by
  change execOwnerUpdate req (4 * i + w) false s = _
  simp only [execOwnerUpdate, ha.number, ha.request, ha.element, ha.goes, ha.owner, ha.free, hs.not_paged, hs.window, hs.sequence,
    hs.request, ht, hfull, hdet, happly, Bool.not_true, Bool.false_eq_true, if_false]
  rfl

end Sequence

end Update

/-! ### TC_COMMIT and DET_COMMIT (R346, R355, R374) -/

theorem tcCommit_commits {mt : TileId} {h t : Nat} (hr : mtRes s mt.key = some h)
    (ht : minNat? (eligibleTimes s mt.key h (tcFrontier s mt.key h)) = some t) :
    exec (.tcCommit mt) s = .next (commitStores mt.key h t (commitLoads mt.key h t s)).act := by
  change execTcCommit mt s = _
  simp only [execTcCommit, hr, ht]

section Commit

variable {t : Nat} {c : CEnt} {cs : List CEnt} (hmin : minNat? ((detEntries s home res).map fun c => c.time.toNat) = some t)
  (hpass : passes (issueFrontier s home res) t = true) (hturn : (getD {} home s.homes).upAt ≠ s.cycle + 1)
  (horder : sortBy CEnt.before ((detEntries s home res).filter fun c => c.time.toNat == t) = c :: cs)
  (hruns : ∃ r, get? res s.res = some r ∧ r.running = true)

/-- The first update of the least passed time, applied. -/
def commits (home : Nat) (c : CEnt) (s : State) : State := (useOwner home (applyDet home c s.focus.bad s)).act

include hmin hpass hturn horder hruns

/-- At an MT the update goes to its bank at its turn there. -/
theorem detCommit_scratchpad {r : Res} {words : List (Nat × Nat)} (hb : detBytes s c = some (r, words)) :
    exec (.detCommit home res) s = .next (atBanks r (.det home) words s (commits home c)) := by
  obtain ⟨x, hx, hrun⟩ := hruns
  change execDetCommit home res s = _
  simp only [execDetCommit, hmin, hx, hrun, hpass, bne_iff_ne.2 hturn, horder, hb, Bool.and_self, if_true]
  rfl

theorem detCommit_elsewhere (hb : detBytes s c = none) : exec (.detCommit home res) s = .next (commits home c s) := by
  obtain ⟨x, hx, hrun⟩ := hruns
  change execDetCommit home res s = _
  simp only [execDetCommit, hmin, hx, hrun, hpass, bne_iff_ne.2 hturn, horder, hb, Bool.and_self, if_true]
  rfl

end Commit

/-! ### END_TO_END_TIMEOUT and marks (R370, R371) -/

section Timeout

variable (hq : get? req s.reqs = some q) (hlate : q.since + 65536 ≤ s.cycle) (hruns : timerRuns s req q = true)

/-- A request whose elements that await their answers hold with TIMEOUT. -/
def expired (s : State) (req : Nat) (q : Req) : Req :=
  { q with elts := q.elts.zipIdx.map fun x => if expires s req q x.2 x.1 then { x.1 with st := .held .timeout } else x.1 }

include hlate hruns

theorem not_silent : (decide (s.cycle < q.since + 65536) || !timerRuns s req q) = false := by
  rw [hruns, decide_eq_false (Nat.not_lt.2 hlate)]
  rfl

include hq

theorem endToEndTimeout_resends (htries : q.tries < 5) : exec (.endToEndTimeout req) s =
    .next (s.setReq req { q with tries := q.tries + 1, since := s.cycle, elts := q.elts.map q.resent }).act := by
  change execEndToEndTimeout req s = _
  simp only [execEndToEndTimeout, hq, not_silent hlate hruns, htries, Bool.false_eq_true, if_false, if_true]

variable (htries : 5 ≤ q.tries)

include htries

theorem endToEndTimeout_drops (hop : q.op = .prefetch) : exec (.endToEndTimeout req) s =
    .next ((upto q.elts.length).foldl (fun s i => dropPrefetch req i q.h s) s).act := by
  change execEndToEndTimeout req s = _
  simp only [execEndToEndTimeout, hq, not_silent hlate hruns, Nat.not_lt.2 htries, hop, beq_self_eq_true, Bool.false_eq_true, if_false,
    if_true]

/-- After the fifth attempt what awaits its answer holds, with the first such element's address. -/
theorem endToEndTimeout_holds {x : Elt × Nat} (hop : q.op ≠ .prefetch)
    (hx : q.elts.zipIdx.find? (fun x => expires s req q x.2 x.1) = some x) : exec (.endToEndTimeout req) s =
      .next ((queueBehind req (expired s req q) (s.setReq req (expired s req q))).raise { issuerRec s q .timeout with
        addr := BitVec.ofNat 64 x.1.addr
        gen := recGen s q [q.tries]
        desc := reqDesc s q
        link := .request req }).act := by
  change execEndToEndTimeout req s = _
  simp only [execEndToEndTimeout, hq, not_silent hlate hruns, Nat.not_lt.2 htries, beq_false_of_ne hop, hx, Bool.false_eq_true, if_false]
  rfl

end Timeout

theorem markOnlyPacket_frees {win : Window} (hw : get? port (getD {} home s.homes).windows = some win)
    (hnone : unanswered s port home = []) :
    exec (.markOnlyPacket home port) s = .next (s.modHome home fun x => { x with windows := del port x.windows }).act := by
  change execMarkOnlyPacket home port s = _
  simp only [execMarkOnlyPacket, hw, hnone, List.isEmpty_nil, if_true]

/-- Settles O38: an update at its turn is answered, accepted, applied or held; commitment goes by time; a request is sent again, dropped
or held; a mark frees a window. -/
theorem ownersApplyOnce : Obligations.OwnersApplyOnce := by
  intro s req i w home port res mt q hq
  refine ⟨fun e win seq s1 q1 he hup hw hturn hhome hfree hsnap hwin hseq hq1 => ?update, fun h t => tcCommit_commits,
    fun t c cs hmin hpass hturn horder hruns => ?det,
    fun hlate hruns => ⟨endToEndTimeout_resends hq hlate hruns, endToEndTimeout_drops hq hlate hruns,
      fun x htries => endToEndTimeout_holds hq hlate hruns htries⟩,
    fun win => markOnlyPacket_frees⟩
  case update =>
    have ha : AtOwner s req i w home q e := ⟨hq, he, hup, hw, hturn, hhome, hfree⟩
    have hs : Sequenced s req i home q e win seq s1 q1 := ⟨hsnap, hwin, hseq, hq1⟩
    exact ⟨fun old => ownerUpdate_twice ha hs,
      fun ht hfull => ⟨ownerUpdate_accepts ha hs ht hfull, fun s2 => ownerUpdate_applies ha hs ht hfull⟩, ownerUpdate_bad ha⟩
  case det =>
    intro go
    cases hb : detBytes s c with
    | none => exact detCommit_elsewhere hmin hpass hturn horder hruns hb
    | some b => exact detCommit_scratchpad hmin hpass hturn horder hruns hb

end Sys2Proof.Proofs.OwnersApplyOnce
end

section
/-! PROOFS. Quarantined quads (R437): the dies' quarantine masks only grow, in every step but reset, and no placement takes a quad that
is quarantined or under test. -/

namespace Sys2Proof.Proofs.QuarantineHolds

open Sys2Proof Sys2Proof.Machine Sys2Proof.Safety Sys2Proof.Laws Sys2Proof.Proofs.Vital
open Sys2Proof.Proofs.InvariantKept (Wrote wrote_execHomeAccess wroteWord_applyWord wroteWord_execOwnerUpdate putCore coreWrite_cons)

/-! ### From one state to another no quad leaves quarantine -/

/-- Every quad that is quarantined in `s` is in `t`. -/
structure Kept (s t : State) : Prop where
  quad : ∀ d n, bit (s.die d).qmask n = true → bit (t.die d).qmask n = true

section Kept

variable {s t u : State}

theorem Kept.refl (s : State) : Kept s s := ⟨fun _ _ => id⟩

theorem Kept.trans (h : Kept s t) (h' : Kept t u) : Kept s u :=
  ⟨fun d n hb => h'.quad d n (h.quad d n hb)⟩

theorem Kept.of_dies (h : t.dies = s.dies) : Kept s t := ⟨fun d n hb => by rwa [State.die, h]⟩

theorem Kept.of_vital (h : vital t = vital s) : Kept s t := by
  have hdies : dieView t.dies = dieView s.dies := congrArg (fun v => v.2.2.2.2.1) h
  refine ⟨fun d n hb => ?_⟩
  have hmask : (t.die d).qmask = (s.die d).qmask := congrArg Prod.snd (congrFun hdies d)
  rwa [hmask]

theorem Kept.vital (h : Kept s t) (h' : Vital.vital u = Vital.vital t) : Kept s u := h.trans (.of_vital h')

theorem Kept.ite {p : Prop} [Decidable p] (ht : Kept s t) (hu : Kept s u) : Kept s (if p then t else u) := by
  split
  · exact ht
  · exact hu

theorem kept_withMem (s : State) (m : Memory) : Kept s { s with mem := m } := .of_dies rfl

theorem kept_withHost (s : State) (h : HostSt) : Kept s { s with host := h } := .of_dies rfl

theorem Kept.of_wrote {a : Nat} {p : List Byte → Prop} (h : Wrote a p s t) : Kept s t := by
  rcases h with h | ⟨bs, -, h⟩
  · exact .of_vital h
  · exact (kept_withMem s _).vital h

theorem kept_modDie {d : Nat} {f : Die → Die} (hf : ∀ x n, bit x.qmask n = true → bit (f x).qmask n = true) :
    Kept s (s.modDie d f) := by
  refine ⟨fun e n hb => ?_⟩
  change bit (getD {} e (upd {} d f s.dies)).qmask n = true
  by_cases he : e = d
  · subst he
    rw [getD_upd_same]
    exact hf _ n hb
  · rwa [getD_upd_ne _ he]

/-- An answer leaves what its state leaves. -/
theorem kept_next (hu : (.next t : Result) = .next u) (h : Kept s t) : Kept s u := by
  cases hu
  exact h

theorem kept_ifNext {p : Bool} (hu : (if p then .next t.act else .next s : Result) = .next u) (h : Kept s t) : Kept s u := by
  split at hu
  · exact kept_next hu (h.vital (vital_act _))
  · exact kept_next hu (.refl s)

theorem kept_toFaultRing {f : FRec} (ht : toFaultRing f s = some t) : Kept s t := by
  unfold toFaultRing at ht
  split at ht
  · cases ht
  · dsimp only at ht
    split at ht
    · cases ht
    · rw [← Option.some.inj ht]
      exact .of_dies rfl

theorem kept_pushRing (base set : Nat) (es : List (List Byte)) (s : State) : Kept s (pushRing base set es s) := by
  induction es generalizing s with
  | nil => exact .of_vital rfl
  | cons e es ih =>
    unfold pushRing
    dsimp only
    split
    · exact .of_dies rfl
    · exact (kept_withHost s _).trans (ih _)

theorem kept_ringRetry (base set : Nat) (s : State) : Kept s (ringRetry base set s) := by
  unfold ringRetry
  split
  · exact .refl s
  · exact (kept_pushRing ..).vital (vital_act _)

end Kept

/-! ### Quarantine masks (R437) -/

theorem bit_eq_testBit (v i : Nat) : bit v i = v.testBit i := by
  rw [Nat.testBit_eq_decide_div_mod_eq, bit]
  exact beq_eq_decide ..

theorem bit_or_of_left {a b n : Nat} (h : bit a n = true) : bit (a ||| b) n = true := by
  rw [bit_eq_testBit] at h ⊢
  rw [Nat.testBit_or, h, Bool.true_or]

theorem bit_setQmask {word n : Nat} {v : W64} (x : Die) (h : bit x.qmask n = true) : bit (setQmask word v x).qmask n = true := by
  unfold setQmask
  split
  · exact bit_or_of_left h
  · exact bit_or_of_left h

theorem qmask_setSlewWord (x : Die) (n : Nat) (v : W64) : (setSlewWord x n v).qmask = x.qmask := by
  unfold setSlewWord
  repeat' split
  all_goals rfl

/-! ### Control space and registers -/

section Registers

variable {s t : State}

theorem kept_tileWrite (k n : Nat) (v : W64) (s : State) : Kept s (tileWrite k n v s) := by
  unfold tileWrite
  split
  · split
    · exact .of_vital (vital_modRes ..)
    · exact .refl s
  · split
    · split
      · exact .of_vital (vital_modRes ..)
      · exact .refl s
    · refine .ite (.of_dies rfl) (.ite (.of_dies rfl) (.ite (.of_dies rfl) (.ite (kept_modDie fun x m hb => ?_) (.of_dies rfl))))
      rwa [qmask_setSlewWord]

theorem kept_ctlWrite (w : CtlWord) (v : W64) (s : State) : Kept s (ctlWrite w v s) := by
  cases w with
  | tile k n => exact .ite (kept_tileWrite ..) (.refl s)
  | errcnt d | throt d => exact .ite (kept_modDie fun _ _ => id) (.refl s)
  | qmask d n => exact .ite (kept_modDie fun x _ => bit_setQmask x) (.refl s)
  | bccap d | watch n b | clsmap n | root a => exact .ite (.of_dies rfl) (.refl s)
  | claim n => exact .of_vital (vital_setClaim ..)
  | dspctl | dspst | claimto => exact .of_dies rfl
  | fault | other => exact .refl s

theorem kept_controlStore (a : Nat) (b : Byte) (s : State) : Kept s (controlStore a b s) := by
  unfold controlStore
  split
  · exact .of_dies rfl
  · split
    · exact .refl s
    · exact kept_ctlWrite ..

theorem kept_onDie {d : Nat} {f : Die → Die} (ht : onDie d f s = .next t)
    (hf : ∀ x n, bit x.qmask n = true → bit (f x).qmask n = true) : Kept s t := by
  unfold onDie at ht
  split at ht
  · exact kept_next ht ((kept_modDie hf).vital (vital_act _))
  · exact kept_next ht (.refl s)

theorem kept_execBccapWrite {die : Nat} {v : W64} (ht : execBccapWrite die v s = .next t) : Kept s t := by
  unfold execBccapWrite at ht
  split at ht
  · exact kept_next ht (.of_dies rfl)
  · exact kept_next ht (.refl s)

theorem kept_execThrotWrite {die : Nat} {v : W64} (ht : execThrotWrite die v s = .next t) : Kept s t := kept_onDie ht fun _ _ => id

theorem kept_execOvercurrentAlert {die : Nat} (ht : execOvercurrentAlert die s = .next t) : Kept s t := kept_onDie ht fun _ _ => id

theorem kept_execQmaskSet {die word : Nat} {v : W64} (ht : execQmaskSet die word v s = .next t) : Kept s t := by
  unfold execQmaskSet at ht
  split at ht
  · exact kept_onDie ht fun x _ => bit_setQmask x
  · exact kept_next ht (.refl s)

theorem kept_execIdleSelfTest {die quad : Nat} {a : SelfTest} (ht : execIdleSelfTest die quad a s = .next t) : Kept s t := by
  simp only [execIdleSelfTest] at ht
  split at ht
  · exact kept_next ht (.refl s)
  · cases a with
    | claim =>
      simp only at ht
      split at ht
      · exact kept_next ht (.refl s)
      · exact kept_next ht (.of_dies rfl)
    | giveBack =>
      simp only at ht
      split at ht
      · exact kept_next ht (.of_dies rfl)
      · exact kept_next ht (.refl s)
    | quarantine =>
      simp only at ht
      split at ht
      · refine kept_next ht (((Kept.of_dies ?_).trans (kept_modDie fun x _ => bit_or_of_left)).vital (vital_act _))
        rfl
      · exact kept_next ht (.refl s)

theorem kept_execRegisterWrite {reg : RegName} {v : W64} (ht : execRegisterWrite reg v s = .next t) : Kept s t := by
  cases reg with
  | interleave | asidRoot | claim | clsmap | mbCore | port | hostWindow => exact kept_ifNext ht (.of_dies rfl)
  | dspctl | claimto | podid => exact kept_next ht (.of_dies rfl)
  | mbbase i => exact kept_ifNext ht (.of_vital (vital_setMbbase ..))
  | win2base => exact kept_next ht (.of_vital ((vital_act _).trans (vital_setWin2base ..)))
  | mbpoll => exact .of_vital (vital_setMbpoll ht)
  | dbgctl | detseed | driftLimit | driftCost => exact .of_vital (vital_onTile ht)
  | user tile k =>
    simp only [execRegisterWrite] at ht
    split at ht
    · exact .of_vital (vital_onTile ht)
    · exact kept_next ht (.refl s)
  | bar0 => exact .of_vital (vital_bar0Access ht)

end Registers

/-! ### Faults, mailboxes and boot -/

section Mailboxes

variable {s t : State}

theorem kept_deliverOpen {o : Open} (ht : deliverOpen o s = some t) : Kept s t := by
  simp only [deliverOpen] at ht
  split at ht
  · cases ht
  · split at ht
    · cases ht
    · split at ht
      · cases ht
        exact .of_dies rfl
      · obtain ⟨u, hu, rfl⟩ := Option.map_eq_some_iff.1 ht
        exact (kept_toFaultRing hu).vital (vital_ite (vital_modOpen ..) (vital_dropOpen ..))

theorem kept_single {fid : Nat} (ht : execFaultDelivery.single fid s = .next t) : Kept s t := by
  unfold execFaultDelivery.single at ht
  split at ht
  · exact kept_next ht (.refl s)
  · split at ht
    · exact kept_next ht (.refl s)
    · split at ht
      · exact kept_next ht ((kept_deliverOpen ‹_›).vital (vital_act _))
      · exact kept_next ht (.refl s)

theorem kept_execFaultDelivery {fid : Nat} (ht : execFaultDelivery fid s = .next t) : Kept s t := by
  unfold execFaultDelivery at ht
  split at ht
  · split at ht
    · split at ht
      · exact kept_next ht (((Kept.of_vital (vital_modFaults ..)).trans (kept_toFaultRing ‹_›)).vital (vital_act _))
      · exact kept_next ht (.refl s)
    · exact kept_single ht
  · exact kept_single ht

theorem kept_execMigratingDelivery {fid : Nat} (ht : execMigratingDelivery fid s = .next t) : Kept s t := by
  unfold execMigratingDelivery at ht
  split at ht
  · exact kept_next ht (.refl s)
  · split at ht
    · exact kept_next ht (.refl s)
    · split at ht
      · exact kept_next ht ((kept_deliverOpen ‹_›).vital (vital_act _))
      · exact kept_next ht (.refl s)

theorem kept_execMailboxPoll {set : Nat} (ht : execMailboxPoll set s = .next t) : Kept s t := by
  unfold execMailboxPoll at ht
  split at ht
  · exact kept_next ht (kept_ringRetry ..)
  · rename_i base core _ _
    have hretry := kept_ringRetry base set s
    generalize ringRetry base set s = s1 at ht hretry
    dsimp only at ht
    split at ht
    · exact kept_next ht hretry
    · refine kept_next ht (hretry.vital ((vital_act _).trans ((vital_modHost _ fun h => ?_).trans (vital_deliverEntries ..))))
      rfl
  · exact kept_next ht (.refl s)

theorem kept_execMailboxStart {set core : Nat} (ht : execMailboxStart set core s = .next t) : Kept s t := by
  unfold execMailboxStart at ht
  split at ht
  · exact kept_next ht (.refl s)
  · split at ht
    · exact kept_next ht (.refl s)
    · exact kept_next ht (.of_dies rfl)

theorem kept_execAttestationRequest {set : Nat} {nonce : List (BitVec 8)} (ht : execAttestationRequest set nonce s = .next t) :
    Kept s t := by
  unfold execAttestationRequest at ht
  split at ht
  · exact kept_next ht (.refl s)
  · split at ht
    · exact kept_next ht (.refl s)
    · exact kept_next ht (((kept_withHost s _).trans (kept_pushRing ..)).vital (vital_act _))

theorem kept_execFirmwareVerify {image : BootImage} (ht : execFirmwareVerify image s = .next t) : Kept s t := by
  have hboot (b : Boot) : Kept s { s with boot := b } := .of_dies rfl
  unfold execFirmwareVerify at ht
  split at ht
  · exact kept_next ht (.refl s)
  · split at ht
    · refine kept_next ht (((hboot _).vital (vital_foldl (fun s c => ?_) _ _)).vital (vital_act _))
      exact vital_modCore s c (fun _ => rfl) fun _ => rfl
    · exact kept_next ht ((hboot _).vital (vital_act _))

theorem kept_execBar2Access {offset size : Nat} {data : Option (List (BitVec 8))} (ht : execBar2Access offset size data s = .next t) :
    Kept s t := by
  have hreply {u : State} (ok : Bool) (bs : List Byte) (hu : Kept s u) :
      Kept s (u.modHost fun h => { h with resp := h.resp ++ [⟨ok, bs⟩] }).act :=
    hu.vital ((vital_act _).trans (vital_modHost u fun _ => rfl))
  simp only [execBar2Access] at ht
  split at ht
  · exact kept_next ht (.refl s)
  · split at ht
    · exact kept_next ht (hreply false [] (.refl s))
    · split at ht
      · exact kept_next ht (hreply true _ (.refl s))
      · rename_i bs
        exact kept_next ht (hreply true [] ((kept_withMem s _).vital (vital_dropResv ..)))

end Mailboxes

/-! ### Service cores (R417 to R425) -/

section Cores

variable {rd rs1 rs2 : BitVec 5} {s t : State}

/-- What a step changes in a service core leaves the dies. -/
theorem kept_modCore (s : State) (c : Nat) (f : Core → Core) : Kept s (s.modCore c f) := .of_dies rfl

theorem kept_gapStop {c k a n : Nat} (ht : gapStop c k a n s = .next t) : Kept s t := kept_next ht (.of_dies rfl)

theorem kept_dmx {body : Nat → W64 → W64 → State → Result} (ht : dmx rs1 rs2 body s = .next t)
    (hbody : ∀ c a b, body c a b s = .next t → Kept s t) : Kept s t := by
  simp only [dmx] at ht
  split at ht
  · exact kept_next ht (.of_dies rfl)
  · exact hbody _ _ _ ht

theorem kept_retireDmx (c : Nat) (v : W64) (s : State) : Kept s (retireDmx c rd v s) := .of_vital (vital_retireDmx ..)

theorem kept_putCore (c a : Nat) (b : Byte) (s : State) : Kept s (putCore c a b s) := by
  unfold putCore
  exact .ite (kept_modCore ..) (.ite (kept_controlStore ..) (kept_withMem ..))

theorem kept_coreWrite (c a : Nat) (bs : List Byte) (s : State) : Kept s (coreWrite c a bs s) := by
  induction bs generalizing a s with
  | nil => exact .refl s
  | cons b bs ih => exact (kept_putCore c a b s).trans (ih _ _)

theorem kept_advanceRing (k : Take) (s : State) : Kept s (advanceRing k s) := .ite (.refl s) (kept_withHost ..)

theorem kept_execDmxCmd (ht : execDmxCmd rd rs1 rs2 s = .next t) : Kept s t := by
  refine kept_dmx ht fun c a b hb => ?_
  dsimp only at hb
  split at hb
  · exact kept_next hb (.refl s)
  · split at hb
    · exact kept_gapStop hb
    · exact kept_next hb (.of_vital ((vital_retireDmx ..).trans (vital_issueCmd ..)))

theorem kept_execDmxFence (ht : execDmxFence rd rs1 rs2 s = .next t) : Kept s t := by
  refine kept_dmx ht fun c a b hb => ?_
  dsimp only at hb
  split at hb
  · exact kept_next hb (.refl s)
  · exact kept_next hb (kept_retireDmx ..)

theorem kept_execDmxTake (ht : execDmxTake rd rs1 rs2 s = .next t) : Kept s t := by
  refine kept_dmx ht fun c a b hb => ?_
  dsimp only at hb
  split at hb
  · split at hb
    · exact kept_next hb (kept_retireDmx ..)
    · exact kept_next hb (.refl s)
  · split at hb
    · exact kept_gapStop hb
    · exact kept_next hb ((kept_modCore ..).trans ((kept_coreWrite ..).trans ((kept_advanceRing ..).trans (kept_retireDmx ..))))

theorem kept_execDmxGive (ht : execDmxGive rd rs1 rs2 s = .next t) : Kept s t := by
  refine kept_dmx ht fun c a b hb => ?_
  dsimp only at hb
  split at hb
  · exact kept_gapStop hb
  · split at hb
    · exact kept_next hb (kept_retireDmx ..)
    · split at hb
      · exact kept_next hb (kept_retireDmx ..)
      · split at hb
        · exact kept_next hb (kept_retireDmx ..)
        · split at hb
          · exact kept_gapStop hb
          · split at hb
            · exact kept_next hb (.of_dies rfl)
            · split at hb
              · exact kept_next hb (.of_vital ((vital_retireDmx ..).trans (vital_deliverReply ‹_›)))
              · exact kept_next hb (.refl s)

theorem kept_execDmxResume (ht : execDmxResume rd rs1 rs2 s = .next t) : Kept s t := by
  refine kept_dmx ht fun c a b hb => ?_
  dsimp only at hb
  split at hb
  · exact kept_next hb ((kept_modCore ..).trans (kept_retireDmx ..))
  · exact kept_next hb (.refl s)
  · split at hb
    · exact kept_next hb (kept_retireDmx ..)
    · exact kept_next hb (.of_dies rfl)

theorem kept_execDmxFrz (ht : execDmxFrz rd rs1 rs2 s = .next t) : Kept s t := by
  refine kept_dmx ht fun c a b hb => ?_
  dsimp only at hb
  repeat' split at hb
  iterate 3 exact kept_next hb (kept_retireDmx ..)
  exact kept_next hb (.of_dies rfl)

theorem kept_execDmxClaim (ht : execDmxClaim rd rs1 rs2 s = .next t) : Kept s t := by
  refine kept_dmx ht fun c a b hb => ?_
  dsimp only at hb
  split at hb
  · exact kept_next hb (kept_retireDmx ..)
  · split at hb
    · exact kept_next hb (kept_retireDmx ..)
    · split at hb
      · exact kept_next hb (kept_retireDmx ..)
      · split at hb
        · exact kept_gapStop hb
        · refine kept_next hb (Kept.trans ?_ (kept_retireDmx ..))
          exact .ite ((kept_coreWrite ..).vital (vital_modOpen ..)) ((kept_coreWrite ..).vital (vital_dropOpen ..))

theorem kept_execDmxWatch (ht : execDmxWatch rd rs1 rs2 s = .next t) : Kept s t := by
  refine kept_dmx ht fun c a b hb => ?_
  dsimp only at hb
  split at hb
  · exact kept_next hb (kept_retireDmx ..)
  · split at hb
    · exact kept_gapStop hb
    · exact kept_next hb (.of_dies rfl)

end Cores

/-! ### Homes and owners -/

section Homes

variable {s t : State}

theorem kept_execHomeAccess {req n : Nat} {bad : Bool} (ht : execHomeAccess req n bad s = .next t) : Kept s t := by
  cases hq : get? req s.reqs with
  | none =>
    simp only [execHomeAccess, hq] at ht
    exact kept_next ht (.refl s)
  | some q =>
    cases he : q.elts[n / 4]? with
    | none =>
      simp only [execHomeAccess, hq, he] at ht
      exact kept_next ht (.refl s)
    | some e => exact .of_wrote (wrote_execHomeAccess hq he ht)

theorem kept_execOwnerUpdate {req n : Nat} {bad : Bool} (ht : execOwnerUpdate req n bad s = .next t) : Kept s t := by
  cases hq : get? req s.reqs with
  | none =>
    simp only [execOwnerUpdate, hq] at ht
    exact kept_next ht (.refl s)
  | some q =>
    cases he : q.elts[n / 4]? with
    | none =>
      simp only [execOwnerUpdate, hq, he] at ht
      exact kept_next ht (.refl s)
    | some e => exact .of_wrote (wroteWord_execOwnerUpdate hq he ht)

theorem kept_applyWord {id i w : Nat} (ht : applyWord s id i w = .ok t) : Kept s t := by
  cases hq : get? id s.reqs with
  | none =>
    simp only [applyWord, hq] at ht
    cases ht
  | some q =>
    cases he : q.elts[i]? with
    | none =>
      simp only [applyWord, hq, he] at ht
      cases ht
    | some e => exact .of_wrote (wroteWord_applyWord hq he ht)

theorem kept_applyDet (home : Nat) (c : CEnt) (bad : Option Nat) (s : State) : Kept s (applyDet home c bad s) := by
  simp only [applyDet]
  split
  · exact .refl s
  · split
    · exact .refl s
    · split
      · refine .of_vital ?_
        grind only [vital_holdElt, vital_dropDet, vital_ueAt]
      · split
        · exact (kept_applyWord ‹_›).vital (vital_dropDet ..)
        · exact .refl s
        · refine .of_vital ?_
          grind only [vital_holdElt, vital_dropDet]

theorem kept_atBanks {r : Res} {unit : UnitId} {ranges : List (Nat × Nat)} {go : State → State} (hgo : ∀ s, Kept s (go s)) :
    Kept s (atBanks r unit ranges s go) := by
  unfold atBanks
  split
  · exact (Kept.of_vital (vital_unitTake ..)).trans (hgo _)
  · exact .of_vital (vital_unitWait ..)

theorem kept_execDetCommit {home res : Nat} (ht : execDetCommit home res s = .next t) : Kept s t := by
  have hgo (c : CEnt) (s : State) : Kept s (useOwner home (applyDet home c s.focus.bad s)).act :=
    (kept_applyDet ..).vital ((vital_act _).trans (vital_useOwner ..))
  unfold execDetCommit at ht
  extract_lets cs runs at ht
  split at ht
  · exact kept_next ht (.refl s)
  · split at ht
    · split at ht
      · rw [← Host.Outcome.next.inj ht]
        dsimp only
        split
        · exact kept_atBanks (hgo _)
        · exact hgo _ s
      · exact kept_next ht (.refl s)
    · exact kept_next ht (.refl s)

end Homes

/-! ### Every step but reset -/

theorem kept_of_exec {i : Instr} {s t : State} (hi : i ≠ .reset) (ht : exec i s = .next t) : Kept s t := by
  by_cases hf : (encodeWord i).isSome = true
  · exact .of_vital (keepsInstr_of_fabric i hf s t ht)
  · cases i
    case reset => exact absurd rfl hi
    case dmxCmd => exact kept_execDmxCmd ht
    case dmxFence => exact kept_execDmxFence ht
    case dmxTake => exact kept_execDmxTake ht
    case dmxGive => exact kept_execDmxGive ht
    case dmxResume => exact kept_execDmxResume ht
    case dmxFrz => exact kept_execDmxFrz ht
    case dmxClaim => exact kept_execDmxClaim ht
    case dmxWatch => exact kept_execDmxWatch ht
    case homeAccess => exact kept_execHomeAccess ht
    case ownerUpdate => exact kept_execOwnerUpdate ht
    case detCommit => exact kept_execDetCommit ht
    case bar2Access => exact kept_execBar2Access ht
    case migratingDelivery => exact kept_execMigratingDelivery ht
    case faultDelivery => exact kept_execFaultDelivery ht
    case mailboxPoll => exact kept_execMailboxPoll ht
    case mailboxStart => exact kept_execMailboxStart ht
    case bccapWrite => exact kept_execBccapWrite ht
    case throtWrite => exact kept_execThrotWrite ht
    case qmaskSet => exact kept_execQmaskSet ht
    case registerWrite => exact kept_execRegisterWrite ht
    case overcurrentAlert => exact kept_execOvercurrentAlert ht
    case firmwareVerify => exact kept_execFirmwareVerify ht
    case attestationRequest => exact kept_execAttestationRequest ht
    case idleSelfTest => exact kept_execIdleSelfTest ht
    case cmdCreateTask => exact .of_vital (vital_execCmdCreateTask ht)
    case cmdJoinInit => exact .of_vital (vital_execCmdJoinInit ht)
    case cmdJoinDec => exact .of_vital (vital_execCmdJoinDec ht)
    case cmdRegisterTemplate => exact .of_vital (vital_execCmdRegisterTemplate ht)
    case cmdDropTemplate => exact .of_vital (vital_execCmdDropTemplate ht)
    case cmdSetWeight => exact .of_vital (vital_execCmdSetWeight ht)
    case commandCompletion => exact .of_vital (vital_execCommandCompletion ht)
    case copy => exact .of_vital (vital_execCopy ht)
    case sopen => exact .of_vital (vital_execSopen ht)
    case sfree => exact .of_vital (vital_execSfree ht)
    case sclose => exact .of_vital (vital_execSclose ht)
    case fill => exact .of_vital (vital_execFill ht)
    case mgen => exact .of_vital (vital_execMgen ht)
    case setAsideStart => exact .of_vital (vital_execSetAsideStart ht)
    case arrivalSubtraction => exact .of_vital (vital_execArrivalSubtraction ht)
    case copyCompletion => exact .of_vital (vital_execCopyCompletion ht)
    case streamTileDone => exact .of_vital (vital_execStreamTileDone ht)
    case streamClose => exact .of_vital (vital_execStreamClose ht)
    case matrixGenDone => exact .of_vital (vital_execMatrixGenDone ht)
    case ccfg => exact .of_vital (vital_execCcfg ht)
    case ccfgApply => exact .of_vital (vital_execCcfgApply ht)
    case calloc => exact .of_vital (vital_execCalloc ht)
    case callocResume => exact .of_vital (vital_execCallocResume ht)
    case cins => exact .of_vital (vital_execCins ht)
    case crecv => exact .of_vital (vital_execCrecv ht)
    case combineFrontierSubst => exact .of_vital (vital_execCombineFrontierSubst ht)
    case combineTimeout => exact .of_vital (vital_execCombineTimeout ht)
    case combineRelease => exact .of_vital (vital_execCombineRelease ht)
    case combineMarkerRelease => exact .of_vital (vital_execCombineMarkerRelease ht)
    case vopen => exact .of_vital (vital_execVopen ht)
    case vqry => exact .of_vital (vital_execVqry ht)
    case vfree => exact .of_vital (vital_execVfree ht)
    case vclose => exact .of_vital (vital_execVclose ht)
    case streamParseStart => exact .of_vital (vital_execStreamParseStart ht)
    case pictureDelivery => exact .of_vital (vital_execPictureDelivery ht)
    case syntaxStreamEnd => exact .of_vital (vital_execSyntaxStreamEnd ht)
    case snapshotRequest => exact .of_vital (vital_execSnapshotRequest ht)
    case snapshotMarked => exact .of_vital (vital_execSnapshotMarked ht)
    case snapshotCut => exact .of_vital (vital_execSnapshotCut ht)
    case snapshotPageCopied => exact .of_vital (vital_execSnapshotPageCopied ht)
    case ingressTranslate => exact .of_vital (vital_execIngressTranslate ht)
    case rangeTableFetch => exact .of_vital (vital_execRangeTableFetch ht)
    case pageWalkRead => exact .of_vital (vital_execPageWalkRead ht)
    case atsCompletion => exact .of_vital (vital_execAtsCompletion ht)
    case atsInvalidateRequest => exact .of_vital (vital_execAtsInvalidateRequest ht)
    case hostRangeTruncate => exact .of_vital (vital_execHostRangeTruncate ht)
    case invalidateCompletion => exact .of_vital (vital_execInvalidateCompletion ht)
    case migrationRewalk => exact .of_vital (vital_execMigrationRewalk ht)
    case responseDelivery => exact .of_vital (vital_execResponseDelivery ht)
    case tcCommit => exact .of_vital (vital_execTcCommit ht)
    case endToEndTimeout => exact .of_vital (vital_execEndToEndTimeout ht)
    case markOnlyPacket => exact .of_vital (vital_execMarkOnlyPacket ht)
    case tokenAdmission => exact .of_vital (vital_execTokenAdmission ht)
    case backqMove => exact .of_vital (vital_execBackqMove ht)
    case slotAged => exact .of_vital (vital_execSlotAged ht)
    case cntEmission => exact .of_vital (vital_execCntEmission ht)
    case repeatEmission => exact .of_vital (vital_execRepeatEmission ht)
    case agenEmission => exact .of_vital (vital_execAgenEmission ht)
    case resizeEffect => exact .of_vital (vital_execResizeEffect ht)
    case rowResult => exact .of_vital (vital_execRowResult ht)
    case mscaResult => exact .of_vital (vital_execMscaResult ht)
    case mldbLoadDone => exact .of_vital (vital_execMldbLoadDone ht)
    case mblkSetValid => exact .of_vital (vital_execMblkSetValid ht)
    case slewCycle => exact .of_vital (vital_execSlewCycle ht)
    case slewTick => exact .of_vital (vital_execSlewTick ht)
    case slewIdleExpiry => exact .of_vital (vital_execSlewIdleExpiry ht)
    case trackerBatch => exact .of_vital (vital_execTrackerBatch ht)
    case waitfRegister => exact .of_vital (vital_execWaitfRegister ht)
    case frontierRelease => exact .of_vital (vital_execFrontierRelease ht)
    case frontQuery => exact .of_vital (vital_execFrontQuery ht)
    case taskCreate => exact .of_vital (vital_execTaskCreate ht)
    case joinApply => exact .of_vital (vital_execJoinApply ht)
    case waitReevaluate => exact .of_vital (vital_execWaitReevaluate ht)
    case taskSelect => exact .of_vital (vital_execTaskSelect ht)
    case priorityAging => exact .of_vital (vital_execPriorityAging ht)
    case blockLoad => exact .of_vital (vital_execBlockLoad ht)
    case activation => exact .of_vital (vital_execActivation ht)
    case enterDraining => exact .of_vital (vital_execEnterDraining ht)
    case retire => exact .of_vital (vital_execRetire ht)
    case drainLimitExpiry => exact .of_vital (vital_execDrainLimitExpiry ht)
    case watchedStore => exact .of_vital (vital_execWatchedStore ht)
    case freezeRequest => exact .of_vital (vital_execFreezeRequest ht)
    case scanOut => exact .of_vital (vital_execScanOut ht)
    case faultRecordEntry => exact .of_vital (vital_execFaultRecordEntry ht)
    case claimEscalation => exact .of_vital (vital_execClaimEscalation ht)
    case disposition => exact .of_vital (vital_execDisposition ht)
    case hostResumeWrite => exact .of_vital (vital_execHostResumeWrite ht)
    case watchWindowWrite => exact .of_vital (vital_execWatchWindowWrite ht)
    case skeinFileLoad => exact .of_vital (vital_execSkeinFileLoad ht)
    case tokstatClear => exact .of_vital (vital_execTokstatClear ht)
    case dspstClear => exact .of_vital (vital_execDspstClear ht)
    case resstClear => exact .of_vital (vital_execResstClear ht)
    case failtReset => exact .of_vital (vital_execFailtReset ht)
    case errcntClear => exact .of_vital (vital_execErrcntClear ht)
    case perfselWrite => exact .of_vital (vital_execPerfselWrite ht)
    case slewTableWrite => exact .of_vital (vital_execSlewTableWrite ht)
    case flitReplay => exact .of_vital (vital_execFlitReplay ht)
    case laneRetrain => exact .of_vital (vital_execLaneRetrain ht)
    case linkTraining => exact .of_vital (vital_execLinkTraining ht)
    case cxlLinkFailure => exact .of_vital (vital_execCxlLinkFailure ht)
    case mzeroDone => exact .of_vital (vital_execMzeroDone ht)
    case pageInvalidation => exact .of_vital (vital_execPageInvalidation ht)
    all_goals exact absurd rfl hf

/-! ### Placement (R385) -/

section Place

variable {s : State} {h die : Nat}

theorem of_regionAll {w n px py : Nat} {p : Nat → Nat → Bool} (hall : regionAll w n px py p = true) {x y : Nat} (hx : px ≤ x)
    (hx' : x < px + w) (hy : py ≤ y) (hy' : y < py + n) : p x y = true := by
  rw [regionAll, List.all_eq_true] at hall
  have hrow := hall (y - py) (List.mem_range.2 (by omega))
  rw [List.all_eq_true] at hrow
  have hquad := hrow (x - px) (List.mem_range.2 (by omega))
  rwa [Nat.add_sub_cancel' hx, Nat.add_sub_cancel' hy] at hquad

/-- A placement is a region of open quads. -/
theorem place_open {k : Task} {d : Desc} {px py : Nat} (hp : place s h k d = some (die, px, py)) :
    regionAll d.w d.h px py (quadOpen s h die) = true := by
  obtain ⟨e, -, he⟩ := exists_of_firstSome hp
  split at he
  · cases he
  · obtain ⟨o, ho, heq⟩ := Option.map_eq_some_iff.1 he
    cases heq
    have hall := List.find?_some ho
    exact hall

/-- An open quad is neither quarantined nor under test. -/
theorem not_barred_of_open {x y : Nat} (ho : quadOpen s h die x y = true) :
    bit (s.die die).qmask (12 * y + x) = false ∧ s.testing.contains (quadNum die x y) = false := by
  rw [quadOpen, Bool.and_eq_true, Bool.not_eq_true', quadBarred, Bool.or_eq_false_iff, Bool.or_eq_false_iff] at ho
  obtain ⟨⟨hbarred, -⟩, -⟩ := ho
  exact hbarred

end Place

/-- Settles O53: each row of the table but reset leaves the masks or sets bits in them; a placement is made of open quads. -/
theorem quarantineHolds : Obligations.QuarantineHolds :=
  fun _ => ⟨fun _ _ d n hi ht => (kept_of_exec hi ht).quad d n,
    fun _ _ _ _ _ _ hp _ _ hx hx' hy hy' => not_barred_of_open (of_regionAll (place_open hp) hx hx' hy hy')⟩

end Sys2Proof.Proofs.QuarantineHolds
end
